-- ==== Sys2Proof/Word.lean ====
section
/-! DEFINITION. The word types of the package and the plainest arithmetic on them (R5, R6). -/

namespace Sys2Proof

/-- One byte of memory. -/
abbrev Byte := BitVec 8
/-- A 16-bit field. -/
abbrev W16 := BitVec 16
/-- A 32-bit field: sequence numbers, counters of the doorbell page (R145, R146). -/
abbrev W32 := BitVec 32
/-- A 64-bit register, counter or body word. -/
abbrev W64 := BitVec 64

/-- Die id of R27: 0 H0, 1 H1, 2 C0, 3 C1, 4–11 T0–T7. -/
abbrev DieId := Fin 12
/-- Hub die, and with it the hank, 0 or 1 (R27, R29). -/
abbrev Hub := Fin 2
/-- Tensor die number n of Tn (R27). -/
abbrev Tensor := Fin 8
/-- Position of a package in the frame (R20). -/
abbrev Pos := Fin 8
/-- Package queue index (R32). -/
abbrev QIdx := Fin 1024
/-- Core number within the package: 0–47 on C0, 48–95 on C1. -/
abbrev CoreId := Fin 96
/-- Host port k of the package (chapter 18). -/
abbrev Port := Fin 4
/-- Frame-link port j of R22. -/
abbrev FPort := Fin 7

end Sys2Proof
end

