-- ==== Sys2Proof/Syntax.lean ====
section
/-! DEFINITION. The commands the block takes: one constructor of Instr for each row of the table of operations and
events (opcode_table.json), with the operands that tell one occurrence of the row from another.  A time operand t is the
hub-reference-clock cycle (10 ns, R620) at which the step takes place. -/

namespace Sys2Proof

/-- Who makes a register or memory access (R119, R473).  Prostoza is the firmware on the management cores. -/
inductive Requester where
  | prostoza
  | function (f : Fin 32)
  | core (c : CoreId)
  | engine (q : QIdx)
  deriving DecidableEq, Repr

/-- The issuer that a frame-link answer returns to (R574): a command of a queue in its execution gen, the request req of a core, a host read with its
tag, a posted host write of a VF, a creel fetch of occurrence occ. -/
inductive Issuer where
  | cmd (q : QIdx) (seq : W32) (gen : Nat)
  | core (c : CoreId) (req : Nat)
  | host (p : Port) (tag : Nat)
  | posted (p : Port) (vf : Nat)
  | creel (e : Fin 16) (buf slot occ : Nat)
  deriving DecidableEq, Repr

/-- How a transfer ended at its destination (R477, R579, R388, R578). -/
inductive Answer where
  | ok | firewall | posDown | poison | link | unmapped
  deriving DecidableEq, Repr

/-- What an access carries of its page, its command and its requester to another package (R123, R126, R471, R499): the hint, SE
and ORD in force, the host function that makes it, if one does, and the frame queue index of the queue it is made for. -/
structure FarAttr where
  hint  : Fin 4 := 0
  se    : Bool := false
  ord   : Bool := false
  fn    : Option (Fin 32) := none
  queue : Nat := 0
  deriving DecidableEq, Repr

/-- A window of a package that a host function reads through a port of another package (R605, R606): the ledger of one of its hub
dies, or its fatal dump. -/
inductive FarView where
  | ledger (h : Hub)
  | dump
  deriving DecidableEq, Repr

/-- A write crossing a frame link towards this package (R477): the requester partition (none for an unbound requester),
the run class, the address and the bytes. -/
structure RemoteWrite where
  src    : Pos
  part   : Option (Fin 16)
  cls    : Fin 4
  addr   : Nat
  data   : List Byte
  issuer : Issuer
  attr   : FarAttr := {}
  deriving DecidableEq, Repr

/-- A read crossing a frame link towards this package (R324, R477): of memory and registers, or of a window, where addr holds the
offset in it (R605, R606). -/
structure RemoteRead where
  src    : Pos
  part   : Option (Fin 16)
  cls    : Fin 4
  addr   : Nat
  len    : Nat
  issuer : Issuer
  attr   : FarAttr := {}
  view   : Option FarView := none
  deriving DecidableEq, Repr

/-- One piece of a knot member reaching the knot unit of hub die hub (R312, R313). -/
structure KnotPiece where
  src     : Pos
  hub     : Hub
  knotId  : W16
  knotSeq : W32
  part    : Option (Fin 16)
  addr    : Nat
  data    : List Byte
  issuer  : Issuer
  attr    : FarAttr := {}
  deriving DecidableEq, Repr

/-- The end mark of a knot member (R315) with its requester partition (R473), the combine notice it carries (R427) and the frame
queue index of its queue (R33); again tells that it corrects an earlier mark of the member, whose command has failed since (R320). -/
structure EndMark where
  src     : Pos
  hub     : Hub
  knotId  : W16
  knotSeq : W32
  part    : Option (Fin 16)
  pieces  : Nat
  ok      : Bool
  notice  : Option (Nat × Nat)
  queue   : Nat := 0
  again   : Bool := false
  deriving DecidableEq, Repr

/-- A core access after the core MMU has translated it: the physical address, the size in bytes, the attribute byte of the
core MMU leaf (R119, R123) and the destination register number. (DESIGN CHOICE, log entry 15) -/
structure CoreAccess where
  addr : Nat
  size : Nat
  attr : Byte
  dest : Nat
  /-- For an STCOND: it ends an iteration of a simple loop as R278 defines it, to which R279's bound holds. -/
  simple : Bool := false
  deriving DecidableEq, Repr

/-- A matrix-unit instruction as R282–R286 see it: its memory reads, its stores, the registers it writes with the values the
companion volume's arithmetic gives (R3), and its numeric flags. (DESIGN CHOICE, log entry 16) -/
structure CmuInstr where
  id     : Nat
  loads  : List CoreAccess
  stores : List (CoreAccess × List Byte)
  regs   : List (Nat × List Byte)
  flags  : Byte
  deriving DecidableEq, Repr

/-- A vector gather or scatter of R287: the element accesses in element order and the vector register they meet. -/
structure VecInstr where
  vreg   : Nat
  elems  : List CoreAccess
  deriving DecidableEq, Repr

/-- PCIe AtomicOp kinds of R346. -/
inductive HostAtomic where
  | fetchAdd | swap | cas
  deriving DecidableEq, Repr

/-- The scrubbers of R393: one in each SMC, GMC and MRM block. -/
inductive Scrubber where
  | smc (n : Tensor)
  | gmc (h : Hub)
  | mrm (h : Hub)
  deriving DecidableEq, Repr

/-- What the check codes say when a granule is read (R386–R388). -/
inductive EccFinding where
  | clean | correctable | uncorrectable
  deriving DecidableEq, Repr

/-- A memory-side cache: the stack cache of Tn or the hub cache of Hh (R348). -/
inductive CacheId where
  | scc (n : Tensor)
  | hcc (h : Hub)
  deriving DecidableEq, Repr

/-- An engine of the package (R141): engine e = 0–7 of tensor die n, or CB, CPH of a hub die. -/
inductive EngineId where
  | tensor (n : Tensor) (e : Fin 8)
  | cb (h : Hub)
  | cph (h : Hub)
  deriving DecidableEq, Repr

/-- A link that replays and retrains: one die link by the two dies it joins, or one frame half-link (R568). -/
inductive LinkId where
  | dlk (near far : DieId)
  | flk (h : Hub) (j : FPort)
  deriving DecidableEq, Repr

/-- What a function reset is asked by (R608). -/
inductive FlrKind where
  | flr (vf : Fin 8)
  | vfEnableClear
  | hotReset
  | linkDown
  deriving DecidableEq, Repr

/-- The JTAG instructions of R617. -/
inductive JtagInstr where
  | bypass | idcode | samplePreload | extest | extestPulse | extestTrain | clamp | highz
  deriving DecidableEq, Repr

/-- The PLDM type 2 sensors of R614. -/
inductive SensorId where
  | dieTemp (d : DieId)
  | hankPower (h : Hub)
  | lineFreq
  | supply (i : Fin 5)
  deriving DecidableEq, Repr

/-- What the package finds while a start step runs, as far as the step's outcome depends on it: the feature levels the dies
offered (R46), the GDDR devices found (R35, R538) and the two boot image slots as read from flash (R540). (DESIGN CHOICE, log entry 78) -/
structure StepFindings where
  offers : List (Fin 8 × Nat)
  gddr7  : Bool
  gddrRate : Nat
  slotA  : List Byte
  slotB  : List Byte
  deriving DecidableEq, Repr

/-- The rates per pin, in Gb/s, at which the GDDR7 or GDDR6 devices run (R379). -/
def rateOk (gddr7 : Bool) (r : Nat) : Bool := if gddr7 then decide (28 ≤ r ∧ r ≤ 32) else decide (14 ≤ r ∧ r ≤ 16)

/-- A usable namespace found behind a storage port (R383, R384): SSD number at the port, NSID, and LBA data size. -/
structure NsFound where
  ssd   : Fin 8
  nsid  : Nat
  block : Nat
  deriving DecidableEq, Repr

/-- A CXL.mem request at a host physical address (R610). -/
inductive CxlReq where
  | read (hpa : Nat) (len : Nat)
  | write (hpa : Nat) (data : List Byte)
  deriving DecidableEq, Repr

/-- An access to a function window (R605) or the PF0 port page (R604). -/
inductive WinAccess where
  | pf0Read (off len : Nat)
  | pf0Write (off : Nat) (data : List Byte)
  | vfRead (vf : Fin 8) (off len : Nat)
  | vfWrite (vf : Fin 8) (off : Nat) (data : List Byte)
  deriving DecidableEq, Repr

/-- The commands.  Each docstring names the row's rule. -/
inductive Instr where
  -- line time and the scheduling grid
  /-- R666: a LINE_TICK pulse has lasted 1 µs at cycle t. -/
  | lineTickQualify (t : Nat)
  /-- R59: one LT passes at cycle t. -/
  | ltAdvance (t : Nat)
  /-- R62: the two-nominal-cycle timer of unit u is looked at in WAIT. -/
  | waitNoTickFreeRun (u : Hub) (t : Nat)
  /-- R68: the same timer in LOCKED or SLEWING. -/
  | lockLossFreeRun (u : Hub) (t : Nat)
  /-- R72: a write of LTU_CTL.DC_MODE of unit u. -/
  | dcModeWrite (r : Requester) (u : Hub) (v : Bool)
  /-- R76: a copy message from H0 reaches H1, transit LT after it was sent. -/
  | ltuCopyMessage (transit : Nat)
  /-- R77: 64 LT without a copy message. -/
  | ltuCopySilenceTimeout
  /-- R77: unit u reports an internal error. -/
  | ltuInternalError (u : Hub)
  /-- R88: governor update of hub h; bg is the background power in W that the supply monitor gives (R94). -/
  | governorUpdate (h : Hub) (bg : Nat)
  /-- R492. -/
  | qosBudgetRefresh (h : Hub)
  /-- R95. -/
  | dvfsChange (h : Hub)
  /-- R84. -/
  | telemetrySnapshot
  /-- R184. -/
  | stepStart (h : Hub) (g : Fin 16)
  /-- R527. -/
  | ledgerCheckpoint (h : Hub)
  /-- R393. -/
  | scrubCredit
  /-- R394: the scrubber reads its next granule and finds e. -/
  | scrubGranule (sc : Scrubber) (e : EccFinding)
  /-- R378. -/
  | memoryRefresh
  -- governor messages and writes
  /-- R101, R615: payload bytes as received. -/
  | govSetStep (payload : List Byte)
  /-- R101. -/
  | govCut (payload : List Byte)
  /-- R101. -/
  | govRelease (payload : List Byte)
  /-- R615. -/
  | ltQuery (payload : List Byte)
  /-- R97. -/
  | govCtlCutWrite (r : Requester) (h : Hub) (v : Bool)
  /-- R97. -/
  | govCutLevelWrite (r : Requester) (h : Hub) (v : W32)
  -- queues
  /-- R154: v is the value written to DOORBELL bits 31:0. -/
  | doorbell (r : Requester) (q : QIdx) (v : W32)
  /-- R147: pwr is the GOV's power estimate for the command, in W (R94). -/
  | entryAdmit (q : QIdx) (pwr : Nat) (t : Nat)
  /-- R156. -/
  | queueEnable (r : Requester) (q : QIdx)
  /-- R156. -/
  | queueDisable (r : Requester) (q : QIdx)
  /-- R175. -/
  | queueResume (r : Requester) (q : QIdx)
  /-- R176. -/
  | faultWaitRetry (r : Requester) (q : QIdx) (t : Nat)
  /-- R176. -/
  | faultWaitAbandon (r : Requester) (q : QIdx) (t : Nat)
  /-- R152. -/
  | qswClr (r : Requester) (q : QIdx)
  /-- R557. -/
  | qmQrst (r : Requester) (q : QIdx) (t : Nat)
  /-- R187. -/
  | stepGroupEnable (r : Requester) (h : Hub) (g : Fin 16)
  /-- R187. -/
  | stepGroupDisable (r : Requester) (h : Hub) (g : Fin 16)
  -- engine commands: the command of queue q that is next to start, or the running one; n internal boundaries are passed
  /-- R200. -/
  | nop (q : QIdx) (t : Nat)
  /-- R210. -/
  | wait (q : QIdx) (t : Nat)
  /-- R210. -/
  | waitPoll (q : QIdx) (t : Nat)
  /-- R212. -/
  | signal (q : QIdx) (t : Nat)
  /-- R213. -/
  | fence (q : QIdx) (t : Nat)
  /-- R214. -/
  | step (q : QIdx) (t : Nat)
  /-- R216. -/
  | matmul (q : QIdx) (n t : Nat)
  /-- R464. -/
  | rbMatmul (q : QIdx) (n t : Nat)
  /-- R218. -/
  | vec (q : QIdx) (n t : Nat)
  /-- R220. -/
  | copy (q : QIdx) (n t : Nat)
  /-- R221. -/
  | gather (q : QIdx) (n t : Nat)
  /-- R221. -/
  | scatter (q : QIdx) (n t : Nat)
  /-- R223. -/
  | fill (q : QIdx) (n t : Nat)
  /-- R335. -/
  | atomic (q : QIdx) (t : Nat)
  /-- R225. -/
  | store (q : QIdx) (t : Nat)
  /-- R400. -/
  | creelArm (q : QIdx) (t : Nat)
  /-- R402. -/
  | creelDisarm (q : QIdx) (t : Nat)
  /-- R434. -/
  | combine (q : QIdx) (t : Nat)
  /-- R420. -/
  | attn (q : QIdx) (t : Nat)
  /-- R448. -/
  | ptInsert (q : QIdx) (n t : Nat)
  /-- R449. -/
  | ptLookup (q : QIdx) (n t : Nat)
  /-- R455. -/
  | ptBall (q : QIdx) (n t : Nat)
  /-- R456. -/
  | ptKnn (q : QIdx) (n t : Nat)
  /-- R459. -/
  | ptRulebook (q : QIdx) (n t : Nat)
  /-- R489. -/
  | commandPreempt (q : QIdx) (t : Nat)
  /-- R573: the timer of the command with sequence number seq is looked at. -/
  | commandTimeout (q : QIdx) (seq : W32) (t : Nat)
  /-- R164. -/
  | commandCompletion (q : QIdx) (t : Nat)
  -- fabric
  /-- R477. -/
  | remoteWriteArrival (w : RemoteWrite)
  /-- R324. -/
  | remoteReadRequest (rd : RemoteRead)
  /-- R574: data answers the read of the bytes at addr. -/
  | remoteReadResponse (i : Issuer) (addr : Nat) (a : Answer) (data : List Byte) (t : Nat)
  /-- R317: the piece at addr is answered. -/
  | remoteWriteAck (i : Issuer) (addr : Nat) (a : Answer) (t : Nat)
  /-- R316. -/
  | knotWriteArrival (p : KnotPiece)
  /-- R315. -/
  | knotEndMark (m : EndMark)
  /-- R327. -/
  | knotCtlFlush (r : Requester) (h : Hub)
  /-- R430. -/
  | combineNotice (h : Hub) (group span : Nat) (ok : Bool)
  /-- R430. -/
  | cbGrpClr (r : Requester) (h : Hub)
  -- creel and storage
  /-- R405: e is the copy engine, CP0 and CP1 of each tensor die in order. -/
  | creelFetchIssue (e : Fin 16) (t : Nat)
  /-- R408. -/
  | creelFetchComplete (e : Fin 16) (buf slot : Nat) (t : Nat)
  /-- R408. -/
  | creelFetchTimeout (e : Fin 16) (buf slot : Nat) (t : Nat)
  /-- R385: tag is the storage port's tag of the request; status 0 is success; data is what a Read returned. -/
  | nvmeCompletion (h : Hub) (tag : Nat) (status : W16) (data : List Byte) (t : Nat)
  -- cores
  /-- R264. -/
  | coreLoad (c : CoreId) (a : CoreAccess) (t : Nat)
  /-- R261. -/
  | coreStore (c : CoreId) (a : CoreAccess) (data : List Byte) (t : Nat)
  /-- R259: the i-th entry of the store buffer, the oldest being entry 0, is performed. -/
  | coreStorePerformed (c : CoreId) (i : Nat)
  /-- R280: the i-th entry of the store buffer fails with fault class code cls (R635). -/
  | storeError (c : CoreId) (i : Nat) (cls : Answer)
  /-- R269. -/
  | fenceSl (c : CoreId)
  /-- R269. -/
  | fenceRemote (c : CoreId)
  /-- R273. -/
  | ldres (c : CoreId) (a : CoreAccess)
  /-- R274. -/
  | stcond (c : CoreId) (a : CoreAccess) (data : List Byte)
  /-- R578: none the waiting load, some i the i-th buffered store. -/
  | coreAccessLinkTimeout (c : CoreId) (i : Option Nat) (t : Nat)
  /-- R282: oldest is true when the instruction is the oldest uncommitted one (R286). -/
  | cmuIssue (c : CoreId) (i : CmuInstr) (oldest : Bool)
  /-- R283. -/
  | cmuCommit (c : CoreId) (id : Nat) (t : Nat)
  /-- R285. -/
  | cmuSquash (c : CoreId) (id : Nat)
  /-- R288: at most n elements are moved before an interrupt is taken (R289). -/
  | vectorGather (c : CoreId) (v : VecInstr) (n : Nat)
  /-- R287. -/
  | vectorScatter (c : CoreId) (v : VecInstr) (n : Nat) (t : Nat)
  -- hosts
  /-- R605. -/
  | hostMemoryRead (p : Port) (vf : Fin 8) (off len tag t : Nat)
  /-- R605. -/
  | hostMemoryWrite (p : Port) (vf : Fin 8) (off : Nat) (data : List Byte)
  /-- R346: size in bytes; compare is used by cas only. -/
  | hostAtomicop (p : Port) (vf : Fin 8) (off : Nat) (op : HostAtomic) (size : Nat) (operand compare : W64) (tag : Nat)
  /-- R578. -/
  | hostRequestTimeout (p : Port) (tag : Nat) (t : Nat)
  /-- R546: a configuration read (none) or write (some) of the configuration space of function fn, 0 for PF0, v for VF v. -/
  | hostConfigRequest (p : Port) (fn : Fin 9) (off : Nat) (w : Option W32) (tag : Nat)
  /-- R608. -/
  | functionLevelReset (p : Port) (k : FlrKind) (t : Nat)
  /-- R610. -/
  | cxlMemRequest (p : Port) (rq : CxlReq) (tag : Nat)
  /-- R609. -/
  | cxlH2dSnoop (p : Port) (hpa : Nat)
  /-- R611: line is the 64-byte line number of the package offset. -/
  | cxlBisnpResponse (p : Port) (line : Nat)
  -- management
  /-- R547. -/
  | bootStatusRead
  /-- R614. -/
  | pldmBaseDiscovery (req : List Byte)
  /-- R614: reading is the value the sensor's converter gives where no register holds it. -/
  | pldmSensorRead (sensor : SensorId) (reading : W32)
  /-- R614: image data is the whole image with its 16-byte header. -/
  | pldmFirmwareUpdate (image : List Byte)
  /-- R616. -/
  | dumpInfo
  /-- R616. -/
  | dumpRead (off len : Nat)
  /-- R616. -/
  | dumpRelease
  /-- R595. -/
  | dumpRel (r : Requester)
  /-- R617. -/
  | jtagInstruction (i : JtagInstr)
  /-- R612: ssd is the number 0–7 at the port of hub h. -/
  | ssdLinkDrop (h : Hub) (ssd : Fin 8) (t : Nat)
  /-- R656, R383: found is what enumeration finds behind the port when it is enabled. -/
  | storagePortEnable (r : Requester) (h : Hub) (v : Bool) (found : List NsFound)
  -- caches and scratchpad
  /-- R359. -/
  | cacheEnable (r : Requester) (c : CacheId)
  /-- R357. -/
  | cacheDisable (r : Requester) (c : CacheId)
  /-- R357. -/
  | cacheDrainDone (c : CacheId)
  /-- R361. -/
  | cacheMaintWb (r : Requester) (c : CacheId)
  /-- R361. -/
  | cacheMaintInv (r : Requester) (c : CacheId)
  /-- R361. -/
  | cacheMaintWbinv (r : Requester) (c : CacheId)
  /-- R358. -/
  | cacheMaintDone (c : CacheId)
  /-- R363. -/
  | cacheCarve (r : Requester) (c : CacheId) (units : Fin 16)
  /-- R363. -/
  | carveDone (c : CacheId)
  /-- R364. -/
  | cachePreload (r : Requester) (c : CacheId) (ways : BitVec 24)
  /-- R364. -/
  | preloadDone (c : CacheId)
  /-- R371: inv tells whether the same write sets INV. -/
  | gcEnable (r : Requester) (e : EngineId) (inv : Bool)
  /-- R371. -/
  | gcDisable (r : Requester) (e : EngineId)
  /-- R371. -/
  | gcInv (r : Requester) (e : EngineId)
  /-- R375. -/
  | scrZero (r : Requester) (n : Tensor)
  /-- R375. -/
  | scrZeroDone (n : Tensor)
  /-- R572: a transfer at GDDR range offset off failed its link check again; wr tells a write. -/
  | gddrTransferRetry (h : Hub) (off : Nat) (wr : Bool)
  -- hanks and partitions
  /-- R486. -/
  | hankRelease (r : Requester) (h : Hub) (t : Nat)
  /-- R486. -/
  | hankDrainTimeout (h : Hub) (t : Nat)
  /-- R486. -/
  | hankZeroingDone (h : Hub)
  /-- R487. -/
  | hankAssign (r : Requester) (h : Hub) (part : Fin 16)
  /-- R556. -/
  | partRst (r : Requester) (h : Hub) (part : Fin 16) (t : Nat)
  /-- R583: code 1 queue manager, 2 XLT, 3 engine (R566); page is the reporting block's page index. -/
  | partitionError (d : DieId) (page : Nat) (code : Fin 4)
  -- doffing
  /-- R502. -/
  | pwrWarnAssert (t : Nat)
  /-- R503. -/
  | admissionStop (t : Nat)
  /-- R507. -/
  | doffDeadline (t : Nat)
  /-- R515. -/
  | ledgerCommit (h : Hub) (t : Nat)
  /-- R519. -/
  | pwrWarnClear (t : Nat)
  /-- R532. -/
  | ledViewRel (r : Requester) (h : Hub)
  -- start and reset
  /-- R554. -/
  | powerGoodLoss
  /-- R621. -/
  | refclkLoss
  /-- R554: width is the time the pin has been asserted, in cycles of 10 ns. -/
  | pkgResetPin (width : Nat)
  /-- R554. -/
  | frameResetPin (width : Nat)
  /-- R553. -/
  | softPkgReset (r : Requester)
  /-- R21: the straps as the pins show them. -/
  | resetDeassert (frame : Bool) (posId : BitVec 3) (memtype : Bool)
  /-- R535. -/
  | startSequenceBegin (t : Nat)
  /-- R537: hub die h completes the step in progress. -/
  | startStepDone (h : Hub) (f : StepFindings) (t : Nat)
  /-- R543: reason and detail of R545. -/
  | startStepFail (reason : Fin 12) (die : DieId) (detail : BitVec 12) (t : Nat)
  /-- R536. -/
  | startStepTimeout (t : Nat)
  /-- R544. -/
  | retryBackoffExpiry (t : Nat)
  /-- R541. -/
  | setReady (r : Requester)
  /-- R541. -/
  | fwFail (r : Requester) (t : Nat)
  /-- R559. -/
  | engRst (r : Requester) (n : Tensor) (bits : BitVec 8)
  /-- R559. -/
  | hubEngRst (r : Requester) (h : Hub) (cb cph : Bool)
  -- links
  /-- R549. -/
  | frameLinkTrainAttempt (h : Hub) (j : FPort) (t : Nat)
  /-- R23: what the far end reported, and the lanes that failed (R43); farReady and farCycle serve R80. -/
  | frameLinkTrained (h : Hub) (j : FPort) (farPos : Pos) (failed : BitVec 9) (farReady : Bool) (farCycle : BitVec 48)
  /-- R25. -/
  | frameLinkLost (h : Hub) (j : FPort) (t : Nat)
  /-- R568. -/
  | linkTransferError (l : LinkId) (t : Nat)
  /-- R569. -/
  | replayExhausted (l : LinkId) (t : Nat)
  /-- R569: ok tells success; failed are the failed lanes of a frame half-link (R43). -/
  | linkRetrainDone (l : LinkId) (ok : Bool) (failed : BitVec 9) (t : Nat)
  -- errors
  /-- R585: code of R584, the detecting die and its block's page index. -/
  | fatalError (code : Fin 9) (d : DieId) (page : Nat) (t : Nat)
  /-- R649. -/
  | watchdogExpiry (t : Nat)
  /-- R649. -/
  | watchdogKick (r : Requester) (t : Nat)
  /-- R649. -/
  | watchdogArm (r : Requester) (t : Nat)
  /-- R596. -/
  | mgtFatalDeclare (r : Requester) (t : Nat)
  /-- R565. -/
  | errLogAck (r : Requester) (d : DieId)
  /-- R645: page is the page index of R631. -/
  | errCountRead (r : Requester) (d : DieId) (page : Nat)
  /-- R638. -/
  | cntClear (r : Requester) (d : DieId) (page : Nat)
  /-- R632. -/
  | intForce (r : Requester) (d : DieId) (page : Nat) (v : W32)
  -- translation
  /-- R139: the value written to XLT_INV_CTL gives the context and ALL. -/
  | xltInvalidate (r : Requester) (h : Hub) (ctx : Fin 64) (all : Bool)
  /-- R139. -/
  | xltInvalidateDone (h : Hub)
  /-- R653: root is ADDR[51:12] of the same write. -/
  | xltContextEnable (r : Requester) (h : Hub) (root : BitVec 40)
  /-- R140. -/
  | xltContextDisable (r : Requester) (h : Hub)
  /-- R140. -/
  | xltDisableDone (h : Hub) (ctx : Fin 48)
  /-- R665: off is the package offset of the register. -/
  | registerWrite (r : Requester) (off : Nat) (size : Nat) (v : W64) (t : Nat)
  /-- R535. -/
  | powerGood (posId : BitVec 3) (memtype : Bool) (t : Nat)
  /-- R546: speed and width as HLK_STAT encodes them; cxl is the CXL version the partner accepts, 0 none, 2 or 3. -/
  | hostLinkUp (p : Port) (speed : Fin 7) (width : Fin 17) (cxl : Fin 4)
  /-- R568. -/
  | replayEpisodeSuccess (l : LinkId) (attempts : Fin 9) (t : Nat)
  /-- R575. -/
  | lateWriteWindowEnd (q : QIdx) (t : Nat)
  /-- R526. -/
  | journalDrain (h : Hub)
  /-- R613. -/
  | i3cDynamicAddress (a : BitVec 7)
  /-- R615: the whole message. -/
  | unknownCmdMessage (msg : List Byte)
  /-- R605. -/
  | functionWindowAccess (p : Port) (a : WinAccess) (tag : Nat)
  deriving DecidableEq, Repr

end Sys2Proof
end

