-- ==== Sys2Proof/Config.lean ====
section
/-! DEFINITION. What the manual leaves open: free values without a body, each applied to what it may depend on or to the
counter State.fresh.  No claim can rest on a value of theirs. -/

namespace Sys2Proof.Config

/-- Whether the STCOND that draws number n fails spuriously (R277). (DESIGN CHOICE, log entry 107) -/
opaque spurious : Nat → Bool
/-- Whether a reset pulse of between 1 µs and 10 µs resets the package (R553). -/
opaque shortResetActs : Nat → Bool
/-- BLK_VER.MINOR and MAJOR of a block page, per build (R632). -/
opaque blkVersion : Nat → BitVec 16
/-- The PCI Vendor ID that the package reports (R615). -/
opaque pciVendorId : BitVec 16
/-- Tahevi's JEDEC manufacturer identity, IDCODE bits 11:1 (R617). -/
opaque jedecId : BitVec 11
/-- A byte of a core's debug state, laid down by the companion volume (R592, section 7). -/
opaque coreDebug : Nat → Nat → Byte
/-- A byte of Prostoza's trace ring and the ring's length (R592, section 8). -/
opaque traceRing : Nat → Byte
opaque traceLength : Nat → Nat
/-- What a byte of configuration space reads as, which PCIe, not the manual, lays down: of its place and what was last written. -/
opaque configSpace : Nat → Nat → Byte
/-- Offset of the SR-IOV capability in PF0's configuration space (R601). -/
opaque sriovCap : Nat
/-- Offset of the PCI Express capability in a function's configuration space (R597). -/
opaque pcieCap : Nat
/-- The base that a host has given the HDM decoder of a host port (R609, R610). -/
opaque hdmBase : Nat → Nat
/-- A byte of the answer to a PLDM base-discovery request, which the PLDM standard lays down (R614). -/
opaque pldmBase : List Byte → List Byte
/-- TDC_TEMP of a tensor die, in 1/16 °C, at a moment (R648). -/
opaque dieTemp : Nat → Nat → BitVec 16
/-- The old or new value of a byte that a stopped command may or may not have written (R174). -/
opaque tornByte : Nat → Bool

/-- Which of several translations the access that draws number n uses while old ones are held (R139): the place of one of the old
ones, or one past them for the new one. (DESIGN CHOICE, log entry 8) -/
opaque oldTranslation : Nat → Nat
/-- Whether the access that draws number n makes the line of the core's reservation leave its caches (R276). (DESIGN CHOICE, log entry
114) -/
opaque lineLeaves : Nat → Bool
/-- Whether core c takes the queue interrupt that draws number n, as the companion volume's masking lets it (R276, R481).
(DESIGN CHOICE, log entry 114) -/
opaque takesInterrupt : Nat → Nat → Bool

/-- The stored bits that change by themselves in the LT that draws number n: places as State.upsets lists them, and whether the change
is uncorrectable (R354, R386, R582). (DESIGN CHOICE, log entry 28) -/
opaque upsets : Nat → List (Nat × Bool)
/-- How many lines the preload that draws number n has loaded when EN is written 0 (R366). (DESIGN CHOICE, log entry 107) -/
opaque preloaded : Nat → Nat

/-- Whether the dump region cannot be written in the fatal stop that draws number n (R593). (DESIGN CHOICE, log entry 107) -/
opaque dumpFails : Nat → Bool

end Sys2Proof.Config
end

