-- ==== Sys2Proof/Machine/SMap.lean ====
section
/-! DEFINITION. Sparse maps from numbers to data in one canonical form: keys strictly rising, and no entry equal to what an
unlisted key reads as. Memory and every indexed family of the state use them. -/

namespace Sys2Proof.Machine

/-- A list of key and value pairs; `d` below is what an unlisted key reads as. -/
abbrev SMap (β : Type) := List (Nat × β)

/-- The value at key a. -/
def mget {β : Type} (d : β) : SMap β → Nat → β
  | [], _ => d
  | (k, v) :: m, a => if k = a then v else mget d m a

/-- The map with v at key a, in canonical form again. -/
def mput {β : Type} [DecidableEq β] (d : β) (a : Nat) (v : β) : SMap β → SMap β
  | [] => if v = d then [] else [(a, v)]
  | (k, w) :: m =>
    if a < k then (if v = d then (k, w) :: m else (a, v) :: (k, w) :: m)
    else if a = k then (if v = d then m else (a, v) :: m)
    else (k, w) :: mput d a v m

/-- The canonical form, as a check. -/
def mwf {β : Type} [DecidableEq β] (d : β) : SMap β → Bool
  | [] => true
  | (k, v) :: m => !(decide (v = d)) && (match m with | [] => true | (k', _) :: _ => decide (k < k')) && mwf d m

/-- Every key in [lo, lo + n) is removed, so that it reads as the default. -/
def mclear {β : Type} (lo n : Nat) : SMap β → SMap β
  | [] => []
  | (k, v) :: m => if lo ≤ k ∧ k < lo + n then mclear lo n m else (k, v) :: mclear lo n m

/-- Every listed value changed by f, what becomes the default left out. -/
def mmap {β : Type} [DecidableEq β] (d : β) (f : Nat → β → β) (m : SMap β) : SMap β :=
  (m.map fun e => (e.1, f e.1 e.2)).filter fun e => decide (e.2 ≠ d)

/-- The keys that are listed, in rising order. -/
def mkeys {β : Type} (m : SMap β) : List Nat := m.map (·.1)

end Sys2Proof.Machine
end

