-- ==== Sys2Proof/Machine/State.lean ====
section
/-! DEFINITION. The state of one package as plain data, its state after reset, and the reasons a step can stop.  The
default value of a field is its reset value; INVENTORY.md lists each with the rule that names it. -/

namespace Sys2Proof.Machine

/-- The common registers of a block page (R632) and its counter window (R637), live and as latched (R84). -/
structure Blk where
  snapView  : SMap Bool := []
  cntFreeze : Bool := false
  initDone  : Bool := false
  snapValid : Bool := false
  intStat   : W32 := 0
  intEn     : W32 := 0
  errFirst  : W64 := 0
  errAddr   : W64 := 0
  errCount  : W32 := 0
  errAt     : Nat := 0
  cnt       : SMap W64 := []
  snap      : SMap W64 := []
  deriving DecidableEq, Repr

/-- States of a line time unit (R65). -/
inductive LtuState where
  | wait | locked | freeRun | qualify | slewing
  deriving DecidableEq, Repr

/-- A copy message on its way from the active line time unit to the standby (R76): phase, cycle count, state and LT length, the
last as its base and the correction still to make. -/
structure LtuCopy where
  phase : BitVec 16
  cycle : BitVec 48
  st    : LtuState
  base  : Nat
  corr  : Int
  deriving DecidableEq, Repr

/-- A line time unit: its registers (R103 and the table before it) and the internal state that R56–R77 name.  Times are in
10 ns units of the hub reference clock; recent holds the times of the latest LT, newest first; corr is the phase error not yet
removed, in 1/256 LT (R67, R71); lastLt the moment of the latest LT, in 2^-24 of 10 ns; copies the copy messages on their way,
oldest first (R76). -/
structure Ltu where
  st         : LtuState := .wait
  phase      : BitVec 16 := 0
  cycle      : BitVec 48 := 0
  dcMode     : Bool := false
  active     : Bool := false
  adopted    : Bool := false
  nomFreq    : BitVec 16 := 0x3200
  period     : W32 := 0
  phaseErr   : BitVec 16 := 0
  snapPeriod : BitVec 16 := 1
  snapPhase  : BitVec 16 := 0
  lastCand   : Option Nat := none
  lastAcc    : Option Nat := none
  since      : Nat := 0
  ivals      : List Nat := []
  holdoff    : Nat := 0
  base       : Nat := 2000000
  corr       : Int := 0
  failed     : Bool := false
  silence    : Nat := 0
  recent     : List Nat := []
  lastLt     : Nat := 0
  copies     : List LtuCopy := []
  deriving DecidableEq, Repr

/-- The load-step governor of a hank (R86–R102 and its registers).  target, in tenths of a watt, is the hank target; fcNext the
step that GOV_SET_STEP sets from the next update; bg the background power in W; slowed tells that clocks are reduced; byCut that
an emergency cut reduced them, since cutSince, of which cutUs µs have been counted; slowCmd is the command that runs under R91; upd
tells of the last update: its LT, the target before it and the demand it used (R100). -/
structure Gov where
  fallEn    : Bool := true
  cutSw     : Bool := false
  step      : Nat := 40
  fcStep    : Nat := 40
  fcNext    : Option Nat := none
  cutLevel  : Nat := 250
  c0Reserve : Nat := 0
  target    : Nat := 0
  bg        : Nat := 0
  dvfsA     : BitVec 16 := 0x4000
  dvfsB     : BitVec 16 := 0xC000
  cutActive : Bool := false
  cutPwr    : Bool := false
  cutFc     : Bool := false
  fcLevel   : Nat := 1000
  ballast   : Bool := false
  slowed    : Bool := false
  byCut     : Bool := false
  slowCmd   : Option (Nat × Nat) := none
  cutSince  : Nat := 0
  cutUs     : Nat := 0
  upd       : Option (Nat × Nat × Nat) := none
  deriving DecidableEq, Repr

/-- States of a step group (R188). -/
inductive StepState where
  | idle | opened | awaiting
  deriving DecidableEq, Repr

/-- One step group of a step sequencer (R180–R188). started counts the steps started since the enable, of which STEP shows 32 bits;
startLt is the LT, as State.lts counts them, at which the last step started; chg tells of the last change of LAYER: its cycle, LAYER before that cycle, and the queue whose STEP wrote in it (R215). -/
structure StepGrp where
  en       : Bool := false
  layerInc : Bool := false
  period   : BitVec 16 := 0
  phase    : BitVec 16 := 0
  step     : W32 := 0
  started  : Nat := 0
  layer    : BitVec 16 := 0
  st       : StepState := .idle
  startLt  : Nat := 0
  chg      : Option (Nat × Nat × Option Nat) := none
  deriving DecidableEq, Repr

/-- States of the ledger of a hub die (LED_STAT.STATE). -/
inductive LedState where
  | normal | stopping | committing | doffed
  deriving DecidableEq, Repr

/-- The ledger logic of a hub die: the LED registers (R534), the views (R531) and the journal buffer (R526), whose entries
are MRAM byte addresses with the map byte to write. -/
structure Led where
  clearAct  : Bool := true
  clearUs   : Nat := 500
  deadline  : Nat := 10000
  ckPeriod  : BitVec 16 := 50
  ckPhase   : BitVec 16 := 0x2000
  st        : LedState := .normal
  tStop     : Nat := 0
  tCommit   : Nat := 0
  viewSel   : SMap Nat := []
  viewOfs   : SMap Nat := []
  views     : List Nat := []
  journal   : List (Nat × Byte) := []
  committed : Bool := false
  deriving DecidableEq, Repr

/-- States of a hank (R485). -/
inductive HankState where
  | unassigned | owned | releasing | zeroing
  deriving DecidableEq, Repr

/-- One PART_TBL entry (R499). -/
structure PartEnt where
  hanks    : BitVec 16 := 0
  mgmtFn   : BitVec 5 := 0
  mgmtV    : Bool := false
  recovery : Bool := false
  deriving DecidableEq, Repr

/-- One FUNC_TBL entry (R499). -/
structure FuncEnt where
  part  : BitVec 4 := 0
  bound : Bool := false
  deriving DecidableEq, Repr

/-- The partition registers of a HUB page (R499), its firewall log, and PART_RST and HUB_ENG_RST (R562). -/
structure Partn where
  hank       : HankState := .unassigned
  owner      : BitVec 4 := 0
  zeroed     : Bool := true
  ctlOp      : BitVec 2 := 0
  ctlPart    : BitVec 4 := 0
  parts      : SMap PartEnt := []
  funcs      : SMap FuncEnt := []
  fwPart     : BitVec 4 := 0
  fwNone     : Bool := false
  fwKind     : BitVec 3 := 0
  fwReqId    : BitVec 16 := 0
  fwAddr     : W64 := 0
  rstPart    : BitVec 4 := 0
  rstBusy    : Bool := false
  engRefused : Bool := false
  releaseAt  : Nat := 0
  deriving DecidableEq, Repr

/-- The QoS registers of a QMH page (R500). -/
structure Qos where
  budget : SMap Nat := []
  mode   : SMap Bool := []
  remain : SMap Int := []
  w1     : BitVec 8 := 3
  w2     : BitVec 8 := 1
  memC0  : BitVec 10 := 0
  deriving DecidableEq, Repr

/-- States of a link (R654). -/
inductive LinkState where
  | down | training | up | replay | retrain | failed
  deriving DecidableEq, Repr

/-- Recovery state of one link end (R568–R571, R654): fails counts consecutive failed retrain attempts, since is the start of
the episode. -/
structure Lnk where
  st       : LinkState := .down
  attempts : Nat := 0
  duration : Nat := 0
  fails    : Nat := 0
  since    : Nat := 0
  deriving DecidableEq, Repr

/-- One die-link end (R654). -/
structure DlkEnd where
  feat     : Nat := 0
  lanes    : Nat := 0
  farMax   : Nat := 0
  localMax : Nat := 0
  lock     : W64 := 0
  lnk      : Lnk := {}
  deriving DecidableEq, Repr

/-- One frame half-link of a hub die (R655), with what the far end reported, the cycle count as it stood at cycle farAt (R80). -/
structure FlkPort where
  width    : Nat := 0
  failed   : BitVec 9 := 0
  spareFor : Byte := 0xFF
  farPos   : BitVec 3 := 0
  trained  : Bool := false
  mismatch : Bool := false
  lnk      : Lnk := {}
  farReady : Bool := false
  farCycle : BitVec 48 := 0
  farAt    : Nat := 0
  deriving DecidableEq, Repr

/-- What the knot unit knows of one member (R315): pieces performed or discarded, and the end mark. -/
structure KMember where
  seen   : Nat := 0
  mark   : Option (Nat × Bool) := none
  last   : Bool := false
  notice : Option (Nat × Nat) := none
  deriving DecidableEq, Repr

/-- One open knot sequence (R316); held is in arrival order. -/
structure KnotSeq where
  isOpen  : Bool := false
  next    : Nat := 0
  members : SMap KMember := []
  held    : List KnotPiece := []
  deriving DecidableEq, Repr

/-- A piece that waits on the link, and whether it has been counted in KNOT_TABLE_FULL and in KNOT_BUF_FULL (R318, R319). -/
structure KnotWait where
  piece : KnotPiece
  table : Bool := false
  buf   : Bool := false
  deriving DecidableEq, Repr

/-- A knot unit (R311–R322, R327). The key of a sequence is 65,536 × issuing position + KNOT_ID; waiting holds what waits on
the link under R318 and R319. -/
structure Knot where
  seqs      : SMap KnotSeq := []
  waiting   : List KnotWait := []
  heldCnt   : W64 := 0
  discarded : W64 := 0
  tableFull : W64 := 0
  bufFull   : W64 := 0
  stale     : W64 := 0
  deriving DecidableEq, Repr

/-- The FLK block of a hub die (R655, R501) with its knot unit. -/
structure Flk where
  ports    : SMap FlkPort := []
  loopback : Bool := false
  c0Slice  : SMap Nat := []
  knot     : Knot := {}
  deriving DecidableEq, Repr

/-- States of a combine group (R429). -/
inductive GrpState where
  | idle | collecting | opened | stale
  deriving DecidableEq, Repr

/-- One combine group (R429–R431): the spans that arrived, the lowest failed one, and SPANS of the running COMBINE. -/
structure CbGrp where
  st    : GrpState := .idle
  spans : SMap Bool := []
  fail  : Option Nat := none
  limit : Nat := 0
  deriving DecidableEq, Repr

/-- A translation that an XLT holds in its internal caches (R138): the context, the first device virtual address and the bit at which
its page offset ends, the frame address, the attribute byte and the permissions of its leaf. -/
structure Held where
  ctx  : Nat
  va   : Nat
  sh   : Nat
  pa   : Nat
  attr : Nat
  r    : Bool
  w    : Bool
  deriving DecidableEq, Repr

/-- One XLT context (R652). -/
structure Ctx where
  en        : Bool := false
  root      : BitVec 40 := 0
  disabling : Bool := false
  deriving DecidableEq, Repr

/-- The XLT block of a hub die (R652): inv is the invalidation that runs, as context, ALL, VA and LEN; held the valid translations in
its internal caches (R138). -/
structure Xlt where
  ctxs    : SMap Ctx := []
  csel    : SMap Nat := []
  invCtx  : BitVec 6 := 0
  invAll  : Bool := false
  overrun : Bool := false
  invVa   : W64 := 0
  invLen  : W64 := 0
  inv     : Option (Nat × Bool × Nat × Nat) := none
  held    : List Held := []
  deriving DecidableEq, Repr

/-- Who waits for an NVMe completion (R385, R408). -/
inductive NvmeOwner where
  | cmd (q : QIdx) (seq : W32)
  | creel (e : Fin 16) (buf slot : Nat)
  deriving DecidableEq, Repr

/-- One NVMe command in flight at a storage port. -/
structure NvmeReq where
  tag   : Nat
  owner : NvmeOwner
  ssd   : Nat
  deriving DecidableEq, Repr

/-- A storage port (R656, R382–R385). -/
structure Slk where
  en      : Bool := false
  bifur   : BitVec 2 := 0
  speed   : Nat := 0
  linkUp  : Byte := 0
  nss     : List NsFound := []
  reqs    : List NvmeReq := []
  nextTag : Nat := 0
  deriving DecidableEq, Repr

/-- A scrubber (R393–R395): unspent is the credit not yet spent, pos the next granule counted from the start of its range, begun that
it has read a granule since reset. -/
structure Scrub where
  en      : Bool := true
  credit  : BitVec 16 := 256
  unspent : Nat := 0
  pos     : Nat := 0
  begun   : Bool := false
  deriving DecidableEq, Repr

/-- What lies on one hub die and serves its hank. -/
structure HubSt where
  ltu    : Ltu := {}
  gov    : Gov := {}
  grps   : SMap StepGrp := []
  led    : Led := {}
  part   : Partn := {}
  qos    : Qos := {}
  flk    : Flk := {}
  cbGrps : SMap CbGrp := []
  cbSel  : SMap Nat := []
  xlt    : Xlt := {}
  slk    : Slk := {}
  deriving DecidableEq, Repr

/-- Fault policies (R152, R175). -/
inductive Policy where
  | halt | skip | resume
  deriving DecidableEq, Repr

/-- Queue states (R155). -/
inductive QState where
  | disabled | running | halted | faultWait | draining | error | doff | reset
  deriving DecidableEq, Repr

/-- Status codes (R17, R171). -/
inductive Status where
  | ok | partialDone | failed | depFailed | poisoned | timeout | timeoutLink | doff | refused | fault
  deriving DecidableEq, Repr

/-- Where an admitted command stands.  deferred (R494), held by the governor (R89), ready to start, running, waiting for an
event while started, in FAULT_WAIT (R176), ended and awaiting its record (R164). -/
inductive CmdPhase where
  | deferred | held | ready | running | faultWait | ended
  deriving DecidableEq, Repr

/-- How an access is made: the effective hint and SE, ORD and C of its page (R123, R126). -/
structure Acc where
  hint : Nat := 0
  se   : Bool := false
  ord  : Bool := false
  c    : Bool := false
  deriving DecidableEq, Repr

/-- One admitted entry that has no completion record yet.  entry is the 32 or 64 bytes read from the ring (R148), body the
words W0 to W5 once known; prog counts the internal boundaries passed; unacked are the address ranges of remote writes not
acknowledged, with the element and the device virtual address of each; rdata the bytes that have arrived for the present boundary, need those asked
for; stall the attributed waits (R168), in cycles; ord the admission number; performed tells that only acknowledgements are
awaited; recSent that the record is on its way to another package; readyT when the command became ready (R496); seg the step segment it belongs to
(R181), none outside the numbering; knotDst the position and hub die that own its first destination byte (R314, R426); jstall
that its record waits for the journal (R526); waiting that it waits for an event and leaves its engine to others; abandoned that FAULT_WAIT
ended with RESUME_ACT = 1 (R176); lateCp the copy engine whose creel it waits on (R410); c0Ref and
preUnc what R496 measures its start and execution from; faultEa the address that ERR_ADDR will show; acc what it has read and
computed and not yet written; thr that it has been counted in CMDS_THROTTLED (R96); linkWait are the addresses in this
package that it waits to reach over a die link that recovers (R568); soOut the addresses it has written in other packages on pages with
ORD = 1, with true where SE = 1 too (R125, R310); didRead tells that it has performed a read (R304); askAt is the age of its read
requests (R306); fl are its numeric flags by row or element (R170); head is what it writes after its last element, by piece: address,
attributes and bytes (R461). -/
structure Cmd where
  seq      : W32 := 0
  entry    : List Byte := []
  dx2      : Bool := false
  cls      : Nat := 0
  phase    : CmdPhase := .ready
  c0res    : Bool := false
  pwr      : Nat := 0
  cost     : Nat := 1
  admitT   : Nat := 0
  startT   : Option Nat := none
  endT     : Nat := 0
  waited   : Nat := 0
  gen      : Nat := 0
  body     : Option (List W64) := none
  prog     : Nat := 0
  status   : Status := .ok
  cause    : Nat := 0
  fidx     : BitVec 16 := 0xFFFF
  flags    : Byte := 0
  faultVa  : W64 := 0
  stall    : SMap Nat := []
  stallNow : Option (Nat × Nat) := none
  unacked  : List (Nat × Nat × Nat × Nat) := []
  need     : List (Nat × Nat) := []
  rdata    : SMap (Option Byte) := []
  rfail    : Option (Nat × Answer) := none
  seg      : Option Nat := none
  merged   : Nat := 0
  sent     : Nat := 0
  marked   : Bool := false
  paused   : Bool := false
  granted  : Bool := false
  ord      : Nat := 0
  performed : Bool := false
  recSent  : Bool := false
  readyT   : Option Nat := none
  knotDst  : Option (Nat × Nat) := none
  jstall   : Bool := false
  waiting  : Bool := false
  abandoned : Bool := false
  lateCp   : Option (Fin 16) := none
  c0Ref    : Nat := 0
  preUnc   : Nat := 0
  faultEa  : Nat := 0
  acc      : List Nat := []
  thr      : Bool := false
  linkWait : List Nat := []
  soOut    : List (Nat × Bool) := []
  didRead  : Bool := false
  askAt    : Nat := 0
  fl       : SMap Nat := []
  head     : List (Nat × Acc × List Byte) := []
  deriving DecidableEq, Repr

/-- A command queue: doorbell page (R152), descriptor (R150), status word (R158), the admitted commands in sequence order,
its part in a step group (R181), the state before the doff (R519), the end of the late-write window with the ranges that may still be written in it (R301, R575), the fetch of the next
entry from another package, and the time at which it entered FAULT_WAIT (R163). -/
structure Queue where
  prod       : W32 := 0
  cons       : W32 := 0
  done       : W32 := 0
  ack        : W32 := 0
  ringBase   : W64 := 0
  cmplBase   : W64 := 0
  depthLog2  : Nat := 6
  dx2        : Bool := false
  policy     : Policy := .halt
  timeoutUs  : Nat := 0
  enable     : Bool := false
  resumeAct  : Bool := false
  cmplEn     : Bool := false
  faultEn    : Bool := false
  refuseEn   : Bool := false
  coal       : Nat := 0
  coalCnt    : Nat := 0
  fiSeq      : W32 := 0
  fiIdx      : BitVec 16 := 0
  fiCause    : Nat := 0
  fiStatus   : Nat := 0
  fiVa       : W64 := 0
  ctx        : Nat := 0
  bound      : Bool := false
  part       : BitVec 4 := 0
  classFloor : Nat := 0
  suspend    : Bool := false
  stepGrp    : Fin 16 := 0
  stepEn     : Bool := false
  st         : QState := .disabled
  err        : Nat := 0
  lastRefuse : Nat := 0
  refuseSeen : BitVec 3 := 0
  lastRefSeq : W32 := 0
  cmds       : List Cmd := []
  preDoff    : QState := .disabled
  stepIn     : Bool := false
  segJoin    : Nat := 0
  segNext    : Nat := 0
  segDone    : Nat := 0
  lateUntil  : Nat := 0
  lateW      : List (Nat × Nat) := []
  fetchData  : SMap (Option Byte) := []
  fetchNeed  : List (Nat × Nat) := []
  fetchFail  : Option (Nat × Answer) := none
  fwAt       : Nat := 0
  deriving DecidableEq, Repr

/-- How an engine stands in serving its queues (R489): the deficits of classes 1 and 2 in µs of E, whether class 2 is in service, and one
more than the queue served last in each class. -/
structure Arb where
  d1   : Nat := 0
  d2   : Nat := 0
  two  : Bool := false
  last : SMap Nat := []
  deriving DecidableEq, Repr

/-- One gather-cache entry (R368): the block number of the physical address, its bytes, its age and, when it was filled from
a page with ORD = 1, the filling command. -/
structure GcEnt where
  block : Nat
  data  : List Byte
  stamp : Nat
  so    : Option (Nat × Nat)
  deriving DecidableEq, Repr

/-- The gather cache of an engine (R368–R371); acqAt is the age of the last acquire on it (R304). -/
structure Gc where
  en    : Bool := true
  clean : Bool := false
  ents  : List GcEnt := []
  acqAt : Nat := 0
  deriving DecidableEq, Repr

/-- States of a stack or hub cache (R356). -/
inductive CacheState where
  | disabled | enabled | draining | carving
  deriving DecidableEq, Repr

/-- One cache line (R348): the line number within the range, its way, a bit for each sector, its priority (R352), its age
and its bytes by offset in the line. -/
structure Line where
  num    : Nat
  way    : Nat
  valid  : Byte
  dirty  : Byte
  poison : Byte
  prio   : Nat
  stamp  : Nat
  data   : SMap Byte
  deriving DecidableEq, Repr

/-- A stack cache or hub cache with its registers (R356–R372). maint is the running operation and whether it was started in
DISABLED (R358); plRun is the base, length and ways of the preload that runs (R364). -/
structure Cache where
  st       : CacheState := .disabled
  clean    : Bool := true
  seqWhy   : Nat := 0
  maintOp  : Nat := 0
  maint    : Option (Nat × Bool) := none
  units    : Nat := 0
  cur      : Nat := 0
  lock     : BitVec 24 := 0
  plBase   : W64 := 0
  plLen    : BitVec 40 := 0
  plWays   : BitVec 24 := 0
  plBusy   : Bool := false
  plRun    : Nat × Nat × BitVec 24 := (0, 0, 0)
  lines    : List Line := []
  deriving DecidableEq, Repr

/-- A creel buffer descriptor (R398). -/
structure CreelBuf where
  dst       : Nat
  slotBytes : Nat
  slots     : Nat
  deriving DecidableEq, Repr

/-- A creel entry (R399). -/
structure CreelEnt where
  layer : Nat
  lead  : Nat
  buf   : Nat
  store : Bool
  hint  : Nat
  len   : Nat
  src   : Nat
  ssd   : Nat
  nsid  : Nat
  deriving DecidableEq, Repr

/-- How the fetch of a slot's occurrence stands (R407). -/
inductive FetchState where
  | filling | ready | failed (reason : Nat)
  deriving DecidableEq, Repr

/-- The last fetch of a slot: which occurrence of the buffer it is, how it stands, when it was issued, the remote bytes that
have arrived and the requests still open. -/
structure Fetch where
  occ   : Nat
  st    : FetchState
  at0   : Nat
  rdata : SMap (Option Byte)
  need  : List (Nat × Nat)
  rfail : Option Answer
  deriving DecidableEq, Repr

/-- The creel of a copy engine (R397–R413). -/
structure Creel where
  st      : Nat := 0
  group   : Fin 16 := 0
  nbuf    : Nat := 0
  model   : Nat := 0
  table   : W64 := 0
  aNow    : Nat := 0
  aArm    : Nat := 0
  layers  : Nat := 1
  queue   : QIdx := 0
  cls     : Nat := 0
  timeout : Nat := 0
  bufs    : List CreelBuf := []
  ents    : List CreelEnt := []
  fetches : SMap (Option Fetch) := []
  selBuf  : SMap Nat := []
  selSlot : SMap Nat := []
  deriving DecidableEq, Repr

/-- A store in a core's store buffer (R264), with the time it was issued, the number of its pieces that have been performed (R267)
and the request number its acknowledgements carry. -/
structure SbEnt where
  acc    : CoreAccess
  data   : List Byte
  issued : Nat
  sent   : Bool
  done   : Nat := 0
  req    : Nat := 0
  deriving DecidableEq, Repr

/-- What a load of a core awaits from other packages: its requests, as request number, address and length, the bytes that have
arrived, a piece that failed, the time of its first request; and whether it has been counted as a replay (R264). -/
structure CoreAsk where
  need     : List (Nat × Nat × Nat) := []
  rdata    : SMap (Option Byte) := []
  rfail    : Option (Nat × Answer) := none
  at0      : Nat := 0
  replayed : Bool := false
  deriving DecidableEq, Repr

/-- A condition that a core access meets (R281): fault class, address, and where a firewall stops it the hub die, whether it is the
receiving one, and the violation kind. -/
structure CoreMiss where
  cls  : Nat
  addr : Nat
  fw   : Option (Hub × Bool × Nat) := none
  deriving DecidableEq, Repr

/-- A matrix-unit instruction begun before commit (R282): what its loads read so far, the condition it met, whether it has to be
executed again (R284), the number of its place among the core's accesses, what the load in progress awaits, and the loads it has
replayed (R264). -/
structure CmuBegun where
  instr   : CmuInstr
  data    : List (List Byte)
  fault   : Option CoreMiss
  redo    : Bool := false
  no      : Nat := 0
  ask     : CoreAsk := {}
  replays : Nat := 0
  deriving DecidableEq, Repr

/-- What the memory system keeps for one core (R258–R290): the store buffer, oldest first, the reservation as address and
size, GIDX, the load that waits, the last data abort and STORE_ERROR, the begun matrix-unit instructions, registers that
loads wrote, vector registers, the barrier that waits (true for FENCE.REMOTE) with the number of stores before it, the run of
spurious failures (R279), what the load that waits awaits, its place among the core's accesses, whether it is an element of a gather, and the
next number of a request or access. (DESIGN CHOICE, log entry 6) -/
structure Core where
  sb       : List SbEnt := []
  resv     : Option (Nat × Nat) := none
  gidx     : Nat := 0
  pendLoad : Option (CoreAccess × Nat) := none
  abort    : Option (Nat × Nat) := none
  storeErr : Option (Nat × Nat) := none
  cmu      : List CmuBegun := []
  regs     : SMap (List Byte) := []
  vregs    : SMap (List Byte) := []
  fence    : Option (Bool × Nat) := none
  spurious : Nat := 0
  stStatus : Nat := 0
  cmuFlags : Byte := 0
  ask      : CoreAsk := {}
  pendNo   : Nat := 0
  pendVec  : Bool := false
  nextNo   : Nat := 1
  deriving DecidableEq, Repr

/-- A host non-posted request not yet answered (R578): its pieces in order as frame address and length, the bytes at hand by
frame address, and the pieces still awaited from other packages; cxl is the host physical address of a CXL.mem request (R610), fn the
host function that makes it. -/
structure HostPend where
  tag    : Nat
  at0    : Nat
  pieces : List (Nat × Nat)
  rdata  : SMap (Option Byte)
  need   : List (Nat × Nat)
  cxl    : Option Nat := none
  fn     : Fin 32 := 0
  deriving DecidableEq, Repr

/-- A host port (R597–R611, R629). vfMap, MSI-X table and FN_QVEC are keyed by VF; sharers are the lines the directory
records for the CXL 3.1 host, with true once a BISnp is outstanding (R611); posted are the posted writes to other packages that are
not acknowledged: VF, frame address and when they were sent (R599). -/
structure Hlk where
  cxlEn    : Bool := false
  apLog2   : Nat := 40
  apActive : Nat := 40
  speed    : Nat := 0
  width    : Nat := 0
  proto    : Nat := 0
  numVf    : Nat := 0
  vfMap    : SMap (BitVec 5 × Bool) := []
  cxlFn    : BitVec 5 := 0
  cxlV     : Bool := false
  cxlSize  : Nat := 0
  pend     : List HostPend := []
  msix     : SMap Byte := []
  pba      : SMap Bool := []
  qvec     : SMap Byte := []
  cfg      : SMap Byte := []
  sharers  : SMap (Option Bool) := []
  posted   : List (Nat × Nat × Nat) := []
  deriving DecidableEq, Repr

/-- An error log record (R566). -/
structure ErrRec where
  time   : W64
  cls    : Nat
  page   : Nat
  code   : Nat
  reqId  : W32
  addr   : W64
  part   : Byte
  die    : Nat
  merged : BitVec 16
  deriving DecidableEq, Repr

/-- The error collector of a die (R565, R567). -/
structure ErrLog where
  recs     : SMap (Option ErrRec) := []
  next     : Nat := 0
  unread   : Nat := 0
  overflow : Bool := false
  thresh   : W32 := 1000
  deriving DecidableEq, Repr

/-- A level on an output pin. -/
inductive Level where
  | highZ | low | high
  deriving DecidableEq, Repr

/-- Start and reset of the package (R535–R562). n is the retry count of R544, stepAt the start of the attempt, retryAt the
end of the backoff wait. -/
structure Boot where
  power    : Bool := false
  posId    : BitVec 3 := 0
  memtype  : Bool := true
  pos      : Pos := 0
  rstHeld  : Bool := false
  frmHeld  : Bool := false
  step     : Nat := 0
  ready    : Bool := false
  backoff  : Bool := false
  done0    : Bool := false
  done1    : Bool := false
  n        : Nat := 0
  stepAt   : Nat := 0
  retryAt  : Nat := 0
  retryTo  : Nat := 1
  attempts : W32 := 0
  bfStep   : BitVec 3 := 0
  bfReason : Byte := 0
  bfDie    : BitVec 4 := 0
  bfDetail : BitVec 12 := 0
  cause    : BitVec 3 := 1
  fwCode   : BitVec 16 := 0
  mctp     : Bool := false
  runSlot  : Option Bool := none
  hubGen   : Nat := 3
  feat     : Nat := 0
  hubLevel : SMap Nat := []
  gddrRate : Nat := 0
  deriving DecidableEq, Repr

/-- The output pins (R546, R560, R585). -/
structure Pins where
  ready    : Level := .highZ
  doffDone : Level := .highZ
  fatalN   : Level := .highZ
  perst0   : Level := .low
  perst1   : Level := .low
  deriving DecidableEq, Repr

/-- A doff in progress (R502–R520) or a fatal stop (R585); each hub die has its own deadline (R505, R534). -/
structure Doff where
  active  : Bool := false
  stopped : Bool := false
  fatal   : Bool := false
  warned  : Bool := false
  tW      : Nat := 0
  tD0     : Nat := 0
  tD1     : Nat := 0
  done    : Bool := false
  deriving DecidableEq, Repr

/-- The doff deadline t_D of a hub die, from its own LED_DEADLINE (R505). -/
def Doff.tD (d : Doff) (h : Hub) : Nat := if h = 0 then d.tD0 else d.tD1

/-- The MGT block-specific registers (R596, R649) and the rest of the management endpoint (R613, R614); dumped tells that the
summary of this fatal stop has been written; flash holds the images that PLDM wrote to slots A (0) and B (1), none for one that is as
the board programmed it. (PRESUMED, log entry 10) -/
structure Mgt where
  detail  : Byte := 0
  fatal   : Bool := false
  code    : Nat := 0
  srcDie  : DieId := 0
  srcPage : Nat := 0
  tfPhase : BitVec 16 := 0
  tfCycle : BitVec 48 := 0
  dumpFn  : BitVec 5 := 0
  dumpV   : Bool := false
  wdogEn  : Bool := false
  kickAt  : Nat := 0
  cores   : BitVec 2 := 0
  i3cAddr : Option (BitVec 7) := none
  dumped  : Bool := false
  flash   : SMap (List Byte) := []
  jtag    : JtagInstr := .idcode
  deriving DecidableEq, Repr

/-- An event of the scheduling grid that is due at the present LT (R83). -/
inductive GridEvent where
  | gov (h : Hub) | qos (h : Hub) | dvfs (h : Hub) | snapshot | step (h : Hub) (g : Fin 16) | ckpt (h : Hub) | scrub
  deriving DecidableEq, Repr

/-- What the package sends out. -/
inductive Out where
  /-- a write sent on a frame link (R42) -/
  | flkWrite (dst : Pos) (w : RemoteWrite)
  /-- a knotted piece sent to the knot unit that owns its address (R312) -/
  | knot (dst : Pos) (p : KnotPiece)
  /-- an end mark (R315) -/
  | endMark (dst : Pos) (m : EndMark)
  /-- a combine notice sent to another package (R426) -/
  | notice (dst : Pos) (h : Hub) (group span : Nat) (ok : Bool)
  /-- a read request sent on a frame link (R324) -/
  | flkRead (dst : Pos) (r : RemoteRead)
  /-- what a half-link's training tells the far end: the own position, READY and the cycle count (R23, R80) -/
  | flkTrain (h : Hub) (j : FPort) (pos : Pos) (ready : Bool) (cycle : BitVec 48)
  /-- an answer to a read that came over a frame link (R324, R477) -/
  | flkData (dst : Pos) (i : Issuer) (addr : Nat) (a : Answer) (data : List Byte)
  /-- an acknowledgement of a write that came over a frame link (R317) -/
  | flkAck (dst : Pos) (i : Issuer) (addr : Nat) (a : Answer)
  /-- a PCIe completion: status 0 SC, 1 Unsupported Request, 2 Request Retry Status, 4 Completer Abort -/
  | pcie (p : Port) (tag status : Nat) (data : List Byte)
  /-- an MSI-X message of function f (R607) -/
  | msix (f vec : Nat)
  /-- a queue interrupt to the cores of a partition (R481) -/
  | coreIrq (part : Nat) (q : Nat)
  /-- an interrupt to Prostoza -/
  | prostozaIrq (page : Nat)
  /-- a CXL answer (R609–R611): kind 0 RspIHitI, 1 data, 2 poison, 3 error, 4 write done, 5 BISnp -/
  | cxl (p : Port) (kind addr : Nat) (data : List Byte)
  /-- an MCTP, PLDM or I3C answer -/
  | mgmt (data : List Byte)
  /-- an NVMe command to an SSD (R382): the blocks to write with a Write -/
  | nvme (h : Hub) (tag ssd nsid lba blocks : Nat) (write : Bool) (data : List Byte)
  /-- what a register or memory read returned to its requester -/
  | value (v : W64)
  deriving DecidableEq, Repr

/-- The state of one package. now counts hub-reference-clock cycles of 10 ns; fresh and out are the model's own: the
counter that free values are drawn from, and what the package has sent out, newest first.  gddrTry holds, for each hub die, the granule of the
GDDR transfer being repeated, its repetitions and when the first was made (R572); qrst the QUEUE field of QM_QRST by die and qrstRun the queue, plus one, whose
reset QM_QRST.START runs (R563).  upsets lists what has changed by itself and not been found yet, 1 correctable and more not: memory
granules by number, sectors of cache arrays from 2^40 on, command state in engines from 2^41 on (R354, R386, R582).  c0End is the end of the last class-0
command of each engine (R496); arbs the turns of each engine's queues (R489); lts the LT that have passed (R185); lastAt the 8-byte word of each stack that an atomic updated last and its cycle plus one (R347); stamp numbers ages and admissions. (DESIGN CHOICE, log entry 12) -/
structure State where
  now     : Nat := 0
  boot    : Boot := {}
  pins    : Pins := {}
  hub0    : HubSt := { ltu := { active := true } }
  hub1    : HubSt := {}
  due     : List GridEvent := []
  queues  : SMap Queue := []
  blks    : SMap Blk := []
  mem     : List Host.Cell := []
  poison  : SMap Bool := []
  caches  : SMap Cache := []
  gcs     : SMap Gc := []
  creels  : SMap Creel := []
  cores   : SMap Core := []
  online  : SMap Bool := []
  scrubs  : SMap Scrub := []
  scrZero : SMap Bool := []
  gddrTry : SMap (Nat × Nat × Nat) := []
  qrst    : SMap Nat := []
  qrstRun : SMap Nat := []
  stopped : SMap Bool := []
  engRef  : SMap Bool := []
  engRst  : SMap Bool := []
  c0End   : SMap Nat := []
  arbs    : SMap Arb := []
  lts     : Nat := 0
  lastAt  : SMap (Nat × Nat) := []
  qsel    : SMap Nat := []
  dlks    : SMap DlkEnd := []
  hlks    : SMap Hlk := []
  errs    : SMap ErrLog := []
  doff    : Doff := {}
  mgt     : Mgt := {}
  upsets  : SMap Nat := []
  stamp   : Nat := 0
  fresh   : Nat := 0
  out     : List Out := []
  pending : List Instr := []
  deriving DecidableEq, Repr

/-- The package before power-good after total power loss: every field at its reset value and no command waiting.
(DESIGN CHOICE, log entry 3) -/
def State.reset : State := {}

/-- Why the machine stops with a fault. -/
inductive Fault where
  /-- never raised: every condition the manual describes ends in a record, an abort or an answer (safe) -/
  | none
  deriving DecidableEq, Repr

/-- Why a command is refused by the model. -/
inductive Refusal where
  /-- the model has no meaning for the command yet; raised by its arm of the dispatch only (safe) -/
  | notModelled (mnemonic : String)
  deriving DecidableEq, Repr

end Sys2Proof.Machine
end

