-- ==== Sys2Proof/Machine/Ops.lean ====
section
/-! DEFINITION. Named operations over the state: per-hub and per-index access, the clock, block pages and their counters,
little-endian bytes (R5), sequence-number arithmetic (R145) and the queue, engine and page numbering (R32, R631). -/

namespace Sys2Proof.Machine

/-! ## Access to the parts of the state -/

/-- The part of the state that lies on hub die h. -/
def State.hub (s : State) (h : Hub) : HubSt := if h = 0 then s.hub0 else s.hub1
/-- The state with hub die h's part replaced. -/
def State.setHub (s : State) (h : Hub) (x : HubSt) : State :=
  if h = 0 then { s with hub0 := x } else { s with hub1 := x }
/-- The state with hub die h's part changed by f. -/
def State.modHub (s : State) (h : Hub) (f : HubSt → HubSt) : State := s.setHub h (f (s.hub h))

/-- Queue q (package queue index). -/
def State.queue (s : State) (q : QIdx) : Queue := mget {} s.queues q.val
/-- The state with queue q replaced. -/
def State.setQueue (s : State) (q : QIdx) (x : Queue) : State := { s with queues := mput {} q.val x s.queues }
/-- The state with queue q changed by f. -/
def State.modQueue (s : State) (q : QIdx) (f : Queue → Queue) : State := s.setQueue q (f (s.queue q))

/-- The common registers of the page with key p. -/
def State.blk (s : State) (p : Nat) : Blk := mget {} s.blks p
/-- The state with the page with key p replaced. -/
def State.setBlk (s : State) (p : Nat) (b : Blk) : State := { s with blks := mput {} p b s.blks }
/-- The state with the page with key p changed by f. -/
def State.modBlk (s : State) (p : Nat) (f : Blk → Blk) : State := s.setBlk p (f (s.blk p))

/-- Core c. -/
def State.core (s : State) (c : CoreId) : Core := mget {} s.cores c.val
/-- The state with core c replaced. -/
def State.setCore (s : State) (c : CoreId) (x : Core) : State := { s with cores := mput {} c.val x s.cores }
/-- The state with core c changed by f. -/
def State.modCore (s : State) (c : CoreId) (f : Core → Core) : State := s.setCore c (f (s.core c))

/-- Host port p. -/
def State.hlk (s : State) (p : Port) : Hlk := mget {} s.hlks p.val
/-- The state with host port p changed by f. -/
def State.modHlk (s : State) (p : Port) (f : Hlk → Hlk) : State :=
  { s with hlks := mput {} p.val (f (s.hlk p)) s.hlks }

/-- The number of a memory-side cache: 0–7 the stack caches, 8 and 9 the hub caches. -/
def cacheIx : CacheId → Nat
  | .scc n => n.val
  | .hcc h => 8 + h.val
/-- Memory-side cache number i. -/
def State.cache (s : State) (i : Nat) : Cache := mget {} s.caches i
/-- The state with cache number i replaced. -/
def State.setCache (s : State) (i : Nat) (c : Cache) : State := { s with caches := mput {} i c s.caches }
/-- The state with cache number i changed by f. -/
def State.modCache (s : State) (i : Nat) (f : Cache → Cache) : State := s.setCache i (f (s.cache i))

/-- The number of an engine: 8n + e on tensor die n, 64 + h the CB and 66 + h the CPH of hub die h. -/
def engIx : EngineId → Nat
  | .tensor n e => 8 * n.val + e.val
  | .cb h => 64 + h.val
  | .cph h => 66 + h.val
/-- The gather cache of engine number i. -/
def State.gc (s : State) (i : Nat) : Gc := mget {} s.gcs i
/-- The state with the gather cache of engine number i changed by f. -/
def State.modGc (s : State) (i : Nat) (f : Gc → Gc) : State := { s with gcs := mput {} i (f (s.gc i)) s.gcs }

/-- The creel of copy engine e, CP0 and CP1 of each tensor die in order. -/
def State.creel (s : State) (e : Fin 16) : Creel := mget {} s.creels e.val
/-- The state with the creel of copy engine e changed by f. -/
def State.modCreel (s : State) (e : Fin 16) (f : Creel → Creel) : State :=
  { s with creels := mput {} e.val (f (s.creel e)) s.creels }

/-- The step group g of hub die h. -/
def State.grp (s : State) (h : Hub) (g : Fin 16) : StepGrp := mget {} (s.hub h).grps g.val
/-- The state with step group g of hub die h changed by f. -/
def State.modGrp (s : State) (h : Hub) (g : Fin 16) (f : StepGrp → StepGrp) : State :=
  s.modHub h fun x => { x with grps := mput {} g.val (f (mget {} x.grps g.val)) x.grps }

/-- One frame-link port of a hub die. -/
def State.fport (s : State) (h : Hub) (j : FPort) : FlkPort := mget {} (s.hub h).flk.ports j.val
/-- The state with one frame-link port changed by f. -/
def State.modFport (s : State) (h : Hub) (j : FPort) (f : FlkPort → FlkPort) : State :=
  s.modHub h fun x => { x with flk := { x.flk with ports := mput {} j.val (f (mget {} x.flk.ports j.val)) x.flk.ports } }

/-- The key of a die-link end: the die and the far die (R631). -/
def dlkKey (d far : DieId) : Nat := d.val * 16 + far.val
/-- One die-link end. -/
def State.dlk (s : State) (d far : DieId) : DlkEnd := mget {} s.dlks (dlkKey d far)
/-- The state with one die-link end changed by f. -/
def State.modDlk (s : State) (d far : DieId) (f : DlkEnd → DlkEnd) : State :=
  { s with dlks := mput {} (dlkKey d far) (f (s.dlk d far)) s.dlks }

/-- A step takes place at cycle t, or now when t has passed already. -/
def State.toTime (s : State) (t : Nat) : State := { s with now := max s.now t }

/-- The state with one more thing sent. (DESIGN CHOICE, log entry 4) -/
def State.send (s : State) (o : Out) : State := { s with out := o :: s.out }

/-- The next number a free value is drawn with. (DESIGN CHOICE, log entry 5) -/
def State.draw (s : State) : Nat × State := (s.fresh, { s with fresh := s.fresh + 1 })

/-- Cycles of 10 ns in n microseconds. -/
def us (n : Nat) : Nat := 100 * n
/-- Cycles of 10 ns in n milliseconds. -/
def ms (n : Nat) : Nat := 100000 * n

/-! ## Bytes -/

/-- The n low bytes of v, least significant first (R5). -/
def leBytes : Nat → Nat → List Byte
  | 0, _ => []
  | n + 1, v => BitVec.ofNat 8 v :: leBytes n (v / 256)

/-- The number that bytes spell, least significant first (R5). -/
def leNat : List Byte → Nat
  | [] => 0
  | b :: bs => b.toNat + 256 * leNat bs

/-- Bits lo, lo + 1, …, lo + n − 1 of v (R6). -/
def bits (v lo n : Nat) : Nat := (v >>> lo) % 2 ^ n

/-- Bit i of v. -/
def bit (v i : Nat) : Bool := v.testBit i

/-- A flag as a number. -/
def b2n (b : Bool) : Nat := if b then 1 else 0

/-- n bytes from offset i of a list, short when the list ends before. -/
def slice {α : Type} (l : List α) (i n : Nat) : List α := (l.drop i).take n

/-- The number at bytes i to i + n − 1 of a list. -/
def leAt (l : List Byte) (i n : Nat) : Nat := leNat (slice l i n)

/-- x put into a list before the first element that does not come before it. -/
def insertBy {α : Type} (le : α → α → Bool) (x : α) : List α → List α
  | [] => [x]
  | y :: l => if le y x then y :: insertBy le x l else x :: y :: l
/-- The list in the order le, equal elements as they stood. -/
def sortBy {α : Type} (le : α → α → Bool) (l : List α) : List α := l.foldl (fun acc x => insertBy le x acc) []

/-! ## Numbering (R27, R32, R631) -/

/-- The key of a block page: 4,096 × die id + page index (R630). -/
def pgKey (d i : Nat) : Nat := d * 4096 + i

def ixHub : Nat := 0x000
def ixErr : Nat := 0x001
def ixMgt : Nat := 0x002
def ixLtu : Nat := 0x003
def ixSeq : Nat := 0x004
def ixGov : Nat := 0x005
def ixLed : Nat := 0x006
def ixMrm : Nat := 0x007
def ixHcc : Nat := 0x008
def ixGmc : Nat := 0x009
def ixXlt : Nat := 0x00A
def ixQmh : Nat := 0x00B
def ixFlk : Nat := 0x00C
def ixSlk : Nat := 0x00D
def ixCbe : Nat := 0x010
def ixCph : Nat := 0x011
def ixHlk : Nat := 0x018
def ixDlk : Nat := 0x020
def ixCore : Nat := 0x000
def ixCmu : Nat := 0x002
def ixTdc : Nat := 0x000
def ixQmt : Nat := 0x002
def ixScr : Nat := 0x003
def ixScc : Nat := 0x004
def ixSmc : Nat := 0x005
def ixEng : Nat := 0x008

/-- The die id of tensor die n. -/
def tDie (n : Nat) : Nat := n + 4
/-- The hank, and so the hub die, of a die (R29). -/
def dieHub (d : Nat) : Hub := if d = 0 ∨ d = 2 ∨ (4 ≤ d ∧ d < 8) then 0 else 1
/-- The hank of tensor die n. -/
def tensorHub (n : Nat) : Hub := if n < 4 then 0 else 1
/-- The die of core c. -/
def coreDie (c : CoreId) : Nat := if c.val < 48 then 2 else 3
/-- The hank of core c. -/
def coreHub (c : CoreId) : Hub := if c.val < 48 then 0 else 1

/-- The die that holds a queue (R32). -/
def qDie (q : QIdx) : Nat :=
  if q.val < 64 then 0 else if q.val < 128 then 1 else tDie ((q.val - 128) / 112)
/-- The queue's local index on its die (R32). -/
def qLocal (q : QIdx) : Nat :=
  if q.val < 64 then q.val else if q.val < 128 then q.val - 64 else (q.val - 128) % 112
/-- The hank of a queue. -/
def qHub (q : QIdx) : Hub := dieHub (qDie q)
/-- The engine id of R141 that a queue is bound to (R32). -/
def qEngId (q : QIdx) : Nat :=
  let l := qLocal q
  if q.val < 128 then (if l < 24 then 8 else 9)
  else if l < 64 then l / 16 else if l < 80 then 4 else if l < 88 then 5 else if l < 100 then 6 else 7
/-- The number (engIx) of the engine a queue is bound to. -/
def qEng (q : QIdx) : Nat :=
  if q.val < 128 then (if qEngId q = 8 then 64 else 66) + (qHub q).val else 8 * (qDie q - 4) + qEngId q
/-- The page of the queue manager that holds a queue (R631). -/
def qmPage (q : QIdx) : Nat := if q.val < 128 then pgKey (qDie q) ixQmh else pgKey (qDie q) ixQmt
/-- The page of engine number i. -/
def engPage (i : Nat) : Nat :=
  if i < 64 then pgKey (tDie (i / 8)) (ixEng + i % 8) else if i < 66 then pgKey (i - 64) ixCbe else pgKey (i - 66) ixCph
/-- The hank of engine number i. -/
def engHub (i : Nat) : Hub := if i < 64 then tensorHub (i / 8) else if i % 2 = 0 then 0 else 1
/-- The queue at local index l of a die, if there is one. -/
def queueAt (d l : Nat) : Option QIdx :=
  let v := if d < 2 then 64 * d + l else 128 + 112 * (d - 4) + l
  if h : v < 1024 then if (d < 2 ∧ l < 64) ∨ (4 ≤ d ∧ d < 12 ∧ l < 112) then some ⟨v, h⟩ else none else none
/-- The queues of a hank. -/
def hubQueues (h : Hub) : List QIdx := (List.finRange 1024).filter fun q => qHub q = h
/-- The queues bound to engine number i. -/
def engQueues (i : Nat) : List QIdx := (List.finRange 1024).filter fun q => qEng q = i
/-- The frame queue index (R33). -/
def fqi (s : State) (q : QIdx) : Nat := s.boot.pos.val * 1024 + q.val
/-- The frame hank index of hank h of the package at position p (R468). -/
def frameHank (p : Pos) (h : Hub) : Nat := 2 * p.val + h.val
/-- The page of a memory-side cache. -/
def cachePage (i : Nat) : Nat := if i < 8 then pgKey (tDie i) ixScc else pgKey (i - 8) ixHcc
/-- The page of the memory controller behind a memory-side cache. -/
def memPage (i : Nat) : Nat := if i < 8 then pgKey (tDie i) ixSmc else pgKey (i - 8) ixGmc
/-- The page of a host port. -/
def hlkPage (p : Port) : Nat := pgKey (p.val / 2) (ixHlk + p.val % 2)
/-- The hub die of a host port. -/
def portHub (p : Port) : Hub := if p.val < 2 then 0 else 1
/-- The far position of frame-link port j (R22). -/
def farOf (p : Pos) (j : FPort) : Pos := ⟨(p.val + 1 + j.val) % 8, Nat.mod_lt _ (by decide)⟩
/-- The frame-link port towards position d, none for the own position (R22). -/
def portTo (p d : Pos) : Option FPort :=
  let k := (d.val + 8 - p.val) % 8
  if h : k = 0 then none else some ⟨k - 1, by have : k < 8 := Nat.mod_lt _ (by decide); omega⟩

/-! ## Counters and events of a page -/

/-- Counter at offset off of page p grows by n, unless the window is frozen (R637, R638). -/
def State.count (s : State) (p off n : Nat) : State :=
  s.modBlk p fun b =>
    if b.cntFreeze then b else { b with cnt := mput 0 off (mget 0 b.cnt off + BitVec.ofNat 64 n) b.cnt }
/-- The live value of a counter. -/
def State.cnt (s : State) (p off : Nat) : W64 := mget 0 (s.blk p).cnt off
/-! ## Interrupts (R481, R607, R634) -/

/-- A byte of the MSI-X table of VF v of a host port; a vector is masked until its mask bit is cleared, as PCIe has it.
(PRESUMED, log entry 7) -/
def msixByte (x : Hlk) (v i : Nat) : Byte := mget (if i % 16 = 12 then 1 else 0) x.msix (512 * v + i)
/-- The MSI-X table with a byte written. -/
def msixPut (x : Hlk) (v i : Nat) (b : Byte) : Hlk :=
  { x with msix := mput (if i % 16 = 12 then 1 else 0) (512 * v + i) b x.msix }

/-- Bus Master Enable of function fn of a host port, PF0 or a VF: bit 2 of its Command register, as PCIe places it (R598).
(PRESUMED, log entry 94) -/
def busMaster (x : Hlk) (fn : Nat) : Bool := (mget 0 x.cfg (4096 * fn + 4)).getLsbD 2
/-- Whether a vector of a VF waits: its table entry masks it, or the function may not master the bus (R598). (DEDUCED, log entry 7) -/
def msixHeld (x : Hlk) (v vec : Nat) : Bool := (msixByte x v (16 * vec + 12)).getLsbD 0 || !busMaster x v

/-- VF v of port p raises MSI-X vector vec of function f: sent, or pending while it must wait. -/
def raiseMsixVf (s : State) (p : Port) (v f vec : Nat) : State :=
  if msixHeld (s.hlk p) v vec then
    s.modHlk p fun x => { x with pba := mput false (32 * v + vec) true x.pba }
  else
    (s.modBlk (hlkPage p) fun b =>
      if b.cntFreeze then b else { b with cnt := mput 0 0x098 (mget 0 b.cnt 0x098 + 1) b.cnt }).send (.msix f vec)

/-- Every VF of the package, by port and number. -/
def allVfs : List (Port × Nat) := (List.finRange 4).flatMap fun p => (List.range 8).map fun v => (p, v + 1)
/-- The VFs that present host function f (R601, R603). -/
def vfsOf (s : State) (f : Nat) : List (Port × Nat) :=
  allVfs.filter fun (p, v) =>
    let e := mget (0, false) (s.hlk p).vfMap v
    e.2 && decide (e.1.toNat = f)

/-- Vector vec(port, VF) of every VF that presents f is raised. -/
def raiseMsix (s : State) (f : Nat) (vec : Hlk → Nat → Nat) : State :=
  (vfsOf s f).foldl (fun s (p, v) => raiseMsixVf s p v f (vec (s.hlk p) v)) s

/-- The management function of partition n, as hub die h's table names it (R471). -/
def mgmtOf (s : State) (h : Hub) (n : Nat) : Option Nat :=
  let e := mget {} (s.hub h).part.parts n
  if e.mgmtV then some e.mgmtFn.toNat else none

/-- An interrupt addressed to the management function of partition n: vector 0, or Prostoza where there is none (R471, R607). -/
def mgmtIrq (s : State) (h : Hub) (n : Nat) : State :=
  match mgmtOf s h n with
  | some f => raiseMsix s f fun _ _ => 0
  | none => s

/-- Interrupt level of a page: raised while a bit is set in both INT_STAT and INT_EN (R634). -/
def irqRaised (b : Blk) : Bool := b.intStat &&& b.intEn != 0

/-- A change of page p's common registers that a FATAL error makes: when its interrupt rises, Prostoza alone receives it (R567). -/
def State.withFatalIrq (s : State) (p : Nat) (f : Blk → Blk) : State :=
  let was := irqRaised (s.blk p)
  let s := s.modBlk p f
  if irqRaised (s.blk p) && !was then s.send (.prostozaIrq p) else s

/-- A change of page p's common registers; when its interrupt rises, Prostoza and the management function of the partition that
owns the page receive it (R634), but an interrupt for FATAL events of an ERR page goes to Prostoza only (R567). -/
def State.withIrq (s : State) (p : Nat) (f : Blk → Blk) : State :=
  let was := irqRaised (s.blk p)
  let s := s.modBlk p f
  let b := s.blk p
  if irqRaised b && !was then
    let s := s.send (.prostozaIrq p)
    let fatalOnly := p % 4096 = ixErr ∧ b.intStat &&& b.intEn = 16
    let q := (s.hub (dieHub (p / 4096))).part
    if q.hank = .owned ∧ ¬ fatalOnly then mgmtIrq s (dieHub (p / 4096)) q.owner.toNat else s
  else s

/-- Event bit i of INT_STAT of page p is set (R632). -/
def State.event (s : State) (p i : Nat) : State :=
  s.withIrq p fun b => { b with intStat := b.intStat ||| (1#32 <<< i) }

/-! ## Codes (R141, R171, R172) -/

def Status.code : Status → Nat
  | .ok => 0 | .partialDone => 1 | .failed => 2 | .depFailed => 3 | .poisoned => 4
  | .timeout => 5 | .timeoutLink => 6 | .doff => 7 | .refused => 8 | .fault => 9

def QState.code : QState → Nat
  | .disabled => 0 | .running => 1 | .halted => 2 | .faultWait => 3 | .draining => 4 | .error => 5 | .doff => 6 | .reset => 7

def cNone : Nat := 0x00
def cThrottleLine : Nat := 0x01
def cThrottleQos : Nat := 0x02
def cLateGddr : Nat := 0x03
def cLateStore : Nat := 0x04
def cLateFabric : Nat := 0x05
def cScheduleMiss : Nat := 0x06
def cWaitSignal : Nat := 0x07
def cFenceWait : Nat := 0x08
def cKnotHold : Nat := 0x09
def cLinkReplay : Nat := 0x0A
def cCombineFull : Nat := 0x0B
def cStepGrid : Nat := 0x0C
def cFaultWait : Nat := 0x0D
def cRefSuspended : Nat := 0x20
def cRefBudget : Nat := 0x21
def cRefDoff : Nat := 0x22
def cUnmapped : Nat := 0x40
def cSize : Nat := 0x41
def cXltMiss : Nat := 0x42
def cXltFormat : Nat := 0x43
def cXltPerm : Nat := 0x44
def cXltAttr : Nat := 0x45
def cXltWalk : Nat := 0x46
def cFirewall : Nat := 0x47
def cPosDown : Nat := 0x48
def cPoison : Nat := 0x49
def cFetchFailed : Nat := 0x4A
def cTimeout : Nat := 0x4B
def cTimeoutLink : Nat := 0x4C
def cDoff : Nat := 0x4D
def cIllegalOp : Nat := 0x50
def cFeature : Nat := 0x51
def cBadOperand : Nat := 0x52
def cRemoteAtomic : Nat := 0x53
/-- Fault class ALIGN of a core access (R635). -/
def cAlign : Nat := 0x60
/-- Fault class LINK of a core access (R635). -/
def cLink : Nat := 0x61

/-! ## Line time as blocks see it (R59, R63) -/

/-- The hub die whose line time unit is active (R30, R77). -/
def State.activeHub (s : State) : Hub := if s.hub1.ltu.active && !s.hub0.ltu.active then 1 else 0
/-- The active line time unit. -/
def State.ltu (s : State) : Ltu := (s.hub s.activeHub).ltu
/-- Line phase and line-cycle count in the layout of LTU_NOW. -/
def ltuNow (l : Ltu) : Nat := l.phase.toNat + 65536 * l.cycle.toNat
/-- The LT count over cycles, for lengths of steps (R185). -/
def State.ltCount (s : State) : Nat := ltuNow s.ltu

end Sys2Proof.Machine
end

