-- ==== Sys2Proof/Machine/Crc.lean ====
section
/-! DEFINITION. The CRC-32 of R661. -/

namespace Sys2Proof.Machine

/-- One bit of the division, polynomial 0x04C1_1DB7 reflected (R661). -/
def crcBit (c : W32) : W32 := if c.getLsbD 0 then (c >>> 1) ^^^ 0xEDB88320#32 else c >>> 1

/-- Eight bits of the division. -/
def crcByte (c : W32) (b : Byte) : W32 :=
  let c := c ^^^ b.setWidth 32
  crcBit (crcBit (crcBit (crcBit (crcBit (crcBit (crcBit (crcBit c)))))))

/-- CRC-32 over bytes in ascending order: initial value all ones, final value complemented (R661). -/
def crc32 (l : List Byte) : W32 := ~~~(l.foldl crcByte 0xFFFFFFFF#32)

end Sys2Proof.Machine
end

