-- ==== Sys2Proof/Machine/Errors.lean ====
section
/-! DEFINITION. Where errors go: ERR_FIRST, ERR_ADDR and ERR_COUNT of the reporting block (R635, R636), the error collector of
the die (R565–R567), the firewall log (R478), a failing start step (R543–R545) and the beginning of a fatal stop (R584, R585). -/

namespace Sys2Proof.Machine

/-- Who an error concerns, as R566 and R635 give it: REQ_ID, REQ_KIND (0 queue, 1 function, 2 core, 3 none), requester partition. -/
structure ReqTag where
  id   : Nat := 0
  kind : Nat := 3
  part : Option Nat := none
  deriving DecidableEq, Repr

/-- The requester partition as R473 gives it, judged with hub die h's copy of FUNC_TBL; none for Prostoza too, who is exempt. -/
def reqPart (s : State) (h : Hub) : Requester → Option Nat
  | .prostoza => none
  | .function f =>
    let e := mget {} (s.hub h).part.funcs f.val
    if e.bound then some e.part.toNat else none
  | .core c =>
    let p := (s.hub (coreHub c)).part
    if p.hank = .owned then some p.owner.toNat else none
  | .engine q => some (s.queue q).part.toNat

/-- The tag of a requester. -/
def reqTag (s : State) (h : Hub) (r : Requester) : ReqTag :=
  match r with
  | .prostoza => {}
  | .function f => { id := f.val, kind := 1, part := reqPart s h r }
  | .core c => { id := c.val, kind := 2, part := reqPart s h r }
  | .engine q => { id := fqi s q, kind := 0, part := reqPart s h r }

/-- A corrected error is counted at the die, and CE_THRESH interrupts at each multiple (R565, R567). -/
def corrected (s : State) (d : Nat) : State :=
  let p := pgKey d ixErr
  let s := s.count p 0x080 1
  let th := (mget {} s.errs d).thresh.toNat
  if th ≠ 0 ∧ (s.cnt p 0x080).toNat % th = 0 then s.event p 0 else s

/-- The slot of the newest unread record, if any record is unread. -/
def newestUnread (e : ErrLog) : Option Nat := if e.unread = 0 then none else some ((e.next + 15) % 16)

/-- One error reaches the collector: merged into the newest unread record of the same class, page and code, given a slot, or
dropped with OVERFLOW (R567). -/
def logRecord (e : ErrLog) (r : ErrRec) : ErrLog :=
  let fresh : ErrLog :=
    if e.unread < 16 then
      { e with recs := mput none e.next (some r) e.recs, next := (e.next + 1) % 16, unread := e.unread + 1 }
    else { e with overflow := true }
  match newestUnread e with
  | none => fresh
  | some i =>
    match mget none e.recs i with
    | some n =>
      if n.cls = r.cls ∧ n.page = r.page ∧ n.code = r.code then
        { e with recs := mput none i (some { n with merged := if n.merged = 0xFFFF then 0xFFFF else n.merged + 1 }) e.recs }
      else fresh
    | none => fresh

/-- The ERR_FIRST word of an error (R635). -/
def errFirstWord (cls code detail : Nat) (t : ReqTag) : W64 :=
  BitVec.ofNat 64 (code + 2 ^ 8 * cls + 2 ^ 16 * detail + 2 ^ 32 * (t.id % 65536) + 2 ^ 48 * t.kind +
    2 ^ 52 * (t.part.getD 0) + 2 ^ 56 * b2n t.part.isNone + 2 ^ 63)

/-- Whether an error takes ERR_FIRST (R635): where it is empty; or from one of the same cycle that has the lower class or, at equal
classes, the higher ERR_ADDR. (DEDUCED, log entry 123) -/
def takesFirst (s : State) (b : Blk) (cls errAddr : Nat) : Bool :=
  let c := (b.errFirst.toNat / 256) % 8
  !b.errFirst.getLsbD 63 || (decide (b.errAt = s.now) && decide (c < cls ∨ (c = cls ∧ errAddr < b.errAddr.toNat)))

/-- The block of page p reports an error of class cls (1 REQUEST, 2 QUEUE, 3 PARTITION, 4 FATAL): ERR_FIRST and ERR_ADDR,
ERR_COUNT, INT_STAT bit 31, and the die's collector with its class counter and interrupt bit (R566, R567, R635). -/
def report (s : State) (p cls code detail : Nat) (t : ReqTag) (errAddr physAddr : Nat) : State :=
  let change (b : Blk) : Blk :=
    let b := if takesFirst s b cls errAddr then
        { b with errFirst := errFirstWord cls code detail t, errAddr := BitVec.ofNat 64 errAddr, errAt := s.now }
      else b
    { b with errCount := if b.errCount = BitVec.allOnes 32 then b.errCount else b.errCount + 1
             intStat := b.intStat ||| (1#32 <<< 31) }
  let s := if cls = 4 then s.withFatalIrq p change else s.withIrq p change
  let d := p / 4096
  let rec_ : ErrRec :=
    { time := BitVec.ofNat 64 s.ltCount, cls := cls, page := p % 4096, code := code,
      reqId := BitVec.ofNat 32 (t.id % 65536 + 65536 * t.kind), addr := BitVec.ofNat 64 physAddr,
      part := BitVec.ofNat 8 (t.part.getD 0 + 16 * b2n t.part.isNone), die := d, merged := 0 }
  let s := { s with errs := mput {} d (logRecord (mget {} s.errs d) rec_) s.errs }
  (s.count (pgKey d ixErr) (0x080 + 8 * cls) 1).event (pgKey d ixErr) cls

/-- Firewall violation kinds of FW_LAST (R499). -/
def fwMemory : Nat := 0
def fwRegister : Nat := 1
def fwDoorbell : Nat := 2
def fwFabric : Nat := 3
def fwRwl : Nat := 4

/-- Hub die h logs a firewall violation (R478): FW_LAST, FW_ADDR, FW_VIOLATIONS, the event, and an interrupt to Prostoza. -/
def fwViolation (s : State) (h : Hub) (kind : Nat) (t : ReqTag) (addr : Nat) : State :=
  let s := s.modHub h fun x => { x with part := { x.part with
    fwPart := BitVec.ofNat 4 (t.part.getD 0), fwNone := t.part.isNone, fwKind := BitVec.ofNat 3 kind,
    fwReqId := BitVec.ofNat 16 t.id, fwAddr := BitVec.ofNat 64 addr } }
  let p := pgKey h.val ixHub
  let s := ((s.count p 0x080 1).event p 0).send (.prostozaIrq p)
  match t.part with
  | some n => mgmtIrq s h n
  | none => s

/-- The start step in progress fails (R543–R545): the record of the failure, and the retry scheduled min(2^(n−1), 1,000) ms
later from step `back`. -/
def stepFail (s : State) (reason : Nat) (die detail back : Nat) : State :=
  let n := s.boot.n + 1
  { s with boot := { s.boot with
      bfStep := BitVec.ofNat 3 s.boot.step, bfReason := BitVec.ofNat 8 reason, bfDie := BitVec.ofNat 4 die,
      bfDetail := BitVec.ofNat 12 detail, backoff := true, n := n,
      retryAt := s.now + ms (min (2 ^ (n - 1)) 1000), retryTo := back, done0 := false, done1 := false } }

/-- The fatal code of DLINK_FAIL (R584). -/
def fcDlink : Nat := 2
/-- The fatal code of POISON_LIST_FULL. -/
def fcPoisonList : Nat := 3

/-- A fatal error is recognised by the block of page p (R584–R587).  Before READY the start step in progress fails.  After
READY, FATAL_N is asserted and a FATAL record logged; a first fatal error outside a doff starts the fatal stop, whose deadline
is 1,000 µs after t_F. (DEDUCED, log entry 65) -/
def raiseFatal (s : State) (code p : Nat) : State :=
  if !s.boot.ready then
    if 1 ≤ s.boot.step ∧ s.boot.step ≤ 5 ∧ !s.boot.backoff then
      stepFail s (if code = fcDlink then 3 else 11) (p / 4096) (if code = fcDlink then p % 4096 - ixDlk else 0)
        (if code = fcDlink then 1 else s.boot.step)
    else s
  else
    let s := report s p 4 code 0 {} 0 0
    if s.mgt.fatal then s
    else
      let s := { s with
        pins := { s.pins with fatalN := .low }
        mgt := { s.mgt with fatal := true, code := code, srcDie := Fin.ofNat 12 (p / 4096), srcPage := p % 4096,
                            tfPhase := s.ltu.phase, tfCycle := s.ltu.cycle } }
      if s.doff.active then s
      else { s with doff := { s.doff with active := true, fatal := true, tW := s.now, tD0 := s.now + us 1000, tD1 := s.now + us 1000 } }

end Sys2Proof.Machine
end

