-- ==== Sys2Proof/Machine/Regions.lean ====
section
/-! DEFINITION. The frame map and the package window (R105–R118), the positions (R25), the attributes that a region forces
(R123, R128) and who owns an address (R474). -/

namespace Sys2Proof.Machine

/-- Where a package offset lies (R108), with the offset inside the stack, range, window or page region. -/
inductive Region where
  | hbm (n : Tensor) (off : Nat)
  | gddr (h : Hub) (off : Nat)
  | sram (n : Tensor) (off : Nat)
  | scrCarve (n : Tensor) (off : Nat)
  | hubCarve (h : Hub) (off : Nat)
  | reg (d : DieId) (off : Nat)
  | bell (q : QIdx) (off : Nat)
  | mram (h : Hub) (off : Nat)
  | unmapped
  deriving DecidableEq, Repr

def hbmStack : Nat := 0x1000000000
def gddrBase (h : Hub) : Nat := 0x10000000000 + h.val * 0x8000000000
def scrBase (n : Tensor) : Nat := 0x20000000000 + n.val * 0x10000000
def scrCarveBase (n : Tensor) : Nat := scrBase n + 0x8000000
def hubCarveBase (h : Hub) : Nat := 0x20080000000 + h.val * 0x10000000
def regBase : Nat := 0x30000000000
def bellBase : Nat := 0x38000000000
def mramBase (h : Hub) : Nat := 0x3C000000000 + h.val * 0x4000000

/-- Populated GDDR of one hub die (R110). -/
def gddrSize (s : State) : Nat := if s.boot.memtype then 0x1000000000 else 0x800000000
/-- Capacity of a carve unit of cache i (R348). -/
def unitSize (i : Nat) : Nat := if i < 8 then 0x400000 else 0x1000000
/-- Bytes of cache i that are carved and mapped (R113). -/
def carved (s : State) (i : Nat) : Nat := (s.cache i).cur * unitSize i

/-- The region of a package offset; carve-out space and GDDR as populated now (R108–R115). -/
def regionOf (s : State) (o : Nat) : Region :=
  if o < 0x8000000000 then .hbm (Fin.ofNat 8 (o / hbmStack)) (o % hbmStack)
  else if o < 0x10000000000 then .unmapped
  else if o < 0x20000000000 then
    let h : Hub := if o < gddrBase 1 then 0 else 1
    let r := o - gddrBase h
    if r < gddrSize s then .gddr h r else .unmapped
  else if o < 0x20080000000 then
    let n : Tensor := Fin.ofNat 8 ((o - scrBase 0) / 0x10000000)
    let r := (o - scrBase 0) % 0x10000000
    if r < 0x8000000 then .sram n r
    else if r - 0x8000000 < carved s n.val then .scrCarve n (r - 0x8000000) else .unmapped
  else if o < 0x200A0000000 then
    let h : Hub := if o < hubCarveBase 1 then 0 else 1
    let r := o - hubCarveBase h
    if r < carved s (8 + h.val) then .hubCarve h r else .unmapped
  else if regBase ≤ o ∧ o < regBase + 0xC000000 then
    .reg (Fin.ofNat 12 ((o - regBase) / 0x1000000)) ((o - regBase) % 0x1000000)
  else if bellBase ≤ o ∧ o < bellBase + 0x400000 then
    .bell (Fin.ofNat 1024 ((o - bellBase) / 0x1000)) ((o - bellBase) % 0x1000)
  else if mramBase 0 ≤ o ∧ o < mramBase 0 + 0x8000000 then
    if o < mramBase 1 then .mram 0 (o - mramBase 0) else .mram 1 (o - mramBase 1)
  else .unmapped

/-- The hank that owns a region's bytes (R474); the MRAM window follows R116. -/
def regionHub : Region → Option Hub
  | .hbm n _ | .sram n _ | .scrCarve n _ => some (tensorHub n.val)
  | .gddr h _ | .hubCarve h _ | .mram h _ => some h
  | .reg d _ => some (dieHub d.val)
  | .bell q _ => some (qHub q)
  | .unmapped => none

/-- The region of an offset in another package, as far as its layout is the same in every package (R108): what that package
has populated or carved is judged there. -/
def remoteHub (o : Nat) : Option Hub :=
  if o < 0x8000000000 then some (if o < 0x4000000000 then 0 else 1)
  else if o < 0x10000000000 then none
  else if o < 0x20000000000 then
    let h : Hub := if o < gddrBase 1 then 0 else 1
    if o - gddrBase h < 0x1000000000 then some h else none
  else if o < 0x20080000000 then
    if (o - scrBase 0) % 0x10000000 < 0x9800000 then some (if o < scrBase 4 then 0 else 1) else none
  else if o < 0x200A0000000 then
    let h : Hub := if o < hubCarveBase 1 then 0 else 1
    if o - hubCarveBase h < 0xA000000 then some h else none
  else if regBase ≤ o ∧ o < regBase + 0xC000000 then some (dieHub ((o - regBase) / 0x1000000))
  else if bellBase ≤ o ∧ o < bellBase + 0x400000 then some (qHub (Fin.ofNat 1024 ((o - bellBase) / 0x1000)))
  else if mramBase 0 ≤ o ∧ o < mramBase 0 + 0x8000000 then some (if o < mramBase 1 then 0 else 1)
  else none

/-- Whether an offset lies in a register or doorbell region (R118). -/
def isReg (o : Nat) : Bool :=
  decide (regBase ≤ o ∧ o < regBase + 0xC000000) || decide (bellBase ≤ o ∧ o < bellBase + 0x400000)
/-- Whether an offset lies in the MRAM window (R116). -/
def isMram (o : Nat) : Bool := decide (mramBase 0 ≤ o ∧ o < mramBase 0 + 0x8000000)

/-- One package window (R105). -/
def window : Nat := 2 ^ 46
/-- The position whose window holds a frame address. -/
def posOf (pa : Nat) : Nat := pa / window
/-- The package offset of a frame address (R105). -/
def offOf (pa : Nat) : Nat := pa % window
/-- The frame address of an offset of this package. -/
def paOf (s : State) (off : Nat) : Nat := s.boot.pos.val * window + off

/-- States of a position (R25). -/
inductive PosState where
  | empty | present | down | own
  deriving DecidableEq, Repr

/-- Whether the half-link of hub h on port j is up (FLK_STAT.UP). -/
def linkUp (s : State) (h : Hub) (j : FPort) : Bool := decide ((s.fport h j).width ≠ 0)

/-- The state of position p as FLK_POS_STATE reports it (R25, R655). -/
def posState (s : State) (p : Pos) : PosState :=
  match portTo s.boot.pos p with
  | none => .own
  | some j =>
    if linkUp s 0 j || linkUp s 1 j then .present
    else if (s.fport 0 j).trained || (s.fport 1 j).trained then .down else .empty

/-- The attributes in force for a leaf's attribute byte, a command hint and an address (R123, R126, R128). -/
def effAttr (s : State) (pa attr hint : Nat) : Acc :=
  let o := offOf pa
  let forced := isReg o || isMram o
  let memory := decide (o < 0x20000000000)
  { hint := if hint ≠ 0 then hint else bits attr 3 2
    se := forced || bit attr 2
    ord := forced || bit attr 0
    c := bit attr 1 && memory && decide (posOf pa = s.boot.pos.val) }

/-! ## The dump region (R589) -/

/-- MRAM offset of the fatal-dump summary. -/
def summaryOff : Nat := 0x2200000
/-- The byte at a package offset of MRAM, scratchpad or uncached memory. -/
def rawByte (s : State) (o : Nat) : Byte := mget 0 s.mem o
/-- The n bytes from a package offset. -/
def rawBytes (s : State) (o n : Nat) : List Byte := (List.range n).map fun i => rawByte s (o + i)
/-- The bytes with a CRC field of four bytes at i taken as zero. -/
def zeroField (l : List Byte) (i n : Nat) : List Byte := l.take i ++ List.replicate n 0 ++ l.drop (i + n)

/-- A dump is present (R589). -/
def dumpPresent (s : State) : Bool :=
  let b := mramBase 0 + summaryOff
  (rawByte s (b + 6)).getLsbD 0 &&
    (let l := rawBytes s b 4096
     decide (leAt l 12 4 = (crc32 (zeroField l 12 4)).toNat))

/-- The GDDR dump region as range offsets of H0. -/
def inDumpRegion (s : State) : Region → Bool
  | .gddr h off => decide (h = 0 ∧ gddrSize s - 0x10000000 ≤ off)
  | _ => false

/-- The region as every requester but Prostoza meets it: the dump region is unmapped while a dump is present. -/
def regionFor (s : State) (o : Nat) : Region :=
  let r := regionOf s o
  if inDumpRegion s r && dumpPresent s then .unmapped else r

/-! ## Owners (R469, R474, R475, R485) -/

/-- The partition that hub die h's table gives a frame hank, the lowest-numbered one that lists it. (DEDUCED, log entry 22) -/
def ownerOf (s : State) (h : Hub) (fh : Nat) : Option Nat :=
  (List.range 16).find? fun n => (mget {} (s.hub h).part.parts n).hanks.getLsbD fh

/-- The partition that owns this package's hank h (HANK_STAT). -/
def hankOwner (s : State) (h : Hub) : Option Nat :=
  let p := (s.hub h).part
  if p.hank = .owned then some p.owner.toNat else none

/-- Whether r is the management function of the partition that owns hank h, or Prostoza (R471). -/
def isMgmt (s : State) (h : Hub) (r : Requester) : Bool :=
  match r with
  | .prostoza => true
  | .function f =>
    (match hankOwner s h with
     | none => false
     | some n =>
       let e := mget {} (s.hub h).part.parts n
       e.mgmtV && decide (e.mgmtFn.toNat = f.val) && decide (reqPart s h r = some n))
  | _ => false

/-- The hub die at which a requester's accesses are issued. -/
def reqHub (s : State) : Requester → Hub
  | .prostoza => 0
  | .core c => coreHub c
  | .engine q => qHub q
  | .function f =>
    match (List.finRange 4).find? fun p => (List.range 9).any fun v =>
      let e := mget (0, false) (s.hlk p).vfMap v
      decide (1 ≤ v) && e.2 && decide (e.1.toNat = f.val) with
    | some p => portHub p
    | none => 0

/-- Whether this package's hank h lets a requester of partition rp in (R475, R485): the table copy of hub die at decides.
(DEDUCED, log entry 21) -/
def hankAllows (s : State) (at_ h : Hub) (r : Requester) (rp : Option Nat) : Bool :=
  match (s.hub h).part.hank with
  | .owned => rp.isSome && decide (rp = ownerOf s at_ (frameHank s.boot.pos h))
  | .releasing => (match r with | .engine q => decide (qHub q = h) | _ => false)
  | _ => false

/-- Where the firewall stops a memory access to this package's hank h, and whether it is the receiving hub that does (R475,
R477): the issuing hub die checks first, then the hub die that receives it from another die link. (DEDUCED, log entry 20) -/
def fwStopLocal (s : State) (r : Requester) (h : Hub) : Option (Hub × Bool) :=
  if r = .prostoza then none
  else
    let i : Hub := match r with | .core _ => h | _ => reqHub s r
    if !hankAllows s i h r (reqPart s i r) then some (i, false)
    else if i ≠ h ∧ !hankAllows s h h r (reqPart s i r) then some (h, true)
    else none

/-- Whether the issuing hub die stops an access to another package's hank (R477). -/
def fwStopRemote (s : State) (r : Requester) (p h : Nat) : Option Hub :=
  if r = .prostoza then none
  else
    let i := reqHub s r
    let rp := reqPart s i r
    if rp.isSome && decide (rp = ownerOf s i (2 * p + h)) then none else some i

/-- Whether a requester may access the doorbell page of queue q (R480). -/
def bellAllows (s : State) (r : Requester) (q : QIdx) : Bool :=
  let h := qHub q
  let qu := s.queue q
  match (s.hub h).part.hank, r with
  | _, .prostoza => true
  | .owned, .function f => (decide (qu.ctx = f.val) && (reqPart s h r).isSome && decide (reqPart s h r = hankOwner s h)) || isMgmt s h r
  | .owned, .core _ =>
    (match reqPart s h r with
     | some n => decide (some n = hankOwner s h ∧ qu.ctx = 32 + n)
     | none => false)
  | .owned, .engine q' => decide (reqPart s h r = hankOwner s h ∧ (s.queue q').ctx = qu.ctx)
  | .releasing, .engine q' => decide (qHub q' = h ∧ (s.queue q').ctx = qu.ctx)
  | _, _ => false

/-! ## Links of this package (R39, R568, R646) -/

/-- The state of a link, as its hub end shows it. -/
def linkSt (s : State) : LinkId → LinkState
  | .dlk a b => (s.dlk a b).lnk.st
  | .flk h j => (s.fport h j).lnk.st
/-- Whether what is sent over a link waits: it replays or retrains, or it is a die link that has failed for good (R568–R571, R646). -/
def linkBusy (s : State) (l : LinkId) : Bool :=
  decide (linkSt s l = .replay ∨ linkSt s l = .retrain) ||
    match l with | .dlk _ _ => decide (linkSt s l = .failed) | .flk _ _ => false

/-- The die that serves an offset of this package (R28, R631); the asking die itself where none does. -/
def servingDie (s : State) (asking o : Nat) : Nat :=
  match regionOf s o with
  | .hbm n _ | .sram n _ | .scrCarve n _ => tDie n.val
  | .gddr h _ | .hubCarve h _ | .mram h _ => h.val
  | .reg d _ => d.val
  | .bell q _ => qDie q
  | .unmapped => asking

/-- The die link of a tensor or core die; a hub die has none. -/
def dieLink (d : Nat) : List LinkId := if 2 ≤ d then [.dlk (Fin.ofNat 12 (dieHub d).val) (Fin.ofNat 12 d)] else []
/-- The hub-to-hub link, where two hub dies differ. -/
def hubLink (a b : Hub) : List LinkId := if a = b then [] else [.dlk 0 1]
/-- The links between a die and what serves an offset of this package: the die link of each tensor or core die at its ends, and the
hub-to-hub link between hanks (R39). -/
def localLinks (s : State) (d o : Nat) : List LinkId :=
  let e := servingDie s d o
  if e = d then [] else dieLink d ++ hubLink (dieHub d) (dieHub e) ++ dieLink e

/-- Whether a register access from a die waits for a link (R646). -/
def regHeld (s : State) (d o : Nat) : Bool := isReg o && (localLinks s d o).any (linkBusy s)

/-! ## How the memories are interleaved (R377, R380) -/

/-- The pseudo-channel that serves the 256-byte block at a stack offset; its channel is half of that (R377). -/
def pseudoChannel (o : Nat) : Nat := bits o 8 6 ^^^ bits o 14 6 ^^^ bits o 20 6
/-- The device that serves the 256-byte block at an offset of a hub's GDDR range (R380). -/
def gddrDevice (o : Nat) : Nat := bits o 8 4 ^^^ bits o 16 4

end Sys2Proof.Machine
end

