-- ==== Sys2Proof/Machine/Memory.lean ====
section
/-! DEFINITION. Memory as requesters reach it: the stack and hub caches (R348–R355, R664), poison (R386–R392), the loss of core
reservations (R276) and reads and writes of one piece of at most 64 bytes. -/

namespace Sys2Proof.Machine

/-! ## Stored bytes and poison marks -/

/-- The canonical form of memory: addresses strictly rising, and no entry equal to the 0 that an unlisted address reads as.
(DESIGN CHOICE, log entry 1) -/
def Memory.wf (m : List Host.Cell) : Bool := mwf 0 m

/-- Bytes stored at a package offset. -/
def memPut (m : List Host.Cell) (o : Nat) : List Byte → List Host.Cell
  | [] => m
  | b :: bs => memPut (mput 0 o b m) (o + 1) bs

/-- The state with bytes stored at a package offset. -/
def State.store (s : State) (o : Nat) (bs : List Byte) : State := { s with mem := memPut s.mem o bs }

/-- The granule that holds a byte (R386). -/
def granule (o : Nat) : Nat := o / 64

/-- The poison mark of a granule in its memory. -/
def poisoned (s : State) (g : Nat) : Bool := mget false s.poison g

/-- Entries of the poison list of hub die h (R389, R395). -/
def poisonUsed (s : State) (h : Hub) : Nat :=
  (s.poison.filter fun e => decide (gddrBase h / 64 ≤ e.1 ∧ e.1 < (gddrBase h + gddrSize s) / 64)).length

/-- One byte of the poison list of hub die h as the MRAM reads at an offset in the list (R389): the entries stand in ascending order from
its start. (DEDUCED, log entry 55) -/
def poisonListByte (s : State) (h : Hub) (off : Nat) : Byte :=
  let l := s.poison.filter fun e => decide (gddrBase h / 64 ≤ e.1 ∧ e.1 < (gddrBase h + gddrSize s) / 64)
  match l[off / 8]? with
  | some e => BitVec.ofNat 8 ((2 ^ 63 + paOf s (64 * e.1)) / 256 ^ (off % 8))
  | none => 0

/-- The page of the controller behind a region (R396). -/
def ctlPage : Region → Nat
  | .hbm n _ => pgKey (tDie n.val) ixSmc
  | .gddr h _ => pgKey h.val ixGmc
  | .mram h _ => pgKey h.val ixMrm
  | .sram n _ | .scrCarve n _ => pgKey (tDie n.val) ixScr
  | .hubCarve h _ => pgKey h.val ixHcc
  | _ => 0

/-- A counter of R396 grows, where the region has a controller with those counters. -/
def ctlCount (s : State) (r : Region) (off n : Nat) : State :=
  match r with
  | .hbm _ _ | .gddr _ _ | .mram _ _ => s.count (ctlPage r) off n
  | _ => s

/-- A granule becomes poisoned; with the poison list of its hub die full and no entry for it, the fatal error
POISON_LIST_FULL (R389). (DEDUCED, log entry 55) -/
def setPoison (s : State) (g : Nat) : State :=
  if poisoned s g then s
  else
    match regionOf s (64 * g) with
    | .gddr h _ =>
      if 16384 ≤ poisonUsed s h then raiseFatal s fcPoisonList (pgKey h.val ixGmc)
      else { s with poison := mput false g true s.poison }
    | _ => { s with poison := mput false g true s.poison }

/-- A granule's mark is removed. -/
def clearPoison (s : State) (g : Nat) : State := { s with poison := mput false g false s.poison }

/-- The offsets of the counters of corrected and of uncorrectable errors, where the memory of a region has check codes of its own:
the devices of a GDDR6 package detect nothing (R375, R386, R390, R396). -/
def eccCounters (s : State) : Region → Option (Nat × Nat)
  | .hbm _ _ | .mram _ _ => some (0x080, 0x088)
  | .gddr _ _ => if s.boot.memtype then some (0x080, 0x088) else none
  | .sram _ _ => some (0x098, 0x0A0)
  | _ => none

/-- An uncorrectable error is found in the granule of a package offset (R388): it is poisoned, but for one of GDDR6 (R390), logged and
counted. -/
def eccUe (s : State) (o : Nat) : State :=
  let r := regionOf s o
  let p := ctlPage r
  let s := match eccCounters s r with
    | some c => (setPoison s (granule o)).count p c.2 1
    | none => s.count p 0x088 1
  let a := paOf s (64 * granule o)
  report s p 1 cPoison 0 {} a a

/-- What has changed at a place of State.upsets is gone: found, corrected or overwritten. -/
def clearUpset (s : State) (k : Nat) : State :=
  if mget 0 s.upsets k = 0 then s else { s with upsets := mput 0 k 0 s.upsets }

/-- The memory reads the granule of a package offset, for a requester or to merge a write (R387, R388, R391). -/
def eccRead (s : State) (o : Nat) : State :=
  let k := mget 0 s.upsets (granule o)
  if k = 0 then s
  else
    let r := regionOf s o
    match eccCounters s r with
    | none => clearUpset s (granule o)
    | some c =>
      let t := clearUpset s (granule o)
      if poisoned s (granule o) then t
      else if k = 1 then corrected (t.count (ctlPage r) c.1 1) (ctlPage r / 4096)
      else eccUe t o

/-! ## Reservations (R276) and begun matrix-unit loads (R284) -/

/-- Whether an access of a core meets a granule of this package. (DEDUCED, log entry 91) -/
def meetsGranule (s : State) (a : CoreAccess) (g : Nat) : Bool :=
  decide (posOf a.addr = s.boot.pos.val ∧ granule (offOf a.addr) ≤ g ∧ g ≤ granule (offOf a.addr + a.size - 1))

/-- Whether a begun instruction has been executed: all its loads are performed, or one has met a fault. -/
def executed (b : CmuBegun) : Bool := b.fault.isSome || decide (b.data.length = b.instr.loads.length)

/-- Whether a load of the core that comes before its access number no is still to be performed (R261): the load that waits, or one of
a begun matrix-unit instruction. -/
def loadsBefore (x : Core) (no : Nat) : Bool :=
  (x.pendLoad.isSome && decide (x.pendNo < no)) || x.cmu.any fun b => decide (b.no < no) && (!executed b || b.redo)

/-- The loads that a begun instruction has read, the one that met a fault among them. -/
def CmuBegun.wasRead (b : CmuBegun) : List CoreAccess := b.instr.loads.take (b.data.length + b2n b.fault.isSome)

/-- A write by another observer than the core itself: its reservation on the granule goes (R276), and a matrix-unit instruction
that has read it while an earlier load is not performed will be executed again (R284). -/
def loseOne (s : State) (g : Nat) (c : Core) : Core :=
  { c with
    resv := match c.resv with
      | some (a, n) => if granule a = g then none else some (a, n)
      | none => none
    cmu := c.cmu.map fun (b : CmuBegun) =>
      if loadsBefore c b.no && b.wasRead.any (fun a => meetsGranule s a g) then { b with redo := true } else b }

/-- Every core but the writer meets a write to a granule. -/
def loseResv (s : State) (except : Option CoreId) (g : Nat) : State :=
  { s with cores := mmap {} (fun k c => if except.map (·.val) = some k then c else loseOne s g c) s.cores }

/-! ## Cache lines -/

def cacheBase (i : Nat) : Nat := if i < 8 then i * hbmStack else 0x10000000000 + (i - 8) * 0x8000000000
def cacheWays (i : Nat) : Nat := if i < 8 then 16 else 24
def cacheSets (i : Nat) : Nat := if i < 8 then 8192 else 32768
def maxUnits (i : Nat) : Nat := if i < 8 then 6 else 10
/-- The set of a line (R348). -/
def setOf (i num : Nat) : Nat := num % cacheSets i
/-- The ways that are not carved (R362). -/
def uncarved (s : State) (i : Nat) : Nat := cacheWays i - 2 * (s.cache i).cur

def findLine (c : Cache) (num : Nat) : Option Line := c.lines.find? fun l => l.num = num
def lineAt (c : Cache) (i set way : Nat) : Option Line := c.lines.find? fun l => decide (setOf i l.num = set ∧ l.way = way)

/-- The line replaces the one of its number; a line without a valid sector is dropped. -/
def putLine (c : Cache) (l : Line) : Cache :=
  let rest := c.lines.filter fun x => x.num ≠ l.num
  { c with lines := if l.valid = 0 then rest else l :: rest }

def Line.has (l : Line) (k : Nat) : Bool := l.valid.getLsbD k
def Line.isDirty (l : Line) (k : Nat) : Bool := l.dirty.getLsbD k
def Line.isPoison (l : Line) (k : Nat) : Bool := l.poison.getLsbD k
/-- One bit of a sector mask, set or cleared. -/
def setBit8 (m : Byte) (k : Nat) (v : Bool) : Byte := if v then m ||| (1#8 <<< k) else m &&& ~~~(1#8 <<< k)
def putBytes (d : SMap Byte) (o : Nat) : List Byte → SMap Byte
  | [] => d
  | b :: bs => putBytes (mput 0 o b d) (o + 1) bs
def Line.bytes (l : Line) (o n : Nat) : List Byte := (List.range n).map fun j => mget 0 l.data (o + j)

/-- The next age. (DESIGN CHOICE, log entry 9) -/
def State.tick (s : State) : Nat × State := (s.stamp, { s with stamp := s.stamp + 1 })

/-- The poison bit of a sector is set: with it that of the other sector of the granule, and both are valid and dirty (R664). -/
def poisonPair (s : State) (i : Nat) (l : Line) (k : Nat) : Line :=
  let base := cacheBase i + 256 * l.num
  let k' := if k % 2 = 0 then k + 1 else k - 1
  let l2 := if l.has k' then l
    else { l with valid := setBit8 l.valid k' true
                  data := putBytes l.data (32 * k') (rawBytes s (base + 32 * k') 32) }
  { l2 with dirty := setBit8 (setBit8 l2.dirty k true) k' true
            poison := setBit8 (setBit8 l2.poison k true) k' true }

/-- The place in State.upsets of a sector of the arrays of cache i, by an offset in the range that the cache serves. -/
def arrayKey (i o : Nat) : Nat := 2 ^ 40 + (cacheBase i + o) / 32

/-- The arrays of cache i read a sector of a line (R354): an error is corrected; or it discards a clean sector; or it poisons a dirty
one. -/
def lineErrors (s : State) (i : Nat) (l : Line) (k : Nat) : State × Line :=
  let o := 256 * l.num + 32 * k
  let p := cachePage i
  match mget 0 s.upsets (arrayKey i o) with
  | 0 => (s, l)
  | 1 => (corrected ((clearUpset s (arrayKey i o)).count p 0x0B8 1) (p / 4096), l)
  | _ =>
    let s := clearUpset s (arrayKey i o)
    if l.isDirty k then
      let a := paOf s (cacheBase i + o)
      (report ((s.count p 0x0D0 1).event p 5) p 1 cPoison 0 {} a a, poisonPair s i l k)
    else (s, { l with valid := setBit8 l.valid k false, poison := setBit8 l.poison k false })

/-- A dirty sector goes to memory, with its poison mark; it stays valid and clean (R351, R354, R355, R391). -/
def writeBack (s : State) (i : Nat) (l : Line) (k : Nat) : State × Line :=
  if l.has k && l.isDirty k then
    let (s, l) := lineErrors s i l k
    let o := cacheBase i + 256 * l.num + 32 * k
    let s := (eccRead s o).store o (l.bytes (32 * k) 32)
    let s := if l.isPoison k then setPoison s (granule o) else s
    (s.count (cachePage i) 0x098 1, { l with dirty := setBit8 l.dirty k false })
  else (s, l)

/-- Every dirty sector of a line goes to memory. -/
def writeBackLine (s : State) (i : Nat) (l : Line) : State × Line :=
  (List.range 8).foldl (fun p k => writeBack p.1 i p.2 k) (s, l)

/-- A line is written back and leaves the cache (R351). -/
def evict (s : State) (i : Nat) (l : Line) : State :=
  let (s, l) := writeBackLine s i l
  s.modCache i fun c => { c with lines := c.lines.filter fun x => x.num ≠ l.num }

/-- The way that takes a new line (R353): of the uncarved, unlocked ways of the set, one without a line, else the lowest
priority, else the oldest. -/
def victim (s : State) (i set : Nat) : Option Nat :=
  let c := s.cache i
  let ways := (List.range (uncarved s i)).filter fun w => !c.lock.getLsbD w
  match ways.find? fun w => (lineAt c i set w).isNone with
  | some w => some w
  | none =>
    let older (a b : Line) : Bool := decide (a.prio < b.prio ∨ (a.prio = b.prio ∧ a.stamp < b.stamp))
    ((ways.filterMap (lineAt c i set)).foldl
      (fun best l => match best with
        | none => some l
        | some b => if older l b then some l else some b) none).map (·.way)

/-- A line is allocated, empty, at a priority; none when every way is locked. -/
def allocLine (s : State) (i num prio : Nat) : Option (State × Line) :=
  (victim s i (setOf i num)).map fun w =>
    let s := match lineAt (s.cache i) i (setOf i num) w with
      | some old => evict s i old
      | none => s
    let (t, s) := s.tick
    (s, { num := num, way := w, valid := 0, dirty := 0, poison := 0, prio := prio, stamp := t, data := [] })

/-- A sector is filled from memory; from a poisoned granule both sectors of the granule are valid, dirty and poisoned (R349,
R355, R664). -/
def fillSector (s : State) (i : Nat) (l : Line) (k : Nat) : Line :=
  let base := cacheBase i + 256 * l.num
  let l1 := { l with valid := setBit8 l.valid k true, data := putBytes l.data (32 * k) (rawBytes s (base + 32 * k) 32) }
  if poisoned s (granule (base + 32 * k)) then poisonPair s i l1 k else l1

/-- The priority at which a hint allocates (R352). -/
def hintPrio : Nat → Nat
  | 0 => 1 | 1 => 0 | 2 => 2 | _ => 0
/-- The priority of a line after a hit under a hint (R352). -/
def hitPrio (hint p : Nat) : Nat := if hint = 0 then max p 1 else if hint = 2 then 2 else p

/-- The byte that the memory and its cache hold together, without any effect of the look (R130, R131). -/
def peekByte (s : State) (i o : Nat) : Byte :=
  match findLine (s.cache i) (o / 256) with
  | some l => if l.has (o % 256 / 32) then mget 0 l.data (o % 256) else rawByte s (cacheBase i + o)
  | none => rawByte s (cacheBase i + o)

/-- Whether a reader of the byte meets poison. -/
def peekPoison (s : State) (i o : Nat) : Bool :=
  match findLine (s.cache i) (o / 256) with
  | some l => if l.has (o % 256 / 32) then l.isPoison (o % 256 / 32) else poisoned s (granule (cacheBase i + o))
  | none => poisoned s (granule (cacheBase i + o))

/-- The cache that serves a region, with the range offset. -/
def cacheOfRegion : Region → Option (Nat × Nat)
  | .hbm n o => some (n.val, o)
  | .gddr h o => some (8 + h.val, o)
  | _ => none

/-- One byte of this package's memory as any coherent observer sees it now. (DEDUCED, log entry 18) -/
def coherentByte (s : State) (o : Nat) : Byte :=
  match cacheOfRegion (regionOf s o) with
  | some (i, r) => peekByte s i r
  | none => rawByte s o
/-- n coherent bytes from a package offset. -/
def coherentBytes (s : State) (o n : Nat) : List Byte := (List.range n).map fun j => coherentByte s (o + j)
/-- Whether a reader of the byte at a package offset would meet poison. -/
def coherentPoison (s : State) (o : Nat) : Bool :=
  match cacheOfRegion (regionOf s o) with
  | some (i, r) => peekPoison s i r
  | none => poisoned s (granule o)

/-! ## Reads and writes of one sector through a cache -/

/-- The other sector of an offset's granule. -/
def pairOff (o : Nat) : Nat := if o / 32 % 2 = 0 then o + 32 else o - 32

/-- An access to the sector at range offset o meets what has changed there by itself: in the arrays where cache i holds the sector, in
the memory where it does not (R354, R387, R388). -/
def findErrors (s : State) (i o : Nat) : State :=
  if s.upsets.isEmpty then s
  else
    let held (s : State) (x : Nat) : Bool := ((findLine (s.cache i) (x / 256)).map fun l => l.has (x % 256 / 32)).getD false
    let s := if held s (pairOff o) then s else clearUpset s (arrayKey i (pairOff o))
    let s := if held s o then
        match findLine (s.cache i) (o / 256) with
        | some l =>
          let r := lineErrors s i l (o % 256 / 32)
          if r.2 = l then r.1 else r.1.modCache i fun c => putLine c r.2
        | none => s
      else clearUpset s (arrayKey i o)
    if held s o then s else eccRead s (cacheBase i + o)

/-- A write of n bytes within the sector at range offset o meets what has changed there by itself (R354, R391): a whole sector overwrites
the arrays; less is merged; memory merges what is written through. -/
def writeErrors (s : State) (i : Nat) (a : Acc) (o n : Nat) : State :=
  let s := if n = 32 then clearUpset s (arrayKey i o) else findErrors s i o
  if !a.se && decide ((s.cache i).st = .enabled ∧ a.hint ≠ 3) then s else eccRead s (cacheBase i + o)

/-- A read of n bytes at range offset o, within one sector, through cache i (R349, R352, R353, R356). (DEDUCED, log entry 19) -/
def rdSector (s : State) (i : Nat) (a : Acc) (o n : Nat) : List Byte × Bool × State :=
  let p := cachePage i
  let num := o / 256
  let k := o % 256 / 32
  let plain := ((List.range n).map fun j => peekByte s i (o + j), peekPoison s i o)
  let c := s.cache i
  if a.se then (plain.1, plain.2, s)
  else match c.st with
  | .disabled | .carving => (plain.1, plain.2, s)
  | .draining =>
    match findLine c num with
    | some l => (plain.1, plain.2, s.count p (if l.has k then 0x080 else 0x088) 1)
    | none => (plain.1, plain.2, s.count p 0x088 1)
  | .enabled =>
    match findLine c num with
    | some l =>
      if l.has k then
        let s := s.count p 0x080 1
        if a.hint = 3 then
          let (s, l) := writeBack s i l k
          let l := { l with valid := setBit8 l.valid k false, poison := setBit8 l.poison k false }
          (plain.1, plain.2, (s.modCache i fun c => putLine c l).count p 0x0A0 1)
        else
          let (t, s) := s.tick
          (plain.1, plain.2, s.modCache i fun c => putLine c { l with prio := hitPrio a.hint l.prio, stamp := t })
      else
        let s := s.count p 0x088 1
        if a.hint = 1 then (plain.1, plain.2, s.count p 0x0A8 1)
        else if a.hint = 3 then (plain.1, plain.2, s)
        else
          let (t, s) := s.tick
          let l := fillSector s i { l with prio := hitPrio a.hint l.prio, stamp := t } k
          (plain.1, plain.2, s.modCache i fun c => putLine c l)
    | none =>
      let s := s.count p 0x088 1
      if a.hint = 1 then (plain.1, plain.2, s.count p 0x0A8 1)
      else if a.hint = 3 then (plain.1, plain.2, s)
      else match allocLine s i num (hintPrio a.hint) with
        | none => (plain.1, plain.2, s.count p 0x0A8 1)
        | some (s, l) => (plain.1, plain.2, s.modCache i fun c => putLine c (fillSector s i l k))

/-- Bytes are merged into a line's sector, which becomes valid and dirty (R350). -/
def mergeSector (l : Line) (o : Nat) (bs : List Byte) : Line :=
  let k := o / 32
  { l with valid := setBit8 l.valid k true, dirty := setBit8 l.dirty k true, data := putBytes l.data o bs }

/-- Bytes go to memory and, where the cache holds their sector, into the line too (R131). -/
def wrThrough (s : State) (i o : Nat) (bs : List Byte) : State :=
  let s := s.store (cacheBase i + o) bs
  match findLine (s.cache i) (o / 256) with
  | some l =>
    if l.has (o % 256 / 32) then s.modCache i fun c => putLine c { l with data := putBytes l.data (o % 256) bs } else s
  | none => s

/-- A write of bytes at range offset o, within one sector, through cache i (R350, R352, R353, R356): it never clears poison by itself
(R355, R664). -/
def wrSector (s : State) (i : Nat) (a : Acc) (o : Nat) (bs : List Byte) : State :=
  let p := cachePage i
  let num := o / 256
  let k := o % 256 / 32
  let whole := bs.length = 32
  let c := s.cache i
  let into (s : State) (l : Line) : State :=
    if l.has k then s.modCache i fun c => putLine c (mergeSector l (o % 256) bs)
    else if whole then
      let l := if poisoned s (granule (cacheBase i + o)) then fillSector s i l k else l
      s.modCache i fun c => putLine c (mergeSector l (o % 256) bs)
    else (s.modCache i fun c => putLine c (mergeSector (fillSector s i l k) (o % 256) bs)).count p 0x090 1
  if a.se then wrThrough s i o bs
  else match c.st with
  | .disabled | .carving => wrThrough s i o bs
  | .draining =>
    match findLine c num with
    | some l => wrThrough (s.count p (if l.has k then 0x080 else 0x088) 1) i o bs
    | none => wrThrough (s.count p 0x088 1) i o bs
  | .enabled =>
    match findLine c num with
    | some l =>
      let s := s.count p (if l.has k then 0x080 else 0x088) 1
      if a.hint = 3 then
        if l.has k then
          let (s, l) := writeBack s i l k
          let s := s.store (cacheBase i + o) bs
          let l := { l with valid := setBit8 l.valid k false, poison := setBit8 l.poison k false }
          (s.modCache i fun c => putLine c l).count p 0x0A0 1
        else wrThrough s i o bs
      else
        let (t, s) := s.tick
        into s { l with prio := hitPrio a.hint l.prio, stamp := t }
    | none =>
      let s := s.count p 0x088 1
      if a.hint = 3 then wrThrough s i o bs
      else match allocLine s i num (hintPrio a.hint) with
        | none => wrThrough (s.count p 0x0A8 1) i o bs
        | some (s, l) => into s l

/-! ## Pieces (R297) -/

/-- The cut of n bytes at o into parts that cross no multiple of u: pairs of offset and length. -/
def cuts (u : Nat) : Nat → Nat → Nat → List (Nat × Nat)
  | 0, _, _ => []
  | fuel + 1, o, n =>
    if n = 0 then []
    else
      let k := min n (u - o % u)
      (o, k) :: cuts u fuel (o + k) (n - k)

/-- The parts of an access that cross no multiple of u. -/
def splitAt_ (u o n : Nat) : List (Nat × Nat) := cuts u n o n

/-- A read of n bytes within one granule at a package offset: the bytes, whether poison was met, the state after it.  Registers
and doorbells are not read here. -/
def rdPiece (s : State) (a : Acc) (o n : Nat) : List Byte × Bool × State :=
  let r := regionOf s o
  match cacheOfRegion r with
  | some (i, ro) =>
    let (bs, p, s) := (splitAt_ 32 ro n).foldl
      (fun (acc : List Byte × Bool × State) c =>
        let (b, q, s) := rdSector (findErrors acc.2.2 i c.1) i a c.1 c.2
        (acc.1 ++ b, acc.2.1 || q, s)) ([], false, s)
    (bs, p, if p then ctlCount s r 0x090 1 else s)
  | none =>
    let s := match r with
      | .sram _ _ | .scrCarve _ _ => s.count (ctlPage r) 0x080 n
      | _ => s
    let s := eccRead s o
    let p := poisoned s (granule o)
    let bs := match r with
      | .mram h x => if 0x2210000 ≤ x ∧ x < 0x2230000 then (List.range n).map fun j => poisonListByte s h (x + j) else rawBytes s o n
      | _ => rawBytes s o n
    (bs, p, if p then ctlCount s r 0x090 1 else s)

/-- A write within one granule clears or keeps poison: a whole granule clears it, a part keeps it (R391, R392). -/
def poisonOnWrite (s : State) (o n : Nat) : State :=
  let r := regionOf s o
  let g := granule o
  let held := match cacheOfRegion r with
    | some (i, ro) => (match findLine (s.cache i) (ro / 256) with
      | some l => l.isPoison (ro % 256 / 32)
      | none => false)
    | none => false
  if !(poisoned s g || held) then s
  else if n = 64 then
    let s := ctlCount (clearPoison s g) r 0x098 1
    match cacheOfRegion r with
    | some (i, ro) =>
      (match findLine (s.cache i) (ro / 256) with
       | some l =>
         let k := ro % 256 / 64 * 2
         s.modCache i fun c => putLine c { l with poison := setBit8 (setBit8 l.poison k false) (k + 1) false }
       | none => s)
    | none => s
  else ctlCount s r 0x0A0 1

/-- A write of n bytes within one granule meets what has changed there by itself: a whole granule overwrites it, less merges with the
stored bytes (R391, R392). -/
def mergeErrors (s : State) (a : Acc) (o n : Nat) : State :=
  if s.upsets.isEmpty then s
  else match cacheOfRegion (regionOf s o) with
    | some (i, ro) =>
      if n = 64 then clearUpset (clearUpset (clearUpset s (granule o)) (arrayKey i ro)) (arrayKey i (ro + 32))
      else (splitAt_ 32 ro n).foldl (fun s c => writeErrors s i a c.1 c.2) s
    | none => if n = 64 then clearUpset s (granule o) else eccRead s o

/-- A write of bytes within one granule at a package offset; w is the writing core, if a core writes. -/
def wrPiece (s : State) (w : Option CoreId) (a : Acc) (o : Nat) (bs : List Byte) : State :=
  let r := regionOf s o
  let s := loseResv s w (granule o)
  let s := poisonOnWrite (mergeErrors s a o bs.length) o bs.length
  match cacheOfRegion r with
  | some (i, ro) =>
    (splitAt_ 32 ro bs.length).foldl (fun s c => wrSector s i a c.1 (slice bs (c.1 - ro) c.2)) s
  | none =>
    let s := match r with
      | .sram _ _ | .scrCarve _ _ => s.count (ctlPage r) 0x088 bs.length
      | _ => s
    s.store o bs

/-- A region is filled with ECC-clean zeros, which clears its poison (R392, R486). -/
def zeroRange (s : State) (o n : Nat) : State :=
  { s with mem := mclear o n s.mem, poison := mclear (granule o) (n / 64) s.poison
           upsets := mclear (granule o) (n / 64) s.upsets
           cores := mmap {} (fun _ c =>
             match c.resv with
             | some (a, _) => if o ≤ a ∧ a < o + n then { c with resv := none } else c
             | none => c) s.cores }

/-- Whether accesses to the bytes at a package offset wait: the scratchpad is being zeroed (R375). -/
def memBusy (s : State) (o : Nat) : Bool :=
  match regionOf s o with
  | .sram n _ => mget false s.scrZero n.val
  | _ => false

end Sys2Proof.Machine
end

