-- ==== Sys2Proof/Machine/Access.lean ====
section
/-! DEFINITION. How an access reaches the map: the walk of the frame translation tables (R132–R138, R663), the checks of the
physical address (R26, R106, R117, R118) and the firewall (R475–R480), and what a violation leaves (R478). -/

namespace Sys2Proof.Machine

/-! ## Translation -/

/-- What a translation answers: a frame address with its leaf's attribute byte, or a cause with the address that R636 logs. -/
inductive Tr where
  | ok (pa attr : Nat)
  | fault (cause addr : Nat)
  deriving DecidableEq, Repr

/-- The partition that owns a context of hub die h (R120). -/
def ctxPart (s : State) (h : Hub) (ctx : Nat) : Option Nat :=
  if 32 ≤ ctx then some (ctx - 32)
  else
    let e := mget {} (s.hub h).part.funcs ctx
    if e.bound then some e.part.toNat else none

/-- A table entry may be read at a frame address (R136): populated HBM or GDDR of this package that the context's partition
owns, and no poison. -/
def tableOk (s : State) (h : Hub) (ctx pa : Nat) : Bool :=
  decide (posOf pa = s.boot.pos.val) &&
    (match regionFor s (offOf pa) with
     | .hbm _ _ | .gddr _ _ =>
       (match regionHub (regionOf s (offOf pa)) with
        | some t =>
          (ctxPart s h ctx).isSome &&
            (decide (ctxPart s h ctx = ownerOf s h (frameHank s.boot.pos t)) ||
              decide (t = h ∧ (s.hub h).part.hank = .releasing)) &&
            !coherentPoison s (offOf pa)
        | none => false)
     | _ => false)

/-- The leaf that a walk finds for a device virtual address, or why it finds none: the walk from a table of the level whose index
begins at bit sh (R132–R134, R136).  The table address that a walk fault logs is the address of the entry read. (DEDUCED, log entry 24)
(DESIGN CHOICE, log entry 113) -/
def walkFrom (s : State) (h : Hub) (ctx va : Nat) : List Nat → Nat → Except (Nat × Nat) Held
  | [], _ => .error (cXltMiss, va)
  | sh :: rest, tbl =>
    let a := tbl + 8 * bits va sh 9
    if !tableOk s h ctx a then .error (cXltWalk, a)
    else
      let e := leNat (coherentBytes s (offOf a) 8)
      let addr := bits e 12 40 * 4096
      if !bit e 0 then .error (cXltMiss, va)
      else if bit e 1 then
        if sh = 39 then .error (cXltFormat, va)
        else if addr % 2 ^ sh ≠ 0 then .error (cXltFormat, va)
        else if bit e 5 && bit e 6 then .error (cXltAttr, va)
        else .ok { ctx := ctx, va := va - va % 2 ^ sh, sh := sh, pa := addr, attr := bits e 4 8, r := bit e 2, w := bit e 3 }
      else if sh = 12 then .error (cXltFormat, va)
      else walkFrom s h ctx va rest addr

/-- The leaf that the tables of context ctx of hub die h give a device virtual address now; a context that is disabled, or is being
disabled, gives none (R140). -/
def leafNow (s : State) (h : Hub) (ctx va : Nat) : Except (Nat × Nat) Held :=
  let c := mget {} (s.hub h).xlt.ctxs ctx
  if !c.en || c.disabling then .error (cXltMiss, va)
  else walkFrom s h ctx va [39, 30, 21, 12] (c.root.toNat * 4096)

/-- What a leaf answers an access (R134, R135). -/
def Held.answer (e : Held) (va : Nat) (rd wr : Bool) : Tr :=
  if (rd && !e.r) || (wr && !e.w) then .fault cXltPerm va else .ok (e.pa + (va - e.va)) e.attr

/-- Whether a translation is for an address of a context. -/
def Held.covers (e : Held) (ctx va : Nat) : Bool := decide (e.ctx = ctx ∧ e.va ≤ va ∧ va < e.va + 2 ^ e.sh)

/-- The answer that the tables give now. -/
def walkAnswer (s : State) (h : Hub) (ctx va : Nat) (rd wr : Bool) : Tr :=
  match leafNow s h ctx va with
  | .ok e => e.answer va rd wr
  | .error (c, a) => .fault c a

/-- The answers of held translations that have been changed or removed since (R138, R139). -/
def oldAnswers (s : State) (h : Hub) (ctx va : Nat) (rd wr : Bool) : List Tr :=
  (((s.hub h).xlt.held.filter fun e => e.covers ctx va).map fun e => e.answer va rd wr).filter fun t =>
    decide (t ≠ walkAnswer s h ctx va rd wr)

/-- The translation of a device virtual address by context ctx of hub die h (R132–R140, R663).  Where the XLT still holds a
translation that has been changed or removed, a free value says which of them the access uses (R139). (DESIGN CHOICE, log entry 8) -/
def xlate (s : State) (h : Hub) (ctx va : Nat) (rd wr : Bool) : Tr :=
  if 2 ^ 48 ≤ va then .fault cUnmapped va
  else
    let new := walkAnswer s h ctx va rd wr
    match oldAnswers s h ctx va rd wr with
    | [] => new
    | l => l.getD (Config.oldTranslation s.fresh) new

/-! ## Physical checks -/

/-- A span of an access after its checks: frame address, length, attributes. -/
structure Span where
  pa  : Nat
  n   : Nat
  acc : Acc
  deriving DecidableEq, Repr

/-- What the physical checks answer. -/
inductive Phys where
  | ok
  /-- not performed, with its cause and the address to log -/
  | bad (cause addr : Nat)
  /-- stopped by hub die h's firewall; fabric tells that h is the receiving hub -/
  | fw (h : Hub) (fabric : Bool) (kind addr : Nat)
  deriving DecidableEq, Repr

/-- Register and doorbell accesses are aligned and 4 or 8 bytes wide (R118). -/
def regSizeOk (o n : Nat) : Bool := decide ((n = 4 ∧ o % 4 = 0) ∨ (n = 8 ∧ o % 8 = 0))

/-- The checks of n bytes at frame address pa that lie in one 4 KiB page, for requester r: the frame map, the position, the
package window, the size, then the firewall. -/
def physCheck (s : State) (r : Requester) (pa n : Nat) : Phys :=
  if 8 * window ≤ pa then .bad cUnmapped pa
  else
    let o := offOf pa
    if posOf pa = s.boot.pos.val then
      let rg := if r = .prostoza then regionOf s o else regionFor s o
      if isReg o && !regSizeOk o n then .bad cSize pa
      else match rg with
      | .unmapped => .bad cUnmapped pa
      | .mram _ _ => if r = .prostoza then .ok else .fw (reqHub s r) false fwMemory pa
      | .bell q _ =>
        if bellAllows s r q then .ok else .fw (qHub q) false fwDoorbell pa
      | rg =>
        (match regionHub rg with
         | none => .bad cUnmapped pa
         | some h =>
           match fwStopLocal s r h with
           | none => .ok
           | some (i, f) => .fw i f (if f then fwFabric else if isReg o then fwRegister else fwMemory) pa)
    else
      match posState s (Fin.ofNat 8 (posOf pa)) with
      | .empty | .down => .bad cPosDown pa
      | _ =>
        match remoteHub o with
        | none => .bad cUnmapped pa
        | some h =>
          if isReg o && !regSizeOk o n then .bad cSize pa
          else if isMram o && r ≠ .prostoza then .fw (reqHub s r) false fwMemory pa
          else match fwStopRemote s r (posOf pa) h.val with
            | none => .ok
            | some i => .fw i false (if isReg o then fwRegister else fwMemory) pa

/-- What the checks of a whole access answer: its spans, or the first failure in ascending address. -/
inductive Chk where
  | ok (spans : List Span)
  | bad (cause addr : Nat)
  | fw (h : Hub) (fabric : Bool) (kind addr : Nat)
  deriving DecidableEq, Repr

/-- Spans in front of what the checks of the rest answer. -/
def Chk.cons (x : Span) : Chk → Chk
  | .ok l => .ok (x :: l)
  | c => c

/-- The checks of an access by device virtual address, page by page (R117–R140, R475, R663); sized tells that the whole access has
a size and alignment that registers take (R118). -/
def vaSpans (s : State) (h : Hub) (ctx : Nat) (r : Requester) (rd wr : Bool) (hint : Nat) (sized : Bool) : List (Nat × Nat) → Chk
  | [] => .ok []
  | (va, n) :: rest =>
    match xlate s h ctx va rd wr with
    | .fault c a => .bad c a
    | .ok pa attr =>
      match physCheck s r pa n with
      | .bad c a => .bad c a
      | .fw i f k a => .fw i f k a
      | .ok =>
        if isReg (offOf pa) && !sized then .bad cSize pa
        else (vaSpans s h ctx r rd wr hint sized rest).cons { pa := pa, n := n, acc := effAttr s pa attr hint }

/-- The checks of n bytes from device virtual address va in a context. -/
def vaCheck (s : State) (h : Hub) (ctx : Nat) (r : Requester) (rd wr : Bool) (hint va n : Nat) : Chk :=
  vaSpans s h ctx r rd wr hint (regSizeOk va n) (splitAt_ 4096 va n)

/-- The XLT holds the translation of an address of a context from now on, if it is valid (R138). -/
def holdLeaf (s : State) (h : Hub) (ctx va : Nat) : State :=
  match leafNow s h ctx va with
  | .ok e =>
    if (s.hub h).xlt.held.contains e then s
    else s.modHub h fun x => { x with xlt := { x.xlt with held := e :: x.xlt.held } }
  | .error _ => s

/-- An access has been translated: the XLT counts the pages it walked (R652) and holds their translations (R138); one that met old
translations has used its free value. -/
def countWalks (s : State) (h : Hub) (ctx va n : Nat) (fault : Bool) : State :=
  let p := pgKey h.val ixXlt
  let pages := splitAt_ 4096 va n
  let old := pages.any fun c => decide (oldAnswers s h ctx c.1 false false ≠ [])
  let s := pages.foldl (fun s c => holdLeaf s h ctx c.1) s
  let s := if old then { s with fresh := s.fresh + 1 } else s
  let s := (s.count p 0x080 pages.length).count p 0x090 pages.length
  if fault then s.count p 0x098 1 else s

/-- A violation is logged by the checking hub die; a receiving hub counts the discard (R477, R478); that of a host request is
an error of its XLT (R564; log entry 25).  The management function's
interrupt is the page's own (R634). -/
def logFw (s : State) (h : Hub) (fabric : Bool) (kind addr : Nat) (r : Requester) : State :=
  let s := fwViolation s h kind (reqTag s (reqHub s r) r) addr
  let s := match r with
    | .function _ => report s (pgKey (reqHub s r).val ixXlt) 1 cFirewall 0 (reqTag s (reqHub s r) r) addr addr
    | _ => s
  if fabric then s.count (pgKey h.val ixHub) 0x088 1 else s

/-- The physical bytes of spans, in order, as pairs of frame address and length cut at 64-byte boundaries (R297). -/
def spanPieces (l : List Span) : List (Nat × Nat × Acc) :=
  l.flatMap fun x => (splitAt_ 64 x.pa x.n).map fun c => (c.1, c.2, x.acc)

/-- Whether a frame address lies in this package. -/
def isLocal (s : State) (pa : Nat) : Bool := decide (posOf pa = s.boot.pos.val)

end Sys2Proof.Machine
end

