-- ==== Sys2Proof/Machine/Governor.lean ====
section
/-! DEFINITION. The load-step governor (R86–R102): power, the gate, ballast, the emergency cut and the update; and the stall
account of a command (R168), which both the governor and the queues write. -/

namespace Sys2Proof.Machine

/-! ## The account of delays (R96, R168) -/

/-- Time so far attributed to a cause that still runs is closed at cycle t. -/
def Cmd.endStall (c : Cmd) (t : Nat) : Cmd :=
  match c.stallNow with
  | none => c
  | some (k, since) =>
    { c with stall := mput 0 k (mget 0 c.stall k + (t - since)) c.stall, stallNow := none }

/-- From cycle t the command is delayed by a cause; the same cause goes on running. -/
def Cmd.beginStall (c : Cmd) (cause t : Nat) : Cmd :=
  match c.stallNow with
  | some (k, _) => if k = cause then c else { c.endStall t with stallNow := some (cause, t) }
  | none => { c with stallNow := some (cause, t) }

/-- The admitted command of queue q with sequence number seq. -/
def findCmd (s : State) (q : QIdx) (seq : W32) : Option Cmd := (s.queue q).cmds.find? fun c => c.seq = seq
/-- The command of queue q with c's sequence number becomes c. -/
def putCmd (s : State) (q : QIdx) (c : Cmd) : State :=
  s.modQueue q fun x => { x with cmds := x.cmds.map fun y => if y.seq = c.seq then c else y }

/-- A change of the command of queue q with sequence number seq. -/
def State.modCmd (s : State) (q : QIdx) (seq : W32) (f : Cmd → Cmd) : State :=
  s.modQueue q fun x => { x with cmds := x.cmds.map fun y => if y.seq = seq then f y else y }
/-- The command as it stands now. -/
def State.cmdNow (s : State) (q : QIdx) (c : Cmd) : Cmd := (findCmd s q c.seq).getD c

/-! ## Power (R88, R94) -/

/-- The commands of a queue that draw power: running until they end, or dispatched and about to start (R88). -/
def drawing (c : Cmd) : Bool := decide (c.phase = .running) || c.granted
/-- Every command of a hank, with its queue. -/
def hubCmds (s : State) (h : Hub) : List (QIdx × Cmd) :=
  s.queues.flatMap fun (k, x) =>
    let q : QIdx := Fin.ofNat 1024 k
    if qHub q = h then x.cmds.map fun c => (q, c) else []
/-- Running power of a hank in tenths of a watt (R88). (DESIGN CHOICE, log entry 17) -/
def runningPower (s : State) (h : Hub) : Nat :=
  10 * (s.hub h).gov.bg + 10 * (((hubCmds s h).filter fun p => drawing p.2).map fun p => p.2.pwr).sum
/-- The commands that the governor holds, in the order it considers them: by class, then by admission (R89). -/
def heldCmds (s : State) (h : Hub) : List (QIdx × Cmd) :=
  sortBy (fun a b => decide (a.2.cls < b.2.cls ∨ (a.2.cls = b.2.cls ∧ a.2.ord ≤ b.2.ord)))
    ((hubCmds s h).filter fun p => decide (p.2.phase = .held))
/-- The hank demand D (R88). -/
def demand (s : State) (h : Hub) : Nat := runningPower s h + 10 * ((heldCmds s h).map fun p => p.2.pwr).sum

/-- The governor's step in effect, per-mille of GOV_PMAX (R86). -/
def effStep (g : Gov) : Nat := min g.step g.fcStep
/-- The hank step S in tenths of a watt: step × 2,400 W / 1,000 / 2. (DEDUCED, log entry 31) -/
def hankStep (g : Gov) : Nat := 12 * effStep g
/-- The hank maximum, 1,200 W. -/
def hankMax : Nat := 12000
/-- The cut level in tenths of a watt (R97, R101). -/
def cutDw (g : Gov) : Nat := 12 * (if g.cutFc then min g.cutLevel g.fcLevel else g.cutLevel)
/-- The ceiling C (R88). -/
def ceiling (g : Gov) : Nat := if g.cutActive then cutDw g else hankMax
/-- The floor F (R88). -/
def floorDw (g : Gov) : Nat := if g.cutActive then 0 else 10 * g.c0Reserve

/-- GOV_PWR_EST in tenths of a watt: running power, which reduced clocks keep at or below the target, or what ballast keeps
(R91, R93, R94, R97). (DEDUCED, log entry 32) -/
def pwrEst (s : State) (h : Hub) : Nat :=
  let g := (s.hub h).gov
  let w := if g.slowed then min (runningPower s h) g.target else runningPower s h
  if g.ballast then max w (g.target - hankStep g) else w

/-- The page of the governor of hub die h. -/
def govPage (h : Hub) : Nat := pgKey h.val ixGov
/-- The governor of hub die h changed by f. -/
def State.modGov (s : State) (h : Hub) (f : Gov → Gov) : State := s.modHub h fun x => { x with gov := f x.gov }

/-- Ballast runs from where running work falls below T − S until the half-cycle ends, where FALL_EN is 1 and no cut is in effect
(R93, R98).  Whatever changes running work, FALL_EN or the cut looks at it. -/
def govBallast (s : State) (h : Hub) : State :=
  let g := (s.hub h).gov
  let on := g.fallEn && !g.cutActive && (g.ballast || decide (runningPower s h < g.target - hankStep g))
  if on = g.ballast then s else s.modGov h fun g => { g with ballast := on }

/-! ## The gate (R89–R92) -/

/-- A class-0 command within its reservation passes without gating outside a cut (R92, R98). -/
def ungated (g : Gov) (c : Cmd) : Bool := c.c0res && !g.cutActive

/-- A command whose estimated power alone exceeds the highest target that can be reached, the ceiling (R91). (DEDUCED, log entry 31) -/
def oversize (s : State) (h : Hub) (c : Cmd) : Bool := decide (ceiling (s.hub h).gov < 10 * c.pwr)

/-- Whether the governor dispatches a gated command now: with the hank's running power it fits the target; or it alone exceeds
the highest target, no other command of the hank runs and the target has reached that highest value (R89, R91). -/
def gateFits (s : State) (h : Hub) (c : Cmd) : Bool :=
  let g := (s.hub h).gov
  decide (runningPower s h + 10 * c.pwr ≤ g.target) ||
    (oversize s h c && !((hubCmds s h).any fun p => drawing p.2) && decide (ceiling g ≤ g.target))

/-- The command of queue q becomes c; one that the governor delays, held or slowed, is counted in CMDS_THROTTLED the first time
(R96). -/
def putThrottled (s : State) (q : QIdx) (c : Cmd) : State :=
  if !c.thr && decide ((c.stallNow.map (·.1)) = some cThrottleLine) then
    (putCmd s q { c with thr := true }).count (govPage (qHub q)) 0x080 1
  else putCmd s q c

/-- Clocks are reduced from now: the running commands of the hank are slowed (R95–R97). -/
def slowClocks (s : State) (h : Hub) : State :=
  if (s.hub h).gov.slowed then s
  else
    let s := s.modGov h fun g => { g with slowed := true }
    (hubCmds s h).foldl (fun s p =>
      if p.2.phase = .running ∧ p.2.stallNow = none then putThrottled s p.1 (p.2.beginStall cThrottleLine s.now) else s) s

/-- A gated command that exceeds the highest target runs with clocks reduced (R91). -/
def runOversize (s : State) (h : Hub) (q : QIdx) (c : Cmd) : State :=
  if ungated (s.hub h).gov c || !oversize s h c then s
  else slowClocks (s.modGov h fun g => { g with slowCmd := some (q.val, c.seq.toNat) }) h

/-- The µs so far with clocks that a cut reduced are counted in CUT_US of the hank's tensor dies (R648). (DEDUCED, log entry 32) -/
def countCutUs (s : State) (h : Hub) : State :=
  let g := (s.hub h).gov
  if !g.byCut then s
  else
    let us_ := (s.now - g.cutSince) / 100
    let d := us_ - g.cutUs
    let s := s.modGov h fun g => { g with cutUs := us_ }
    (List.range 4).foldl (fun s k => s.count (pgKey (4 + 4 * h.val + k) ixTdc) 0x080 d) s

/-- A held command is dispatched: its hold ends and it may start (R89). -/
def dispatch (s : State) (h : Hub) (q : QIdx) (c : Cmd) : State :=
  runOversize (putCmd s q { c.endStall s.now with phase := .ready, granted := true }) h q c

/-- Held commands are dispatched in order while they fit; one that does not holds back the later ones of its class, but none that
is not gated (R89, R92). -/
def dispatchHeld (s : State) (h : Hub) : State :=
  ((heldCmds s h).foldl (fun (acc : State × List Nat) p =>
    if ungated (acc.1.hub h).gov p.2 || (!acc.2.contains p.2.cls && gateFits acc.1 h p.2) then (dispatch acc.1 h p.1 p.2, acc.2)
    else (acc.1, p.2.cls :: acc.2)) (s, [])).1

/-- Whether a command that is ready to start passes the gate at this moment, no held command of its class being before it. -/
def gatePasses (s : State) (h : Hub) (c : Cmd) : Bool :=
  c.granted || ungated (s.hub h).gov c ||
    (!((heldCmds s h).any fun p => decide (p.2.cls = c.cls ∧ p.2.ord < c.ord)) && gateFits s h c)

/-- The governor holds a command that is ready to start (R89, R90, R96). -/
def hold (s : State) (q : QIdx) (c : Cmd) : State :=
  if c.phase = .held then s
  else putThrottled s q { c.beginStall cThrottleLine s.now with phase := .held }

/-! ## The emergency cut (R97–R100) -/

/-- Whether a source asserts a cut. -/
def cutAsserted (g : Gov) : Bool := g.cutPwr || g.cutFc || g.cutSw

/-- Whatever asserts a cut has changed: on entry, or where the level fell, the target falls to the level at once, and clocks are
reduced where the hank's power lies above it; power at or below the target needs no reduction (R97). (DEDUCED, log entry 32) -/
def cutApply (s : State) (h : Hub) : State :=
  let g := (s.hub h).gov
  if !cutAsserted g && !g.cutActive then s
  else
    let entering := !g.cutActive
    let s := s.modGov h fun g => { g with cutActive := true, ballast := false, target := min g.target (cutDw g) }
    let s := if entering then (s.event (govPage h) 0).count (govPage h) 0x098 1 else s
    if (s.hub h).gov.target < runningPower s h then
      (slowClocks s h).modGov h fun g => if g.byCut then g else { g with byCut := true, cutSince := s.now, cutUs := 0 }
    else s

/-- The target after an update (R88). -/
def nextTarget (g : Gov) (d : Nat) : Nat :=
  let t := g.target
  let st := hankStep g
  let c := ceiling g
  let f := floorDw g
  if t < d then min c (t + st)
  else if t < f then min c (min f (t + st))
  else max d (max (t - st) f)

/-- A governor update with the background power that the supply monitor gives (R88, R89, R93, R99). -/
def govUpdate (s : State) (h : Hub) (bg : Nat) : State :=
  let p := govPage h
  let fc := (s.hub h).gov.fcNext
  let changed := fc.isSome && decide (fc ≠ some (s.hub h).gov.fcStep)
  let s := s.modGov h fun g => { g with bg := bg, ballast := false
                                        fcStep := g.fcNext.getD g.fcStep, fcNext := none }
  let s := if changed then s.event p 2 else s
  let g := (s.hub h).gov
  let s := if g.cutActive && !cutAsserted g then (s.modGov h fun g => { g with cutActive := false }).event p 1 else s
  let d := demand s h
  let s := if (s.hub h).gov.target < d then s.count p 0x0A0 1 else s
  let lt := s.lts
  let s := s.modGov h fun g => { g with upd := some (lt, g.target, d), target := min (ceiling g) (nextTarget g d) }
  govBallast (dispatchHeld s h) h

/-- Dispatched commands that have not started are held again, to be gated anew. -/
def regate (s : State) (h : Hub) : State :=
  (hubCmds s h).foldl (fun s p =>
    if p.2.granted && decide (p.2.phase = .ready) then hold s p.1 { p.2 with granted := false } else s) s

/-- PWR_WARN asserts the cut.  On the LT of a governor update the cut comes first: the update computes from the cut target, and what it
dispatched and has not started is gated by the new one (R97, R100). -/
def cutPower (s : State) (h : Hub) : State :=
  let g := (s.hub h).gov
  let s := s.modGov h fun g => { g with cutPwr := true }
  match g.upd with
  | some (lt, t0, d) =>
    if g.cutActive ∨ lt ≠ s.lts then cutApply s h
    else
      let g1 : Gov := { g with cutActive := true, target := min t0 (cutDw g) }
      let s := if g1.target < d ∧ d ≤ t0 then s.count (govPage h) 0x0A0 1 else s
      let s := regate (s.modGov h fun x => { x with target := min (ceiling g1) (nextTarget g1 d) }) h
      dispatchHeld (cutApply s h) h
  | none => cutApply s h

/-- The clock and voltage change of a hank: reduced clocks are restored when no cut is in effect and no command runs under R91
(R95). -/
def dvfsAct (s : State) (h : Hub) : State :=
  let g := (s.hub h).gov
  if !g.slowed || g.cutActive || g.slowCmd.isSome then s
  else
    let s := (countCutUs s h).modGov h fun g => { g with slowed := false, byCut := false }
    (hubCmds s h).foldl (fun s p =>
      match p.2.stallNow with
      | some (k, _) => if k = cThrottleLine ∧ p.2.phase = .running then putCmd s p.1 (p.2.endStall s.now) else s
      | none => s) s

/-- What one LT adds to the governor's counters: LT of hold and slowing, LT of ballast, µs of reduced clocks (R96). -/
def govLt (s : State) (h : Hub) : State :=
  let p := govPage h
  let n := ((hubCmds s h).filter fun x =>
    decide (x.2.phase = .held) || ((s.hub h).gov.slowed && decide (x.2.phase = .running))).length
  let s := if n = 0 then s else s.count p 0x088 n
  let s := if (s.hub h).gov.ballast then s.count p 0x090 1 else s
  countCutUs s h

end Sys2Proof.Machine
end

