-- ==== Sys2Proof/Machine/Flags.lean ====
section
/-! DEFINITION. Numeric formats, exact values, rounding and the numeric flags (chapter 6, R234–R257, R662). -/

namespace Sys2Proof.Machine

/-! ## Flags (R165, R256) -/

def fNV : Nat := 1
def fOF : Nat := 2
def fUF : Nat := 4
def fNX : Nat := 8
def fST : Nat := 16
def fDI : Nat := 32

/-- Sticky union of flags (R170). -/
def orF (a b : Nat) : Nat := a ||| b

/-! ## Exact values -/

/-- A number as a format holds it: m × 2^e with m > 0, or a special. -/
inductive FV where
  | nan (signalling : Bool)
  | inf (neg : Bool)
  | zero (neg : Bool)
  | fin (neg : Bool) (m : Nat) (e : Int)
  deriving DecidableEq, Repr

/-- A binary format: exponent and mantissa bits and bias; sat is E4M3, whose largest exponent holds numbers and which has no
infinity (R235); small is E2M1, which has neither (R236). -/
structure FFmt where
  eb    : Nat
  mb    : Nat
  bias  : Nat
  sat   : Bool := false
  small : Bool := false
  deriving DecidableEq, Repr

def f32 : FFmt := { eb := 8, mb := 23, bias := 127 }
def f16 : FFmt := { eb := 5, mb := 10, bias := 15 }
def bf16 : FFmt := { eb := 8, mb := 7, bias := 127 }
def e4m3 : FFmt := { eb := 4, mb := 3, bias := 7, sat := true }
def e5m2 : FFmt := { eb := 5, mb := 2, bias := 15 }
def e2m1 : FFmt := { eb := 2, mb := 1, bias := 1, small := true }

/-- Exponent of the smallest normal number. -/
def FFmt.emin (f : FFmt) : Int := 1 - (f.bias : Int)
/-- Exponent of the largest finite number. -/
def FFmt.emax (f : FFmt) : Int :=
  if f.sat || f.small then (2 ^ f.eb - 1 : Int) - f.bias else (2 ^ f.eb - 2 : Int) - f.bias

/-- The number that w spells in a format, and whether it is subnormal there (R234–R236). -/
def FFmt.decode (f : FFmt) (w : Nat) : FV × Bool :=
  let neg := bit w (f.eb + f.mb)
  let e := bits w f.mb f.eb
  let m := bits w 0 f.mb
  if e = 0 then
    if m = 0 then (.zero neg, false) else (.fin neg m (f.emin - f.mb), true)
  else if !f.small && !f.sat && decide (e = 2 ^ f.eb - 1) then
    if m = 0 then (.inf neg, false) else (.nan (!bit m (f.mb - 1)), false)
  else if f.sat && decide (e = 2 ^ f.eb - 1 ∧ m = 2 ^ f.mb - 1) then (.nan false, false)
  else (.fin neg (2 ^ f.mb + m) ((e : Int) - f.bias - f.mb), false)

/-- The positive canonical NaN of a format (R251). -/
def FFmt.nan (f : FFmt) : Nat := if f.sat then 0x7F else (2 ^ f.eb - 1) * 2 ^ f.mb + 2 ^ (f.mb - 1)
/-- An encoding with its sign. -/
def FFmt.sign (f : FFmt) (neg : Bool) (w : Nat) : Nat := if neg then w + 2 ^ (f.eb + f.mb) else w
/-- Infinity, without sign. -/
def FFmt.infw (f : FFmt) : Nat := (2 ^ f.eb - 1) * 2 ^ f.mb
/-- The largest finite number, without sign. -/
def FFmt.maxw (f : FFmt) : Nat := if f.sat then 0x7E else f.infw - 1

/-! ## Rounding (R239, R241, R248, R249) -/

/-- num/den × 2^e as a fraction of naturals. -/
def scaleQ (num den : Nat) (e : Int) : Nat × Nat :=
  if 0 ≤ e then (num * 2 ^ e.toNat, den) else (num, den * 2 ^ (-e).toNat)

/-- floor(log2(num/den)) for a positive fraction. -/
def log2Q (num den : Nat) : Int :=
  let d : Int := (Nat.log2 num : Int) - Nat.log2 den
  let p := scaleQ den 1 d
  if num * p.2 < p.1 then d - 1 else d

/-- num/den rounded to an integer, and whether that changed it: to nearest even, or toward zero. -/
def roundQ (rz : Bool) (num den : Nat) : Nat × Bool :=
  let q := num / den
  let r := num % den
  if r = 0 then (q, false)
  else if rz then (q, true)
  else if 2 * r < den then (q, true)
  else if den < 2 * r then (q + 1, true)
  else (if q % 2 = 0 then q else q + 1, true)

/-- A finite non-zero magnitude num/den rounded into a format: the encoding and its flags (R241, R247–R249). -/
def FFmt.round (f : FFmt) (rz ftz neg : Bool) (num den : Nat) : Nat × Nat :=
  let x := log2Q num den
  -- rounded as though the exponent range were unbounded
  let u := let p := scaleQ num den ((f.mb : Int) - x); roundQ rz p.1 p.2
  let x' := if u.1 = 2 ^ (f.mb + 1) then x + 1 else x
  if f.sat && decide (448 * den < num) then (f.sign neg 0x7E, fST + fNX)
  else if x' < f.emin then
    -- tiny after rounding
    let p := scaleQ num den ((f.mb : Int) - f.emin)
    let q := roundQ rz p.1 p.2
    if ftz then (f.sign neg 0, fUF + fNX)
    else (f.sign neg q.1, if q.2 then fUF + fNX else 0)
  else if f.emax < x' then
    (f.sign neg (if rz then f.maxw else f.infw), fOF + fNX)
  else
    let m := if u.1 = 2 ^ (f.mb + 1) then 2 ^ f.mb else u.1
    (f.sign neg ((x' + f.bias).toNat * 2 ^ f.mb + (m - 2 ^ f.mb)), if u.2 then fNX else 0)

/-- An exact value put into a format (R248, R249, R251). -/
def FFmt.put (f : FFmt) (rz ftz : Bool) : FV → Nat × Nat
  | .nan _ => (f.nan, 0)
  | .inf neg => if f.sat then (f.sign neg 0x7E, fST) else (f.sign neg f.infw, 0)
  | .zero neg => (f.sign neg 0, 0)
  | .fin neg m e => let p := scaleQ m 1 e; f.round rz ftz neg p.1 p.2

/-! ## Exact operations -/

/-- A signed exact value over 2^e. -/
def FV.toInt (v : FV) (e0 : Int) : Int :=
  match v with
  | .fin neg m e => let x : Int := (m * 2 ^ (e - e0).toNat : Nat); if neg then -x else x
  | _ => 0
def FV.exp : FV → Int
  | .fin _ _ e => e
  | _ => 0
def FV.isNan : FV → Bool
  | .nan _ => true
  | _ => false
def FV.isSnan : FV → Bool
  | .nan s => s
  | _ => false
def FV.neg : FV → FV
  | .nan s => .nan s
  | .inf n => .inf (!n)
  | .zero n => .zero (!n)
  | .fin n m e => .fin (!n) m e

/-- NV for signalling operands (R252). -/
def snanF (a b : FV) : Nat := if a.isSnan || b.isSnan then fNV else 0

/-- The exact sum, with NV for an invalid operation (R242, R252). -/
def addX (a b : FV) : FV × Nat :=
  match a, b with
  | .nan _, _ | _, .nan _ => (.nan false, snanF a b)
  | .inf n, .inf k => if n = k then (.inf n, 0) else (.nan false, fNV)
  | .inf n, _ => (.inf n, 0)
  | _, .inf k => (.inf k, 0)
  | .zero n, .zero k => (.zero (n && k), 0)
  | .zero _, v => (v, 0)
  | v, .zero _ => (v, 0)
  | .fin _ _ e, .fin _ _ k =>
    let e0 := min e k
    let x := a.toInt e0 + b.toInt e0
    if x = 0 then (.zero false, 0) else (.fin (decide (x < 0)) x.natAbs e0, 0)

/-- The exact product, with NV for an invalid operation (R252). -/
def mulX (a b : FV) : FV × Nat :=
  let sg (n k : Bool) : Bool := n != k
  match a, b with
  | .nan _, _ | _, .nan _ => (.nan false, snanF a b)
  | .inf _, .zero _ | .zero _, .inf _ => (.nan false, fNV)
  | .inf n, .inf k => (.inf (sg n k), 0)
  | .inf n, .fin k _ _ => (.inf (sg n k), 0)
  | .fin n _ _, .inf k => (.inf (sg n k), 0)
  | .zero n, .zero k => (.zero (sg n k), 0)
  | .zero n, .fin k _ _ => (.zero (sg n k), 0)
  | .fin n _ _, .zero k => (.zero (sg n k), 0)
  | .fin n m e, .fin k p j => (.fin (sg n k) (m * p) (e + j), 0)

/-! ## FP32 operations on encodings -/

/-- An FP32 number and the flags raised on the way to it. -/
abbrev FR := Nat × Nat

/-- The value of an FP32 encoding. -/
def v32 (w : Nat) : FV := (f32.decode w).1
/-- An exact value rounded to FP32, with flags raised before. -/
def put32 (rz ftz : Bool) (x : FV × Nat) : FR := let r := f32.put rz ftz x.1; (r.1, orF x.2 r.2)

/-- FP32 addition, subtraction and multiplication, rounded once. -/
def add32 (rz ftz : Bool) (a b : Nat) : FR := put32 rz ftz (addX (v32 a) (v32 b))
def sub32 (rz ftz : Bool) (a b : Nat) : FR := put32 rz ftz (addX (v32 a) (v32 b).neg)
def mul32 (rz ftz : Bool) (a b : Nat) : FR := put32 rz ftz (mulX (v32 a) (v32 b))

/-- FP32 division, correctly rounded (R420, R441).  A finite number over zero is an infinity with OF (R254). (DEDUCED, log entry 74) -/
def div32 (rz ftz : Bool) (a b : Nat) : FR :=
  let x := v32 a
  let y := v32 b
  let sg (n k : Bool) : Bool := n != k
  match x, y with
  | .nan _, _ | _, .nan _ => (f32.nan, snanF x y)
  | .inf _, .inf _ | .zero _, .zero _ => (f32.nan, fNV)
  | .inf n, .fin k _ _ | .inf n, .zero k => (f32.sign (sg n k) f32.infw, 0)
  | .fin n _ _, .inf k | .zero n, .inf k | .zero n, .fin k _ _ => (f32.sign (sg n k) 0, 0)
  | .fin n _ _, .zero k => (f32.sign (sg n k) f32.infw, fOF)
  | .fin n m e, .fin k p j =>
    let q := scaleQ m p (e - j)
    f32.round rz ftz (sg n k) q.1 q.2

/-- −1, 0 or 1 as a is below, equal to or above b; −0 is below +0 (R253).  For numbers that are not NaN. -/
def cmpFV (a b : FV) : Ordering :=
  let key (v : FV) : Int := match v with
    | .inf n => if n then -3 else 3
    | .zero n => if n then -1 else 0
    | .fin n _ _ => if n then -2 else 2
    | .nan _ => 0
  match a, b with
  | .fin _ _ e, .fin _ _ k => compare (a.toInt (min e k)) (b.toInt (min e k))
  | _, _ => compare (key a) (key b)

/-- The IEEE 754-2019 maximum or minimum of FP32 encodings (R253). -/
def maxMin32 (wantMax : Bool) (a b : Nat) : FR :=
  let x := v32 a
  let y := v32 b
  if x.isNan || y.isNan then (f32.nan, snanF x y)
  else
    let o := cmpFV x y
    (if wantMax then (if o = .lt then b else a) else (if o = .gt then b else a), 0)
def max32 := maxMin32 true
def min32 := maxMin32 false

/-! ## The exact functions (R255, R662) -/

/-- Fraction bits of the fixed-point bounds below: far beyond what tells two roundings of these functions apart. -/
def expBits : Nat := 640

/-- The Taylor sum of e^x in fixed point, from term i with value term, for x ≥ 0. -/
def expSum (x : Nat) : Nat → Nat → Nat → Nat → Nat
  | 0, _, _, acc => acc
  | fuel + 1, i, term, acc =>
    if term = 0 then acc
    else
      let t := term * x / 2 ^ expBits / i
      expSum x fuel (i + 1) t (acc + t)

/-- e^(m × 2^e) for a positive argument of at most 128, in units of 2^-expBits. -/
def expFix (m : Nat) (e : Int) : Nat :=
  let p := scaleQ (m * 2 ^ expBits) 1 e
  expSum (p.1 / p.2) 2000 1 (2 ^ expBits) (2 ^ expBits)

/-- Whether m × 2^e exceeds a bound. -/
def above (m : Nat) (e : Int) (b : Nat) : Bool := let p := scaleQ m 1 e; decide (b * p.2 < p.1)

/-- A number just above or below num/den, nearer than any rounding can tell. -/
def nudge (up : Bool) (num den : Nat) : Nat × Nat :=
  let k := 2 ^ expBits
  (if up then num * k + 1 else num * k - 1, den * k)

/-- e^x of an exact value, rounded once (R255, R662).  softmax tells that a NaN argument is invalid (R252). -/
def exp32 (rz ftz softmax : Bool) (a : Nat) : FR :=
  match v32 a with
  | .nan s => (f32.nan, if s || softmax then fNV else 0)
  | .inf neg => (if neg then 0 else f32.infw, 0)
  | .zero _ => (0x3F800000, 0)
  | .fin neg m e =>
    if above m e 120 then
      if neg then f32.round rz ftz false 1 (2 ^ 170)
      else f32.round rz ftz false (2 ^ 170) 1
    else
      let y := expFix m e
      -- the number lies strictly between y and y + 2^20 units
      let num := y * 2 + 1
      let den := 2 ^ (expBits + 1)
      if neg then f32.round rz ftz false den num else f32.round rz ftz false num den

/-- x / (1 + e^−x), rounded once (R255, R662). -/
def silu32 (rz ftz : Bool) (a : Nat) : FR :=
  match v32 a with
  | .nan s => (f32.nan, if s then fNV else 0)
  | .inf neg => (if neg then 0x80000000 else f32.infw, 0)
  | .zero neg => (f32.sign neg 0, 0)
  | .fin neg m e =>
    let p := scaleQ m 1 e
    if above m e 150 then
      if neg then f32.round rz ftz true 1 (2 ^ 200)
      else let q := nudge false p.1 p.2; f32.round rz ftz false q.1 q.2
    else
      -- with y = e^|x|: x > 0 gives x·y/(1 + y), x < 0 gives x/(1 + y)
      let y := expFix m e * 2 + 1
      let one := 2 ^ (expBits + 1)
      if neg then f32.round rz ftz true (p.1 * one) (p.2 * (one + y))
      else f32.round rz ftz false (p.1 * y) (p.2 * (one + y))

/-- 1/x, rounded once (R254, R255, R662). -/
def recip32 (rz ftz : Bool) (a : Nat) : FR :=
  match v32 a with
  | .nan s => (f32.nan, if s then fNV else 0)
  | .inf neg => (f32.sign neg 0, 0)
  | .zero neg => (f32.sign neg f32.infw, fOF)
  | .fin neg m e => let p := scaleQ 1 m (-e); f32.round rz ftz neg p.1 p.2

/-- 1/√x, rounded once (R252, R254, R255, R662). -/
def rsqrt32 (rz ftz : Bool) (a : Nat) : FR :=
  match v32 a with
  | .nan s => (f32.nan, if s then fNV else 0)
  | .inf neg => if neg then (f32.nan, fNV) else (0, 0)
  | .zero neg => (f32.sign neg f32.infw, fOF)
  | .fin true _ _ => (f32.nan, fNV)
  | .fin false m e =>
    -- x = m' × 4^k; 1/√x = √(4^160/m') / 2^160 / 2^k
    let m' := if e % 2 = 0 then m else 2 * m
    let k := if e % 2 = 0 then e / 2 else (e - 1) / 2
    let n := 2 ^ 320 / m'
    let r := Nat.sqrt n
    let exact := n * m' = 2 ^ 320 ∧ r * r = n
    let num := if exact then 2 * r else 2 * r + 1
    let q := scaleQ num (2 ^ 161) (-k)
    f32.round rz ftz false q.1 q.2

/-- The larger of A and +0 (R218, R662). -/
def relu32 (a : Nat) : FR :=
  match v32 a with
  | .nan s => (f32.nan, if s then fNV else 0)
  | .inf neg | .fin neg _ _ => (if neg then 0 else a, 0)
  | .zero _ => (0, 0)

/-! ## Elements of memory (R205, R206, R247) -/

/-- The binary format of a format code, FP32 to FP4 (R205); codes 6–8 are the MX forms of 3, 4 and 5. -/
def fmtOf : Nat → FFmt
  | 0 => f32 | 1 => f16 | 2 => bf16 | 3 => e4m3 | 4 => e5m2 | 5 => e2m1 | 6 => e4m3 | 7 => e5m2 | _ => e2m1
/-- Element size in bits. -/
def elemBits : Nat → Nat
  | 0 => 32 | 1 => 16 | 2 => 16 | 5 => 4 | 8 => 4 | 10 => 4 | _ => 8

/-- An element as an exact value, with NV for none and DI where it is subnormal; under FTZ a subnormal is a zero. -/
def elemV (ftz : Bool) (fmt w : Nat) : FV × Nat :=
  let d := (fmtOf fmt).decode w
  if d.2 then ((if ftz then (match d.1 with | .fin n _ _ => .zero n | v => v) else d.1), fDI) else (d.1, 0)

/-- A two's-complement integer of n bits. -/
def sint (n w : Nat) : Int := if w < 2 ^ (n - 1) then (w : Int) else (w : Int) - 2 ^ n

/-- An integer as an exact value. -/
def intFV (x : Int) : FV := if x = 0 then .zero false else .fin (decide (x < 0)) x.natAbs 0

/-- An FP32 result put into a destination format of codes 0–4 (R248, R249): encoding and flags. -/
def outElem (rz ftz : Bool) (fmt w : Nat) : Nat × Nat :=
  if fmt = 0 then
    match v32 w with
    | .nan _ => (f32.nan, 0)
    | .fin n m e => f32.put rz ftz (.fin n m e)
    | _ => (w, 0)
  else (fmtOf fmt).put rz ftz (v32 w)

/-- The bytes of an element of a byte-sized format. -/
def elemBytes (fmt w : Nat) : List Byte := leBytes (elemBits fmt / 8) w

end Sys2Proof.Machine
end

