-- ==== Sys2Proof/Machine/Operands.lean ====
section
/-! DEFINITION. The bytes of a command: entry, header, body words and tile descriptors (R189–R209, R669), the checks of R202 and
the cost estimate (R231). -/

namespace Sys2Proof.Machine

/-! ## Entry and header (R189–R195) -/

/-- The header of an entry (R195); what a DX1 header does not encode is zero (R190). -/
structure Hdr where
  opcode    : Nat
  acq       : Bool
  rel       : Bool
  knot      : Bool
  fence     : Bool
  stepStart : Bool
  stepEnd   : Bool
  cls       : Nat
  hint      : Nat
  ftz       : Bool
  rz        : Bool
  subop     : Nat
  ind       : Bool
  cost      : Nat
  knotId    : Nat
  knotSeq   : Nat
  reserved  : Bool
  deriving DecidableEq, Repr

/-- The header of an entry's bytes. -/
def hdrOf (dx2 : Bool) (e : List Byte) : Hdr :=
  let b1 := leAt e 1 1
  let b2 := leAt e 2 1
  let b3 := leAt e 3 1
  { opcode := leAt e 0 1
    acq := bit b1 0, rel := bit b1 1, knot := bit b1 2, fence := bit b1 3, stepStart := bit b1 4, stepEnd := bit b1 5
    cls := bits b2 0 2, hint := bits b2 2 2, ftz := bit b2 4, rz := bit b2 5
    subop := bits b3 0 7, ind := bit b3 7, cost := leAt e 4 2
    knotId := if dx2 then leAt e 8 2 else 0, knotSeq := if dx2 then leAt e 12 4 else 0
    reserved := decide (bits b1 6 2 ≠ 0 ∨ bits b2 6 2 ≠ 0 ∨ leAt e 6 2 ≠ 0 ∨ (dx2 ∧ leAt e 10 2 ≠ 0)) }

/-- The header of an admitted command. -/
def Cmd.hdr (c : Cmd) : Hdr := hdrOf c.dx2 c.entry

/-- The body words that the entry itself holds: W0–W5 of DX2, W0–W2 and zeros of DX1 (R189, R190). -/
def entryWords (dx2 : Bool) (e : List Byte) : List Nat :=
  if dx2 then (List.range 6).map fun i => leAt e (16 + 8 * i) 8
  else ((List.range 3).map fun i => leAt e (8 + 8 * i) 8) ++ [0, 0, 0]

/-- The words of a 48-byte operand block (R191). -/
def blockWords (b : List Byte) : List Nat := (List.range 6).map fun i => leAt b (8 * i) 8

/-- Whether the command is in indirect form (R191). -/
def Cmd.indirect (c : Cmd) : Bool := !c.dx2 && c.hdr.ind

/-- The body words of a command as far as they are known. -/
def Cmd.words (c : Cmd) : List Nat :=
  match c.body with
  | some w => w.map (·.toNat)
  | none => entryWords c.dx2 c.entry

/-- Word i of a body. -/
def wd (w : List Nat) (i : Nat) : Nat := w.getD i 0

/-! ## Opcodes (R200) -/

def opNop : Nat := 0x00
def opWait : Nat := 0x01
def opSignal : Nat := 0x02
def opFence : Nat := 0x03
def opStep : Nat := 0x04
def opMatmul : Nat := 0x08
def opRb : Nat := 0x09
def opVec : Nat := 0x0A
def opCopy : Nat := 0x10
def opGather : Nat := 0x11
def opScatter : Nat := 0x12
def opFill : Nat := 0x13
def opAtomic : Nat := 0x14
def opStore : Nat := 0x16
def opCreel : Nat := 0x18
def opCombine : Nat := 0x20
def opAttn : Nat := 0x28
def opInsert : Nat := 0x30
def opLookup : Nat := 0x31
def opBall : Nat := 0x32
def opKnn : Nat := 0x33
def opRulebook : Nat := 0x34

/-- The opcodes that the engine with an engine id accepts (R200). -/
def accepts (eng op : Nat) : Bool :=
  decide (op ≤ 4) ||
  (if eng < 4 then decide (op = opMatmul ∨ op = opRb ∨ op = opVec)
   else if eng = 4 then decide (op = opAttn)
   else if eng = 5 then decide (opInsert ≤ op ∧ op ≤ opRulebook)
   else if eng = 6 ∨ eng = 7 then
     decide (op = opCopy ∨ op = opGather ∨ op = opScatter ∨ op = opFill ∨ op = opAtomic ∨ op = opCreel)
   else if eng = 8 then decide (op = opCombine)
   else decide (op = opCopy ∨ op = opFill ∨ op = opStore))

/-- Element-indexed opcodes (R200). -/
def elementIndexed (op : Nat) : Bool :=
  decide (op = opRb ∨ op = opGather ∨ op = opScatter ∨ (opInsert ≤ op ∧ op ≤ opRulebook))

/-- The feature level that a command needs (R49, R200, R227). -/
def needsFeat (eng : Nat) (h : Hdr) (w : List Nat) : Nat :=
  if h.opcode = opCopy ∧ eng = 9 ∧ h.subop = 1 then 3
  else if h.opcode = opCombine ∧ 64 ≤ bits (wd w 0) 0 16 ∧ bits (wd w 0) 0 16 ≤ 255 then 3
  else 0

/-! ## Fields -/

/-- Bits from n upward are zero. -/
def hiZero (w n : Nat) : Bool := decide (w < 2 ^ n)
/-- The device virtual address of a word that holds a format too. -/
def va48 (w : Nat) : Nat := bits w 0 48
/-- The format code of a word that holds one. -/
def fmt4 (w : Nat) : Nat := bits w 48 4
/-- QROWS, HEAD_DIM and SCALE of an ATTN. -/
def atRows (w : List Nat) : Nat := bits (wd w 4) 0 16
def atDim (w : List Nat) : Nat := bits (wd w 4) 16 16
def atScale (w : List Nat) : Nat := bits (wd w 4) 32 32
/-- Words from i to 5 are zero. -/
def zeroFrom (w : List Nat) (i : Nat) : Bool := (List.range 6).all fun j => decide (j < i ∨ wd w j = 0)

/-- A tile descriptor (R204). -/
structure Tile where
  va     : Nat
  fmt    : Nat
  rows   : Nat
  cols   : Nat
  stride : Nat
  deriving DecidableEq, Repr

/-- The tile that words i and i + 1 describe. -/
def tileOf (w : List Nat) (i : Nat) : Tile :=
  let a := wd w i
  let b := wd w (i + 1)
  { va := va48 a, fmt := fmt4 a, rows := bits b 0 16, cols := bits b 16 16, stride := bits b 32 24 }

/-- Bytes of n elements of a format. -/
def elemsBytes (fmt n : Nat) : Nat := (n * elemBits fmt + 7) / 8

/-- The limits of a tile descriptor (R204). -/
def tileOk (w : List Nat) (i : Nat) : Bool :=
  let t := tileOf w i
  hiZero (wd w i) 52 && hiZero (wd w (i + 1)) 56 && decide (t.fmt ≤ 10 ∧ t.va % 64 = 0 ∧ 1 ≤ t.rows ∧ 1 ≤ t.cols) &&
    decide (elemBits t.fmt ≠ 4 ∨ t.cols % 2 = 0) && decide (t.stride % 64 = 0 ∧ elemsBytes t.fmt t.cols ≤ t.stride)

/-- The first multiple of 64 at or after n. -/
def up64 (n : Nat) : Nat := (n + 63) / 64 * 64
/-- Where the scales of a tile begin (R206). -/
def Tile.scales (t : Tile) : Nat := up64 (t.va + t.rows * t.stride)
/-- Scales of one row: blocks of 32 elements of the MX formats (R206). -/
def Tile.blocks (t : Tile) : Nat := (t.cols + 31) / 32
/-- Bytes of scales (R206). -/
def Tile.scaleBytes (t : Tile) : Nat :=
  if 6 ≤ t.fmt ∧ t.fmt ≤ 8 then t.rows * t.blocks else if t.fmt = 9 ∨ t.fmt = 10 then 4 * t.rows else 0
/-- Bytes of one row. -/
def Tile.rowBytes (t : Tile) : Nat := elemsBytes t.fmt t.cols
/-- The byte hull of a tile: first byte and the byte after the last (R207). -/
def Tile.hull (t : Tile) : Nat × Nat :=
  let last := t.va + (t.rows - 1) * t.stride + t.rowBytes
  (t.va, if t.scaleBytes = 0 then last else max last (t.scales + t.scaleBytes))

/-- Whether two ranges [a, b) meet. -/
def meets (x y : Nat × Nat) : Bool := decide (x.1 < y.2 ∧ y.1 < x.2)

/-- A positive, finite and normal FP32 number (R415, R441). -/
def positiveNormal (w : Nat) : Bool := decide (0x00800000 ≤ w ∧ w < 0x7F800000)

/-! ## Sizes that several checks and meanings share -/

/-- Bytes of a triple block (R424). -/
def tripleBytes (rows hd : Nat) : Nat := 64 + 128 * ((rows + 15) / 16) + rows * hd * 4
/-- Bytes of a hash table of 2^n slots (R443). -/
def tableBytes (n : Nat) : Nat := 16 * 2 ^ n

/-- The search reach ceil(RADIUS / VOXEL) with the division rounded under RNE (R441, R452). -/
def reach (radius voxel : Nat) : Nat :=
  match v32 (div32 false false radius voxel).1 with
  | .fin false m e => let p := scaleQ m 1 e; (p.1 + p.2 - 1) / p.2
  | .zero _ => 0
  | _ => 3

/-- A RADIUS that is finite and not negative; −0 counts as +0 (R452). -/
def radiusOk (w : Nat) : Bool := decide (w < 0x7F800000 ∨ w = 0x80000000)

/-- Whether the formats of A and B may pair, and D be written (R217). -/
def pairOk (a b d : Nat) : Bool :=
  decide (a ≠ 0 ∧ b ≠ 0 ∧ d ≤ 4) &&
    decide (a = b ∨ (a = 3 ∧ b = 4) ∨ (a = 4 ∧ b = 3) ∨ (a = 6 ∧ b = 7) ∨ (a = 7 ∧ b = 6))

/-! ## Limits of each body (R202 step 4, R209–R230, R669) -/

def okWait (w : List Nat) : Bool :=
  hiZero (wd w 0) 48 && decide (wd w 0 % 8 = 0) && decide (wd w 2 < 3) && zeroFrom w 3
def okSignal (w : List Nat) : Bool :=
  hiZero (wd w 0) 48 && decide (wd w 0 % 8 = 0) && decide (wd w 2 < 2) && zeroFrom w 3
def okMatmul (h : Hdr) (w : List Nat) : Bool :=
  let a := tileOf w 0
  let b := tileOf w 2
  let d := tileOf w 4
  decide (h.subop < 2) && tileOk w 0 && tileOk w 2 && tileOk w 4 && pairOk a.fmt b.fmt d.fmt &&
    decide (a.cols = b.cols ∧ d.rows = a.rows ∧ d.cols = b.rows)
def okVec (h : Hdr) (w : List Nat) : Bool :=
  let a := tileOf w 0
  let b := tileOf w 2
  let d := tileOf w 4
  let binary := decide (1 ≤ h.subop ∧ h.subop ≤ 4)
  decide (h.subop ≤ 11) && tileOk w 0 && tileOk w 4 && decide (a.fmt ≤ 4 ∧ d.fmt ≤ 4) &&
    (if binary then tileOk w 2 && decide (b.fmt ≤ 4 ∧ a.rows = b.rows ∧ a.cols = b.cols)
     else decide (wd w 2 = 0 ∧ wd w 3 = 0)) &&
    decide (d.rows = a.rows ∧ d.cols = if h.subop < 10 then a.cols else 1)
def okRb (h : Hdr) (w : List Nat) : Bool :=
  let fi := fmt4 (wd w 2)
  let fw := fmt4 (wd w 3)
  let fo := fmt4 (wd w 4)
  let cin := bits (wd w 1) 16 16
  let cout := bits (wd w 1) 32 16
  let si := bits (wd w 5) 0 32
  let so := bits (wd w 5) 32 32
  decide (h.subop = 0) && hiZero (wd w 0) 48 && decide (wd w 0 % 16 = 0) && hiZero (wd w 1) 48 &&
    hiZero (wd w 2) 52 && hiZero (wd w 3) 52 && hiZero (wd w 4) 52 &&
    decide (1 ≤ bits (wd w 1) 0 16 ∧ 1 ≤ cin ∧ cin ≤ 1024 ∧ 1 ≤ cout ∧ cout ≤ 1024) &&
    decide (1 ≤ fi ∧ fi ≤ 5 ∧ 1 ≤ fw ∧ fw ≤ 5) && pairOk fi fw fo && decide (fi ≠ 5 ∨ cin % 2 = 0) &&
    decide (si % 64 = 0 ∧ elemsBytes fi cin ≤ si ∧ so % 64 = 0 ∧ elemsBytes fo cout ≤ so)
/-- The hulls of COPY: source and destination (R207). -/
def copyHulls (h : Hdr) (w : List Nat) : (Nat × Nat) × (Nat × Nat) :=
  let s := wd w 0
  let d := wd w 1
  if h.subop = 0 then ((s, s + wd w 2), (d, d + wd w 2))
  else
    let rb := bits (wd w 2) 0 32
    let n := bits (wd w 2) 32 32
    ((s, s + (n - 1) * wd w 3 + rb), (d, d + (n - 1) * wd w 4 + rb))
def okCopy (h : Hdr) (w : List Nat) : Bool :=
  hiZero (wd w 0) 48 && hiZero (wd w 1) 48 && decide (h.subop < 2) &&
    (if h.subop = 0 then hiZero (wd w 2) 40 && decide (1 ≤ wd w 2) && zeroFrom w 3
     else
       let rb := bits (wd w 2) 0 32
       decide (1 ≤ rb ∧ 1 ≤ bits (wd w 2) 32 32 ∧ rb ≤ wd w 3 ∧ rb ≤ wd w 4) && zeroFrom w 5)
def okIndexed (h : Hdr) (w : List Nat) : Bool :=
  let e := bits (wd w 3) 16 20
  decide (h.subop = 0) && hiZero (wd w 0) 48 && hiZero (wd w 1) 48 && hiZero (wd w 2) 48 && hiZero (wd w 3) 36 &&
    decide (1 ≤ bits (wd w 3) 0 16 ∧ e % 4 = 0 ∧ 4 ≤ e ∧ e ≤ 65536) && zeroFrom w 4
def okFill (h : Hdr) (w : List Nat) : Bool :=
  decide (h.subop = 0) && hiZero (wd w 0) 48 && hiZero (wd w 1) 40 && decide (1 ≤ wd w 1) && zeroFrom w 3
/-- The SUBOP codes of ATOMIC (R224). -/
def atomicOps : List Nat := [0, 1, 2, 3, 4, 8, 9, 0xA, 0xB, 0xC, 0xD, 0x10, 0x11, 0x12, 0x13, 0x14]
def okAtomic (h : Hdr) (w : List Nat) : Bool :=
  decide (h.subop ∈ atomicOps) && hiZero (wd w 0) 48 && hiZero (wd w 3) 48 && zeroFrom w 4
def okStore (h : Hdr) (w : List Nat) : Bool :=
  let n := bits (wd w 2) 0 16
  decide (h.subop < 2) && hiZero (wd w 0) 48 && decide (wd w 0 % 4096 = 0) && hiZero (wd w 2) 52 &&
    decide (1 ≤ n ∧ n ≤ 4096) && zeroFrom w 3
def okCreel (h : Hdr) (w : List Nat) : Bool :=
  if h.subop = 0 then
    hiZero (wd w 0) 48 && decide (wd w 0 % 512 = 0) && hiZero (wd w 1) 20 && decide (1 ≤ bits (wd w 1) 0 16) && zeroFrom w 2
  else decide (h.subop = 1) && zeroFrom w 0
def okCombine (h : Hdr) (w : List Nat) : Bool :=
  let hd := bits (wd w 0) 48 16
  let spans := bits (wd w 0) 16 16
  let rows := bits (wd w 0) 32 16
  let fo := fmt4 (wd w 2)
  decide (h.subop = 0) && decide (bits (wd w 0) 0 16 ≤ 255 ∧ 1 ≤ spans ∧ spans ≤ 1024 ∧ 1 ≤ rows ∧ rows ≤ 256) &&
    decide (hd = 64 ∨ hd = 128 ∨ hd = 256) && hiZero (wd w 1) 48 && decide (wd w 1 % 64 = 0) && hiZero (wd w 2) 52 &&
    decide (va48 (wd w 2) % 64 = 0 ∧ fo ≤ 4) && hiZero (wd w 3) 24 &&
    decide (wd w 3 % 64 = 0 ∧ elemsBytes fo hd ≤ wd w 3) && zeroFrom w 4
def okAttn (h : Hdr) (w : List Nat) : Bool :=
  let hd := bits (wd w 4) 16 16
  let qr := bits (wd w 4) 0 16
  let first := bits (wd w 2) 0 32
  let n := bits (wd w 2) 32 32
  let fo := fmt4 (wd w 3)
  decide (h.subop < 4) && hiZero (wd w 0) 52 && decide (va48 (wd w 0) % 64 = 0 ∧ fmt4 (wd w 0) ≤ 4) &&
    hiZero (wd w 1) 48 && decide (wd w 1 % 64 = 0) && decide (1 ≤ n ∧ n ≤ 4194304 ∧ first + n ≤ 2 ^ 32) &&
    hiZero (wd w 3) 52 && decide (va48 (wd w 3) % 64 = 0) && decide (hd = 64 ∨ hd = 128 ∨ hd = 256) &&
    decide (1 ≤ qr ∧ qr ≤ 256) &&
    (if bit h.subop 0 then hiZero (wd w 5) 32 && decide (fo = 0 ∧ bits (wd w 5) 0 16 < 1024 ∧ bits (wd w 5) 16 16 < 256)
     else decide (wd w 5 = 0 ∧ fo ≤ 4))
/-- What W1 of the point commands holds besides SLOTS_LOG2 and VOXEL is reserved. -/
def okPointsW1 (w : Nat) : Bool := decide (bits w 5 27 = 0 ∧ 10 ≤ bits w 0 5 ∧ bits w 0 5 ≤ 31)
def okInsertLookup (h : Hdr) (w : List Nat) : Bool :=
  decide (h.subop = 0) && hiZero (wd w 0) 48 && decide (wd w 0 % 4096 = 0) && okPointsW1 (wd w 1) &&
    positiveNormal (bits (wd w 1) 32 32) && hiZero (wd w 2) 48 && decide (wd w 2 % 16 = 0) && hiZero (wd w 3) 16 &&
    decide (1 ≤ bits (wd w 3) 0 16) && hiZero (wd w 4) 48 && decide (wd w 4 % 32 = 0) && hiZero (wd w 5) 48 &&
    decide (wd w 5 % 16 = 0)
def okSearch (h : Hdr) (w : List Nat) : Bool :=
  let n := bits (wd w 3) 0 16
  let k := bits (wd w 3) 16 8
  decide (h.subop = 0) && hiZero (wd w 0) 48 && decide (wd w 0 % 4096 = 0) && okPointsW1 (wd w 1) &&
    positiveNormal (bits (wd w 1) 32 32) && hiZero (wd w 2) 48 && decide (wd w 2 % 32 = 0) && hiZero (wd w 3) 24 &&
    decide (1 ≤ n ∧ 1 ≤ k ∧ (h.opcode ≠ opKnn ∨ k ≤ 64)) && hiZero (wd w 4) 48 && decide (wd w 4 % 8 = 0) &&
    hiZero (wd w 5) 32 && radiusOk (wd w 5) && decide (reach (wd w 5) (bits (wd w 1) 32 32) ≤ 2)
def okRulebook (h : Hdr) (w : List Nat) : Bool :=
  let n := bits (wd w 3) 0 16
  let k := bits (wd w 1) 8 4
  let st := bits (wd w 1) 12 4
  decide (h.subop = 0) && hiZero (wd w 0) 48 && decide (wd w 0 % 4096 = 0) && hiZero (wd w 1) 16 &&
    decide (bits (wd w 1) 5 3 = 0 ∧ 10 ≤ bits (wd w 1) 0 5 ∧ bits (wd w 1) 0 5 ≤ 31) &&
    decide ((k = 1 ∨ k = 3 ∨ k = 5) ∧ (st = 1 ∨ st = 2)) && hiZero (wd w 2) 48 && decide (wd w 2 % 16 = 0) &&
    hiZero (wd w 3) 16 && decide (1 ≤ n) && hiZero (wd w 4) 48 && decide (wd w 4 % 64 = 0) &&
    hiZero (wd w 5) 48 && decide (wd w 5 % 8 = 0)

/-- What a command writes keeps apart from what it reads, by byte hulls or ranges (R207, R446, R452, R458). -/
def hullsApart (h : Hdr) (w : List Nat) : Bool :=
  let n := bits (wd w 3) 0 16
  let tab := (wd w 0, wd w 0 + tableBytes (bits (wd w 1) 0 5))
  if h.opcode = opMatmul then !meets (tileOf w 4).hull (tileOf w 0).hull && !meets (tileOf w 4).hull (tileOf w 2).hull
  else if h.opcode = opVec then
    let same (i : Nat) : Bool := decide (wd w i = wd w 4 ∧ wd w (i + 1) = wd w 5)
    let binary := decide (1 ≤ h.subop ∧ h.subop ≤ 4)
    (same 0 || !meets (tileOf w 4).hull (tileOf w 0).hull) && (!binary || same 2 || !meets (tileOf w 4).hull (tileOf w 2).hull)
  else if h.opcode = opCopy then !meets (copyHulls h w).1 (copyHulls h w).2
  else if h.opcode = opInsert ∨ h.opcode = opLookup then
    let pts := (wd w 2, wd w 2 + 16 * n)
    let res := (wd w 4, wd w 4 + 32 * n)
    let org := (wd w 5, wd w 5 + 16)
    !meets res pts && !meets res tab && !meets res org &&
      (decide (h.opcode ≠ opInsert) || (!meets tab pts && !meets tab org))
  else if h.opcode = opBall ∨ h.opcode = opKnn then
    let res := (wd w 4, wd w 4 + n * (8 + 8 * bits (wd w 3) 16 8))
    !meets res (wd w 2, wd w 2 + 32 * n) && !meets res tab
  else if h.opcode = opRulebook then
    let sites := (wd w 2, wd w 2 + 16 * n)
    let rules := (wd w 4, wd w 4 + 64 + 16 * n * bits (wd w 1) 8 4 ^ 3)
    let idx := (wd w 5, if wd w 5 = 0 then 0 else wd w 5 + 8 * n)
    !meets rules idx && !meets rules sites && !meets rules tab && !meets idx sites && !meets idx tab
  else true

/-- The limits of the fields of a command's body and of SUBOP. -/
def limitsOk (h : Hdr) (w : List Nat) : Bool :=
  if h.opcode = opNop then decide (h.subop = 0) && zeroFrom w 0
  else if h.opcode = opWait then decide (h.subop = 0) && okWait w
  else if h.opcode = opSignal then decide (h.subop = 0) && okSignal w
  else if h.opcode = opFence then decide (h.subop = 0) && decide (wd w 0 < 2) && zeroFrom w 1
  else if h.opcode = opStep then decide (h.subop = 0) && hiZero (wd w 0) 17 && zeroFrom w 1
  else if h.opcode = opMatmul then okMatmul h w
  else if h.opcode = opRb then okRb h w
  else if h.opcode = opVec then okVec h w
  else if h.opcode = opCopy then okCopy h w
  else if h.opcode = opGather ∨ h.opcode = opScatter then okIndexed h w
  else if h.opcode = opFill then okFill h w
  else if h.opcode = opAtomic then okAtomic h w
  else if h.opcode = opStore then okStore h w
  else if h.opcode = opCreel then okCreel h w
  else if h.opcode = opCombine then okCombine h w
  else if h.opcode = opAttn then okAttn h w
  else if h.opcode = opInsert ∨ h.opcode = opLookup then okInsertLookup h w
  else if h.opcode = opBall ∨ h.opcode = opKnn then okSearch h w
  else okRulebook h w

/-- The limits of a command's body and SUBOP. -/
def bodyOk (h : Hdr) (w : List Nat) : Bool := limitsOk h w && hullsApart h w

/-- KNOT breaks neither R190 nor R198. -/
def knotOk (dx2 : Bool) (h : Hdr) (w : List Nat) : Bool :=
  !h.knot || (dx2 &&
    decide (h.opcode = opCopy ∨ h.opcode = opFill ∨ h.opcode = opScatter ∨ (h.opcode = opSignal ∧ wd w 2 = 0) ∨
      (h.opcode = opAttn ∧ bit h.subop 0)))

/-- What the checks of R202 after the read of the operand block answer: a status with its cause, or none.  noBody tells that the
block's address was illegal, so that the command is judged on its header alone. -/
def checkCmd (eng feat : Nat) (dx2 noBody : Bool) (h : Hdr) (entry w : List Nat) : Option (Status × Nat) :=
  if feat < needsFeat eng h (if noBody then [] else w) then some (.failed, cFeature)
  else if noBody || h.reserved || (dx2 && h.ind) || !knotOk dx2 h w || !bodyOk h w ||
      (!dx2 && h.ind && decide (wd entry 1 ≠ 0 ∨ wd entry 2 ≠ 0)) then some (.failed, cBadOperand)
  else none

/-! ## Cost (R231) -/

/-- ceil(num/den). -/
def ceilDiv (num den : Nat) : Nat := (num + den - 1) / den

/-- FLOP per µs of a format (R231). -/
def flopRate : Nat → Option Nat
  | 1 | 2 => some 118000000
  | 3 | 4 | 6 | 7 | 9 => some 236000000
  | 5 | 8 | 10 => some 472000000
  | _ => none

/-- Whether a device virtual address lies in another package, as translated now for reading or writing. -/
def farVa (s : State) (h : Hub) (ctx va : Nat) : Bool :=
  match xlate s h ctx va false false with
  | .ok pa _ => !isLocal s pa
  | .fault _ _ => false

/-- B in bytes per µs for the addresses of a command (R231). -/
def byteRate (s : State) (h : Hub) (ctx : Nat) (vas : List Nat) : Nat :=
  if vas.any (farVa s h ctx) then 200000 else 512000

/-- The bits of each body word that a command's layout names (R209), for the commands whose estimate is computed from fields. -/
def namedBits (h : Hdr) : List Nat :=
  let m (n : Nat) : Nat := 2 ^ n - 1
  let voxel : Nat := m 32 * 2 ^ 32 + m 5
  if h.opcode = opMatmul then [m 52, m 56, m 52, m 56, m 52, m 56]
  else if h.opcode = opVec then if 1 ≤ h.subop ∧ h.subop ≤ 4 then [m 52, m 56, m 52, m 56, m 52, m 56] else [m 52, m 56, 0, 0, m 52, m 56]
  else if h.opcode = opRb then [m 48, m 48, m 52, m 52, m 52, m 64]
  else if h.opcode = opCopy then if h.subop = 0 then [m 48, m 48, m 40] else [m 48, m 48, m 64, m 64, m 64]
  else if h.opcode = opGather ∨ h.opcode = opScatter then [m 48, m 48, m 48, m 36]
  else if h.opcode = opFill then [m 48, m 40, m 64]
  else if h.opcode = opStore then [m 48, m 64, m 52]
  else if h.opcode = opCombine then [m 64, m 48, m 52, m 24]
  else if h.opcode = opAttn then [m 52, m 48, m 64, m 52, m 64, if bit h.subop 0 then m 32 else 0]
  else if h.opcode = opInsert ∨ h.opcode = opLookup then [m 48, voxel, m 48, m 16, m 48, m 48]
  else if h.opcode = opBall ∨ h.opcode = opKnn then [m 48, voxel, m 48, m 24, m 48, m 32]
  else if h.opcode = opRulebook then [m 48, m 4 * 2 ^ 12 + m 4 * 2 ^ 8 + m 5, m 48, m 16, m 48, m 48]
  else []

/-- The fields of a command's body alone, reserved bits and a reserved SUBOP taken as zero: what the estimate is judged by (R231). -/
def namedBody (h : Hdr) (w : List Nat) : List Nat := (List.range 6).map fun i => wd w i &&& (namedBits h).getD i 0

/-- Whether every field of a command's body lies within its limit, so that its estimate follows the formula (R231).  Of SUBOP only what
selects the layout counts. (DEDUCED, log entry 125) -/
def estimable (h : Hdr) (w : List Nat) : Bool :=
  let sub := if h.opcode = opCopy ∨ (h.opcode = opVec ∧ h.subop ≤ 11) then h.subop else if h.opcode = opAttn then h.subop % 4 else 0
  let h := { h with subop := sub }
  limitsOk h (namedBody h w)

/-- The device estimate of a command whose operands are known, in µs; 1 where they give no value (R231).  block is the LBA data
size of the namespace that STORE names. -/
def estimate (s : State) (h : Hub) (ctx : Nat) (hd : Hdr) (w : List Nat) (block : Nat) : Nat :=
  let ends (x : Nat × Nat) : List Nat := [x.1, x.2 - 1]
  let ok := decide (hd.opcode ≤ opRulebook) && estimable hd w
  let w := namedBody hd w
  if !ok then 1
  else if hd.opcode = opMatmul then
    let a := tileOf w 0
    let b := tileOf w 2
    (match flopRate a.fmt with
     | some r => ceilDiv (2 * a.rows * b.rows * a.cols) r + 1
     | none => 1)
  else if hd.opcode = opRb then
    let n := bits (wd w 1) 0 16
    let cin := bits (wd w 1) 16 16
    let cout := bits (wd w 1) 32 16
    (match flopRate (fmt4 (wd w 2)) with
     | some r =>
       let bytes8 := n * (cin * elemBits (fmt4 (wd w 2)) + cout * elemBits (fmt4 (wd w 4)))
       ceilDiv (2 * n * cin * cout * 8 * 512000 + bytes8 * r) (r * 8 * 512000) + 1
     | none => 1)
  else if hd.opcode = opVec then let a := tileOf w 0; ceilDiv (a.rows * a.cols) 460800 + 1
  else if hd.opcode = opCopy then
    let n := if hd.subop = 0 then wd w 2 else bits (wd w 2) 0 32 * bits (wd w 2) 32 32
    ceilDiv n (byteRate s h ctx (ends (copyHulls hd w).1 ++ ends (copyHulls hd w).2)) + 1
  else if hd.opcode = opFill then ceilDiv (wd w 1) (byteRate s h ctx (ends (wd w 0, wd w 0 + wd w 1))) + 1
  else if hd.opcode = opGather ∨ hd.opcode = opScatter then
    let n := bits (wd w 3) 0 16
    let b := byteRate s h ctx [if hd.opcode = opGather then wd w 0 else wd w 2, wd w 1]
    ceilDiv (n * bits (wd w 3) 16 20 * 100 + n * b) (100 * b) + 1
  else if hd.opcode = opStore then if block = 0 then 1 else ceilDiv (bits (wd w 2) 0 16 * block) 14000 + 20
  else if hd.opcode = opAttn then
    ceilDiv (4 * bits (wd w 4) 0 16 * bits (wd w 2) 32 32 * bits (wd w 4) 16 16) 118000000 + 2
  else if hd.opcode = opCombine then
    ceilDiv (bits (wd w 0) 16 16 * bits (wd w 0) 32 16 * bits (wd w 0) 48 16) 10000 + 2
  else if hd.opcode = opInsert ∨ hd.opcode = opLookup then ceilDiv (bits (wd w 3) 0 16) 200 + 1
  else if hd.opcode = opBall ∨ hd.opcode = opKnn then ceilDiv (bits (wd w 3) 0 16 * bits (wd w 3) 16 8) 200 + 1
  else if hd.opcode = opRulebook then ceilDiv (bits (wd w 3) 0 16 * bits (wd w 1) 8 4 ^ 3) 200 + 1
  else 1

end Sys2Proof.Machine
end

