-- ==== Sys2Proof/Machine/Device.lean ====
section
/-! DEFINITION. Reads and writes of ranges of this package's memory in pieces (R297), the lines that a CXL host shares (R611),
and the messages of frame links that carry accesses to other packages (R42, R477). -/

namespace Sys2Proof.Machine

/-- A read of n bytes at a package offset, piece by piece in one step: the bytes, whether poison was met, the state after it. (DESIGN
CHOICE, log entry 132) -/
def readMem (s : State) (a : Acc) (o n : Nat) : List Byte × Bool × State :=
  (splitAt_ 64 o n).foldl
    (fun (acc : List Byte × Bool × State) c =>
      let (b, p, s) := rdPiece acc.2.2 a c.1 c.2
      (acc.1 ++ b, acc.2.1 || p, s)) ([], false, s)

/-- A write of bytes at a package offset, piece by piece; w is the writing core, if a core writes. -/
def writeMem (s : State) (w : Option CoreId) (a : Acc) (o : Nat) (bs : List Byte) : State :=
  (splitAt_ 64 o bs.length).foldl (fun s c => wrPiece s w a c.1 (slice bs (c.1 - o) c.2)) s

/-- The host ports that share the line of a package offset. -/
def lineSharers (s : State) (line : Nat) : List Port :=
  (List.finRange 4).filter fun p => (mget none (s.hlk p).sharers line).isSome

/-- Whether a write of n bytes at a package offset waits for a host to give up a line (R611). -/
def sharedBytes (s : State) (o n : Nat) : Bool :=
  (splitAt_ 64 o n).any fun c => !(lineSharers s (c.1 / 64)).isEmpty

/-- Back-invalidate snoops go out for the shared lines of a write, once each (R611). -/
def snoopBytes (s : State) (o n : Nat) : State :=
  (splitAt_ 64 o n).foldl (fun s c =>
    (lineSharers s (c.1 / 64)).foldl (fun s p =>
      if mget none (s.hlk p).sharers (c.1 / 64) = some false then
        (s.modHlk p fun x => { x with sharers := mput none (c.1 / 64) (some true) x.sharers }).send
          (.cxl p 5 (paOf s (64 * (c.1 / 64))) []) |>.count (hlkPage p) 0x0A8 1
      else s) s) s

/-- A write that meets shared lines in this package waits: the state with the snoops sent, or none where it need not wait. -/
def sharedWait (s : State) (spans : List Span) : Option State :=
  let l := spans.filter fun x => isLocal s x.pa && sharedBytes s (offOf x.pa) x.n
  if l.isEmpty then none else some (l.foldl (fun s x => snoopBytes s (offOf x.pa) x.n) s)

/-- Whether anything can be sent to a position: it is PRESENT, or the own one (R26). -/
def canSend (s : State) (p : Pos) : Bool := decide (posState s p = .present ∨ posState s p = .own)

/-- The position that holds a frame address. -/
def posFin (pa : Nat) : Pos := Fin.ofNat 8 (posOf pa)

/-- What an access carries to another package (R126, R128). -/
def Acc.far (a : Acc) : FarAttr := { hint := Fin.ofNat 4 a.hint, se := a.se, ord := a.ord }

/-- A read request for n bytes at a frame address of another package, or in one of its windows. (DEDUCED, log entry 23) -/
def sendRead (s : State) (part : Option (Fin 16)) (cls : Nat) (i : Issuer) (x : FarAttr) (pa n : Nat) (v : Option FarView := none) :
    State :=
  s.send (.flkRead (posFin pa)
    { src := s.boot.pos, part := part, cls := Fin.ofNat 4 cls, addr := pa, len := n, issuer := i, attr := x, view := v })

/-- A write of bytes to a frame address of another package. (DEDUCED, log entry 35) -/
def sendWrite (s : State) (part : Option (Fin 16)) (cls : Nat) (i : Issuer) (x : FarAttr) (pa : Nat) (bs : List Byte) : State :=
  s.send (.flkWrite (posFin pa)
    { src := s.boot.pos, part := part, cls := Fin.ofNat 4 cls, addr := pa, data := bs, issuer := i, attr := x })

/-- The requester partition of a queue as transfers carry it (R473, R477). -/
def queuePart (s : State) (q : QIdx) : Option (Fin 16) := some (Fin.ofNat 16 (s.queue q).part.toNat)

/-- Whether every byte of a piece has arrived. -/
def hasAll (got : SMap (Option Byte)) (pa n : Nat) : Bool := (List.range n).all fun j => (mget none got (pa + j)).isSome

/-- The pieces of spans that lie in another package and of which a byte has not arrived. -/
def missing (s : State) (got : SMap (Option Byte)) (l : List Span) : List (Nat × Nat × Acc) :=
  (spanPieces l).filter fun x => !isLocal s x.1 && !hasAll got x.1 x.2.1
/-- Pieces without their attributes. -/
def ranges (l : List (Nat × Nat × Acc)) : List (Nat × Nat) := l.map fun x => (x.1, x.2.1)

/-- The bytes that have arrived for a piece. -/
def arrived (got : SMap (Option Byte)) (pa n : Nat) : List Byte :=
  (List.range n).map fun j => (mget none got (pa + j)).getD 0

/-- Arrived bytes are kept under their frame addresses. -/
def keepBytes (got : SMap (Option Byte)) (pa : Nat) : List Byte → SMap (Option Byte)
  | [] => got
  | b :: bs => keepBytes (mput none pa (some b) got) (pa + 1) bs

end Sys2Proof.Machine
end

