-- ==== Sys2Proof/Machine/Queue.lean ====
section
/-! DEFINITION. The queue manager: errors and interrupts of a queue (R157, R160, R481), the end of a command (R175, R203, R575),
completion records (R164–R170), the journal (R524, R526), step segments (R180–R185), queue states (R155–R157) and reset (R557). -/

namespace Sys2Proof.Machine

/-- Depth D of a queue (R144). -/
def Queue.depth (x : Queue) : Nat := 2 ^ x.depthLog2

/-! ## Interrupts and errors of a queue -/

/-- The MSI-X vector of queue q in a VF's function window, from the whole byte (R607). (DEDUCED, log entry 135) -/
def queueVec (s : State) (q : QIdx) (x : Hlk) (v : Nat) : Nat :=
  let b := (mget 1 x.qvec (8192 * v + fqi s q)).toNat
  if b = 0 ∨ 31 < b then 1 else b

/-- The cores of a partition that take an interrupt lose their reservations (R276); which of them take it is left open.
(DESIGN CHOICE, log entry 114) -/
def coresTake (s : State) (part : Nat) : State :=
  let (n, s) := s.draw
  { s with cores := mmap {} (fun k x =>
      let p := (s.hub (coreHub (Fin.ofNat 96 k))).part
      if x.resv.isSome && decide (p.hank = .owned ∧ p.owner.toNat = part) && Config.takesInterrupt n k then { x with resv := none }
      else x) s.cores }

/-- A queue interrupt goes to the requester that CTX names (R481, R607). -/
def queueIrq (s : State) (q : QIdx) : State :=
  let c := (s.queue q).ctx
  if c < 32 then raiseMsix s c (queueVec s q) else (coresTake s (c - 32)).send (.coreIrq (c - 32) q.val)

/-- A queue leaves FAULT_WAIT: the time that it was there counts neither for the timers of its started commands nor in their execution
(R163, R165). -/
def Queue.leaveWait (x : Queue) (now : Nat) : Queue :=
  if x.st ≠ .faultWait then x
  else { x with cmds := x.cmds.map fun c =>
    if c.phase = .faultWait then { c.endStall now with waited := c.waited + (now - ((c.stallNow.map (·.2)).getD now)) }
    else if c.startT.isSome && decide (c.phase ≠ .ended) then { c with waited := c.waited + (now - max x.fwAt (c.startT.getD 0)) }
    else c }

/-- A queue error: ERROR (a queue in RESET keeps its state), QSW.ERR, FAULT_INFO and a QUEUE record (R157, R160, R161, R564); a command
that waits in FAULT_WAIT goes on waiting. (DEDUCED, log entry 52) (DESIGN CHOICE, log entry 120) -/
def queueError (s : State) (q : QIdx) (code : Nat) (seq : W32) (idx : BitVec 16) (st cause va : Nat) : State :=
  let x := (s.queue q).leaveWait s.now
  let s := s.setQueue q { x with
    st := if x.st = .reset then .reset else .error, err := code
    fiSeq := seq, fiIdx := idx, fiCause := cause, fiStatus := st, fiVa := BitVec.ofNat 64 va }
  let s := report s (qmPage q) 2 code 0 (reqTag s (qHub q) (.engine q)) 0 0
  if x.faultEn then queueIrq s q else s

def errOverflow : Nat := 1
def errFetch : Nat := 2
def errCmpl : Nat := 3
def errConfig : Nat := 4

/-! ## Accesses of the queue manager to memory -/

/-- A translation fault or an access to an unmapped address of a queue manager or a creel is logged by the translating XLT
(R117, R134). (DEDUCED, log entry 25) -/
def xltFault (s : State) (q : QIdx) (cause addr : Nat) : State :=
  if cUnmapped ≤ cause ∧ cause ≤ cXltWalk then
    report s (pgKey (qHub q).val ixXlt) 1 cause 0 (reqTag s (qHub q) (.engine q)) addr
      (if cXltMiss ≤ cause then 0 else addr)
  else s

/-- Where record seq of a queue is written (R164). -/
def Queue.recordVa (x : Queue) (seq : W32) : Nat := x.cmplBase.toNat + 32 * (seq.toNat % x.depth)

/-- The cause of a read or write that failed at its destination (R477, R579, R388, R117). -/
def answerCause : Answer → Nat
  | .firewall => cFirewall
  | .poison => cPoison
  | .unmapped => cUnmapped
  | _ => cPosDown

/-- The status that a cause gives a command that stops at element f (R117, R173, R192, R335, R434, R579). -/
def missStatus (indexed : Bool) (cause f : Nat) : Status :=
  if cause = cPoison then .poisoned
  else if cause = cFetchFailed then .depFailed
  else if cause = cPosDown ∨ cause = cBadOperand ∨ cause = cRemoteAtomic then .failed
  else if indexed ∧ 0 < f then .partialDone else .fault

/-- What a read by the queue manager answers. -/
inductive QRd where
  | ok (bytes : List Byte) (poison : Bool)
  | bad (cause addr : Nat)
  | need (l : List (Nat × Nat × Acc))
  deriving DecidableEq, Repr

/-- A read of n bytes at a device virtual address in the queue's context, with the remote bytes that have arrived (R144,
R191).  A firewall stop is logged where it is found.  It waits for what has to come, and for a scratchpad being zeroed. -/
def qmRead (s : State) (q : QIdx) (got : SMap (Option Byte)) (va n : Nat) : QRd × State :=
  let h := qHub q
  match vaCheck s h (s.queue q).ctx (.engine q) true false 0 va n with
  | .bad c a => (.bad c a, countWalks s h (s.queue q).ctx va n (decide (cXltMiss ≤ c ∧ c ≤ cXltWalk)))
  | .fw i f k a => (.bad cFirewall a, logFw s i f k a (.engine q))
  | .ok spans =>
    let miss := missing s got spans
    if !miss.isEmpty ∨ spans.any (fun x => isLocal s x.pa && memBusy s (offOf x.pa)) then (.need miss, s)
    else
      let s := countWalks s h (s.queue q).ctx va n false
      let (bs, p, s) := (spanPieces spans).foldl
        (fun (acc : List Byte × Bool × State) x =>
          if isLocal acc.2.2 x.1 then
            let (b, p, s) := rdPiece acc.2.2 x.2.2 (offOf x.1) x.2.1
            (acc.1 ++ b, acc.2.1 || p, s)
          else (acc.1 ++ arrived got x.1 x.2.1, acc.2.1, acc.2.2)) ([], false, s)
      (.ok bs p, s)

/-! ## Queue states -/

/-- Whether a queue can be a member of a step (R181). -/
def Queue.live (x : Queue) : Bool := decide (x.st ≠ .disabled ∧ x.st ≠ .reset)

/-- A queue joins the steps of its group when membership, life and an enabled group come together: its entries from the first
that has not started are numbered from the next step (R181). -/
def joinSteps (s : State) (q : QIdx) : State :=
  let x := s.queue q
  let g := s.grp (qHub q) x.stepGrp
  if x.stepIn || !x.stepEn || !x.live || !g.en then s
  else
    let j0 := g.started
    let started := x.cmds.takeWhile fun c => c.startT.isSome
    let rest := x.cmds.dropWhile fun c => c.startT.isSome
    let (cmds, next) := rest.foldl
      (fun (acc : List Cmd × Nat) c =>
        (acc.1 ++ [{ c with seg := some acc.2 }], if c.hdr.stepEnd then acc.2 + 1 else acc.2)) ([], j0)
    s.setQueue q { x with stepIn := true, segJoin := j0, segDone := j0, segNext := next
                          cmds := started.map (fun c => { c with seg := none }) ++ cmds }

/-- The queues of hub die h that the state lists. -/
def listedQueues (s : State) (h : Hub) : List QIdx :=
  (s.queues.map fun e => (Fin.ofNat 1024 e.1 : QIdx)).filter fun q => qHub q = h

/-- The queues that take part in the open step of a group and have yet to complete it (R183, R188). -/
def stepPending (s : State) (h : Hub) (g : Fin 16) : List QIdx :=
  let j := (s.grp h g).started - 1
  (listedQueues s h).filter fun q =>
    let x := s.queue q
    x.stepIn && decide (x.stepGrp = g ∧ x.segJoin ≤ j ∧ x.segDone ≤ j)

/-- The open step of a group ends when no queue is awaited; one that took longer than PERIOD is overrun (R183, R185). -/
def stepEndCheck (s : State) (h : Hub) (g : Fin 16) : State :=
  let x := s.grp h g
  if x.st = .opened ∧ (stepPending s h g).isEmpty then
    let s := s.modGrp h g fun x => { x with st := .awaiting }
    if x.period.toNat < s.lts - x.startLt then s.count (pgKey h.val ixSeq) 0x088 1 else s
  else s

/-- A queue leaves the steps of its group when membership, life or the group's enable ceases (R181, R183). -/
def leaveSteps (s : State) (q : QIdx) : State :=
  let x := s.queue q
  if x.stepIn ∧ !(x.stepEn && x.live && (s.grp (qHub q) x.stepGrp).en) then
    stepEndCheck (s.setQueue q { x with stepIn := false }) (qHub q) x.stepGrp
  else s

/-- A queue returns from HALTED, FAULT_WAIT or DOFF to running, or drains where ENABLE has been cleared meanwhile. -/
def runState (x : Queue) : QState := if x.enable then .running else .draining

/-- Whether admitting and starting have ended on the hub die for good: its commit has begun (R504, R511). -/
def commitBegun (s : State) (h : Hub) : Bool :=
  decide ((s.hub h).led.st = .committing ∨ (s.hub h).led.st = .doffed)

/-- The doorbell page of a queue returns to its reset value and the queue to DISABLED; the descriptor stays (R557). -/
def resetDone (s : State) (q : QIdx) : State :=
  let x := s.queue q
  let s := s.setQueue q { ctx := x.ctx, bound := x.bound, part := x.part, classFloor := x.classFloor
                          suspend := x.suspend, stepGrp := x.stepGrp, stepEn := x.stepEn, lateUntil := x.lateUntil
                          stepIn := x.stepIn, segJoin := x.segJoin, segDone := x.segDone }
  let s := if mget 0 s.qrstRun (qDie q) = q.val + 1 then { s with qrstRun := mput 0 (qDie q) 0 s.qrstRun } else s
  leaveSteps s q

/-- Every queue of a hank has drained (R486). -/
def hankDrained (s : State) (h : Hub) : Bool := (listedQueues s h).all fun q => (s.queue q).cmds.isEmpty

/-- A RELEASING hank whose queues have drained enters ZEROING (R486). -/
def zeroingCheck (s : State) (h : Hub) : State :=
  if (s.hub h).part.hank = .releasing ∧ hankDrained s h then
    s.modHub h fun x => { x with part := { x.part with hank := .zeroing } }
  else s

/-- A partition reset of a hub die has completed when no queue of it is in RESET (R556). -/
def partRstCheck (s : State) (h : Hub) : State :=
  if (s.hub h).part.rstBusy ∧ (listedQueues s h).all (fun q => decide ((s.queue q).st ≠ .reset)) then
    s.modHub h fun x => { x with part := { x.part with rstBusy := false } }
  else s

/-- A queue without outstanding commands leaves DRAINING, ERROR with ENABLE = 0, and RESET (R156, R557). -/
def settle (s : State) (q : QIdx) : State :=
  let x := s.queue q
  if !x.cmds.isEmpty then s
  else
    let s := match x.st with
      | .draining => leaveSteps (s.setQueue q { x with st := .disabled }) q
      | .error => if x.enable then s else leaveSteps (s.setQueue q { x with st := .disabled }) q
      | .reset => resetDone s q
      | _ => s
    partRstCheck (zeroingCheck s (qHub q)) (qHub q)

/-! ## Ready commands (R496) -/

/-- Whether an earlier command of the queue has ended badly and stops the starts that follow under HALT or RESUME (R175).
(DEDUCED, log entry 26) -/
def badEnd (st : Status) : Bool :=
  match st with
  | .partialDone | .fault | .poisoned | .failed | .timeout | .timeoutLink => true
  | _ => false

/-- The command of a queue that is next to be executed: the oldest that has neither ended nor performed all its accesses. -/
def Queue.target (x : Queue) : Option Cmd := x.cmds.find? fun c => decide (c.phase ≠ .ended) && !c.performed
/-- The commands before one in its queue. -/
def Queue.earlier (x : Queue) (c : Cmd) : List Cmd := x.cmds.takeWhile fun y => y.seq ≠ c.seq

/-- What keeps a command from starting. -/
inductive Hold where
  | no
  | yes
  | stall (cause : Nat)
  deriving DecidableEq, Repr

/-- What holds the target of a queue back before arbitration and the governor: the queue's state, a stopped block, deferral, a
fault policy to be applied, its FENCE flag, its step (R155, R175, R182, R195, R302, R494, R575, R583). (DEDUCED, log entry 64) -/
def startHold (s : State) (q : QIdx) (c : Cmd) : Hold :=
  let x := s.queue q
  let h := c.hdr
  if !(decide (x.st = .running ∨ x.st = .draining ∨ x.st = .error)) then .yes
  else if mget false s.stopped (engPage (qEng q)) || mget false s.stopped (qmPage q) ||
      mget false s.stopped (pgKey (qHub q).val ixXlt) then .yes
  else if c.phase = .deferred then .stall cThrottleQos
  else if (x.st = .running ∨ x.st = .draining) ∧ x.policy ≠ .skip ∧ (x.earlier c).any (fun y => decide (y.phase = .ended) && badEnd y.status && !y.abandoned) then .yes
  else if h.fence ∧ ((x.earlier c).any (fun y => decide (y.phase ≠ .ended)) ∨ s.now < x.lateUntil) then .stall cFenceWait
  else if h.stepStart ∧ x.stepIn then
    match c.seg with
    | some j => if (s.grp (qHub q) x.stepGrp).started ≤ j then .stall cStepGrid else .no
    | none => .no
  else .no

/-- Whether a wait on an event keeps a command that holds its engine from using it. -/
def engaged (c : Cmd) : Bool := decide (c.phase = .running) && !c.performed && !c.paused && !c.waiting

/-- The commands of an engine that are next in their queues, with their queues. -/
def engineTargets (s : State) (e : Nat) : List (QIdx × Cmd) :=
  s.queues.filterMap fun (k, x) =>
    let q : QIdx := Fin.ofNat 1024 k
    if qEng q = e then x.target.map fun c => (q, c) else none

/-- Whether a command may be started but for its engine and the governor. -/
def isReady (c : Cmd) : Bool := c.startT.isNone && c.readyT.isSome && decide (c.phase = .ready)

/-! ## Which queue an engine serves (R489) -/

/-- The turns of engine number e. -/
def State.arb (s : State) (e : Nat) : Arb := mget {} s.arbs e
/-- The command whose queue's turn it is: the first from the queue after the one served last. -/
def nextTurn (last : Nat) (l : List (QIdx × Cmd)) : Option (QIdx × Cmd) := (l.find? fun p => decide (last ≤ p.1.val)).orElse fun _ => l.head?
/-- The queue served last in a class. -/
def Arb.served (a : Arb) (k : Nat) (q : QIdx) : Arb := { a with last := mput 0 k (q.val + 1) a.last }
/-- Visits of weight w that a class with deficit d needs until cost e fits. -/
def visits (d w e : Nat) : Nat := (e - d + w - 1) / w

/-- Deficit round robin between commands of classes 1 and 2 of costs e1 and e2, each visit adding the class's weight in µs of E to its
deficit: the turns after it, the class served being the one that two tells. (DESIGN CHOICE, log entry 119) -/
def Arb.drr (a : Arb) (w1 w2 e1 e2 : Nat) : Arb :=
  let n1 := visits a.d1 w1 e1
  let n2 := visits a.d2 w2 e2
  if a.two then
    if n2 = 0 then { a with d2 := a.d2 - e2 }
    else if max 1 n1 ≤ n2 then { a with two := false, d1 := a.d1 + max 1 n1 * w1 - e1, d2 := a.d2 + (max 1 n1 - 1) * w2 }
    else { a with d1 := a.d1 + n2 * w1, d2 := a.d2 + n2 * w2 - e2 }
  else
    if n1 = 0 then { a with d1 := a.d1 - e1 }
    else if max 1 n2 ≤ n1 then { a with two := true, d2 := a.d2 + max 1 n2 * w2 - e2, d1 := a.d1 + (max 1 n2 - 1) * w1 }
    else { a with d2 := a.d2 + n1 * w2, d1 := a.d1 + n1 * w1 - e1 }

/-- The ready command that engine number e starts next, with its turns after that (R489): class 0 first, then classes 1 and 2 by deficit
round robin, then class 3, and within a class the queues in turn. -/
def enginePick (s : State) (e : Nat) : Option ((QIdx × Cmd) × Arb) :=
  let a := s.arb e
  let w := (s.hub (engHub e)).qos
  let l := (engineTargets s e).filter fun p => isReady p.2
  let first (k : Nat) : Option (QIdx × Cmd) := nextTurn (mget 0 a.last k) (l.filter fun p => decide (p.2.cls = k))
  let alone : Arb := { a with d1 := 0, d2 := 0 }
  match first 0, first 1, first 2, first 3 with
  | some p, _, _, _ => some (p, a.served 0 p.1)
  | none, some p, some y, _ =>
    let b := a.drr w.w1.toNat w.w2.toNat p.2.cost y.2.cost
    some (if b.two then (y, b.served 2 y.1) else (p, b.served 1 p.1))
  | none, some p, none, _ => some (p, alone.served 1 p.1)
  | none, none, some y, _ => some (y, alone.served 2 y.1)
  | none, none, none, some p => some (p, a.served 3 p.1)
  | none, none, none, none => none

/-- Waits of ready commands for engine number e are attributed to THROTTLE_QOS while another class or partition keeps the engine
from them (R168, R489, R658). -/
def qosStalls (s : State) (e : Nat) : State :=
  let l := engineTargets s e
  let pick := (enginePick s e).map (·.1)
  l.foldl (fun s p =>
    if isReady p.2 then
      let behind := (l.any fun y => decide (y.1 ≠ p.1) && engaged y.2 &&
          decide (y.2.cls ≠ p.2.cls ∨ (s.queue y.1).part ≠ (s.queue p.1).part)) ||
        (pick.any fun y => decide (y.1 ≠ p.1 ∧ y.2.cls ≠ p.2.cls))
      if behind then putCmd s p.1 (p.2.beginStall cThrottleQos s.now)
      else match p.2.stallNow with
        | some (k, _) => if k = cThrottleQos then putCmd s p.1 (p.2.endStall s.now) else s
        | none => s
    else s) s

/-- The target of a queue becomes ready, or its wait before the start is attributed (R168, R182, R196, R494, R496). -/
def refreshReady (s : State) (q : QIdx) : State :=
  match (s.queue q).target with
  | some c =>
    if c.startT.isSome ∨ c.phase = .held then s
    else match startHold s q c with
      | .no => if c.readyT.isSome then s else putCmd s q { c.endStall s.now with readyT := some s.now }
      | .stall k => putCmd s q { c.beginStall k s.now with readyT := none, granted := false }
      | .yes => putCmd s q { c with readyT := none, granted := false }
  | none => s

/-- The governor looks at a command that is ready to start: one that does not pass is held (R89, R90). -/
def gateReady (s : State) (q : QIdx) : State :=
  let s := refreshReady s q
  let s := match (s.queue q).target with
    | some c => if isReady c ∧ !gatePasses s (qHub q) c then hold s q c else s
    | none => s
  qosStalls s (qEng q)

/-! ## The end of a command -/

/-- The causes that R496 does not count in a command's execution. -/
def uncounted : List Nat :=
  [cWaitSignal, cFenceWait, cKnotHold, cStepGrid, cLateGddr, cLateStore, cLateFabric, cScheduleMiss, cCombineFull, cFaultWait]
/-- Cycles of those causes in a command's account. -/
def Cmd.uncountedSum (c : Cmd) : Nat := (uncounted.map fun k => mget 0 c.stall k).sum

/-- Gather-cache entries that a command filled from ORD = 1 pages go when it ends (R310, R370). -/
def dropOrdEntries (s : State) (q : QIdx) (c : Cmd) : State :=
  if (s.gc (qEng q)).ents.any (fun e => decide (e.so = some (q.val, c.seq.toNat))) then
    s.modGc (qEng q) fun g => { g with ents := g.ents.filter fun e => decide (e.so ≠ some (q.val, c.seq.toNat)) }
  else s

/-- The device virtual address of the first destination byte of a command that may be knotted (R198, R314): that of a SCATTER
takes its first index, as memory holds it now. -/
def firstDst (s : State) (q : QIdx) (c : Cmd) : Option Nat :=
  let w := c.words
  let o := c.hdr.opcode
  if o = opCopy then some (wd w 1)
  else if o = opFill ∨ o = opSignal then some (wd w 0)
  else if o = opAttn then some (va48 (wd w 3))
  else if o = opScatter then
    match xlate s (qHub q) (s.queue q).ctx (wd w 1) true false with
    | .ok pa _ =>
      if isLocal s pa && !isReg (offOf pa) then some (wd w 2 + leNat (coherentBytes s (offOf pa) 4) * bits (wd w 3) 16 20) else none
    | .fault _ _ => none
  else none

/-- The position and hub die that own a frame address, where a hub die owns it (R312, R314). -/
def ownerAt (s : State) (pa : Nat) : Option (Nat × Nat) :=
  if 8 * window ≤ pa then none
  else (if isLocal s pa then regionHub (regionFor s (offOf pa)) else remoteHub (offOf pa)).map fun h => (posOf pa, h.val)

/-- The position and hub die that a knotted command's sequence lies at (R312): those of its first destination byte, as far as its
checks have come, or as it translates now. -/
def knotHome (s : State) (q : QIdx) (c : Cmd) : Option (Nat × Nat) :=
  match c.knotDst with
  | some d => some d
  | none =>
    if !c.dx2 then none
    else match (firstDst s q c).map fun va => xlate s (qHub q) (s.queue q).ctx va false true with
      | some (.ok pa _) => ownerAt s pa
      | _ => none

/-- An ACQ-marked read of the engine invalidates the whole gather cache (R304, R370).  CLEAN tells of disabling and INV only. -/
def gcAcquire (s : State) (e : Nat) : State :=
  let (t, s) := s.tick
  (s.modGc e fun g => { g with ents := [], acqAt := t + 1 }).count (engPage e) 0x0E0 1

/-- The ACQ mark takes effect: the reads that the command has performed since invalidate its engine's gather cache (R304, R305,
R370). -/
def acquire (s : State) (q : QIdx) (c : Cmd) : State :=
  if c.hdr.acq && (s.cmdNow q c).didRead then gcAcquire (s.modCmd q c.seq fun y => { y with didRead := false }) (qEng q) else s

/-- An end mark for a knotted command (R315), with the notice of a partial triple (R427), unless the position cannot be reached
(R26). (DEDUCED, log entry 70) -/
def sendMark (s : State) (q : QIdx) (c : Cmd) (ok : Bool) : State :=
  let h := c.hdr
  let w := c.words
  match knotHome s q c with
  | some (p, d) =>
    if !canSend s (Fin.ofNat 8 p) then s
    else s.send (.endMark (Fin.ofNat 8 p)
      { src := s.boot.pos, hub := Fin.ofNat 2 d, knotId := BitVec.ofNat 16 h.knotId, knotSeq := BitVec.ofNat 32 h.knotSeq
        part := queuePart s q, pieces := c.sent, ok := ok
        notice := if h.opcode = opAttn then some (bits (wd w 5) 16 16, bits (wd w 5) 0 16) else none
        queue := fqi s q, again := c.marked })
  | none => s

/-- The CBE page of hub die h. -/
def cbPage (h : Hub) : Nat := pgKey h.val ixCbe
/-- A combine group of a hub die. -/
def State.cbGrp (s : State) (h : Hub) (g : Nat) : CbGrp := mget {} (s.hub h).cbGrps g
/-- The state with one combine group changed by f. -/
def State.modCbGrp (s : State) (h : Hub) (g : Nat) (f : CbGrp → CbGrp) : State :=
  s.modHub h fun x => { x with cbGrps := mput {} g (f (mget {} x.cbGrps g)) x.cbGrps }

/-- What the end of a command tells others: the end mark of a failed knot member (R315, R320), the notice of a partial triple
(R426, R427), the state of its combine group (R430). -/
def tellEnd (s : State) (q : QIdx) (c : Cmd) (ok : Bool) : State :=
  let h := c.hdr
  let w := c.words
  if h.opcode = opCombine then
    if c.marked then
      let g := bits (wd w 0) 0 16
      if ok then s.modCbGrp (qHub q) g fun _ => {}
      else (s.modCbGrp (qHub q) g fun x => { x with st := .stale }).event (cbPage (qHub q)) 1
    else s
  else if h.knot then if ok then s else sendMark s q c false
  else if h.opcode = opAttn ∧ bit h.subop 0 then
    match c.knotDst with
    | some (p, d) => if !canSend s (Fin.ofNat 8 p) then s else s.send (.notice (Fin.ofNat 8 p) (Fin.ofNat 2 d) (bits (wd w 5) 16 16) (bits (wd w 5) 0 16) ok)
    | none => s
  else s

/-- The page that reports a command's REQUEST error: the XLT for an address cause, the engine that runs the command for any
other (R202, R564). (DEDUCED, log entry 25) -/
def causePage (q : QIdx) (cause : Nat) : Nat :=
  if cUnmapped ≤ cause ∧ cause ≤ cPosDown then pgKey (qHub q).val ixXlt else engPage (qEng q)

/-- Engine number of copy engine e. -/
def cpEng (e : Fin 16) : Nat := 8 * (e.val / 2) + 6 + e.val % 2
/-- The creel counter of a late cause (R413). -/
def lateOff (cause : Nat) : Nat :=
  if cause = cLateGddr then 0x098 else if cause = cLateStore then 0x0A0 else if cause = cLateFabric then 0x0A8 else 0x0B0

/-- The µs of a consumer's wait that ends now are added to the counters of the creel it waited on (R410, R413). -/
def closeLate (s : State) (c : Cmd) : State :=
  match c.lateCp, c.stallNow with
  | some e, some (k, t0) => s.count (engPage (cpEng e)) (lateOff k) ((s.now - t0) / 100)
  | _, _ => s

/-- Whether the RESUME policy keeps a command's record back and waits (R175). -/
def resumable (x : Queue) (c : Cmd) : Bool :=
  decide (x.policy = .resume ∧ (x.st = .running ∨ x.st = .halted ∨ x.st = .draining) ∧ (c.status = .partialDone ∨ c.status = .fault) ∧
    (c.cause = cUnmapped ∨ c.cause = cXltMiss ∨ c.cause = cXltPerm)) &&
    elementIndexed c.hdr.opcode && !c.abandoned

/-- FLAGS of a command that ends (R170): those of all its rows and elements, or of the performed ones alone. -/
def Cmd.allFlags (c : Cmd) (st : Status) (idx : BitVec 16) : Byte :=
  let part := decide (st = .partialDone ∨ st = .fault ∨ st = .poisoned)
  let kept := c.fl.filter fun e => !part ||
    (!(c.unacked.any fun u => decide (u.2.2.1 = e.1)) && (!elementIndexed c.hdr.opcode || decide (e.1 < idx.toNat)))
  BitVec.ofNat 8 ((kept.map (·.2)).foldl (· ||| ·) 0)

/-- What a command still has to write when it is stopped is written: the header of a rulebook (R461). -/
def closeHead (s : State) (q : QIdx) (c : Cmd) : State :=
  c.head.foldl (fun s x =>
    if !isLocal s x.1 then sendWrite s (queuePart s q) c.cls (.cmd q c.seq c.gen) x.2.1.far x.1 x.2.2
    else if isReg (offOf x.1) then s
    else wrPiece s none x.2.1 (offOf x.1) x.2.2) s

/-- A command ends (R17, R163, R175, R203, R564), or comes to wait in FAULT_WAIT, its end mark kept back (R176): status, cause, fault index and the address that FAULT_VA and ERR_ADDR show.  A
command that ended before keeps its outcome; a failed STORE is logged by its storage port (R385). (DEDUCED, log entry 38) -/
def endCmd (s : State) (q : QIdx) (c : Cmd) (st : Status) (cause : Nat) (idx : BitVec 16) (va ea : Nat) : State :=
  let s := closeHead s q c
  let late := decide (c.unacked ≠ [])
  let keep := resumable (s.queue q) { c with status := st, cause := cause, fidx := idx } && !s.doff.stopped
  let s := if keep then s else tellEnd s q c (decide (st = .ok))
  let s := acquire (dropOrdEntries (closeLate s c) q c) q c
  let c' := { c.endStall s.now with
    phase := .ended, endT := s.now, status := st, cause := cause, fidx := idx, faultVa := BitVec.ofNat 64 va
    flags := c.allFlags st idx, unacked := [], soOut := [], linkWait := [], didRead := false, head := [], need := [], rdata := [], rfail := none, acc := [], knotDst := if keep then c.knotDst else none, performed := false, waiting := false, lateCp := none, paused := false, granted := false }
  let s := putCmd s q c'
  let s := if late then s.modQueue q fun x => { x with
      lateUntil := max x.lateUntil (s.now + us 50)
      lateW := (if s.now < x.lateUntil then x.lateW else []) ++ c.unacked.map fun u => (u.1, u.2.1) } else s
  let s := s.modGov (qHub q) fun g => if g.slowCmd = some (q.val, c.seq.toNat) then { g with slowCmd := none } else g
  let s := govBallast s (qHub q)
  let s := if c.cls = 0 ∧ c.startT.isSome then { s with c0End := mput 0 (qEng q) s.now s.c0End } else s
  let byPort := decide (c.hdr.opcode = opStore ∧ cause = cFetchFailed)
  let s := if st = .ok ∨ st = .doff ∨ st = .refused ∨ byPort then s
    else report s (causePage q cause) 1 cause 0 (reqTag s (qHub q) (.engine q)) ea
      (if cXltMiss ≤ cause ∧ cause ≤ cXltWalk then 0 else ea)
  refreshReady s q

/-! ## Completion records (R164–R170) -/

/-- The stalls of a command in the order of the record: longest first, equal times by ascending cause. -/
def stallOrder (c : Cmd) : List (Nat × Nat) :=
  (sortBy (fun a b => decide (b.2 < a.2 ∨ (a.2 = b.2 ∧ a.1 ≤ b.1))) c.stall).take 3

/-- Saturation at the largest value of n bits. -/
def sat (n v : Nat) : Nat := min v (2 ^ n - 1)

/-- PHASE of a sequence number (R166). -/
def phaseBit (x : Queue) (seq : W32) : Nat := 1 - (seq.toNat >>> x.depthLog2) % 2

/-- The cause that a record shows (R169). -/
def recCause (c : Cmd) : Nat :=
  if c.status = .ok then (match stallOrder c with | (k, _) :: _ => k | [] => 0) else c.cause

/-- The 32 bytes of a completion record (R165). For a command that never started, its end is taken as its start. (DESIGN CHOICE, log entry
130) -/
def recordBytes (x : Queue) (q : QIdx) (c : Cmd) : List Byte :=
  let started := c.startT.getD c.endT
  let slot (i : Nat) : List Byte :=
    match (stallOrder c)[i]? with
    | some (k, t) => leBytes 1 k ++ leBytes 3 (sat 24 (t / 100))
    | none => leBytes 4 0
  leBytes 4 c.seq.toNat ++ leBytes 1 c.status.code ++ leBytes 1 (recCause c) ++ leBytes 2 c.fidx.toNat ++
    [c.flags] ++ leBytes 1 (c.cls + 4 * b2n c.dx2 + 8 * b2n c.hdr.stepEnd + 128 * phaseBit x c.seq) ++
    leBytes 1 c.hdr.opcode ++ leBytes 1 (qEngId q) ++ leBytes 4 (sat 32 (started - c.admitT)) ++
    leBytes 4 (sat 32 (c.endT - started - c.waited)) ++ slot 0 ++ slot 1 ++ slot 2

/-- Hub ledger index of a queue (chapter 15). -/
def ledgerIx (q : QIdx) : Nat := if q.val < 128 then qLocal q else 64 + 112 * ((qDie q - 4) % 4) + qLocal q
/-- Package offset of the outcome-map byte of a sequence number (R521, R524). -/
def mapOff (x : Queue) (q : QIdx) (seq : W32) : Nat :=
  mramBase (qHub q) + 0x100000 + ledgerIx q * 0x10000 + seq.toNat % x.depth
/-- The outcome-map byte (R524). -/
def mapByte (x : Queue) (c : Cmd) (rec_ : Bool) : Byte :=
  BitVec.ofNat 8 (c.status.code + 16 * phaseBit x c.seq + 32 * b2n rec_)
/-- Map bytes that the journal buffer of a hub die holds (R526). -/
def journalCap : Nat := 262144

/-- The journal drains n map bytes, oldest first, into the outcome maps (R526). -/
def drainJournal (s : State) (h : Hub) : Nat → State
  | 0 => s
  | n + 1 =>
    match (s.hub h).led.journal with
    | [] => s
    | (o, b) :: rest =>
      drainJournal (wrPiece (s.modHub h fun x => { x with led := { x.led with journal := rest } }) none {} o [b]) h n

/-- A class-0 command within its reservation is judged against the bounds of R496 (R497). -/
def c0Check (s : State) (q : QIdx) (c : Cmd) : State :=
  let h := qHub q
  let p := pgKey h.val ixQmh
  let recov := (mget {} (s.hub h).part.parts (s.queue q).part.toNat).recovery
  if !c.c0res || s.doff.active || recov || (s.hub h).gov.cutActive then s
  else match c.startT with
    | none => s
    | some t =>
      let s := s.count p 0x0A0 1
      let exec_ := c.endT - t - (c.uncountedSum - c.preUnc)
      if us 20 < t - c.c0Ref ∨ us (c.cost + 25) < exec_ then s.count p 0x0A8 1 else s

/-- FAULT_INFO and FAULT_VA of a command's fault. -/
def faultInfo (x : Queue) (c : Cmd) : Queue :=
  { x with fiSeq := c.seq, fiIdx := c.fidx, fiCause := c.cause, fiStatus := c.status.code, fiVa := c.faultVa }

/-- A queue enters FAULT_WAIT with the command that faulted (R175, R176). -/
def enterFaultWait (s : State) (q : QIdx) (c : Cmd) : State :=
  let x := faultInfo (s.queue q) c
  let s := s.setQueue q { x with st := .faultWait, fwAt := s.now }
  let s := putCmd s q { c.beginStall cFaultWait c.endT with phase := .faultWait }
  let s := s.count (qmPage q) 0x098 1
  if x.faultEn then queueIrq s q else s

/-- A queue's record is written or has failed (written tells which): the command leaves the queue, DONE advances, and what
follows from it takes place (R156, R157, R161, R164, R175, R183, R497, R526): FAULT_INFO shows every written end of badEnd, and a STEP_END
entry counts as completed although its record failed. (DEDUCED, log entries 37, 129 and 131) -/
def finishRecord (s : State) (q : QIdx) (c : Cmd) (written : Bool) : State :=
  let x := s.queue q
  let h := qHub q
  let s := if c.hdr.knot then sendMark s q c false else s
  let s := s.modHub h fun y => { y with led := { y.led with
    journal := y.led.journal ++ [(mapOff x q c.seq, mapByte x c written)] } }
  let s := s.setQueue q { x with cmds := x.cmds.drop 1, done := x.done + 1
                                 segDone := match c.seg with
                                   | some j => if c.hdr.stepEnd && x.stepIn then j + 1 else x.segDone
                                   | none => x.segDone }
  let s := if written then s.count (qmPage q) 0x090 1 else s
  let s := if written && x.cmplEn then
      if x.coal ≤ x.coalCnt then queueIrq (s.modQueue q fun y => { y with coalCnt := 0 }) q
      else s.modQueue q fun y => { y with coalCnt := y.coalCnt + 1 }
    else s
  let s := if written then s else queueError s q errCmpl c.seq c.fidx c.status.code (recCause c) (x.recordVa c.seq)
  let s := if badEnd c.status ∧ written then s.modQueue q fun y => faultInfo y c else s
  let s := if badEnd c.status ∧ !c.abandoned ∧ x.policy ≠ .skip ∧
      ((s.queue q).st = .running ∨ ((s.queue q).st = .draining ∧ (s.queue q).cmds ≠ [])) then
      (let s := s.modQueue q fun y => { y with st := .halted }
       if x.faultEn then queueIrq s q else s)
    else s
  let s := c0Check s q c
  let s := stepEndCheck s h x.stepGrp
  let s := settle s q
  let s := govBallast (dispatchHeld s h) h
  gateReady s q

/-- The oldest admitted command of a queue, if it has ended, receives its record (R164–R170); under RESUME a resumable fault waits
instead (R175).  The record waits for journal space (R526) and, on a ring in another package, for its acknowledgement. -/
def completeOne (s : State) (q : QIdx) : State :=
  let x := s.queue q
  let h := qHub q
  match x.cmds with
  | [] => if x.st = .reset then settle s q else s
  | c :: _ =>
    if c.phase ≠ .ended || c.recSent then s
    else if resumable x c && !s.doff.stopped then enterFaultWait s q c
    else if journalCap ≤ (s.hub h).led.journal.length then
      if c.jstall then s else (putCmd s q { c with jstall := true }).count (pgKey h.val ixLed) 0x098 1
    else
      let va := x.recordVa c.seq
      match vaCheck s h x.ctx (.engine q) false true 0 va 32 with
      | .bad k a =>
        finishRecord (xltFault (countWalks s h x.ctx va 32 (decide (cXltMiss ≤ k ∧ k ≤ cXltWalk))) q k a) q c false
      | .fw i f k a => finishRecord (logFw s i f k a (.engine q)) q c false
      | .ok spans =>
        match sharedWait s spans with
        | some s => s
        | none =>
          let s := countWalks s h x.ctx va 32 false
          match spans with
          | [sp] =>
            if isLocal s sp.pa then
              if memBusy s (offOf sp.pa) then s
              else finishRecord (writeMem s none sp.acc (offOf sp.pa) (recordBytes x q c)) q c true
            else
              let s := putCmd s q { c with recSent := true }
              sendWrite s (queuePart s q) c.cls (.cmd q c.seq 0) sp.acc.far sp.pa (recordBytes x q c)
          | _ => finishRecord s q c false

/-- Records are written until none can be. -/
def completeAll (s : State) (q : QIdx) : Nat → State
  | 0 => s
  | n + 1 =>
    let s' := completeOne s q
    if s'.queue q = s.queue q then s' else completeAll s' q n

/-! ## Timeouts, stops and reset -/

/-- The fault index of an element-indexed command stopped before its end: the lowest element not performed in full (R508, R576). -/
def stopIdx (c : Cmd) : BitVec 16 :=
  if elementIndexed c.hdr.opcode ∧ c.startT.isSome then
    BitVec.ofNat 16 ((c.unacked.map fun u => u.2.2.1).foldl min c.prog)
  else 0xFFFF

/-- An atomic whose update has been performed ends OK whatever stops its queue (R337). -/
def updated (c : Cmd) : Bool := decide (c.hdr.opcode = opAtomic) && c.performed

/-- A command that has not ended is stopped with a status and cause (R163, R506, R557).  An atomic whose update has been performed
goes on until its returned value is performed (R333, R337, R345); a doff does not wait for that. (DEDUCED, log entry 115) -/
def stopCmd (s : State) (q : QIdx) (c : Cmd) (st : Status) (cause : Nat) : State :=
  if c.phase = .ended then s
  else if updated c then (if c.unacked.isEmpty || decide (st = .doff) then endCmd s q c .ok 0 0xFFFF 0 0 else s)
  else
    let idx := if c.phase = .faultWait then c.fidx else stopIdx c
    let waited := match c.stallNow with
      | some (k, t0) => if k = cFaultWait then c.waited + (s.now - t0) else c.waited
      | none => c.waited
    endCmd s q { c with waited := waited } st cause idx 0 0

/-- Every command of a queue that has not ended is stopped. -/
def stopAll (s : State) (q : QIdx) (st : Status) (cause : Nat) : State :=
  (s.queue q).cmds.foldl (fun s c => stopCmd s q c st cause) s

/-- A queue reset (R557, R558). -/
def queueReset (s : State) (q : QIdx) : State :=
  if s.doff.stopped then s
  else
    let s := s.modQueue q fun x => { x.leaveWait s.now with st := .reset }
    let s := leaveSteps s q
    let s := stopAll s q .timeout cTimeout
    let s := completeAll s q 256
    settle s q

/-! ## Enable, disable and resume (R156, R175, R176, R479) -/

/-- Whether a queue may be enabled (R144, R156, R479). -/
def enableOk (s : State) (q : QIdx) : Bool :=
  let x := s.queue q
  let h := qHub q
  let ring := x.depth * (if x.dx2 then 64 else 32)
  let owner := hankOwner s h
  let fn := mget {} (s.hub h).part.funcs x.ctx
  x.bound && decide (x.ringBase.toNat % max 4096 ring = 0 ∧ x.cmplBase.toNat % max 4096 (32 * x.depth) = 0) &&
    decide (owner = some x.part.toNat) &&
    (if x.ctx < 32 then fn.bound && decide (fn.part = x.part) else decide (x.ctx = 32 + x.part.toNat))

/-- ENABLE is written 1 (R156, R157, R181). -/
def enableQueue (s : State) (q : QIdx) : State :=
  let x := { s.queue q with enable := true }
  let s := s.setQueue q x
  if x.st ≠ .disabled then s
  else if enableOk s q then joinSteps (s.setQueue q { x with st := .running, err := 0 }) q
  else s.setQueue q { x with err := errConfig }

/-- ENABLE is written 0 (R156). -/
def disableQueue (s : State) (q : QIdx) : State :=
  let x := (s.queue q).leaveWait s.now
  let st := match x.st with
    | .running | .halted | .faultWait => QState.draining
    | y => y
  settle (s.setQueue q { x with enable := false, st := st }) q

/-- FAULT_WAIT ends: the queue runs on, but one that drains or is in ERROR meanwhile keeps its state. -/
def endWaitState (s : State) (q : QIdx) : State :=
  s.modQueue q fun x => { x.leaveWait s.now with st := if x.st = .faultWait then runState x else x.st }

/-- The command that waits in FAULT_WAIT continues from the element that faulted (R176), or with its operand block. -/
def faultRetry (s : State) (q : QIdx) : State :=
  let s := endWaitState s q
  let x := s.queue q
  match x.cmds.find? fun c => decide (c.phase = .faultWait) with
  | some c => putCmd s q { c with phase := .running, waiting := true, status := .ok, cause := 0, fidx := 0xFFFF
                                  prog := if c.fidx = 0xFFFF then c.prog else c.fidx.toNat }
  | none => s

/-- The record of the command that waits in FAULT_WAIT is written with what FAULT_INFO holds (R176). -/
def faultAbandon (s : State) (q : QIdx) : State :=
  let s := endWaitState s q
  match (s.queue q).cmds.find? fun c => decide (c.phase = .faultWait) with
  | some c => completeOne (putCmd s q { c with phase := .ended, endT := s.now, abandoned := true }) q
  | none => s

/-- RESUME is written 1 (R175, R176). A command that waits in FAULT_WAIT is reached too where its queue drains or is in ERROR.
(DESIGN CHOICE, log entry 120) -/
def resumeQueue (s : State) (q : QIdx) : State :=
  let x := s.queue q
  if x.cmds.any fun c => decide (c.phase = .faultWait) then if x.resumeAct then faultAbandon s q else faultRetry s q
  else if x.st = .halted then gateReady (settle (s.setQueue q { x with st := runState x }) q) q
  else s

/-- A doorbell write of value v (R154). -/
def ringBell (s : State) (q : QIdx) (v : W32) : State :=
  let x := s.queue q
  if x.st = .reset then s.count (qmPage q) 0x0C8 1
  else
    let d := (v - x.prod).toNat
    if d = 0 then s
    else if 2 ^ 31 < d then s.count (qmPage q) 0x080 1
    else if (v - x.ack).toNat ≤ x.depth then s.setQueue q { x with prod := v }
    else queueError s q errOverflow v 0 0 0 0

/-! ## Step groups (R181–R188) -/

/-- The queues of a step group. -/
def grpQueues (s : State) (h : Hub) (g : Fin 16) : List QIdx :=
  (listedQueues s h).filter fun q => (s.queue q).stepGrp = g

/-- EN of a step group is written 1: counting starts at 0 and its members join (R181, R187). -/
def enableGrp (s : State) (h : Hub) (g : Fin 16) : State :=
  if (s.grp h g).en then s
  else
    let s := s.modGrp h g fun x => { x with en := true, step := 0, started := 0, st := .awaiting, startLt := 0 }
    (grpQueues s h g).foldl (fun s q => refreshReady (joinSteps s q) q) s

/-- EN of a step group is written 0: every waiting command is released, and a step that is due does not start (R184, R187). -/
def disableGrp (s : State) (h : Hub) (g : Fin 16) : State :=
  if !(s.grp h g).en then s
  else
    let s := s.modGrp h g fun x => { x with en := false, st := .idle }
    let s := { s with due := s.due.filter fun e => decide (e ≠ .step h g) }
    (grpQueues s h g).foldl (fun s q =>
      gateReady (s.modQueue q fun x => { x with stepIn := false, cmds := x.cmds.map fun c => { c with seg := none } }) q) s

end Sys2Proof.Machine
end

