-- ==== Sys2Proof/Machine/CacheCtl.lean ====
section
/-! DEFINITION. Control of the stack and hub caches (R356–R367), of the gather caches (R370, R371), of the scratchpad (R375) and of
the XLT contexts (R139, R140, R652, R653). -/

namespace Sys2Proof.Machine

/-! ## Stack and hub caches -/

/-- A sequence error of cache i (R360). -/
def seqError (s : State) (i why : Nat) : State :=
  ((s.modCache i fun c => { c with seqWhy := why }).event (cachePage i) 3).count (cachePage i) 0x0D8 1

/-- EN is written 1 (R357, R359, R360): of two reasons that apply the lower is shown. -/
def cacheOn (s : State) (i : Nat) : State :=
  match (s.cache i).st with
  | .enabled => s
  | .disabled => if (s.cache i).clean then s.modCache i fun c => { c with st := .enabled, clean := false } else seqError s i 1
  | _ => seqError s i (if (s.cache i).clean then 7 else 1)

/-- Every dirty sector of a cache goes to memory; every line stays valid and clean (R361). -/
def writeBackAll (s : State) (i : Nat) : State :=
  (s.cache i).lines.foldl (fun s l =>
    let (s, l) := writeBackLine s i l
    s.modCache i fun c => putLine c l) s

/-- A draining cache has written back its dirty sectors and is DISABLED (R357).  The tags it leaves behind are never read again
(R356, R359) and are dropped. -/
def drainEnd (s : State) (i : Nat) : State :=
  if (s.cache i).st = .draining then (writeBackAll s i).modCache i fun c => { c with st := .disabled, lines := [] } else s

/-- Why a maintenance operation may not start (R360). -/
def maintWhy (c : Cache) : Option Nat :=
  if c.st = .draining ∨ c.st = .carving ∨ c.maint.isSome ∨ c.plBusy then some 4 else none
/-- A maintenance operation starts (R361). -/
def maintStart (s : State) (i op : Nat) : State :=
  s.modCache i fun c =>
    { c with maintOp := op, maint := some (op, decide (c.st = .disabled)), lock := if op = 0 then c.lock else 0 }

/-- The running maintenance operation completes (R358, R361). -/
def maintEnd (s : State) (i : Nat) : State :=
  match (s.cache i).maint with
  | none => s
  | some (op, dis) =>
    let s := if dis ∧ op = 1 then s else writeBackAll s i
    let s := s.modCache i fun c =>
      { c with maint := none, lines := if op = 0 then c.lines else []
               clean := if op ≠ 0 ∧ dis then true else c.clean }
    s.event (cachePage i) 0

/-- Package offset of the first byte of a cache's carve-out window. -/
def carveBase (i : Nat) : Nat :=
  if i < 8 then scrCarveBase (Fin.ofNat 8 i) else hubCarveBase (Fin.ofNat 2 (i - 8))

/-- Why a write of UNITS may not be accepted (R360, R363). -/
def carveWhy (i : Nat) (c : Cache) (n : Nat) : Option Nat :=
  if c.st ≠ .disabled ∨ !c.clean then some 2 else if maxUnits i < n then some 3 else none
/-- UNITS of CC_CARVE is written (R363): units that go are unmapped at once and their contents lost. -/
def carveWrite (s : State) (i n : Nat) : State :=
  let c := s.cache i
  let keep := min c.cur n
  let s := zeroRange s (carveBase i + keep * unitSize i) ((c.cur - keep) * unitSize i)
  s.modCache i fun c => { c with st := .carving, units := n, cur := keep, lines := [] }

/-- CC_MAINT and CC_CARVE are written, one of them or both at once: what is refused raises one sequence error with the lowest reason that
applies (R360). (DEDUCED, log entry 134) -/
def maintCarve (s : State) (i : Nat) (start : Option Nat) (units : Option Nat) : State :=
  let c := s.cache i
  let mw := start.bind fun _ => maintWhy c
  let cw := units.bind (carveWhy i c)
  let s := match start, mw with
    | some op, none => maintStart s i op
    | _, _ => s
  let s := match units, cw with
    | some n, none => carveWrite s i n
    | _, _ => s
  match cw, mw with
  | some w, _ => seqError s i w
  | none, some w => seqError s i w
  | none, none => s

/-- The carve change completes: added units read zero and are mapped (R363). -/
def carveEnd (s : State) (i : Nat) : State :=
  let c := s.cache i
  if c.st = .carving then
    let s := zeroRange s (carveBase i + c.cur * unitSize i) ((c.units - c.cur) * unitSize i)
    (s.modCache i fun c => { c with st := .disabled, cur := c.units
                                    lock := c.lock &&& BitVec.ofNat 24 (2 ^ (cacheWays i - 2 * c.units) - 1) }).event (cachePage i) 1
  else s

/-- Populated bytes behind a cache. -/
def cacheRange (s : State) (i : Nat) : Nat := if i < 8 then hbmStack else gddrSize s

/-- The ways of a mask that are not carved. -/
def wayList (s : State) (i : Nat) (mask : BitVec 24) : List Nat :=
  (List.range (uncarved s i)).filter fun w => mask.getLsbD w

/-- CC_PRELOAD_CTL.START is written 1 (R360, R364). -/
def preloadStart (s : State) (i : Nat) (ways : BitVec 24) : State :=
  let c := s.cache i
  let b := c.plBase.toNat
  let n := c.plLen.toNat
  if c.st ≠ .enabled ∨ c.plBusy ∨ c.maint.isSome then seqError s i 5
  else if b % 256 ≠ 0 ∨ n % 256 ≠ 0 ∨ n < 256 ∨ cacheRange s i < b + n ∨ (wayList s i ways).isEmpty then seqError s i 6
  else s.modCache i fun c => { c with plWays := ways, plBusy := true, plRun := (b, n, ways) }

/-- The memory reads a sector that a cache is about to hold (R354, R387). -/
def fillErrors (s : State) (i o : Nat) : State :=
  if s.upsets.isEmpty then s else eccRead (clearUpset s (arrayKey i o)) (cacheBase i + o)

/-- One line of a preload (R364, R365); loaded are the lines that this preload has placed.  A locked way neither gives up its line nor
takes one. (DEDUCED, log entry 19) -/
def preloadLine (s : State) (i : Nat) (ways : List Nat) (loaded : List Nat) (num : Nat) : State × List Nat :=
  let fill (s : State) (l : Line) : State :=
    let (t, s) := s.tick
    let s := (List.range 8).foldl (fun s k => if l.has k then s else fillErrors s i (256 * l.num + 32 * k)) s
    let l := (List.range 8).foldl (fun l k => if l.has k then l else fillSector s i l k) { l with prio := 2, stamp := t }
    s.modCache i fun c => putLine c l
  let place (s : State) : State × List Nat :=
    let set := setOf i num
    match ways.find? fun w => !(s.cache i).lock.getLsbD w && match lineAt (s.cache i) i set w with
      | some l => !loaded.contains l.num
      | none => true with
    | some w =>
      let s := match lineAt (s.cache i) i set w with
        | some old => evict s i old
        | none => s
      (fill s { num := num, way := w, valid := 0, dirty := 0, poison := 0, prio := 2, stamp := 0, data := [] }, num :: loaded)
    | none => ((s.count (cachePage i) 0x0B0 1).event (cachePage i) 4, loaded)
  match findLine (s.cache i) num with
  | some l => if ways.contains l.way then (fill s l, num :: loaded) else place (evict s i l)
  | none => place s

/-- The first n lines of the range that the running preload was started for. -/
def preloadLines (s : State) (i n : Nat) : State :=
  let (b, len, mask) := (s.cache i).plRun
  let nums := (List.range (min n (len / 256))).map fun k => b / 256 + k
  (nums.foldl (fun (acc : State × List Nat) n => preloadLine acc.1 i (wayList acc.1 i mask) acc.2 n) (s, [])).1

/-- The preload completes (R364). -/
def preloadEnd (s : State) (i : Nat) : State :=
  let c := s.cache i
  if c.plBusy then
    ((preloadLines s i (c.plRun.2.1 / 256)).modCache i fun c => { c with plBusy := false }).event (cachePage i) 2
  else s

/-- EN is written 0 (R357, R366): a preload that runs stops at its current line. (DESIGN CHOICE, log entry 107) -/
def cacheOff (s : State) (i : Nat) : State :=
  match (s.cache i).st with
  | .enabled =>
    let s := if (s.cache i).plBusy then
        preloadLines { s with fresh := s.fresh + 1 } i (Config.preloaded s.fresh % ((s.cache i).plRun.2.1 / 256 + 1))
      else s
    s.modCache i fun c => { c with st := .draining, plBusy := false }
  | _ => s

/-- CC_LOCK.MASK as it reads: bits of carved ways are zero (R365). -/
def lockMask (s : State) (i : Nat) : BitVec 24 := (s.cache i).lock &&& BitVec.ofNat 24 (2 ^ uncarved s i - 1)

/-! ## Gather caches -/

/-- Every entry of an engine's gather cache goes, and CLEAN is set; the invalidation counts under a counter (R370, R371). -/
def gcFlush (s : State) (e off : Nat) : State :=
  (s.modGc e fun g => { g with ents := [], clean := true }).count (engPage e) off 1

/-- GC_CTL is written with EN and INV (R371). -/
def gcWrite (s : State) (e : Nat) (en inv : Bool) : State :=
  let s := if inv then gcFlush s e 0x0E8 else s
  if en then
    if (s.gc e).clean then s.modGc e fun g => { g with en := true, clean := false }
    else s.count (engPage e) 0x0F0 1
  else if (s.gc e).en then gcFlush (s.modGc e fun g => { g with en := false }) e 0x0E8
  else s

/-- A write of n bytes at a frame address by the engine invalidates the entries of the blocks it meets (R370). -/
def gcDrop (s : State) (e pa n : Nat) : State :=
  if (s.gc e).ents.any (fun x => decide (64 * x.block < pa + n ∧ pa < 64 * x.block + 64)) then
    s.modGc e fun g => { g with ents := g.ents.filter fun x => !decide (64 * x.block < pa + n ∧ pa < 64 * x.block + 64) }
  else s

/-! ## Scratchpad -/

/-- SCR_CTL.ZERO is written 1 (R375). -/
def scrZeroStart (s : State) (n : Tensor) : State := { s with scrZero := mput false n.val true s.scrZero }
/-- The zeroing of the scratchpad SRAM completes (R375, R392). -/
def scrZeroEnd (s : State) (n : Tensor) : State :=
  if mget false s.scrZero n.val then
    { zeroRange s (scrBase n) 0x8000000 with scrZero := mput false n.val false s.scrZero }
  else s

/-! ## Translation contexts -/

/-- The XLT page of a hub die. -/
def xltPage (h : Hub) : Nat := pgKey h.val ixXlt
/-- The XLT of hub die h changed by f. -/
def State.modXlt (s : State) (h : Hub) (f : Xlt → Xlt) : State := s.modHub h fun x => { x with xlt := f x.xlt }
/-- Context c of hub die h changed by f. -/
def State.modCtx (s : State) (h : Hub) (c : Nat) (f : Ctx → Ctx) : State :=
  s.modXlt h fun x => { x with ctxs := mput {} c (f (mget {} x.ctxs c)) x.ctxs }

/-- XLT_INV_CTL.START is written 1 (R139, R653): an invalidation whose limits are broken is performed as ALL. -/
def invStart (s : State) (h : Hub) : State :=
  s.modXlt h fun x =>
    if x.inv.isSome then { x with overrun := true }
    else
      let va := x.invVa.toNat
      let n := x.invLen.toNat
      let all := x.invAll || decide (va % 4096 ≠ 0 ∨ n % 4096 ≠ 0 ∨ n < 4096)
      { x with inv := some (x.invCtx.toNat, all, va, n) }

/-- Whether an access that a context of hub die h has translated is still to be performed or to fault (R139): of a queue's commands,
ring or records, of a creel, or of a host function. (DEDUCED, log entry 8) -/
def ctxBusy (s : State) (h : Hub) (ctx : Nat) : Bool :=
  let mine (q : QIdx) : Bool := decide (qHub q = h ∧ (s.queue q).ctx = ctx)
  s.queues.any (fun (k, x) => mine (Fin.ofNat 1024 k) &&
    (!x.fetchNeed.isEmpty || decide (s.now < x.lateUntil ∧ x.lateW ≠ []) ||
      x.cmds.any fun c => !c.need.isEmpty || !c.unacked.isEmpty || c.recSent)) ||
  s.creels.any (fun (_, x) => mine x.queue && x.fetches.any fun y => y.2.any fun f => !f.need.isEmpty) ||
  (List.finRange 4).any fun p => decide (portHub p = h) &&
    ((s.hlk p).pend.any (fun y => decide (y.fn.val = ctx)) ||
      (s.hlk p).posted.any fun y =>
        let e := mget (0, false) (s.hlk p).vfMap y.1
        e.2 && decide (e.1.toNat = ctx ∧ s.now < y.2.2 + ms 2))

/-- Translations of a context leave the caches of an XLT: all of them, or those that meet a range (R139, R140). -/
def dropHeld (s : State) (h : Hub) (ctx : Nat) (all : Bool) (va n : Nat) : State :=
  s.modXlt h fun x => { x with held := x.held.filter fun e =>
    !(decide (e.ctx = ctx) && (all || decide (e.va < va + n ∧ va < e.va + 2 ^ e.sh))) }

/-- The invalidation that runs completes, once nothing that used an old translation is under way (R139, R652). -/
def invEnd (s : State) (h : Hub) : State :=
  match (s.hub h).xlt.inv with
  | some (c, all, va, n) =>
    if ctxBusy s h c then s
    else (((dropHeld s h c all va n).modXlt h fun x => { x with inv := none }).count (xltPage h) 0x0A0 1).event (xltPage h) 0
  | none => s

/-- XLT_CTX_ROOT of context c is written with EN and ROOT (R140, R653). -/
def ctxWrite (s : State) (h : Hub) (c : Nat) (en : Bool) (root : BitVec 40) : State :=
  s.modCtx h c fun x =>
    let root' := if x.en then x.root else root
    if en then (if x.disabling then { x with root := root' } else { x with en := true, root := root' })
    else if x.en then { x with en := false, disabling := true } else { x with root := root' }

/-- The disable of context c completes, under the same condition as an invalidation (R140). -/
def ctxDisabled (s : State) (h : Hub) (c : Nat) : State :=
  if (mget {} (s.hub h).xlt.ctxs c).disabling && !ctxBusy s h c then
    (dropHeld s h c true 0 0).modCtx h c fun x => { x with disabling := false }
  else s

end Sys2Proof.Machine
end

