-- ==== Sys2Proof/Machine/CreelCtl.lean ====
section
/-! DEFINITION. The creel's occurrences, slots, layer advance and disarm (R401–R411), the gate of its consumers (R409–R411), and
the arrival of notices at a combine group (R428–R431, R434). -/

namespace Sys2Proof.Machine

/-! ## Occurrences (R403–R407) -/

/-- The entries of a buffer, in table order. -/
def Creel.entsOf (x : Creel) (b : Nat) : List CreelEnt := x.ents.filter fun e => e.buf = b
/-- Occurrences of a buffer at positions below a, counted from position 0. -/
def Creel.below (x : Creel) (b a : Nat) : Nat := ((x.entsOf b).map fun e => (a + x.layers - 1 - e.layer) / x.layers).sum
/-- The number m of the first occurrence of a buffer at or after position a (R404). -/
def Creel.occIx (x : Creel) (b a : Nat) : Nat := x.below b (max a x.aArm) - x.below b x.aArm
/-- The position and the entry of occurrence m of a buffer (R404). -/
def Creel.occ (x : Creel) (b m : Nat) : Option (Nat × CreelEnt) :=
  let l := x.entsOf b
  let i := m + x.below b x.aArm
  (l[i % l.length]?).map fun e => (i / l.length * x.layers + e.layer, e)

/-- The key of a slot. -/
def slotKey (b j : Nat) : Nat := 256 * b + j
/-- Slots of a buffer. -/
def Creel.slotsOf (x : Creel) (b : Nat) : Nat := match x.bufs[b]? with | some d => d.slots | none => 0
/-- The last fetch of a slot. -/
def Creel.fetchOf (x : Creel) (b j : Nat) : Option Fetch := mget none x.fetches (slotKey b j)

/-- The occurrence that slot j of buffer b stands for now: the first unreleased one that uses it (R404, R406). (DEDUCED, log entry 43) -/
def Creel.slotOcc (x : Creel) (b j : Nat) : Option (Nat × CreelEnt) :=
  let n := x.slotsOf b
  let m0 := x.occIx b x.aNow
  if (x.entsOf b).isEmpty ∨ n = 0 then none else x.occ b (m0 + (j + n - m0 % n) % n)

/-- STATE and REASON of a slot (R407, R413). -/
def Creel.slotState (x : Creel) (b j : Nat) : Nat × Nat :=
  match x.slotOcc b j with
  | none => (0, 0)
  | some (a, _) =>
    match x.fetchOf b j with
    | none => (1, 0)
    | some f =>
      if f.occ ≠ a then (1, 0)
      else match f.st with
        | .filling => (2, 0)
        | .ready => (3, 0)
        | .failed r => (4, r)

/-- Whether a fetch of a slot is in flight. -/
def Creel.busy (x : Creel) (b j : Nat) : Bool := match x.fetchOf b j with | some f => decide (f.st = .filling) | none => false
/-- Whether any fetch of the creel is in flight. -/
def Creel.inFlight (x : Creel) : Bool := x.fetches.any fun e => match e.2 with | some f => decide (f.st = .filling) | none => false

/-- What may be issued next for a buffer: position, buffer, slot, entry, where the first unissued occurrence is due and its slot
free (R405). -/
def Creel.nextOf (x : Creel) (b : Nat) : Option (Nat × Nat × Nat × CreelEnt) :=
  let n := x.slotsOf b
  let m0 := x.occIx b x.aNow
  if (x.entsOf b).isEmpty ∨ n = 0 then none
  else
    let issued (m : Nat) : Bool := match x.occ b m, x.fetchOf b (m % n) with
      | some (a, _), some f => decide (f.occ = a)
      | _, _ => false
    match (List.range n).find? fun k => !issued (m0 + k) with
    | none => none
    | some k =>
      match x.occ b (m0 + k) with
      | some (a, e) => if a ≤ x.aNow + e.lead ∧ !x.busy b ((m0 + k) % n) then some (a, b, (m0 + k) % n, e) else none
      | none => none

/-- The occurrence that the copy engine issues next: the first by position, then by table order (R404, R405). -/
def Creel.next (x : Creel) : Option (Nat × Nat × Nat × CreelEnt) :=
  let c := (List.range x.nbuf).filterMap x.nextOf
  let ix (e : CreelEnt) : Nat := x.ents.findIdx fun y => y = e
  c.foldl (fun best y => match best with
    | none => some y
    | some z => if y.1 < z.1 ∨ (y.1 = z.1 ∧ ix y.2.2.2 < ix z.2.2.2) then some y else some z) none

/-- Whether an armed creel has an occurrence to issue now. -/
def creelReady (x : Creel) : Bool := decide (x.st = 1) && x.next.isSome

/-- By how much a layer counter's change from u to v advances a creel of n layers (R403). -/
def advBy (n u v : Nat) : Nat := (v % n + n - u % n) % n
/-- The followed layer counter, which was u when the cycle began and is now v, becomes v' (R215, R403): the creel sees only what
results of the changes of one cycle. -/
def creelAdvance (s : State) (h : Hub) (g : Fin 16) (u v v' : Nat) : State :=
  (List.finRange 16).foldl (fun s e =>
    if tensorHub (e.val / 2) = h then
      let x := s.creel e
      if x.st ≠ 0 ∧ x.group = g then
        s.modCreel e fun x => { x with aNow := max x.aArm (x.aNow - advBy x.layers u v) + advBy x.layers u v' }
      else s
    else s) s

/-- LAYER of a step group is written by a queue's STEP (some) or incremented by a step start (none) (R214, R215): in one cycle a
STEP overrides the increment, and of several STEPs that of the highest queue stays. (DEDUCED, log entry 77) -/
def layerWrite (s : State) (h : Hub) (g : Fin 16) (v : BitVec 16) (by_ : Option Nat) : State :=
  let x := s.grp h g
  let (u, old) := match x.chg with
    | some (t, u, b) => if t = s.now then (u, b) else (x.layer.toNat, none)
    | none => (x.layer.toNat, none)
  let yields := match old, by_ with
    | some a, some b => decide (b < a)
    | some _, none => true
    | none, _ => false
  if yields then s
  else
    creelAdvance (s.modGrp h g fun x => { x with layer := v, chg := some (s.now, u, by_) }) h g u x.layer.toNat v.toNat

/-! ## Consumers (R409–R411) -/

/-- Bytes at a device virtual address as the table walk and the coherent memory show them now, without effect; none where they
are not in this package's memory. -/
def peekVa (s : State) (h : Hub) (ctx va n : Nat) : Option (List Byte) :=
  match xlate s h ctx va true false with
  | .ok pa _ => if isLocal s pa && !isReg (offOf pa) then some (coherentBytes s (offOf pa) n) else none
  | .fault _ _ => none

/-- Bytes of an element in a format of at least one byte. -/
def eBytes (fmt : Nat) : Nat := elemBits fmt / 8

/-- The KV pages that an ATTN reads, as ranges (R414–R416, R409). -/
def attnPages (s : State) (h : Hub) (ctx : Nat) (w : List Nat) : List (Nat × Nat) :=
  match peekVa s h ctx (wd w 1) 64 with
  | none => []
  | some hd =>
    let fmt := leAt hd 0 1
    let base := leAt hd 8 4
    let first := bits (wd w 2) 0 32
    let n := bits (wd w 2) 32 32
    let p0 := (first - base) / 256
    let p1 := (first + n - 1 - base) / 256
    let size := 512 * bits (wd w 4) 16 16 * eBytes fmt
    (List.range (p1 + 1 - p0)).filterMap fun k =>
      match peekVa s h ctx (wd w 1 + 64 + 8 * (p0 + k)) 8 with
      | some e => some (va48 (leNat e), va48 (leNat e) + size)
      | none => none

/-- The weight blocks that the rules of an RB_MATMUL name, as ranges (R463, R409). -/
def rbBlocks (s : State) (h : Hub) (ctx : Nat) (w : List Nat) : List (Nat × Nat) :=
  let blk := elemsBytes (fmt4 (wd w 3)) (bits (wd w 1) 16 16 * bits (wd w 1) 32 16)
  ((List.range (bits (wd w 1) 0 16)).filterMap fun j =>
    match peekVa s h ctx (wd w 0 + 16 * j) 16 with
    | some r => let o := leAt r 8 1; some (va48 (wd w 3) + o * blk, va48 (wd w 3) + (o + 1) * blk)
    | none => none).dedup

/-- The guarded source hulls of a command (R409). -/
def guarded (s : State) (h : Hub) (ctx : Nat) (hd : Hdr) (w : List Nat) : List (Nat × Nat) :=
  if hd.opcode = opMatmul then [(tileOf w 0).hull, (tileOf w 2).hull]
  else if hd.opcode = opVec then
    if 1 ≤ hd.subop ∧ hd.subop ≤ 4 then [(tileOf w 0).hull, (tileOf w 2).hull] else [(tileOf w 0).hull]
  else if hd.opcode = opRb then rbBlocks s h ctx w
  else if hd.opcode = opAttn then
    let q := va48 (wd w 0)
    (q, q + bits (wd w 4) 0 16 * bits (wd w 4) 16 16 * eBytes (fmt4 (wd w 0))) :: attnPages s h ctx w
  else if hd.opcode = opCopy then [(copyHulls hd w).1]
  else []

/-- What the creel says to a consumer. -/
inductive Gate where
  | go
  | wait (e : Fin 16) (cause : Nat)
  | fail (e : Fin 16)
  deriving DecidableEq, Repr

/-- The cause of a wait on a slot whose fetch is in flight (R410). -/
def fillCause (s : State) (h : Hub) (ctx : Nat) (e : CreelEnt) : Nat :=
  if e.store then cLateStore
  else match xlate s h ctx e.src true false with
    | .ok pa _ =>
      if isLocal s pa then (match regionOf s (offOf pa) with | .gddr _ _ => cLateGddr | _ => cLateFabric) else cLateFabric
    | .fault _ _ => cLateFabric

/-- The slots of a creel that a list of ranges meets, lowest first. -/
def Creel.slotsMet (x : Creel) (hulls : List (Nat × Nat)) : List (Nat × Nat) :=
  (List.range x.nbuf).flatMap fun b =>
    match x.bufs[b]? with
    | none => []
    | some d => ((List.range d.slots).filter fun j =>
        hulls.any fun r => meets r (d.dst + j * d.slotBytes, d.dst + (j + 1) * d.slotBytes)).map fun j => (b, j)

/-- The slots that a command's guarded hulls meet, with the creels of its tensor die that hold them (R409). -/
def metSlots (s : State) (q : QIdx) (c : Cmd) : List (Fin 16 × Nat × Nat) :=
  let ctx := (s.queue q).ctx
  if q.val < 128 then []
  else
    let n := qDie q - 4
    let cps : List (Fin 16) := [Fin.ofNat 16 (2 * n), Fin.ofNat 16 (2 * n + 1)]
    let live := cps.filter fun e => let x := s.creel e; decide (x.st ≠ 0 ∧ (s.queue x.queue).ctx = ctx)
    if live.isEmpty then []
    else
      let hulls := guarded s (qHub q) ctx c.hdr c.words
      live.flatMap fun e => ((s.creel e).slotsMet hulls).map fun p => (e, p.1, p.2)
/-- STATE of a slot of a creel. -/
def metState (s : State) (p : Fin 16 × Nat × Nat) : Nat := ((s.creel p.1).slotState p.2.1 p.2.2).1
/-- Whether a slot is PENDING or FILLING. -/
def unfilled (s : State) (p : Fin 16 × Nat × Nat) : Bool := decide (metState s p = 1 ∨ metState s p = 2)

/-- Whether a command may perform its accesses as far as the creels of its tensor die are concerned (R409–R411). -/
def creelGate (s : State) (q : QIdx) (c : Cmd) : Gate :=
  let met := metSlots s q c
  match met.find? fun p => metState s p = 4 with
  | some p => .fail p.1
  | none =>
    match met.find? (unfilled s) with
    | none => .go
    | some p =>
      if metState s p = 1 then .wait p.1 cScheduleMiss
      else match (s.creel p.1).slotOcc p.2.1 p.2.2 with
        | some (_, e) => .wait p.1 (fillCause s (qHub q) (s.queue q).ctx e)
        | none => .wait p.1 cScheduleMiss

/-- A consumer of a FAILED slot ends DEP_FAILED (R411). (DEDUCED, log entry 82) -/
def depFail (s : State) (q : QIdx) (c : Cmd) (e : Fin 16) : State :=
  endCmd (s.count (engPage (cpEng e)) 0x0B8 1) q c .depFailed cFetchFailed 0xFFFF 0 0

/-! ## Engine reset and DISARM -/

/-- The internal state, the counters and the refused bit of an engine are cleared (R559); groups of a CB become IDLE.
(DEDUCED, log entry 42) -/
def engineClear (s : State) (i : Nat) : State :=
  let s := s.modBlk (engPage i) fun b =>
    { b with cnt := b.cnt.filter fun e => decide (0x0D0 ≤ e.1 ∧ e.1 < 0x0F8) }
  let s := if i = 64 ∨ i = 65 then s.modHub (engHub i) fun x => { x with cbGrps := [], cbSel := [] } else s
  let s := if i < 64 ∧ 6 ≤ i % 8 then s.modCreel (Fin.ofNat 16 (2 * (i / 8) + i % 8 - 6)) fun _ => {} else s
  { s with engRst := mput false i false s.engRst, stopped := mput false (engPage i) false s.stopped }

/-- A DISARM completes once no fetch is in flight: the waiting consumers end, the guards go (R402); a reset of the engine that
waited for it completes (R559). -/
def disarmCheck (s : State) (e : Fin 16) : State :=
  let x := s.creel e
  if x.st = 2 ∧ !x.inFlight then
    let s := s.queues.foldl (fun t (k, y) =>
      let q : QIdx := Fin.ofNat 1024 k
      y.cmds.foldl (fun t c =>
        if c.lateCp.isSome ∧ c.phase = .running ∧ (metSlots s q c).any (fun p => decide (p.1 = e) && unfilled s p) then
          endCmd t q c .depFailed cFetchFailed 0xFFFF 0 0
        else t) t) s
    let s := s.modCreel e fun x => { ({} : Creel) with selBuf := x.selBuf, selSlot := x.selSlot }
    if mget false s.engRst (cpEng e) then engineClear s (cpEng e) else s
  else s

/-- A DISARM begins: no further fetch is issued (R402). -/
def disarmStart (s : State) (e : Fin 16) : State :=
  if (s.creel e).st = 1 then disarmCheck (s.modCreel e fun x => { x with st := 2 }) e else s

/-- An engine reset is asked for (R559): refused, answered by false, unless every queue bound to the engine is DISABLED or RESET. -/
def engineReset (s : State) (i : Nat) : State × Bool :=
  if (s.queues.any fun (k, y) => decide (qEng (Fin.ofNat 1024 k) = i) && y.live) then (s, false)
  else if i < 64 ∧ 6 ≤ i % 8 ∧ (s.creel (Fin.ofNat 16 (2 * (i / 8) + i % 8 - 6))).st ≠ 0 then
    let e : Fin 16 := Fin.ofNat 16 (2 * (i / 8) + i % 8 - 6)
    let s := { s with engRst := mput false i true s.engRst }
    (disarmCheck (disarmStart s e) e, true)
  else (engineClear s i, true)

/-! ## Combine groups (R428–R437) -/

/-- When a command's timeout expires, if it has one and is running (R163). -/
def expiry (x : Queue) (c : Cmd) : Option Nat :=
  match c.startT with
  | some t => if x.timeoutUs = 0 then none else some (t + us x.timeoutUs + c.waited)
  | none => none

/-- An awaited event arrives in the cycle in which the command's timer expires (R577). -/
def timerRace (s : State) (q : QIdx) (c : Cmd) : State :=
  if expiry (s.queue q) c = some s.now then s.count (qmPage q) 0x0C0 1 else s

/-- The COMBINE that has a group open, with its queue. -/
def openCombine (s : State) (h : Hub) (g : Nat) : Option (QIdx × Cmd) :=
  (engineTargets s (64 + h.val)).find? fun p =>
    decide (p.2.phase = .running ∧ p.2.hdr.opcode = opCombine ∧ bits (wd p.2.words 0) 0 16 = g) && p.2.marked

/-- A bad arrival at a CB. -/
def badArrival (s : State) (h : Hub) : State := (s.count (cbPage h) 0x0A0 1).event (cbPage h) 0

/-- The failure of span k is recorded if it is the lowest (R431). -/
def failSpan (f : Option Nat) (k : Nat) : Option Nat := some (match f with | some j => min j k | none => k)

/-- A notice for a span of a group reaches the CB of hub die h (R428, R430, R431, R434). -/
def cbNotice (s : State) (h : Hub) (g k : Nat) (ok : Bool) : State :=
  let p := cbPage h
  if 64 ≤ g ∧ s.boot.feat < 3 then badArrival s h
  else
    let x := s.cbGrp h g
    if x.st = .stale then s.count p 0x098 1
    else if mget false x.spans k then s.count p 0x090 1
    else if x.st = .opened ∧ x.limit ≤ k then badArrival s h
    else
      let s := s.count p (if ok then 0x080 else 0x088) 1
      let s := s.modCbGrp h g fun x =>
        { x with st := if x.st = .opened then .opened else .collecting, spans := mput false k true x.spans
                 fail := if ok then x.fail else failSpan x.fail k }
      if x.st = .opened then
        match openCombine s h g with
        | some (q, c) =>
          let last := (s.cbGrp h g).spans.length = x.limit
          let s := if last ∨ !ok then timerRace s q c else s
          if ok then s else endCmd s q c .depFailed cFetchFailed 0xFFFF 0 0
        | none => s
      else s

/-- CB_GRP_CTL.CLR of a group (R430). -/
def cbClear (s : State) (h : Hub) (g : Nat) : State :=
  if (s.cbGrp h g).st = .opened then s else s.modCbGrp h g fun _ => {}

end Sys2Proof.Machine
end

