-- ==== Sys2Proof/Machine/LineTime.lean ====
section
/-! DEFINITION. The line time units (R56–R81): candidate ticks, the states of R65, the standby unit, adoption of a cycle count, and
the events of the scheduling grid that an LT makes due (R83, R668). -/

namespace Sys2Proof.Machine

/-- The page of the LTU of hub die u. -/
def ltuPage (u : Hub) : Nat := pgKey u.val ixLtu
/-- The LTU of hub die u. -/
def State.ltuOf (s : State) (u : Hub) : Ltu := (s.hub u).ltu
/-- The LTU of hub die u changed by f. -/
def State.modLtu (s : State) (u : Hub) (f : Ltu → Ltu) : State := s.modHub u fun x => { x with ltu := f x.ltu }

/-- The shortest and longest accepted interval in cycles of 10 ns: 15.1515 ms and 22.2222 ms (R56). -/
def ivalOk (n : Nat) : Bool := decide (1515150 ≤ n ∧ n ≤ 2222220)
/-- The nominal cycle in cycles of 10 ns: 256 s / FREQ (R62). -/
def nomCycle (l : Ltu) : Nat := 25600000000 / l.nomFreq.toNat
/-- Two nominal cycles. -/
def twoNom (l : Ltu) : Nat := 51200000000 / l.nomFreq.toNat
/-- A phase read as a signed value (R67). -/
def phaseSigned (p : BitVec 16) : Int := p.toInt

/-! ## The grid (R83, R184, R668) -/

/-- Whether phase p is a grid point of a step group (R184). -/
def gridPoint (x : StepGrp) (p : Nat) : Bool :=
  let per := x.period.toNat
  per = 0 || (decide (x.phase.toNat ≤ p) && decide ((p - x.phase.toNat) % per = 0))

/-- Whether a period in LC falls in the cycle count c (R668). -/
def cycleDue (period c : Nat) : Bool := period ≠ 0 && c % period = 0

/-- The events that the present LT of the active unit makes due, in the order of R83. -/
def dueNow (s : State) : List GridEvent :=
  let l := s.ltu
  let p := l.phase.toNat
  let c := l.cycle.toNat
  let hubs : List Hub := [0, 1]
  let half := decide (p = 0 ∨ p = 0x8000)
  (if half then hubs.map .gov else []) ++ (if half then hubs.map .qos else []) ++
    (hubs.filter fun h => let g := (s.hub h).gov; decide (g.dvfsA.toNat = p ∨ g.dvfsB.toNat = p)).map .dvfs ++
    (if decide (p = l.snapPhase.toNat) && cycleDue l.snapPeriod.toNat c then [.snapshot] else []) ++
    (hubs.flatMap fun h => (((s.hub h).grps.map fun e => (Fin.ofNat 16 e.1 : Fin 16)).filter fun g =>
      let x := s.grp h g
      x.en && decide (x.st = .awaiting) && gridPoint x p).map fun g => .step h g) ++
    (hubs.filter fun h => let d := (s.hub h).led
      decide (p = d.ckPhase.toNat) && cycleDue d.ckPeriod.toNat c).map .ckpt ++
    (if p = 0 then [.scrub] else [])

/-! ## The length of an LT (R65, R67, R71, R74) -/

/-- The length of an LT in 2^-24 of 10 ns: the 65,536th part of the period in force, the nominal cycle while free-running, and
longer or shorter by 1/256 while a phase error is being removed. (DESIGN CHOICE, log entry 44) -/
def ltLen (l : Ltu) : Nat :=
  (if l.st = .freeRun ∨ l.st = .qualify then nomCycle l else l.base) * (if 0 < l.corr then 257 else if l.corr < 0 then 255 else 256)

/-- What is left of a phase error, in 1/256 LT, after n LT of full correction. -/
def corrAfter (n : Nat) (c : Int) : Int := if 0 < c then max 0 (c - n) else min 0 (c + n)

/-- The moment at which the active unit's present LT ends. -/
def ltEnd (s : State) : Nat := s.ltu.lastLt + ltLen s.ltu

/-- Whether the package's next LT is due: the active unit has left WAIT and its present LT has lasted its length. -/
def ltDue (s : State) : Bool :=
  decide (s.ltu.st ≠ .wait) && !s.ltu.failed && decide (ltEnd s ≤ 2 ^ 24 * s.now)

/-! ## Adoption (R80) -/

/-- A far position whose link is up, with what it reported last: READY and its cycle count. -/
def trainedFar (s : State) : List (Nat × Bool × BitVec 48) :=
  (List.range 8).filterMap fun p =>
    match portTo s.boot.pos (Fin.ofNat 8 p) with
    | none => none
    | some j =>
      if linkUp s 0 j then some (p, (s.fport 0 j).farReady, (s.fport 0 j).farCycle)
      else if linkUp s 1 j then some (p, (s.fport 1 j).farReady, (s.fport 1 j).farCycle)
      else none

/-- Every half-link that is up, changed by f. -/
def modUpPorts (s : State) (f : FlkPort → FlkPort) : State :=
  (List.finRange 7).foldl (fun s j => [(0 : Hub), 1].foldl (fun s h => if linkUp s h j then s.modFport h j f else s) s) s

/-- The cycle counts that far positions reported run on with the package's own until READY (R79, R80). (DEDUCED, log entry 45) -/
def farAdvance (s : State) : State :=
  if s.boot.ready then s
  else modUpPorts s fun x => { x with farCycle := x.farCycle + 1, farAt := s.now }

/-- While the package was in WAIT the reported counts ran on by one in each nominal cycle (R80). (DEDUCED, log entry 45) -/
def farCatchUp (s : State) : State :=
  modUpPorts s fun x =>
    let n := (s.now - x.farAt) / nomCycle s.ltu
    { x with farCycle := x.farCycle + BitVec.ofNat 48 n, farAt := s.now }

/-- The package adopts a cycle count, if it has not set READY and its line time unit has left WAIT (R80); copy messages on their
way tell the adopted count. -/
def adopt (s : State) : State :=
  if s.boot.ready ∨ s.ltu.st = .wait then s
  else
    let l := trainedFar s
    let pick := match l.find? fun x => x.2.1 with
      | some x => some x.2.2
      | none => (l.find? fun (x : Nat × Bool × BitVec 48) => decide (x.1 < s.boot.pos.val)).map fun x => x.2.2
    match pick with
    | none => s
    | some c =>
      let put (s : State) (u : Hub) : State := s.modLtu u fun l => { l with
        cycle := c, adopted := true
        copies := l.copies.map fun (m : LtuCopy) => ({ m with cycle := if m.phase ≤ l.phase then c else c - 1 } : LtuCopy) }
      put (put s 0) 1

/-! ## Copy messages (R76) -/

/-- The active unit on H0 sends a copy message at the phases that are multiples of 16; one that has been on its way for 64 LT is
lost. -/
def sendCopy (s : State) : State :=
  let a := s.hub0.ltu
  if a.active ∧ !a.failed ∧ a.phase.toNat % 16 = 0 then
    s.modLtu 0 fun l => { l with copies := l.copies.filter (fun m => decide ((l.phase - m.phase).toNat < 64)) ++
      [{ phase := l.phase, cycle := l.cycle, st := l.st, base := l.base, corr := l.corr }] }
  else s

/-- Unit u leaves WAIT in a state: the counters start from zero, and the active unit's first LT makes its events due, with the
adopted cycle count where one is adopted at once (R61, R80). (DEDUCED, log entry 110) The standby joins the counters of an active
unit that has left WAIT before it (R76). -/
def leaveWait (s : State) (u : Hub) (st : LtuState) : State :=
  let a := s.ltu
  let s := s.modLtu u fun l => { l with st := st, phase := 0, cycle := 0, lastLt := 2 ^ 24 * s.now, recent := [] }
  if s.activeHub = u then
    let s := sendCopy (adopt (farCatchUp s))
    { s with due := s.due ++ dueNow s }
  else if a.st = .wait then s
  else s.modLtu u fun l => { l with phase := a.phase, cycle := a.cycle, lastLt := a.lastLt }

/-! ## States (R62–R72) -/

/-- An entry to FREE_RUN (R667). -/
def freeRunEntry (s : State) (u : Hub) : State :=
  (s.event (ltuPage u) 0).count (ltuPage u) 0x090 1

/-- Unit u moves to FREE_RUN at the nominal frequency (R62, R68, R72). -/
def toFreeRun (s : State) (u : Hub) : State :=
  let l := s.ltuOf u
  match l.st with
  | .wait => freeRunEntry ((leaveWait s u .freeRun).modLtu u fun l => { l with base := nomCycle l, corr := 0, ivals := [] }) u
  | .locked | .slewing => freeRunEntry (s.modLtu u fun l => { l with st := .freeRun, base := nomCycle l, corr := 0, ivals := [] }) u
  | _ => s.modLtu u fun l => { l with st := .freeRun, base := nomCycle l, corr := 0, ivals := [] }

/-- The phase of unit u at the edge of a tick that qualified at cycle t (R54, R67, R666). -/
def edgePhase (l : Ltu) (t : Nat) : BitVec 16 :=
  l.phase - BitVec.ofNat 16 (l.recent.filter fun x => decide (t - 100 < x)).length

/-- Whether three intervals agree (R70). -/
def agree (l : List Nat) : Bool :=
  let hi := l.foldl max 0
  let lo := l.foldl min hi
  decide ((hi - lo) * 100 ≤ lo)

/-- A candidate is rejected (R58, R70). -/
def tickReject (s : State) (u : Hub) : State :=
  let s := (s.count (ltuPage u) 0x088 1).event (ltuPage u) 3
  s.modLtu u fun l => if l.st = .qualify then { l with st := .freeRun, ivals := [] } else l

/-- A candidate is accepted after an interval of n cycles (R57, R66, R67, R69, R70, R71). -/
def tickAccept (s : State) (u : Hub) (t n : Nat) : State :=
  let l := s.ltuOf u
  let e := if l.st = .wait then 0 else edgePhase l t
  let race := decide (l.st = .locked ∨ l.st = .slewing) && decide (l.lastAcc.map (· + twoNom l) = some t)
  let s := s.count (ltuPage u) 0x080 1
  let s := if race then s.count (ltuPage u) 0x0A8 1 else s
  let s := s.modLtu u fun l =>
    { l with lastAcc := some t, period := BitVec.ofNat 32 n, phaseErr := e, holdoff := 8192, corr := 256 * phaseSigned e }
  match l.st with
  | .wait => ((leaveWait s u .locked).modLtu u fun l => { l with base := n, corr := 0 }).event (ltuPage u) 1
  | .locked => s.modLtu u fun l => { l with base := n }
  | .slewing =>
    let s := s.modLtu u fun l => { l with base := n }
    if (phaseSigned e).natAbs ≤ 16 then
      ((s.modLtu u fun l => { l with st := .locked }).event (ltuPage u) 1).count (ltuPage u) 0x0A0 1
    else s
  | .freeRun => s.modLtu u fun l => { l with st := .qualify, ivals := [n], base := nomCycle l, corr := 0 }
  | .qualify =>
    s.modLtu u fun l =>
      let v := (n :: l.ivals).take 3
      if v.length = 3 ∧ agree v then { l with st := .slewing, ivals := [], base := v.sum / 3 }
      else { l with ivals := v, base := nomCycle l, corr := 0 }

/-- A candidate tick qualifies at unit u at cycle t (R56, R57, R72). -/
def tickUnit (s : State) (u : Hub) (t : Nat) : State :=
  let l := s.ltuOf u
  if l.dcMode || l.failed then s
  else
    let s := s.modLtu u fun l => { l with lastCand := some t }
    match l.lastCand with
    | none => s
    | some c =>
      if l.st = .locked then
        let p := (edgePhase l t).toNat
        let n := t - l.lastAcc.getD 0
        if (p < 0x1000 ∨ 0xF000 ≤ p) ∧ ivalOk n ∧ l.holdoff = 0 then tickAccept s u t n else tickReject s u
      else if ivalOk (t - c) then tickAccept s u t (t - c) else tickReject s u

/-- The two-nominal-cycle timer of unit u is looked at in WAIT (R62). -/
def waitTimer (s : State) (u : Hub) : State :=
  let l := s.ltuOf u
  if l.st = .wait ∧ !l.failed ∧ l.since + twoNom l ≤ s.now then toFreeRun s u else s

/-- The same timer in LOCKED or SLEWING (R68): in the cycle in which it expires a tick can still be accepted, and wins (R69), so the
unit enters FREE_RUN once that cycle is over. (DEDUCED, log entry 111) -/
def lockTimer (s : State) (u : Hub) : State :=
  let l := s.ltuOf u
  if (l.st = .locked ∨ l.st = .slewing) ∧ !l.failed ∧ l.lastAcc.getD 0 + twoNom l < s.now then toFreeRun s u else s

/-- LTU_CTL.DC_MODE is written (R56, R72). A write of 0 makes the next candidate a reference only, in LOCKED too and where the field
was 0 before. (DEDUCED, log entry 112) -/
def dcWrite (s : State) (u : Hub) (v : Bool) : State :=
  let s := s.modLtu u fun l => { l with dcMode := v, lastCand := if v then l.lastCand else none }
  if v ∧ (s.ltuOf u).st ≠ .freeRun then toFreeRun s u else s

/-- One LT of one unit, which begins at moment at0: the phase, the cycle count, the hold-off, the correction (R57, R59–R62, R67, R71). -/
def ltUnit (s : State) (u : Hub) (at0 : Nat) : State :=
  let l := s.ltuOf u
  if l.st = .wait || l.failed then s
  else
    let wrap := decide (l.phase = 0xFFFF)
    let t := (at0 + (2 ^ 24 - 1)) / 2 ^ 24
    let s := s.modLtu u fun l =>
      { l with phase := l.phase + 1, cycle := if wrap then l.cycle + 1 else l.cycle, holdoff := l.holdoff - 1
               silence := if u = 1 ∧ !l.active then l.silence + 1 else 0
               corr := corrAfter 1 l.corr
               recent := (t :: l.recent).filter fun x => decide (t ≤ x + 200)
               lastLt := at0 }
    if wrap ∧ (l.st = .freeRun ∨ l.st = .qualify) then s.count (ltuPage u) 0x098 1 else s

/-- H1 becomes the active unit (R77). -/
def takeover (s : State) : State :=
  if s.hub1.ltu.active ∨ s.hub1.ltu.failed then s
  else
    let s := s.modLtu 0 fun l => { l with active := false }
    (s.modLtu 1 fun l => { l with active := true, silence := 0 }).event (ltuPage 1) 2

/-- The copy message that has been on its way for n LT reaches H1, which takes what it carries, advanced by its transit time; with no
such message on its way nothing happens (R76). -/
def copyMessage (s : State) (n : Nat) : State :=
  let a := s.hub0.ltu
  if s.hub1.ltu.active || a.failed || s.hub1.ltu.failed then s
  else
    match a.copies.find? fun m => decide ((a.phase - m.phase).toNat = n) with
    | none => s
    | some m =>
      let v := m.phase.toNat + 65536 * m.cycle.toNat + n
      let s := s.modLtu 0 fun l => { l with copies := l.copies.filter fun x => decide ((a.phase - x.phase).toNat < n) }
      s.modLtu 1 fun l => { l with
        phase := BitVec.ofNat 16 v, cycle := BitVec.ofNat 48 (v / 65536), st := m.st, base := m.base, corr := corrAfter n m.corr
        lastLt := a.lastLt, silence := 0 }

/-- Line time unit u reports an internal error (R77, R584). -/
def ltuError (s : State) (u : Hub) : State :=
  let s := s.modLtu u fun l => { l with failed := true }
  if s.hub0.ltu.failed && s.hub1.ltu.failed then raiseFatal s 6 (ltuPage u)
  else if u = 0 then takeover s else s

end Sys2Proof.Machine
end

