-- ==== Sys2Proof/Machine/Doff.lean ====
section
/-! DEFINITION. Doffing (R502–R520), the ledger (R521–R527, R530–R533), and the flush of a knot unit (R321, R327). -/

namespace Sys2Proof.Machine

/-! ## Knot units: what a flush, a doff or a lost position discards (R321, R511) -/

/-- Held pieces of a knot unit. -/
def Knot.heldList (k : Knot) : List KnotPiece := k.seqs.flatMap fun e => e.2.held
/-- A knot unit discards all held writes and frees all sequences (R321, R327); what waits on the link goes on waiting there. -/
def knotFlush (s : State) (h : Hub) : State :=
  s.modHub h fun x =>
    let k := x.flk.knot
    { x with flk := { x.flk with knot := { k with seqs := [], discarded := k.discarded + BitVec.ofNat 64 k.heldList.length } } }

/-- A hub die that commits discards what its knot unit holds and what waits for it on the link (R511). -/
def knotEnd (s : State) (h : Hub) : State :=
  (knotFlush s h).modHub h fun x => { x with flk := { x.flk with knot := { x.flk.knot with waiting := [] } } }

/-- The sequences issued from a position that has become DOWN go, with what they hold (R321); what waited on the link is lost with it. -/
def knotDropPos (s : State) (h : Hub) (p : Pos) : State :=
  s.modHub h fun x =>
    let k := x.flk.knot
    let mine (e : Nat × KnotSeq) : Bool := decide (e.1 / 65536 = p.val)
    let n := ((k.seqs.filter mine).map fun e => e.2.held.length).sum
    { x with flk := { x.flk with knot := { k with
        seqs := k.seqs.filter fun e => !mine e, waiting := k.waiting.filter fun w => w.piece.src ≠ p
        discarded := k.discarded + BitVec.ofNat 64 n } } }

/-! ## The ledger's layout (R521–R525) -/

/-- The LED page of a hub die. -/
def ledPage (h : Hub) : Nat := pgKey h.val ixLed
/-- The ledger of hub die h changed by f. -/
def State.modLed (s : State) (h : Hub) (f : Led → Led) : State := s.modHub h fun x => { x with led := f x.led }
/-- Package offset of ledger copy k of a hub die: 0 A, 1 B (R521). -/
def copyOff (h : Hub) (k : Nat) : Nat := mramBase h + k * 0x80000
/-- Bytes of a ledger copy (R522). -/
def copyLen : Nat := 0x8400
/-- Whether copy k is valid: its CRC is correct and no granule of it is poisoned (R389, R521). -/
def copyOk (s : State) (h : Hub) (k : Nat) : Bool :=
  let b := coherentBytes s (copyOff h k) copyLen
  decide (leAt b 0x00C 4 = (crc32 (zeroField b 0x008 8)).toNat) &&
    (List.range (copyLen / 64)).all fun g => !coherentPoison s (copyOff h k + 64 * g)
/-- GEN of a copy. -/
def copyGen (s : State) (h : Hub) (k : Nat) : W32 := BitVec.ofNat 32 (leNat (coherentBytes s (copyOff h k + 8) 4))
/-- KIND of a copy. -/
def copyKind (s : State) (h : Hub) (k : Nat) : Nat := leNat (coherentBytes s (copyOff h k + 6) 1)
/-- The valid copy: of two correct ones, the higher GEN modulo 2^32 (R521). -/
def validCopy (s : State) (h : Hub) : Option Nat :=
  match copyOk s h 0, copyOk s h 1 with
  | true, true => if (copyGen s h 1 - copyGen s h 0).toNat - 1 < 2 ^ 31 - 1 ∧ copyGen s h 1 ≠ copyGen s h 0 then some 1 else some 0
  | true, false => some 0
  | false, true => some 1
  | false, false => none

/-- The queue at a hub ledger index (chapter 15). -/
def ledgerQueue (h : Hub) (j : Nat) : QIdx :=
  Fin.ofNat 1024 (if j < 64 then 64 * h.val + j else 128 + 112 * (4 * h.val + (j - 64) / 112) + (j - 64) % 112)

/-- The status that the journal or the outcome map shows for a sequence number, where its byte describes it (R524). -/
def mapStatus (s : State) (q : QIdx) (x : Queue) (seq : W32) : Option Nat :=
  let o := mapOff x q seq
  let b := match (s.hub (qHub q)).led.journal.reverse.find? fun e => e.1 = o with
    | some e => e.2
    | none => coherentByte s o
  if bit b.toNat 4 = decide (phaseBit x seq = 1) then some (bits b.toNat 0 4) else none

/-- The sequence numbers from a to b, b not among them, at most a ring's depth of them. -/
def seqRange (x : Queue) (a b : W32) : List W32 :=
  (List.range (min (b - a).toNat x.depth)).map fun i => a + BitVec.ofNat 32 i

/-- The 64 bytes of a queue record (R523); doffCopy tells a DOFF copy, and unk that the queue's state could not be had (R516). -/
def queueRecord (s : State) (h : Hub) (doffCopy : Bool) (j : Nat) : List Byte :=
  let q := ledgerQueue h j
  let x := s.queue q
  let win := seqRange x x.ack x.cons
  let st : QState := if doffCopy then x.preDoff else x.st
  if st = .disabled ∧ win.isEmpty then List.replicate 64 0
  else
    let out := win.filterMap fun n => (mapStatus s q x n).map fun v => (n, v)
    let fin := out.filter fun p => decide (p.2 ≠ 7 ∧ p.2 ≠ 8)
    let dof := out.filter fun p => p.2 = 7
    let link := (s.dlk (Fin.ofNat 12 h.val) (Fin.ofNat 12 (qDie q))).lnk.st
    let lost := decide (4 ≤ qDie q ∧ link ≠ .up ∧ link ≠ .replay)
    let unk := doffCopy && (lost || !x.cmds.isEmpty)
    leBytes 2 (fqi s q) ++ leBytes 1 st.code ++
      leBytes 1 (1 + 2 * b2n x.dx2 + 4 * b2n unk + 8 * b2n (!fin.isEmpty) + 16 * b2n (!dof.isEmpty)) ++
      leBytes 1 x.ctx ++ leBytes 1 x.part.toNat ++ leBytes 2 x.depthLog2 ++ leBytes 4 x.ack.toNat ++ leBytes 4 x.cons.toNat ++
      leBytes 4 x.prod.toNat ++ leBytes 4 ((fin.getLast?.map fun p => p.1.toNat).getD 0) ++
      leBytes 4 ((dof.head?.map fun p => p.1.toNat).getD 0) ++ leBytes 2 dof.length ++
      leBytes 2 (out.filter fun p => p.2 = 8).length ++
      leBytes 2 (out.filter fun p => decide (p.2 ≠ 0 ∧ p.2 ≠ 7 ∧ p.2 ≠ 8)).length ++ leBytes 2 0 ++
      leBytes 4 (if unk then x.done.toNat else 0) ++ List.replicate 24 0

/-- The 16 bytes of a step group (R512, R522). -/
def grpRecord (s : State) (h : Hub) (g : Nat) : List Byte :=
  let g : Fin 16 := Fin.ofNat 16 g
  let x := s.grp h g
  let st := match x.st with | .idle => 0 | .opened => 1 | .awaiting => 2
  leBytes 4 x.step.toNat ++ leBytes 2 x.layer.toNat ++ leBytes 1 (b2n x.en + 2 * st) ++
    leBytes 1 (sat 8 (if x.st = .opened then (stepPending s h g).length else 0)) ++ List.replicate 8 0

/-- CREEL_STAT of a creel (R413). -/
def creelStat (x : Creel) : Nat := x.st + 16 * x.group.val + 256 * x.nbuf + 65536 * x.model
/-- The 16 bytes of a creel (R513, R522). -/
def creelRecord (s : State) (h : Hub) (c : Nat) : List Byte :=
  let x := s.creel (Fin.ofNat 16 (8 * h.val + c))
  leBytes 4 (creelStat x) ++ leBytes 4 (x.aNow % 2 ^ 32) ++ leBytes 8 x.table.toNat

/-- A ledger copy with GEN and CRC taken as zero (R522). -/
def copyBody (s : State) (h : Hub) (doffCopy : Bool) : List Byte :=
  let l := s.ltu
  leBytes 4 0x44454C57 ++ leBytes 2 1 ++ leBytes 1 (if doffCopy then 2 else 1) ++ leBytes 1 (s.boot.pos.val + 8 * h.val) ++
    leBytes 8 0 ++ leBytes 8 l.cycle.toNat ++ leBytes 2 l.phase.toNat ++ leBytes 2 0 ++
    leBytes 4 (if doffCopy then (s.hub h).led.tStop else 0) ++ leBytes 4 (s.hub h).led.deadline ++ leBytes 4 s.boot.feat ++
    List.replicate 0xD8 0 ++ (List.range 16).flatMap (grpRecord s h) ++ (List.range 8).flatMap (creelRecord s h) ++
    List.replicate 0x180 0 ++ (List.range 512).flatMap (queueRecord s h doffCopy)

/-- A copy is written over the older one: its body and CRC, then GEN (R515, R527). (DEDUCED, log entry 133) -/
def writeCopy (s : State) (h : Hub) (doffCopy : Bool) : State :=
  let (k, gen) := match validCopy s h with
    | some v => (1 - v, copyGen s h v + 1)
    | none => (0, 1)
  let b := copyBody s h doffCopy
  let b := b.take 0x00C ++ leBytes 4 (crc32 b).toNat ++ b.drop 0x010
  let s := writeMem s none {} (copyOff h k) b
  writeMem s none {} (copyOff h k + 8) (leBytes 4 gen.toNat)

/-- Every context: 0–31 functions, 32–47 the cores of partitions. -/
def allCtx : List Nat := List.range 48

/-- Whether a context's view of a DOFF copy is still VALID, which keeps checkpoints away (R527, R531). -/
def doffViewed (s : State) (h : Hub) : Bool :=
  !(s.hub h).led.views.isEmpty && (match validCopy s h with | some k => decide (copyKind s h k = 2) | none => false)

/-- The ledger checkpoint of hub die h (R527). -/
def checkpoint (s : State) (h : Hub) : State :=
  if s.doff.active || s.doff.done || !s.boot.ready || doffViewed s h then s
  else (writeCopy s h false).count (ledPage h) 0x090 1

/-! ## The doff -/

/-- Both hub dies. -/
def bothHubs : List Hub := [0, 1]

/-- PWR_WARN is recognised (R97, R502, R505, R518, R585): the cut starts; a package that is READY doffs. (DEDUCED, log entry 39) (DEDUCED, log entry 40) -/
def doffBegin (s : State) : State :=
  let cut (s : State) : State := bothHubs.foldl cutPower s
  if !s.boot.ready then cut s
  else if s.doff.done then
    if s.doff.warned then s else { s with doff := { s.doff with warned := true }, pins := { s.pins with doffDone := .high } }
  else if s.doff.active then
    if s.doff.warned then s else cut { s with doff := { s.doff with warned := true } }
  else
    let s := { s with doff := { active := true, warned := true, tW := s.now, tD0 := s.now + us s.hub0.led.deadline
                                tD1 := s.now + us s.hub1.led.deadline, fatal := s.doff.fatal } }
    cut (bothHubs.foldl (fun s h => (s.modLed h fun d => { d with st := .stopping }).count (ledPage h) 0x080 1) s)

/-- Remaining cost in cycles (R233). -/
def remaining (s : State) (c : Cmd) : Nat :=
  match c.startT with
  | some t => us c.cost - (s.now - t - c.waited)
  | none => us c.cost

/-- Whether a started command waits on an event of R506. -/
def waitsOnEvent (c : Cmd) : Bool :=
  let o := c.hdr.opcode
  c.waiting && (decide (o = opWait ∨ o = opFence ∨ o = opCombine) || c.lateCp.isSome)

/-- A command ends DOFF (R506–R508). (DEDUCED, log entry 41) -/
def doffCmd (s : State) (q : QIdx) (c : Cmd) : State :=
  let s := if c.startT.isSome && !updated c then s.count (ledPage (qHub q)) 0x0A8 1 else s
  stopCmd s q c .doff cDoff

/-- Admission stop for one queue (R503, R506). -/
def stopQueue (s : State) (q : QIdx) : State :=
  let x := s.queue q
  let st := match x.st with
    | .running | .halted | .faultWait => QState.doff
    | y => y
  let s := s.setQueue q { x with preDoff := x.st, st := st }
  x.cmds.foldl (fun s c =>
    if c.phase = .ended then s
    else if c.phase = .faultWait ∨ c.startT.isNone ∨ waitsOnEvent c then doffCmd s q c
    else if c.performed then s
    else if !s.doff.fatal && decide (s.now + remaining s c ≤ s.doff.tD (qHub q)) then s.count (ledPage (qHub q)) 0x0A0 1
    else doffCmd s q c) s

/-- Every queue that the state lists. -/
def everyQueue (s : State) : List QIdx := s.queues.map fun e => Fin.ofNat 1024 e.1

/-- Admission stop (R503). -/
def doffStop (s : State) : State :=
  if !s.doff.active || s.doff.stopped then s
  else
    let s := { s with doff := { s.doff with stopped := true } }
    let s := bothHubs.foldl (fun s h =>
      (s.modLed h fun d => { d with st := .stopping, tStop := s.now - s.doff.tW }).event (ledPage h) 0) s
    (everyQueue s).foldl stopQueue s

/-- A creel fetch in flight fails with a reason (R408, R513). -/
def fetchFail (s : State) (e : Fin 16) (k : Nat) (f : Fetch) (reason : Nat) : State :=
  let s := (s.modCreel e fun x => { x with fetches := mput none k (some { f with st := .failed reason, need := [], rdata := [] }) x.fetches }).count
    (engPage (cpEng e)) 0x090 1
  disarmCheck s e

/-- The doff deadline of each hub die that has passed it: what still runs or awaits acknowledgements ends DOFF, and fetches in flight fail (R507, R513). -/
def doffExpire (s : State) : State :=
  if !s.doff.stopped || s.doff.done then s
  else
    let late (h : Hub) : Bool := decide (s.doff.tD h ≤ s.now)
    let s := ((everyQueue s).filter fun q => late (qHub q)).foldl (fun s q => (s.queue q).cmds.foldl (fun s c =>
      if c.phase = .ended then s else doffCmd s q c) s) s
    ((List.finRange 16).filter fun e => late (Fin.ofNat 2 (e.val / 8))).foldl (fun s e => (s.creel e).fetches.foldl (fun s p =>
      match p.2 with
      | some f => if f.st = .filling then fetchFail s e p.1 f 6 else s
      | none => s) s) s

/-- Whether every command of a hank has ended. -/
def hankEnded (s : State) (h : Hub) : Bool :=
  (listedQueues s h).all fun q => (s.queue q).cmds.all fun c => decide (c.phase = .ended)

/-- Hub die h commits (R511, R515): it stops admission, writes the outstanding records, the journal and the DOFF copy. -/
def commitHub (s : State) (h : Hub) : State :=
  if !s.doff.stopped || commitBegun s h || !(hankEnded s h || decide (s.doff.tD h + us 50 ≤ s.now)) then s
  else
    let s := (listedQueues s h).foldl (fun s q => (s.queue q).cmds.foldl (fun s c =>
      if c.phase = .ended then s else doffCmd s q c) s) s
    let s := (listedQueues s h).foldl (fun s q =>
      completeAll (drainJournal s h (s.hub h).led.journal.length) q 256) s
    let s := s.modLed h fun d => { d with st := .committing }
    let s := knotEnd (drainJournal s h (s.hub h).led.journal.length) h
    let s := writeCopy s h true
    (s.modLed h fun d => { d with committed := true, views := allCtx }).event (ledPage h) 1

/-- When both hub dies have passed their commit points, the package is DOFFED and, where PWR_WARN has been recognised, asserts
DOFF_DONE (R517, R518, R585). -/
def commitDone (s : State) : State :=
  if s.hub0.led.committed && s.hub1.led.committed && !s.doff.done then
    let s := { s with doff := { s.doff with done := true }
                      pins := if s.doff.warned then { s.pins with doffDone := .high } else s.pins }
    bothHubs.foldl (fun s h => s.modLed h fun d =>
      { d with st := .doffed, tCommit := if s.doff.warned then s.now - s.doff.tW else d.tCommit }) s
  else s

/-- The clear of PWR_WARN is recognised (R519, R520); with no doff the cut source alone is withdrawn (R99). (DEDUCED, log entry 39)
(DEDUCED, log entry 40) -/
def doffClear (s : State) : State :=
  if !s.doff.active && !s.doff.done then bothHubs.foldl (fun s h => s.modGov h fun g => { g with cutPwr := false }) s
  else if !s.doff.active || s.doff.fatal || s.mgt.fatal || commitBegun s 0 || commitBegun s 1 || s.hub0.led.clearAct then s
  else
    let s := { s with doff := {} }
    let s := bothHubs.foldl (fun s h =>
      ((s.modLed h fun d => { d with st := .normal }).modGov h fun g => { g with cutPwr := false }).count (ledPage h) 0x088 1
        |>.event (ledPage h) 2) s
    (everyQueue s).foldl (fun s q =>
      let x := s.queue q
      if x.st = .doff then
        let st := match x.preDoff with
          | .halted => if x.enable then QState.halted else .draining
          | _ => runState x
        gateReady (settle (s.setQueue q { x with st := st }) q) q
      else s) s

/-! ## Views (R531, R532) -/

/-- Which queues a reader sees: the reader's context, or a management function's partition. -/
inductive Viewer where
  | ctx (c : Nat)
  | part (n : Nat)
  | everything
  deriving DecidableEq, Repr

/-- Whether a viewer sees a queue record of the valid copy. -/
def seesRecord (v : Viewer) (rec_ : List Byte) : Bool :=
  match v with
  | .ctx c => decide (leAt rec_ 4 1 = c) && bit (leAt rec_ 3 1) 0
  | .part n => decide (leAt rec_ 5 1 = n) && bit (leAt rec_ 3 1) 0
  | .everything => true

/-- One byte of the view image of hub die h at an image offset (R530–R532). (DEDUCED, log entry 68) -/
def viewByte (s : State) (h : Hub) (v : Viewer) (o : Nat) : Byte :=
  match validCopy s h with
  | none => 0
  | some k =>
    let base := copyOff h k
    let recOf (j : Nat) : List Byte := coherentBytes s (base + 0x400 + 64 * j) 64
    if o < 0x400 then coherentByte s (base + o)
    else if o < copyLen then
      let j := (o - 0x400) / 64
      let r := recOf j
      if !seesRecord v r then 0
      else if copyKind s h k = 1 ∧ bit (leAt r 3 1) 0 then
        let i := (o - 0x400) % 64
        if i = 3 then coherentByte s (base + o) ||| 4
        else if 36 ≤ i ∧ i < 40 then coherentByte s (base + 0x400 + 64 * j + 12 + (i - 36))
        else coherentByte s (base + o)
      else coherentByte s (base + o)
    else if 0x100000 ≤ o ∧ o < 0x2100000 then
      if seesRecord v (recOf ((o - 0x100000) / 0x10000)) then coherentByte s (mramBase h + o) else 0
    else 0

/-- The view of context c on hub die h is released (R532). -/
def viewRelease (s : State) (h : Hub) (c : Nat) : State :=
  s.modLed h fun d => { d with views := d.views.filter fun x => x ≠ c }

end Sys2Proof.Machine
end

