-- ==== Sys2Proof/Machine/Grid.lean ====
section
/-! DEFINITION. The events of the scheduling grid (R83–R84, R184, R492–R494, R393–R395, R527), in their order, and the passing of an
LT; the meanings of the rows of line time and of the grid. -/

namespace Sys2Proof.Machine

/-- Whether the package works: powered, and neither reset pin held. (DEDUCED, log entry 14) -/
def State.alive (s : State) : Bool := s.boot.power && !s.boot.rstHeld && !s.boot.frmHeld

/-- A change at cycle t of a package that works. -/
def State.atTime (s : State) (t : Nat) (f : State → State) : State :=
  let s := s.toTime t
  if s.alive then f s else s
/-- A change of a package that works. -/
def State.whenAlive (s : State) (f : State → State) : State := if s.alive then f s else s

/-! ## Pages (R631) -/

/-- The page indices of a die. -/
def dieIxs (d : Nat) : List Nat :=
  if d < 2 then (List.range 14) ++ [ixCbe, ixCph, ixHlk, ixHlk + 1] ++
      ((List.range 12).filter fun f => f = 1 - d ∨ f = 2 + d ∨ (4 + 4 * d ≤ f ∧ f < 8 + 4 * d) ∨ (f = 3 - d)).map (ixDlk + ·)
  else if d < 4 then [ixCore, ixErr, ixCmu, ixDlk, ixDlk + 1]
  else (List.range 6) ++ (List.range 8).map (ixEng + ·) ++ [ixDlk + (dieHub d).val]
/-- The keys of every block page of the package. -/
def allPages : List Nat := (List.range 12).flatMap fun d => (dieIxs d).map (pgKey d)

/-! ## Events of the grid -/

/-- A telemetry snapshot latches every counter window (R84, R637). -/
def snapshot (s : State) : State :=
  let s := countCutUs (countCutUs s 0) 1
  allPages.foldl (fun s p => s.modBlk p fun b => { b with snap := b.cnt, snapValid := true }) s

/-- The largest value that QOS_REMAIN holds. (DESIGN CHOICE, log entry 53) -/
def remainMax : Int := 0x7FFFFFFF
/-- The budget of a class; all ones is unlimited (R492). -/
def Qos.budgetOf (x : Qos) (c : Nat) : Nat := mget 0xFFFFFFFF x.budget c
/-- An unlimited budget. -/
def unlimited : Nat := 0xFFFFFFFF
/-- The balance of a class. -/
def Qos.remainOf (x : Qos) (c : Nat) : Int := mget 0 x.remain c
/-- The QoS registers of hub die h changed by f. -/
def State.modQos (s : State) (h : Hub) (f : Qos → Qos) : State := s.modHub h fun x => { x with qos := f x.qos }
/-- A balance is debited, unless the budget is unlimited (R493, R494). -/
def debit (s : State) (h : Hub) (c e : Nat) : State :=
  if (s.hub h).qos.budgetOf c = unlimited then s
  else s.modQos h fun x => { x with remain := mput 0 c (x.remainOf c - e) x.remain }

/-- The deferred commands of a class in a hank, in admission order. -/
def deferredCmds (s : State) (h : Hub) (c : Nat) : List (QIdx × Cmd) :=
  sortBy (fun a b => decide (a.2.ord ≤ b.2.ord)) ((hubCmds s h).filter fun p => decide (p.2.phase = .deferred ∧ p.2.cls = c))

/-- Deferred commands of a class are released while its balance is positive, each debiting its E (R494). -/
def releaseDeferred (s : State) (h : Hub) (c : Nat) : State :=
  (deferredCmds s h c).foldl (fun s p =>
    let x := (s.hub h).qos
    if x.budgetOf c = unlimited ∨ 0 < x.remainOf c then
      gateReady (putCmd (debit s h c p.2.cost) p.1 { p.2.endStall s.now with phase := .ready }) p.1
    else s) s

/-- The QoS budget refresh of hub die h (R492, R494). -/
def qosRefresh (s : State) (h : Hub) : State :=
  (List.range 4).foldl (fun s c =>
    let s := s.modQos h fun x =>
      let b : Int := x.budgetOf c
      { x with remain := mput 0 c (min remainMax (min b (x.remainOf c + b))) x.remain }
    releaseDeferred s h c) s

/-- Step group g of hub die h starts its next step (R182–R186, R403). -/
def stepStart (s : State) (h : Hub) (g : Fin 16) : State :=
  let x := s.grp h g
  if !x.en || x.st ≠ .awaiting || s.doff.stopped then s
  else
    let s := s.modGrp h g fun x => { x with step := x.step + 1, started := x.started + 1, st := .opened, startLt := s.lts }
    let s := if x.layerInc then layerWrite s h g (x.layer + 1) none else s
    let s := s.count (pgKey h.val ixSeq) 0x080 1
    stepEndCheck ((grpQueues s h g).foldl gateReady s) h g

/-- The page of scrubber i: 0–7 SMC, 8–9 GMC, 10–11 MRM. -/
def scrubPage (i : Nat) : Nat :=
  if i < 8 then pgKey (tDie i) ixSmc else if i < 10 then pgKey (i - 8) ixGmc else pgKey (i - 10) ixMrm
/-- Package offset of the first granule of scrubber i. -/
def scrubBase (i : Nat) : Nat :=
  if i < 8 then i * hbmStack else if i < 10 then gddrBase (Fin.ofNat 2 (i - 8)) else mramBase (Fin.ofNat 2 (i - 10))
/-- Granules of the populated range of scrubber i. -/
def scrubGranules (s : State) (i : Nat) : Nat :=
  (if i < 8 then hbmStack else if i < 10 then gddrSize s else 0x4000000) / 64
/-- Scrubber i. -/
def State.scrub (s : State) (i : Nat) : Scrub := mget {} s.scrubs i
/-- Scrubber i changed by f. -/
def State.modScrub (s : State) (i : Nat) (f : Scrub → Scrub) : State := { s with scrubs := mput {} i (f (s.scrub i)) s.scrubs }
/-- The number of a scrubber. -/
def scrubIx : Scrubber → Nat
  | .smc n => n.val
  | .gmc h => 8 + h.val
  | .mrm h => 10 + h.val

/-- The pacing credit of an LC (R393): credit not spent is lost. -/
def scrubCreditAll (s : State) : State :=
  (List.range 12).foldl (fun s i => s.modScrub i fun x => { x with unspent := x.credit.toNat }) s

/-- The scrubber moves to the granule after pos; a wrap counts a pass (R393). -/
def scrubNext (s : State) (i : Nat) : State :=
  let p := (s.scrub i).pos + 1
  if p < scrubGranules s i then s.modScrub i fun x => { x with pos := p }
  else (s.modScrub i fun x => { x with pos := 0 }).count (scrubPage i) 0x0B0 1

/-- Granules that are already poisoned are skipped (R394). -/
def scrubSkip (s : State) (i : Nat) : Nat → State
  | 0 => s
  | n + 1 => if poisoned s (scrubBase i / 64 + (s.scrub i).pos) then scrubSkip (scrubNext s i) i n else s

/-- The scrubber reads its next granule, where e has come about before what State.upsets lists was (R387, R388, R390, R393, R394).
(DESIGN CHOICE, log entry 28) (DEDUCED, log entry 54) -/
def scrubRead (s : State) (i : Nat) (e : EccFinding) : State :=
  if !(s.scrub i).en || (s.scrub i).unspent = 0 then s
  else
    let s := scrubSkip s i s.poison.length
    let o := scrubBase i + 64 * (s.scrub i).pos
    if poisoned s (granule o) then s
    else
      let s := (s.modScrub i fun x => { x with unspent := x.unspent - 1, begun := true }).count (scrubPage i) 0x0A8 1
      let n := match e with
        | .clean => 0
        | .correctable => 1
        | .uncorrectable => 2
      let s := if n ≤ mget 0 s.upsets (granule o) then s else { s with upsets := mput 0 (granule o) n s.upsets }
      scrubNext (eccRead s o) i

/-- An event of the grid takes place, the governor keeping the background power it last had. -/
def runEvent (s : State) : GridEvent → State
  | .gov h => govUpdate s h (s.hub h).gov.bg
  | .qos h => qosRefresh s h
  | .dvfs h => dvfsAct s h
  | .snapshot => snapshot s
  | .step h g => stepStart s h g
  | .ckpt h => checkpoint s h
  | .scrub => scrubCreditAll s

/-- Event e takes place as f where it is due: the events before it in the order of R83 have taken place first. (DEDUCED, log entry 13) -/
def takeEvent (s : State) (e : GridEvent) (f : State → State) : State :=
  if e ∈ s.due then
    let before := s.due.takeWhile fun x => x ≠ e
    let s := { s with due := (s.due.dropWhile fun x => x ≠ e).drop 1 }
    f (before.foldl runEvent s)
  else s

/-- Whether a place of State.upsets holds bits that check codes protect (R354, R386, R582). -/
def protectedPlace (s : State) (k : Nat) : Bool :=
  if k < 2 ^ 40 then (eccCounters s (regionOf s (64 * k))).isSome
  else if k < 2 ^ 41 then
    match cacheOfRegion (regionOf s (32 * (k - 2 ^ 40))) with
    | some (i, r) => ((findLine (s.cache i) (r / 256)).map fun l => l.has (r % 256 / 32)).getD false
    | none => false
  else
    let n := k - 2 ^ 41
    decide (n / 2 ^ 32 < 1024) && (findCmd s (Fin.ofNat 1024 (n / 2 ^ 32)) (BitVec.ofNat 32 n)).any fun c => decide (c.phase = .running)

/-- In one LT stored bits may change by themselves, as a free value says. (DESIGN CHOICE, log entry 28) -/
def decay (s : State) : State :=
  { s with
    upsets := (Config.upsets s.fresh).foldl (fun m u =>
      if protectedPlace s u.1 then mput 0 u.1 (max (mget 0 m u.1) (1 + b2n u.2)) m else m) (s.upsets.filter fun e => protectedPlace s e.1)
    fresh := s.fresh + 1 }

/-- Every event that is still due takes place. -/
def runDue (s : State) : State := s.due.foldl runEvent { s with due := [] }

/-- One LT passes, once the present one has lasted its length (R59–R61, R67, R74, R83): what is still due takes place, both units advance,
and the new LT's events fall due. (DESIGN CHOICE, log entry 44) -/
def passLt (s : State) : State :=
  if !ltDue s then s
  else
    let s := runDue s
    let wrap := decide (s.ltu.phase = 0xFFFF)
    let at0 := ltEnd s
    let s := sendCopy (ltUnit (ltUnit s 0 at0) 1 at0)
    let s := { (if wrap then farAdvance s else s) with lts := s.lts + 1 }
    let s := govLt (govLt (decay s) 0) 1
    { s with due := dueNow s }

/-! ## Meanings: line time -/

/-- R666, R56–R58, R66–R71: both units receive the pulse. -/
def execLineTickQualify (t : Nat) (s : State) : Host.Outcome State Fault Refusal :=
  .next (s.atTime t fun s => tickUnit (tickUnit s 0 t) 1 t)
/-- R59–R61, R83. -/
def execLtAdvance (t : Nat) (s : State) : Host.Outcome State Fault Refusal := .next (s.atTime t passLt)
/-- R62. -/
def execWaitNoTickFreeRun (u : Hub) (t : Nat) (s : State) : Host.Outcome State Fault Refusal :=
  .next (s.atTime t fun s => waitTimer s u)
/-- R68. -/
def execLockLossFreeRun (u : Hub) (t : Nat) (s : State) : Host.Outcome State Fault Refusal :=
  .next (s.atTime t fun s => lockTimer s u)
/-- R76. -/
def execLtuCopyMessage (transit : Nat) (s : State) : Host.Outcome State Fault Refusal :=
  .next (s.whenAlive fun s => copyMessage s transit)
/-- R77: 64 LT have passed at H1 without a copy message. -/
def execLtuCopySilenceTimeout (s : State) : Host.Outcome State Fault Refusal :=
  .next (s.whenAlive fun s => if 64 ≤ s.hub1.ltu.silence then takeover s else s)
/-! ## Meanings: the grid -/

/-- R88, R89, R99. -/
def execGovernorUpdate (h : Hub) (bg : Nat) (s : State) : Host.Outcome State Fault Refusal :=
  .next (s.whenAlive fun s => takeEvent s (.gov h) fun s => govUpdate s h bg)
/-- R492, R494. -/
def execQosBudgetRefresh (h : Hub) (s : State) : Host.Outcome State Fault Refusal :=
  .next (s.whenAlive fun s => takeEvent s (.qos h) fun s => qosRefresh s h)
/-- R95. -/
def execDvfsChange (h : Hub) (s : State) : Host.Outcome State Fault Refusal :=
  .next (s.whenAlive fun s => takeEvent s (.dvfs h) fun s => dvfsAct s h)
/-- R84. -/
def execTelemetrySnapshot (s : State) : Host.Outcome State Fault Refusal :=
  .next (s.whenAlive fun s => takeEvent s .snapshot snapshot)
/-- R184. -/
def execStepStart (h : Hub) (g : Fin 16) (s : State) : Host.Outcome State Fault Refusal :=
  .next (s.whenAlive fun s => takeEvent s (.step h g) fun s => stepStart s h g)
/-- R527. -/
def execLedgerCheckpoint (h : Hub) (s : State) : Host.Outcome State Fault Refusal :=
  .next (s.whenAlive fun s => takeEvent s (.ckpt h) fun s => checkpoint s h)
/-- R393. -/
def execScrubCredit (s : State) : Host.Outcome State Fault Refusal :=
  .next (s.whenAlive fun s => takeEvent s .scrub scrubCreditAll)
/-- R393, R394. -/
def execScrubGranule (sc : Scrubber) (e : EccFinding) (s : State) : Host.Outcome State Fault Refusal :=
  .next (s.whenAlive fun s => scrubRead s (scrubIx sc) e)
/-- R378: refresh has no effect that a program can see. -/
def execMemoryRefresh (s : State) : Host.Outcome State Fault Refusal := .next s

end Sys2Proof.Machine
end

