-- ==== Sys2Proof/Machine/Admit.lean ====
section
/-! DEFINITION. Admission of entries (R147–R151, R159, R160, R231, R493–R495), preemption (R489), and the rows of a queue's life that no
register write starts. -/

namespace Sys2Proof.Machine

/-! ## Namespaces (R383, R384) -/

/-- The LBA data size of a namespace of SSD 0–15, where it is present and usable. -/
def nsBlock (s : State) (ssd nsid : Nat) : Option Nat :=
  let x := (s.hub (Fin.ofNat 2 (ssd / 8))).slk
  if 16 ≤ ssd ∨ !x.en then none
  else ((x.nss.find? fun n => decide (n.ssd.val = ssd % 8 ∧ n.nsid = nsid))).bind fun n =>
    if n.block = 512 ∨ n.block = 4096 then some n.block else none

/-- The effective cost E of a command whose body is known: the larger of D and COST (R231). -/
def costOf (s : State) (q : QIdx) (h : Hdr) (w : List Nat) : Nat :=
  let b := if h.opcode = opStore then (nsBlock s (bits (wd w 2) 48 4) (bits (wd w 2) 16 32)).getD 0 else 0
  max (estimate s (qHub q) (s.queue q).ctx h w b) h.cost

/-! ## Admission -/

/-- Whether the queue manager admits the entry at CONS now (R147, R155, R504, R583): in the states of which R155's table says so.
(DEDUCED, log entry 128) -/
def admits (s : State) (q : QIdx) : Bool :=
  let x := s.queue q
  decide (x.st = .running ∨ x.st = .halted ∨ x.st = .faultWait ∨ x.st = .doff) && decide (x.cons ≠ x.prod) &&
    decide ((x.cons - x.ack).toNat < x.depth) && decide ((x.cons - x.done).toNat < 256) &&
    !commitBegun s (qHub q) && !mget false s.stopped (qmPage q)

/-- Bytes of an entry (R144). -/
def Queue.entryLen (x : Queue) : Nat := if x.dx2 then 64 else 32

/-- The reason for which an entry of class c is refused: code of LAST_REFUSE and cause (R159, R493). -/
def refuseWhy (s : State) (q : QIdx) (c : Nat) : Option (Nat × Nat) :=
  let x := s.queue q
  let k := (s.hub (qHub q)).qos
  if s.doff.stopped then some (3, cRefDoff)
  else if x.suspend then some (1, cRefSuspended)
  else if k.budgetOf c ≠ unlimited ∧ k.remainOf c ≤ 0 ∧ !(mget true k.mode c) then some (2, cRefBudget)
  else none

/-- The entry's bytes have been read: it is accepted, deferred or refused (R151, R159, R181, R231, R493–R495). (DEDUCED, log entry 109) -/
def admitEntry (s : State) (q : QIdx) (pwr : Nat) (bytes : List Byte) : State :=
  let h := qHub q
  let x := s.queue q
  let hd := hdrOf x.dx2 bytes
  let cls := max hd.cls x.classFloor
  let indirect := !x.dx2 && hd.ind
  let cost := if indirect then max 1 hd.cost else costOf s q hd (entryWords x.dx2 bytes)
  let qos := (s.hub h).qos
  let finite := decide (qos.budgetOf cls ≠ unlimited)
  let defer := finite && decide (qos.remainOf cls ≤ 0)
  let (ord, s) := s.tick
  let c : Cmd := {
    seq := x.cons, entry := bytes, dx2 := x.dx2, cls := cls, pwr := pwr, cost := cost, admitT := s.now, gen := 1, ord := ord
    body := if indirect then none else some ((entryWords x.dx2 bytes).map (BitVec.ofNat 64))
    seg := if x.stepIn then some x.segNext else none }
  let x := { x with cons := x.cons + 1, fetchData := [], fetchNeed := [], fetchFail := none
                    segNext := if x.stepIn && hd.stepEnd then x.segNext + 1 else x.segNext }
  match refuseWhy s q cls with
  | some (code, cause) =>
    let s := s.setQueue q { x with
      cmds := x.cmds ++ [c], lastRefuse := code, lastRefSeq := c.seq, refuseSeen := x.refuseSeen ||| (1#3 <<< (code - 1)) }
    let s := (endCmd s q c .refused cause 0xFFFF 0 0).count (qmPage q) 0x088 1
    if x.refuseEn then queueIrq s q else s
  | none =>
    if defer then
      (s.setQueue q { x with cmds := x.cmds ++ [{ c with phase := .deferred, stallNow := some (cThrottleQos, s.now) }] }).count
        (pgKey h.val ixQmh) 0x0B0 1
    else
      let s := debit s h cls cost
      gateReady (s.setQueue q { x with cmds := x.cmds ++ [{ c with c0res := decide (cls = 0) && finite }] }) q

/-- The queue manager admits the entry at CONS, if the conditions of R147 hold and it can be read (R144, R148, R160). -/
def admitFront (s : State) (q : QIdx) (pwr : Nat) : State :=
  if !admits s q then s
  else
    let x := s.queue q
    let n := x.entryLen
    let va := x.ringBase.toNat + n * (x.cons.toNat % x.depth)
    let bad (s : State) (k : Nat) : State :=
      queueError (s.modQueue q fun x => { x with fetchData := [], fetchNeed := [], fetchFail := none }) q errFetch x.cons 0
        (missStatus false k 0).code k va
    match x.fetchFail with
    | some (_, k) => bad s (answerCause k)
    | none => match qmRead s q x.fetchData va n with
      | (.bad k a, s) => bad (xltFault s q k a) k
      | (.need l, s) =>
        let l := l.filter fun p => !x.fetchNeed.contains (p.1, p.2.1)
        let s := s.modQueue q fun x => { x with fetchNeed := x.fetchNeed ++ ranges l }
        l.foldl (fun s p => sendRead s (queuePart s q) 0 (.cmd q x.cons 0) p.2.2.far p.1 p.2.1) s
      | (.ok bytes poison, s) => if poison then bad s cPoison else admitEntry s q pwr bytes

/-! ## Preemption (R489) -/

/-- Whether a class-0 command is ready on engine number e, or runs on it, or a class-0 creel of it has a fetch to issue (R401). -/
def classZeroOn (s : State) (e : Nat) : Bool :=
  ((engineTargets s e).any fun p => decide (p.2.cls = 0) && (engaged p.2 || isReady p.2)) ||
    (List.finRange 16).any fun k => decide (cpEng k = e) && creelReady (s.creel k) && decide ((s.creel k).cls = 0)

/-- The running command of a queue is paused for a class-0 command at an internal boundary (R489). -/
def preempt (s : State) (q : QIdx) : State :=
  match (s.queue q).target with
  | some c =>
    if c.phase = .running ∧ !c.paused ∧ !c.waiting ∧ 0 < c.cls ∧ classZeroOn s (qEng q) then
      (putCmd s q { c.beginStall cThrottleQos s.now with paused := true }).count (qmPage q) 0x0B8 1
    else s
  | none => s

/-! ## Meanings -/

/-- R147, R148, R159, R160. -/
def execEntryAdmit (q : QIdx) (pwr t : Nat) (s : State) : Host.Outcome State Fault Refusal :=
  .next (s.atTime t fun s => admitFront s q pwr)
/-- R164, R175: the oldest command of the queue, if it has ended, receives its record. -/
def execCommandCompletion (q : QIdx) (t : Nat) (s : State) : Host.Outcome State Fault Refusal :=
  .next (s.atTime t fun s => completeOne s q)
/-- R489. -/
def execCommandPreempt (q : QIdx) (t : Nat) (s : State) : Host.Outcome State Fault Refusal :=
  .next (s.atTime t fun s => preempt s q)
/-- R575. -/
def execLateWriteWindowEnd (q : QIdx) (t : Nat) (s : State) : Host.Outcome State Fault Refusal :=
  .next (s.atTime t fun s => if (s.queue q).lateUntil ≤ s.now then gateReady s q else s)
/-- R526. -/
def execJournalDrain (h : Hub) (s : State) : Host.Outcome State Fault Refusal :=
  .next (s.whenAlive fun s => drainJournal s h (s.hub h).led.journal.length)

end Sys2Proof.Machine
end

