-- ==== Sys2Proof/Machine/Reset.lean ====
section
/-! DEFINITION. Reassignment of a hank (R485–R487), partition reset (R556, R583), package reset (R553–R555) and the start sequence
(R535–R546). -/

namespace Sys2Proof.Machine

/-! ## Core dies and blocks -/

/-- The page with key p returns to its reset values; INIT_DONE tells of the start and stays (R555). -/
def clearBlk (s : State) (p : Nat) : State := s.modBlk p fun b => { initDone := b.initDone }

/-- The core die of hank h is reset, its caches invalidated (R486, R556). -/
def coreReset (s : State) (h : Hub) : State :=
  let s := { s with cores := s.cores.filter fun e => !decide (48 * h.val ≤ e.1 ∧ e.1 < 48 * h.val + 48) }
  clearBlk (clearBlk s (pgKey (2 + h.val) ixCore)) (pgKey (2 + h.val) ixCmu)

/-- The engines of a hank. -/
def hubEngines (h : Hub) : List Nat := (List.range 32).map (32 * h.val + ·) ++ [64 + h.val, 66 + h.val]

/-- Every combine group of a hub die becomes IDLE with nothing recorded (R438). -/
def cbIdle (s : State) (h : Hub) : State := s.modHub h fun x => { x with cbGrps := [] }

/-- PART_RST.START is written 1 for partition n (R556, R583). (DEDUCED, log entry 48) -/
def partReset (s : State) (h : Hub) (n : Nat) : State :=
  if hankOwner s h ≠ some n then s
  else
    let s := s.modHub h fun x => { x with part := { x.part with rstBusy := true } }
    let s := (listedQueues s h).foldl (fun s q => if (s.queue q).part.toNat = n then queueReset s q else s) s
    let s := (hubEngines h).foldl (fun s i => (engineReset s i).1) s
    let s := cbIdle (knotFlush (coreReset s h) h) h
    let s := { s with stopped := s.stopped.filter fun e => decide (dieHub (e.1 / 4096) ≠ h) }
    partRstCheck s h

/-! ## Hanks (R485–R488) -/

/-- The partition registers of hub die h changed by f. -/
def State.modPart (s : State) (h : Hub) (f : Partn → Partn) : State := s.modHub h fun x => { x with part := f x.part }

/-- HANK_CTL START with OP = RELEASE (R486). -/
def hankRelease (s : State) (h : Hub) : State :=
  if (s.hub h).part.hank ≠ .owned then s
  else
    let s := s.modPart h fun p => { p with hank := .releasing, releaseAt := s.now }
    let s := (hubQueues h).foldl (fun s q => s.modQueue q fun x => { x with suspend := true }) s
    zeroingCheck ((listedQueues s h).foldl disableQueue s) h

/-- Queues of a RELEASING hank that have not drained within 10 ms are reset (R486). -/
def drainExpire (s : State) (h : Hub) : State :=
  let p := (s.hub h).part
  if p.hank = .releasing ∧ p.releaseAt + ms 10 ≤ s.now then
    zeroingCheck ((listedQueues s h).foldl (fun s q => if (s.queue q).cmds.isEmpty then s else queueReset s q) s) h
  else s

/-- HANK_CTL START with OP = ASSIGN (R487). -/
def hankAssign (s : State) (h : Hub) (n : Fin 16) : State :=
  let p := (s.hub h).part
  if p.hank = .unassigned ∧ p.zeroed then
    s.modPart h fun p => { p with hank := .owned, owner := BitVec.ofNat 4 n.val, zeroed := false }
  else s

/-- Bytes of the ledger region (R521). -/
def ledgerLen : Nat := 0x2200000

/-- The memory of a hank is filled with zeros (R486): stacks, GDDR range, scratchpads, carve-outs and the ledger region.
(DEDUCED, log entry 46) -/
def zeroHank (s : State) (h : Hub) : State :=
  let s := zeroRange s (4 * h.val * hbmStack) (4 * hbmStack)
  let s := zeroRange s (gddrBase h) 0x1000000000
  let s := zeroRange s (scrBase (Fin.ofNat 8 (4 * h.val))) (4 * 0x10000000)
  let s := zeroRange s (hubCarveBase h) 0x10000000
  zeroRange s (mramBase h) ledgerLen

/-- The pages of a hank's dies whose registers reassignment resets; the blocks that serve the whole package stay. (DEDUCED, log entry 47) -/
def hankPages (h : Hub) : List Nat :=
  (allPages.filter fun p => dieHub (p / 4096) = h).filter fun p =>
    let i := p % 4096
    !(decide (i ≥ ixDlk) || (decide (p / 4096 < 2) &&
      decide (i = ixHub ∨ i = ixMgt ∨ i = ixLtu ∨ i = ixFlk ∨ i = ixSlk ∨ i = ixHlk ∨ i = ixHlk + 1)))

/-- The tensor dies of a hank. -/
def hubTensors (h : Hub) : List Nat := (List.range 4).map (4 * h.val + ·)

/-- Zeroing completes and the hank becomes UNASSIGNED (R367, R486). -/
def zeroingEnd (s : State) (h : Hub) : State :=
  if (s.hub h).part.hank ≠ .zeroing ∨ s.doff.active ∨ s.doff.done then s
  else
    let s := { s with
      caches := s.caches.filter fun e => !decide (e.1 ∈ (8 + h.val) :: hubTensors h)
      gcs := s.gcs.filter fun e => decide (engHub e.1 ≠ h)
      creels := s.creels.filter fun e => decide (tensorHub (e.1 / 2) ≠ h)
      queues := s.queues.filter fun e => decide (qHub (Fin.ofNat 1024 e.1) ≠ h)
      engRef := s.engRef.filter fun e => decide (tensorHub e.1 ≠ h)
      engRst := s.engRst.filter fun e => decide (engHub e.1 ≠ h)
      c0End := s.c0End.filter fun e => decide (engHub e.1 ≠ h)
      scrZero := s.scrZero.filter fun e => decide (tensorHub e.1 ≠ h)
      stopped := s.stopped.filter fun e => decide (dieHub (e.1 / 4096) ≠ h)
      scrubs := s.scrubs.filter fun e => !decide (e.1 ∈ (8 + h.val) :: (10 + h.val) :: hubTensors h)
      errs := s.errs.filter fun e => decide (dieHub e.1 ≠ h)
      qsel := s.qsel.filter fun e => decide (dieHub (e.1 / 256) ≠ h)
      qrst := s.qrst.filter fun e => decide (dieHub e.1 ≠ h)
      qrstRun := s.qrstRun.filter fun e => decide (dieHub e.1 ≠ h)
      arbs := s.arbs.filter fun e => decide (engHub e.1 ≠ h)
      lastAt := s.lastAt.filter fun e => decide (tensorHub e.1 ≠ h) }
    let s := zeroHank s h
    let s := knotFlush (coreReset s h) h
    let s := s.modHub h fun x => { x with
      gov := { target := x.gov.target, bg := x.gov.bg, fcStep := x.gov.fcStep, fcNext := x.gov.fcNext
               cutActive := x.gov.cutActive, cutPwr := x.gov.cutPwr, cutFc := x.gov.cutFc, fcLevel := x.gov.fcLevel
               dvfsA := x.gov.dvfsA, dvfsB := x.gov.dvfsB, slowed := x.gov.slowed, byCut := x.gov.byCut, cutSince := x.gov.cutSince, cutUs := x.gov.cutUs, upd := x.gov.upd }
      grps := [], qos := {}, cbGrps := [], cbSel := [], xlt := {}
      led := { x.led with viewSel := [], viewOfs := [], views := [], journal := [] } }
    let s := (hankPages h).foldl (fun s p => s.modBlk p fun _ => {}) s
    let s := s.modPart h fun p => { p with hank := .unassigned, owner := 0, zeroed := true }
    (s.count (pgKey h.val ixHub) 0x090 1).event (pgKey h.val ixHub) 1

/-! ## Package reset (R553–R555) -/

/-- Whether a package offset lies in MRAM. -/
def inMram (o : Nat) : Bool := isMram o

/-- The package is reset with a cause; power tells that its supplies were lost (R530, R554, R555, R560). -/
def packageReset (s : State) (code : BitVec 3) (power : Bool) : State :=
  let b := s.boot
  { ({} : State) with
    now := s.now, stamp := s.stamp, fresh := s.fresh, out := s.out, pending := s.pending
    hub0 := { ltu := { active := true, since := s.now } }
    hub1 := { ltu := { since := s.now } }
    mem := if power then s.mem.filter (fun e => inMram e.1) else s.mem
    poison := if power then s.poison.filter (fun e => inMram (64 * e.1)) else s.poison
    upsets := s.upsets.filter fun e => decide (e.1 < 2 ^ 40) && (!power || inMram (64 * e.1))
    mgt := { flash := s.mgt.flash, jtag := if power then .idcode else s.mgt.jtag
             i3cAddr := if power then none else s.mgt.i3cAddr }
    boot :=
      if power then { posId := b.posId, memtype := b.memtype, pos := b.pos, rstHeld := b.rstHeld, frmHeld := b.frmHeld
                      cause := code, hubGen := b.hubGen }
      else { power := b.power, posId := b.posId, memtype := b.memtype, pos := b.pos, rstHeld := b.rstHeld, frmHeld := b.frmHeld
             cause := code, hubGen := b.hubGen, attempts := b.attempts, bfStep := b.bfStep, bfReason := b.bfReason
             bfDie := b.bfDie, bfDetail := b.bfDetail } }

/-- READY and DOFF_DONE are driven low, FATAL_N is released (R546). (DEDUCED, log entry 51) -/
def startPins (s : State) : State := { s with pins := { s.pins with ready := .low, doffDone := .low, fatalN := .highZ } }

/-- Power-good is lost (R554, R621). -/
def powerLost (s : State) : State := if s.boot.power then packageReset s 1 true else s

/-- A pulse on a reset pin takes effect (R553). -/
def resetActs (s : State) (width : Nat) : Bool × State :=
  if 1000 ≤ width then (true, s)
  else if width < 100 then (false, s)
  else let (n, s) := s.draw; (Config.shortResetActs n, s)

/-- A reset pin has been asserted for width cycles (R553, R554). -/
def resetPin (s : State) (frame : Bool) (width : Nat) : State :=
  match resetActs s width with
  | (false, s) => s
  | (true, s) =>
    let s := if s.boot.power then packageReset s (if frame then 3 else 2) false else s
    { s with boot := if frame then { s.boot with frmHeld := true } else { s.boot with rstHeld := true } }

/-- The straps are sampled (R21, R35). (DEDUCED, log entry 50) -/
def sample (s : State) (posId : BitVec 3) (memtype : Bool) : State :=
  { s with boot := { s.boot with posId := posId, pos := posId.toFin, memtype := memtype } }

/-- A reset pin is deasserted (R21, R546). -/
def pinRelease (s : State) (frame : Bool) (posId : BitVec 3) (memtype : Bool) : State :=
  if (if frame then s.boot.frmHeld else s.boot.rstHeld) || decide (s.boot.step = 0) then
    let s := sample s posId memtype
    let s := { s with boot := if frame then { s.boot with frmHeld := false } else { s.boot with rstHeld := false } }
    let s := { s with hub0 := { s.hub0 with ltu := { s.hub0.ltu with since := s.now } }
                      hub1 := { s.hub1 with ltu := { s.hub1.ltu with since := s.now } } }
    if s.alive then startPins s else s
  else s

/-! ## The start sequence (R535–R546) -/

/-- A start step is in progress. -/
def starting (s : State) : Bool := s.alive && decide (1 ≤ s.boot.step ∧ s.boot.step ≤ 5) && !s.boot.backoff && !s.boot.ready
/-- The step limit in cycles (R536). -/
def stepLimit (n : Nat) : Nat :=
  if n = 1 then ms 5 else if n = 2 then ms 500 else if n = 3 then ms 400 else if n = 4 then ms 2000 else ms 1000

/-- The highest level that the hub dies support (R48). -/
def hubMax (s : State) : Nat := if s.boot.hubGen = 2 then 2 else 3
/-- The level that tensor die n offers. -/
def offerOf (f : StepFindings) (n : Nat) : Nat := ((f.offers.find? fun o => o.1.val = n).map (·.2)).getD 3
/-- The level of the link of tensor die n (R46). -/
def linkLevel (s : State) (f : StepFindings) (n : Nat) : Nat := min (offerOf f n) (hubMax s)

/-- Both ends of every die link. -/
def dieLinks : List (DieId × DieId) :=
  [(0, 1)] ++ (List.finRange 2).flatMap (fun h => (List.finRange 2).map fun c =>
    ((Fin.ofNat 12 h.val : DieId), (Fin.ofNat 12 (2 + c.val) : DieId))) ++
  (List.finRange 8).map fun n => (Fin.ofNat 12 (tensorHub n.val).val, Fin.ofNat 12 (tDie n.val))

/-- A die link has come up with a feature level, 0 where none is negotiated (R46, R654). -/
def linkComesUp (s : State) (a b : DieId) (feat localMax farMax : Nat) : State :=
  let lanes := if b.val = 2 ∨ b.val = 3 then 32 else 64
  let up (d : DlkEnd) (lm fm : Nat) : DlkEnd :=
    { d with feat := feat, lanes := lanes, lock := BitVec.ofNat 64 (2 ^ lanes - 1), localMax := lm, farMax := fm, lnk := { d.lnk with st := .up } }
  (s.modDlk a b fun d => up d localMax farMax).modDlk b a fun d => up d farMax localMax

/-- Step 1 ends: every die link is up and the feature level is known (R46, R47). -/
def linksDone (s : State) (f : StepFindings) : State :=
  let s := dieLinks.foldl (fun s (a, b) =>
    if 4 ≤ b.val then linkComesUp s a b (linkLevel s f (b.val - 4)) (hubMax s) (offerOf f (b.val - 4))
    else linkComesUp s a b 0 0 0) s
  let lvl (h : Hub) : Nat := (hubTensors h).foldl (fun m n => min m (linkLevel s f n)) 7
  { s with boot := { s.boot with feat := min (lvl 0) (lvl 1), hubLevel := [(0, lvl 0), (1, lvl 1)] } }

/-- Step 2 ends: the memories are trained (R379, R538). -/
def calibrateDone (s : State) (f : StepFindings) : State := { s with boot := { s.boot with gddrRate := f.gddrRate } }

/-- Whether step 3 leaves the byte at a package offset alone (R539). -/
def startKeeps (s : State) (dump : Bool) (o : Nat) : Bool :=
  (bothHubs.any fun h => decide (mramBase h ≤ o ∧ o < mramBase h + summaryOff + 0x1000)) ||
    (dump && inDumpRegion s (regionOf s o))

/-- Step 3 ends: memories are zeroed but for what is preserved, blocks are initialised, cores come into service, and the ledger
views are presented (R389, R531, R539, R542). -/
def initDone (s : State) : State :=
  let dump := dumpPresent s && decide (s.boot.cause ≠ 1)
  let s := { s with mem := s.mem.filter fun e => startKeeps s dump e.1
                    poison := s.poison.filter fun e => startKeeps s dump (64 * e.1)
                    upsets := s.upsets.filter fun e => decide (e.1 < 2 ^ 40) && startKeeps s dump (64 * e.1)
                    caches := [], online := [(2, true), (3, true)] }
  let s := allPages.foldl (fun s p => s.modBlk p fun b => { b with initDone := true }) s
  bothHubs.foldl (fun s h => s.modLed h fun d => { d with views := allCtx }) s

/-- The image of a flash slot: VERSION where tag and CRC are right (R540). -/
def imageVersion (l : List Byte) : Option Nat :=
  let n := leAt l 8 4
  if leAt l 0 4 = 0x5A545350 ∧ 16 + n ≤ min l.length 0x1000000 ∧ leAt l 12 4 = (crc32 (slice l 16 n)).toNat then some (leAt l 4 4) else none

/-- What the flash slot holds: what was written to it through PLDM, else what the step found (R540, R614). -/
def slotImage (s : State) (b : Bool) (found : List Byte) : List Byte :=
  let w := mget [] s.mgt.flash (b2n b)
  if w = [] then found else w

/-- The slot that step 4 takes: false A, true B (R540). -/
def bootSlot (s : State) (f : StepFindings) : Option Bool :=
  match imageVersion (slotImage s false f.slotA), imageVersion (slotImage s true f.slotB) with
  | some a, some b => some (decide (a < b))
  | some _, none => some false
  | none, some _ => some true
  | none, none => none

/-- What a completed attempt finds wrong: reason, die and detail (R379, R538, R540).  Training that gives no rate of R379 has failed
to calibrate the GDDR. (DEDUCED, log entry 122) -/
def stepFault (s : State) (f : StepFindings) : Option (Nat × Nat × Nat) :=
  if s.boot.step = 1 then
    ((List.range 8).find? fun n => linkLevel s f n < 2).map fun n => (2, tDie n, offerOf f n)
  else if s.boot.step = 2 then
    if f.gddr7 ≠ s.boot.memtype then some (5, 0, b2n f.gddr7) else if rateOk f.gddr7 f.gddrRate then none else some (4, 0, 1)
  else if s.boot.step = 4 then if (bootSlot s f).isNone then some (9, 0, 3) else none
  else none

/-- The step in progress ends: its outcome, and the next step begins (R536, R537). -/
def stepEnd (s : State) (f : StepFindings) : State :=
  match stepFault s f with
  | some (r, d, x) => stepFail s r d x s.boot.step
  | none =>
    let s := if s.boot.step = 1 then linksDone s f
      else if s.boot.step = 2 then calibrateDone s f
      else if s.boot.step = 3 then initDone s
      else { s with boot := { s.boot with runSlot := bootSlot s f, mctp := true }, mgt := { s.mgt with cores := 3 } }
    { s with boot := { s.boot with step := s.boot.step + 1, done0 := false, done1 := false, stepAt := s.now } }

/-- Hub die h completes the step in progress; step 5 ends by SET_READY only (R537, R541). -/
def stepDone (s : State) (h : Hub) (f : StepFindings) : State :=
  if !starting s || s.boot.step = 5 || decide (s.boot.stepAt + stepLimit s.boot.step < s.now) then s
  else
    let s := { s with boot := if h = 0 then { s.boot with done0 := true } else { s.boot with done1 := true } }
    if s.boot.done0 && s.boot.done1 then stepEnd s f else s

/-- Whether a reason of R545 belongs to a step. -/
def reasonFits (r n : Nat) : Bool :=
  if r = 1 ∨ r = 2 then n = 1 else if r = 3 then 2 ≤ n else if r = 4 ∨ r = 5 ∨ r = 6 then n = 2
  else if r = 7 then n = 3 else if r = 8 ∨ r = 9 then n = 4 else if r = 10 then n = 5 else r = 11

/-- HUB_CTL.SET_READY is written 1 (R541). -/
def readyAct (s : State) : State :=
  if starting s && decide (s.boot.step = 5) then
    let s := adopt s
    { s with boot := { s.boot with ready := true, step := 7 }, pins := { s.pins with ready := .high } }
  else s
/-- HUB_CTL.FW_FAIL is written 1 (R541, R545). -/
def fwFailAct (s : State) : State :=
  if starting s && decide (s.boot.step = 5) then stepFail s 10 0 (s.boot.fwCode.toNat % 4096) 5 else s

/-! ## Meanings -/

/-- R554. -/
def execPowerGoodLoss (s : State) : Host.Outcome State Fault Refusal := .next (powerLost s)
/-- R621. -/
def execRefclkLoss (s : State) : Host.Outcome State Fault Refusal := .next (powerLost s)
/-- R553, R554. -/
def execPkgResetPin (width : Nat) (s : State) : Host.Outcome State Fault Refusal := .next (resetPin s false width)
/-- R553, R554. -/
def execFrameResetPin (width : Nat) (s : State) : Host.Outcome State Fault Refusal := .next (resetPin s true width)
/-- R21. -/
def execResetDeassert (frame : Bool) (posId : BitVec 3) (memtype : Bool) (s : State) : Host.Outcome State Fault Refusal :=
  .next (pinRelease s frame posId memtype)
/-- R535, R546: the straps are sampled here where no reset pin is held. -/
def execPowerGood (posId : BitVec 3) (memtype : Bool) (t : Nat) (s : State) : Host.Outcome State Fault Refusal :=
  let s := s.toTime t
  .next (if s.boot.power then s
    else
      let s := { s with boot := { s.boot with power := true } }
      let s := if s.boot.rstHeld || s.boot.frmHeld then s else sample s posId memtype
      startPins { s with hub0 := { s.hub0 with ltu := { s.hub0.ltu with since := s.now } }
                         hub1 := { s.hub1 with ltu := { s.hub1.ltu with since := s.now } } })
/-- R535. -/
def execStartSequenceBegin (t : Nat) (s : State) : Host.Outcome State Fault Refusal :=
  .next (s.atTime t fun s =>
    if s.boot.step = 0 then startPins { s with boot := { s.boot with step := 1, stepAt := s.now, done0 := false, done1 := false } } else s)
/-- R537. -/
def execStartStepDone (h : Hub) (f : StepFindings) (t : Nat) (s : State) : Host.Outcome State Fault Refusal :=
  .next (s.atTime t fun s => stepDone s h f)
/-- R543, R545. -/
def execStartStepFail (reason : Fin 12) (die : DieId) (detail : BitVec 12) (t : Nat) (s : State) :
    Host.Outcome State Fault Refusal :=
  .next (s.atTime t fun s =>
    if starting s && reasonFits reason.val s.boot.step then
      stepFail s reason.val die.val detail.toNat (if reason.val = 3 then 1 else s.boot.step)
    else s)
/-- R536. -/
def execStartStepTimeout (t : Nat) (s : State) : Host.Outcome State Fault Refusal :=
  .next (s.atTime t fun s =>
    if starting s && decide (s.boot.stepAt + stepLimit s.boot.step ≤ s.now) then stepFail s 11 0 0 s.boot.step else s)
/-- R544, R545. -/
def execRetryBackoffExpiry (t : Nat) (s : State) : Host.Outcome State Fault Refusal :=
  .next (s.atTime t fun s =>
    if s.boot.backoff && decide (s.boot.retryAt ≤ s.now) then
      { s with boot := { s.boot with backoff := false, step := s.boot.retryTo, attempts := s.boot.attempts + 1
                                     stepAt := s.now, done0 := false, done1 := false } }
    else s)
/-- R486. -/
def execHankDrainTimeout (h : Hub) (t : Nat) (s : State) : Host.Outcome State Fault Refusal :=
  .next (s.atTime t fun s => drainExpire s h)
/-- R486. -/
def execHankZeroingDone (h : Hub) (s : State) : Host.Outcome State Fault Refusal := .next (s.whenAlive fun s => zeroingEnd s h)

end Sys2Proof.Machine
end

