-- ==== Sys2Proof/Machine/RegRead.lean ====
section
/-! DEFINITION. What the registers of every block page and doorbell page read as (R12–R16, R152, R158, R630–R656 and the register
tables of the other chapters), without side effect. -/

namespace Sys2Proof.Machine

/-! ## Which block lies on a page (R631) -/

/-- The block of a page. -/
inductive PageKind where
  | hub (h : Hub) | err (d : DieId) | mgt (h : Hub) | ltu (h : Hub) | seq (h : Hub) | gov (h : Hub) | led (h : Hub)
  | mrm (h : Hub) | hcc (h : Hub) | gmc (h : Hub) | xlt (h : Hub) | qm (d : DieId) | flk (h : Hub) | slk (h : Hub)
  | cb (h : Hub) | cph (h : Hub) | hlk (p : Port) | dlk (d far : DieId) | core (c : Hub) | cmu (c : Hub) | tdc (n : Tensor)
  | scr (n : Tensor) | scc (n : Tensor) | smc (n : Tensor) | eng (n : Tensor) (e : Fin 8) | none
  deriving DecidableEq, Repr

/-- The block at page index i of die d. -/
def pageAt (d i : Nat) : PageKind :=
  if !(dieIxs d).contains i then .none
  else if i = ixErr then .err (Fin.ofNat 12 d)
  else if ixDlk ≤ i then .dlk (Fin.ofNat 12 d) (Fin.ofNat 12 (i - ixDlk))
  else if d < 2 then
    let h : Hub := Fin.ofNat 2 d
    if i = ixHub then .hub h else if i = ixMgt then .mgt h else if i = ixLtu then .ltu h else if i = ixSeq then .seq h
    else if i = ixGov then .gov h else if i = ixLed then .led h else if i = ixMrm then .mrm h else if i = ixHcc then .hcc h
    else if i = ixGmc then .gmc h else if i = ixXlt then .xlt h else if i = ixQmh then .qm (Fin.ofNat 12 d)
    else if i = ixFlk then .flk h else if i = ixSlk then .slk h else if i = ixCbe then .cb h else if i = ixCph then .cph h
    else .hlk (Fin.ofNat 4 (2 * d + (i - ixHlk)))
  else if d < 4 then if i = ixCore then .core (Fin.ofNat 2 (d - 2)) else .cmu (Fin.ofNat 2 (d - 2))
  else
    let n : Tensor := Fin.ofNat 8 (d - 4)
    if i = ixTdc then .tdc n else if i = ixQmt then .qm (Fin.ofNat 12 d) else if i = ixScr then .scr n
    else if i = ixScc then .scc n else if i = ixSmc then .smc n else .eng n (Fin.ofNat 8 (i - ixEng))

/-- BLK_ID.KIND and INSTANCE (R631). -/
def blkIdent : PageKind → Nat × Nat
  | .hub h => (0x01, h.val) | .err d => (0x1D, d.val) | .mgt h => (0x11, h.val) | .ltu h => (0x02, h.val)
  | .seq h => (0x03, h.val) | .gov h => (0x04, h.val) | .led h => (0x05, h.val) | .mrm h => (0x06, h.val)
  | .hcc h => (0x07, h.val) | .gmc h => (0x08, h.val) | .xlt h => (0x0D, h.val)
  | .qm d => if d.val < 2 then (0x10, d.val) else (0x1B, d.val - 4)
  | .flk h => (0x0B, h.val) | .slk h => (0x0A, h.val) | .cb h => (0x0E, h.val) | .cph h => (0x0F, h.val)
  | .hlk p => (0x09, p.val) | .dlk _ far => (0x0C, far.val) | .core c => (0x12, c.val) | .cmu c => (0x13, c.val)
  | .tdc n => (0x14, n.val) | .scr n => (0x1C, n.val) | .scc n => (0x19, n.val) | .smc n => (0x1A, n.val)
  | .eng n e =>
    if e.val < 4 then (0x15, 4 * n.val + e.val) else if e.val = 4 then (0x16, n.val) else if e.val = 5 then (0x17, n.val)
    else (0x18, 2 * n.val + (e.val - 6))
  | .none => (0, 0)

/-- The bits of INT_STAT that a block defines, ERR_LOGGED among them (R632 and the register tables): the others read as zero. -/
def intBits (k : PageKind) : Nat :=
  2 ^ 31 + match k with
  | .hub _ | .cb _ => 0x3
  | .err _ => 0x1F
  | .ltu _ => 0xF
  | .gov _ | .led _ => 0x7
  | .hcc _ | .scc _ => 0x3F
  | .xlt _ => 0x1
  | _ => 0

/-! ## Who reads (R641, R642) -/

/-- Who makes a register access: a requester of this package, or a transfer from another package, as its tag and the host function
that makes it tell (R471, R477). -/
inductive RegWho where
  | self (r : Requester)
  | far (tag : ReqTag) (fn : Option (Fin 32))
  deriving DecidableEq, Repr

/-- The requester partition of a register access. -/
def RegWho.part (s : State) (h : Hub) : RegWho → Option Nat
  | .self r => reqPart s h r
  | .far t _ => t.part
/-- Whether the access is Prostoza's. -/
def RegWho.isProstoza : RegWho → Bool
  | .self r => decide (r = .prostoza)
  | .far _ _ => false
/-- Whether the access is by the management function of the hank's owner, or Prostoza (R471). -/
def RegWho.isMgmt (s : State) (h : Hub) : RegWho → Bool
  | .self r => Machine.isMgmt s h r
  | .far t fn =>
    (match hankOwner s h with
     | none => false
     | some n =>
       let e := mget {} (s.hub h).part.parts n
       e.mgmtV && decide (fn.map (·.val) = some e.mgmtFn.toNat ∧ t.part = some n))
/-- The copy of the banked selectors that an access uses: 0 Prostoza, 1 + p the management function of partition p, 17 + c the
requesters of context c, 100 transfers from other packages (R642). (DESIGN CHOICE, log entry 63) -/
def RegWho.bank (s : State) (h : Hub) (w : RegWho) : Nat :=
  if w.isProstoza then 0
  else if w.isMgmt s h then 1 + (hankOwner s h).getD 0
  else match w with
    | .self (.function f) => 17 + f.val
    | .self (.core _) => 17 + 32 + (w.part s h).getD 0
    | .self (.engine q) => 17 + (s.queue q).ctx
    | _ => 100

/-- The 32 bits at off of a 64-bit register at base. -/
def half (v base off : Nat) : Nat := bits v (8 * (off - base)) 32

/-! ## Block-specific words -/

def ltuStateCode : LtuState → Nat
  | .wait => 0 | .locked => 1 | .freeRun => 2 | .qualify => 3 | .slewing => 4
def hankCode : HankState → Nat
  | .unassigned => 0 | .owned => 1 | .releasing => 2 | .zeroing => 3
def linkCode : LinkState → Nat
  | .down => 0 | .training => 1 | .up => 2 | .replay => 3 | .retrain => 4 | .failed => 5
def ledCode : LedState → Nat
  | .normal => 0 | .stopping => 1 | .committing => 2 | .doffed => 3
def cacheCode : CacheState → Nat
  | .disabled => 0 | .enabled => 1 | .draining => 2 | .carving => 3
def grpCode : GrpState → Nat
  | .idle => 0 | .collecting => 1 | .opened => 2 | .stale => 3
def stepCode : StepState → Nat
  | .idle => 0 | .opened => 1 | .awaiting => 2
def policyCode : Policy → Nat
  | .halt => 0 | .skip => 1 | .resume => 2

/-- BLK_CAP (R633). Before training has set them, a hub die's feature levels read 0 and a tensor link's read 3. (DESIGN CHOICE, log entry
56) -/
def capWord (s : State) : PageKind → Nat
  | .hub h => s.boot.feat + 16 * mget 0 s.boot.hubLevel h.val + 256 * hubMax s
  | .tdc n =>
    let e := s.dlk (Fin.ofNat 12 (tDie n.val)) (Fin.ofNat 12 (tensorHub n.val).val)
    e.feat + 16 * (if e.localMax = 0 then 3 else e.localMax)
  | .gmc _ => b2n s.boot.memtype + 256 * (if s.boot.memtype then 64 else 32) + 65536 * 16 + 16777216 * s.boot.gddrRate
  | _ => 0

/-- HUB page (R499, R562). -/
def hubWord (s : State) (h : Hub) (w : RegWho) (o : Nat) : Nat :=
  let p := (s.hub h).part
  let b := s.boot
  let own := w.isProstoza
  if o = 0x100 then b2n b.ready + 2 * b.step + 16 * b2n b.backoff
  else if o = 0x104 then 65536 * b.fwCode.toNat
  else if o = 0x108 then b.attempts.toNat
  else if o = 0x10C then b.bfStep.toNat + 256 * b.bfReason.toNat + 65536 * b.bfDie.toNat + 1048576 * b.bfDetail.toNat
  else if o = 0x110 then b.cause.toNat
  else if o = 0x114 then p.rstPart.toNat + 256 * b2n p.rstBusy
  else if o = 0x118 then 256 * b2n p.engRefused
  else if o = 0x200 then hankCode p.hank + (if p.hank = .owned then 16 * p.owner.toNat else 0) + 256 * b2n p.zeroed
  else if o = 0x204 then p.ctlOp.toNat + 16 * p.ctlPart.toNat + 256 * b2n (decide (p.hank = .releasing ∨ p.hank = .zeroing))
  else if !own then 0
  else if 0x210 ≤ o ∧ o < 0x290 then
    if o % 8 = 0 then
      let e := mget {} p.parts ((o - 0x210) / 8)
      e.hanks.toNat + 65536 * e.mgmtFn.toNat + 2 ^ 21 * b2n e.mgmtV + 2 ^ 25 * b2n e.recovery
    else 0
  else if 0x290 ≤ o ∧ o < 0x310 then
    let e := mget {} p.funcs ((o - 0x290) / 4)
    e.part.toNat + 16 * b2n e.bound
  else if o = 0x320 then p.fwPart.toNat + 16 * b2n p.fwNone + 256 * p.fwKind.toNat + 65536 * p.fwReqId.toNat
  else if 0x328 ≤ o ∧ o < 0x330 then half p.fwAddr.toNat 0x328 o
  else 0

/-- The 32 bytes of an error record as a reader sees it (R566, R641). -/
def errBytes (s : State) (h : Hub) (w : RegWho) (r : ErrRec) : List Byte :=
  let same := w.isProstoza || decide (w.part s h = if bit r.part.toNat 4 then none else some (r.part.toNat % 16))
  leBytes 8 r.time.toNat ++ leBytes 1 r.cls ++ leBytes 2 r.page ++ leBytes 1 r.code ++
    leBytes 4 (if same then r.reqId.toNat else 0) ++ leBytes 8 (if same then r.addr.toNat else 0) ++
    leBytes 1 (if same then r.part.toNat else 0) ++ leBytes 1 r.die ++ leBytes 2 r.merged.toNat ++ leBytes 4 0

/-- ERR page (R565, R566). -/
def errWord (s : State) (d : DieId) (w : RegWho) (o : Nat) : Nat :=
  let e := mget {} s.errs d.val
  if o = 0x100 then e.next + 256 * e.unread + 65536 * b2n e.overflow
  else if o = 0x108 then e.thresh.toNat
  else if 0x200 ≤ o ∧ o < 0x400 then
    match mget none e.recs ((o - 0x200) / 32) with
    | some r => leAt (errBytes s (dieHub d.val) w r) (o % 32) 4
    | none => 0
  else 0

/-- A field of the fatal-dump summary of H0, zero where the summary's CRC is wrong. -/
def summaryField (s : State) (i n : Nat) : Nat :=
  let b := mramBase 0 + summaryOff
  let l := rawBytes s b 4096
  if leAt l 12 4 = (crc32 (zeroField l 12 4)).toNat ∧ leAt l 0 4 = 0x4D555346 then leAt l i n else 0

/-- MGT page (R596, R643, R649). -/
def mgtWord (s : State) (o : Nat) : Nat :=
  let m := s.mgt
  if o = 0x100 then m.detail.toNat
  else if o = 0x108 then b2n m.fatal + 256 * m.code
  else if o = 0x10C then summaryField s 6 1 % 8 + 256 * (summaryField s 8 4 % 2 ^ 24)
  else if o = 0x110 then m.dumpFn.toNat + 256 * b2n m.dumpV
  else if o = 0x120 then 2 * b2n m.wdogEn + 65536 * (if m.wdogEn then 1000 - (s.now - m.kickAt) / 100000 else 1000)
  else if o = 0x124 then m.cores.toNat
  else 0

/-- LTU page. -/
def ltuWord (s : State) (h : Hub) (o : Nat) : Nat :=
  let l := (s.hub h).ltu
  if o = 0x100 then b2n l.dcMode
  else if o = 0x104 then
    ltuStateCode l.st + 8 * b2n (decide (l.st = .freeRun ∨ l.st = .qualify)) + 16 * b2n (decide (l.st = .slewing)) +
      32 * b2n l.active + 64 * b2n l.adopted
  else if 0x108 ≤ o ∧ o < 0x110 then half (ltuNow l) 0x108 o
  else if o = 0x110 then l.nomFreq.toNat
  else if o = 0x114 then l.period.toNat
  else if o = 0x118 then l.phaseErr.toNat
  else if o = 0x120 then l.snapPeriod.toNat + 65536 * l.snapPhase.toNat
  else 0

/-- SEQ page (R188). -/
def seqWord (s : State) (h : Hub) (o : Nat) : Nat :=
  if o < 0x100 ∨ 0x300 ≤ o then 0
  else
    let g : Fin 16 := Fin.ofNat 16 ((o - 0x100) / 0x20)
    let x := s.grp h g
    let r := (o - 0x100) % 0x20
    if r = 0 then b2n x.en + 2 * b2n x.layerInc
    else if r = 4 then x.period.toNat + 65536 * x.phase.toNat
    else if r = 8 then x.step.toNat
    else if r = 0xC then x.layer.toNat
    else if r = 0x10 then stepCode x.st + 256 * (if x.st = .opened then sat 8 (stepPending s h g).length else 0)
    else 0

/-- GOV page. -/
def govWord (s : State) (h : Hub) (o : Nat) : Nat :=
  let g := (s.hub h).gov
  if o = 0x100 then b2n g.fallEn + 2 * b2n g.cutSw
  else if o = 0x104 then g.step
  else if o = 0x108 then g.fcStep
  else if o = 0x10C then 2400
  else if o = 0x110 then g.cutLevel
  else if o = 0x114 then g.c0Reserve
  else if o = 0x118 then sat 16 (g.target / 10)
  else if o = 0x11C then sat 16 (pwrEst s h / 10)
  else if o = 0x120 then g.dvfsA.toNat + 65536 * g.dvfsB.toNat
  else if o = 0x124 then
    b2n g.cutActive + 2 * b2n g.cutPwr + 4 * b2n g.cutFc + 8 * b2n g.cutSw + 16 * b2n (!(heldCmds s h).isEmpty) +
      32 * b2n g.ballast + 256 * effStep g
  else 0

/-- Which part of the ledger image an access to the LED page sees (R531, R532). -/
def ledViewer (s : State) (h : Hub) (w : RegWho) : Viewer :=
  if w.isProstoza then .everything
  else if w.isMgmt s h then .part ((hankOwner s h).getD 0)
  else .ctx (w.bank s h - 17)
/-- The context whose view an access to the LED page concerns (R532, R534). -/
def ledCtx (s : State) (h : Hub) (w : RegWho) : Nat :=
  if w.isMgmt s h then mget 0 (s.hub h).led.viewSel (w.bank s h) else w.bank s h - 17

/-- LED page (R534). -/
def ledWord (s : State) (h : Hub) (w : RegWho) (o : Nat) : Nat :=
  let d := (s.hub h).led
  if o = 0x100 then b2n d.clearAct + 65536 * d.clearUs
  else if o = 0x104 then d.deadline
  else if o = 0x108 then d.ckPeriod.toNat + 65536 * d.ckPhase.toNat
  else if o = 0x110 then
    ledCode d.st + (match validCopy s h with | some k => 16 * k + 32 * (copyKind s h k % 4) | none => 0)
  else if o = 0x114 then (match validCopy s h with | some k => (copyGen s h k).toNat | none => 0)
  else if o = 0x118 then d.tStop % 2 ^ 32
  else if o = 0x11C then d.tCommit % 2 ^ 32
  else if o = 0x140 then mget 0 d.viewSel (w.bank s h)
  else if o = 0x144 then b2n (d.views.contains (ledCtx s h w))
  else if o = 0x150 then mget 0 d.viewOfs (w.bank s h)
  else if 0x800 ≤ o ∧ o < 0x1000 then
    if d.views.contains (ledCtx s h w) then
      leNat ((List.range 4).map fun i => viewByte s h (ledViewer s h w) (mget 0 d.viewOfs (w.bank s h) + (o - 0x800) + i))
    else 0
  else 0

/-- Scrubber registers of an SMC, GMC or MRM page (R395): SCRUB_POS reads its reset value, 0, until the scrubber has read a granule.
(DEDUCED, log entry 54) -/
def scrubWord (s : State) (i : Nat) (o : Nat) : Nat :=
  let x := s.scrub i
  if o = 0x180 then b2n x.en + 65536 * x.credit.toNat
  else if 0x188 ≤ o ∧ o < 0x190 then half (if x.begun then paOf s (scrubBase i + 64 * x.pos) else 0) 0x188 o
  else if o = 0x190 ∧ 8 ≤ i ∧ i < 10 then
    let n := poisonUsed s (Fin.ofNat 2 (i - 8))
    n % 2 ^ 15 + 32768 * b2n (decide (16384 ≤ n))
  else 0

/-- SCC and HCC pages (R372). -/
def ccWord (s : State) (i : Nat) (o : Nat) : Nat :=
  let c := s.cache i
  if o = 0x100 then b2n (decide (c.st = .enabled))
  else if o = 0x104 then cacheCode c.st + 4 * b2n c.clean + 16 * c.seqWhy
  else if o = 0x108 then cacheWays i + 256 * Nat.log2 (cacheSets i) + 65536 * 2 + 16777216 * maxUnits i
  else if o = 0x110 then c.maintOp + 256 * b2n c.maint.isSome
  else if o = 0x114 then c.units + 256 * c.cur
  else if o = 0x118 then (lockMask s i).toNat
  else if 0x120 ≤ o ∧ o < 0x128 then half c.plBase.toNat 0x120 o
  else if 0x128 ≤ o ∧ o < 0x130 then half c.plLen.toNat 0x128 o
  else if o = 0x130 then c.plWays.toNat + 2 ^ 31 * b2n c.plBusy
  else 0

/-- Gather-cache registers of an engine page (R374). -/
def gcWord (s : State) (e : Nat) (o : Nat) : Nat :=
  if o = 0x300 then b2n (s.gc e).en
  else if o = 0x304 then b2n (s.gc e).clean + 256 * (s.gc e).ents.length
  else 0

/-- XLT page (R652). -/
def xltWord (s : State) (h : Hub) (w : RegWho) (o : Nat) : Nat :=
  let x := (s.hub h).xlt
  let c := mget {} x.ctxs (mget 0 x.csel (w.bank s h))
  if o = 0x100 then mget 0 x.csel (w.bank s h)
  else if 0x108 ≤ o ∧ o < 0x110 then half (b2n c.en + 4096 * c.root.toNat) 0x108 o
  else if o = 0x110 then b2n (c.en && !c.disabling) + 2 * b2n c.disabling
  else if o = 0x118 then x.invCtx.toNat + 256 * b2n x.invAll + 65536 * b2n x.overrun + 2 ^ 31 * b2n x.inv.isSome
  else if 0x120 ≤ o ∧ o < 0x128 then half x.invVa.toNat 0x120 o
  else if 0x128 ≤ o ∧ o < 0x130 then half x.invLen.toNat 0x128 o
  else if 0x130 ≤ o ∧ o < 0x138 then
    half ((allCtx.map fun i => let e := mget {} x.ctxs i; if e.en && !e.disabling then 2 ^ i else 0).sum) 0x130 o
  else 0

/-- QM_QD of a queue (R150). -/
def qdWord (x : Queue) : Nat :=
  x.ctx + 64 * b2n x.bound + 256 * x.part.toNat + 4096 * x.classFloor + 16384 * b2n x.suspend + 65536 * x.stepGrp.val +
    2 ^ 20 * b2n x.stepEn
/-- Queues of a queue manager. -/
def qCount (d : Nat) : Nat := if d < 2 then 64 else 112
/-- A summary of a queue manager: bit l for each queue for which p holds. -/
def qSummary (s : State) (d : Nat) (p : Queue → Bool) : Nat :=
  ((s.queues.filter fun e => decide (qDie (Fin.ofNat 1024 e.1) = d) && p e.2).map fun e => 2 ^ qLocal (Fin.ofNat 1024 e.1)).sum
/-- The key of a queue manager's selector copy. -/
def qselKey (d bank : Nat) : Nat := 256 * d + bank
/-- Signed 32-bit reading of a balance. -/
def s32 (x : Int) : Nat := (BitVec.ofInt 32 x).toNat

/-- QMT and QMH pages (R150, R500, R563, R651). -/
def qmWord (s : State) (d : DieId) (w : RegWho) (o : Nat) : Nat :=
  let h := dieHub d.val
  let l := mget 0 s.qsel (qselKey d.val (w.bank s h))
  let k := (s.hub h).qos
  if o = 0x100 then l
  else if 0x108 ≤ o ∧ o < 0x110 then
    (match queueAt d.val l with | some q => half (qdWord (s.queue q)) 0x108 o | none => 0)
  else if o = 0x110 then
    let r := mget 0 s.qrst d.val
    r + 2 ^ 31 * b2n (decide (mget 0 s.qrstRun d.val ≠ 0))
  else if 0x120 ≤ o ∧ o < 0x130 then bits (qSummary s d.val Queue.live) (8 * (o - 0x120)) 32
  else if 0x130 ≤ o ∧ o < 0x140 then
    bits (qSummary s d.val fun x => decide (x.st = .halted ∨ x.st = .faultWait ∨ x.st = .error)) (8 * (o - 0x130)) 32
  else if 2 ≤ d.val then 0
  else if 0x200 ≤ o ∧ o < 0x220 then
    let c := (o - 0x200) / 8
    if o % 8 = 0 then k.budgetOf c else b2n (mget true k.mode c)
  else if 0x220 ≤ o ∧ o < 0x240 then
    let c := (o - 0x220) / 8
    if o % 8 = 0 then s32 (k.remainOf c) else sat 16 (deferredCmds s h c).length
  else if o = 0x240 then k.w1.toNat + 256 * k.w2.toNat
  else if o = 0x244 then k.memC0.toNat
  else 0

/-- Pieces that wait in a knot unit, held or on the link. -/
def knotKept (k : Knot) : List KnotPiece := k.heldList ++ k.waiting.map (·.piece)
/-- Sequences that a knot unit can have open (R318). -/
def knotMax : Nat := 4096
/-- Held-write space of a knot unit (R319): 4 MiB, in pieces of up to 64 bytes. -/
def knotSpace : Nat := 65536

/-- FLK page (R327, R501, R655). -/
def flkWord (s : State) (h : Hub) (o : Nat) : Nat :=
  let x := (s.hub h).flk
  let k := x.knot
  let opened := (k.seqs.filter fun e => e.2.isOpen).length
  let space := (k.heldList.length + 15) / 16
  let ports := List.finRange 7
  if o = 0x100 then
    (ports.map fun j => b2n (s.fport h j).mismatch * 2 ^ j.val + 256 * (b2n (linkUp s h j) * 2 ^ j.val)).sum
  else if o = 0x104 then
    ((List.finRange 8).map fun (p : Pos) =>
      (match posState s p with | .empty => 0 | .present => 1 | .down => 2 | .own => 3) * 4 ^ p.val).sum
  else if 0x110 ≤ o ∧ o < 0x12C then
    let y := s.fport h (Fin.ofNat 7 ((o - 0x110) / 4))
    y.width + 16 * ((List.range 9).filter fun l => y.failed.getLsbD l).length + 256 * y.spareFor.toNat +
      65536 * y.farPos.toNat + 2 ^ 19 * b2n y.trained
  else if 0x130 ≤ o ∧ o < 0x14C then (s.fport h (Fin.ofNat 7 ((o - 0x130) / 4))).failed.toNat
  else if o = 0x150 then b2n x.loopback
  else if o = 0x200 then opened + 65536 * b2n (decide (knotMax ≤ opened)) + 2 ^ 17 * b2n (decide (knotSpace ≤ k.heldList.length))
  else if o = 0x204 then space
  else if 0x240 ≤ o ∧ o < 0x248 then half k.heldCnt.toNat 0x240 o
  else if 0x248 ≤ o ∧ o < 0x250 then half k.discarded.toNat 0x248 o
  else if 0x250 ≤ o ∧ o < 0x258 then half k.tableFull.toNat 0x250 o
  else if 0x258 ≤ o ∧ o < 0x260 then half k.bufFull.toNat 0x258 o
  else if 0x260 ≤ o ∧ o < 0x268 then half k.stale.toNat 0x260 o
  else if 0x300 ≤ o ∧ o < 0x340 then mget 0 x.c0Slice ((o - 0x300) / 4)
  else 0

/-- SLK page (R656). -/
def slkWord (s : State) (h : Hub) (o : Nat) : Nat :=
  let x := (s.hub h).slk
  if o = 0x100 then b2n x.en + 2 * x.bifur.toNat
  else if o = 0x104 then x.speed + 256 * (x.nss.map fun n => n.ssd.val).dedup.length + 65536 * x.linkUp.toNat
  else 0

/-- CBE page (R439). -/
def cbWord (s : State) (h : Hub) (w : RegWho) (o : Nat) : Nat :=
  let g := mget 0 (s.hub h).cbSel (w.bank s h)
  let x := s.cbGrp h g
  if o = 0x100 then g
  else if o = 0x104 then grpCode x.st + 65536 * x.spans.length
  else if o = 0x10C then (match x.fail with | some k => k + 2 ^ 31 | none => 0)
  else if o = 0x110 then
    ((s.hub h).cbGrps.filter fun e => decide (e.2.st = .opened ∨ e.2.st = .stale)).length +
      65536 * (if s.boot.feat < 3 then 64 else 256)
  else if 0x400 ≤ o ∧ o < 0x480 then
    ((List.range 32).map fun i => if mget false x.spans (8 * (o - 0x400) + i) then 2 ^ i else 0).sum
  else gcWord s (64 + h.val) o

/-- Creel registers of a CPE page (R413). -/
def creelWord (s : State) (e : Fin 16) (bank o : Nat) : Nat :=
  let x := s.creel e
  let b := mget 0 x.selBuf bank
  let j := mget 0 x.selSlot bank
  if o = 0x200 then creelStat x
  else if 0x208 ≤ o ∧ o < 0x210 then half x.table.toNat 0x208 o
  else if o = 0x210 then x.aNow % 2 ^ 32
  else if o = 0x218 then b + 256 * j
  else if 0x220 ≤ o ∧ o < 0x228 then
    if x.slotsOf b ≤ j then 0
    else
      let t := x.slotState b j
      half (t.1 + 16 * t.2 + 2 ^ 32 * (match x.slotOcc b j with | some (a, _) => a % 2 ^ 32 | none => 0)) 0x220 o
  else gcWord s (8 * (e.val / 2) + 6 + e.val % 2) o

/-- HLK page (R629). -/
def hlkWord (s : State) (p : Port) (o : Nat) : Nat :=
  let x := s.hlk p
  if o = 0x100 then b2n x.cxlEn + 256 * x.apLog2
  else if o = 0x104 then x.speed + 16 * x.width + 4096 * x.proto + 65536 * x.numVf
  else if 0x114 ≤ o ∧ o < 0x134 then
    let e := mget (0, false) x.vfMap ((o - 0x110) / 4)
    e.1.toNat + 256 * b2n e.2
  else if o = 0x140 then x.cxlFn.toNat + 256 * b2n x.cxlV
  else if o = 0x144 then x.cxlSize
  else 0

/-- DLK page (R654). -/
def dlkWord (s : State) (d far : DieId) (o : Nat) : Nat :=
  let x := s.dlk d far
  if o = 0x100 then linkCode x.lnk.st + 16 * x.feat + 256 * x.lanes + 65536 * far.val
  else if o = 0x104 then
    (if 4 ≤ d.val then (if x.localMax = 0 then 3 else x.localMax) else if 4 ≤ far.val then hubMax s else 0) + 16 * x.farMax
  else if 0x108 ≤ o ∧ o < 0x110 then half x.lock.toNat 0x108 o
  else if o = 0x110 then x.lnk.attempts + 65536 * (x.lnk.duration % 65536)
  else 0

/-- TDC page (R563, R648). (DESIGN CHOICE, log entry 56) -/
def tdcWord (s : State) (n : Tensor) (o : Nat) : Nat :=
  if o = 0x100 then
    ((List.range 8).map fun e => b2n (mget false s.engRst (8 * n.val + e)) * 2 ^ e).sum + 256 * b2n (mget false s.engRef n.val)
  else if o = 0x104 then
    ((List.range 8).map fun e =>
      b2n (s.queues.any fun y => decide (qEng (Fin.ofNat 1024 y.1) = 8 * n.val + e) &&
        y.2.cmds.any fun c => decide (c.phase = .running)) * 2 ^ e).sum +
      256 * b2n (s.hub (tensorHub n.val)).gov.byCut
  else if o = 0x108 then if (s.blk (pgKey (tDie n.val) ixTdc)).initDone then (Config.dieTemp (tDie n.val) s.now).toNat else 0
  else 0

/-- SCR page (R375). -/
def scrWord (s : State) (n : Tensor) (o : Nat) : Nat :=
  if o = 0x100 then b2n (mget false s.scrZero n.val) else if o = 0x104 then 128 + 65536 * (4 * (s.cache n.val).cur) else 0

/-- The block-specific word at an offset from 0x100 upward. -/
def blockWord (s : State) (k : PageKind) (w : RegWho) (o : Nat) : Nat :=
  match k with
  | .hub h => hubWord s h w o
  | .err d => errWord s d w o
  | .mgt _ => mgtWord s o
  | .ltu h => ltuWord s h o
  | .seq h => seqWord s h o
  | .gov h => govWord s h o
  | .led h => ledWord s h w o
  | .mrm h => scrubWord s (10 + h.val) o
  | .gmc h => scrubWord s (8 + h.val) o
  | .smc n => scrubWord s n.val o
  | .hcc h => ccWord s (8 + h.val) o
  | .scc n => ccWord s n.val o
  | .xlt h => xltWord s h w o
  | .qm d => qmWord s d w o
  | .flk h => flkWord s h o
  | .slk h => slkWord s h o
  | .cb h => cbWord s h w o
  | .cph h => gcWord s (66 + h.val) o
  | .hlk p => hlkWord s p o
  | .dlk d far => dlkWord s d far o
  | .core c => if 0x100 ≤ o ∧ o < 0x108 then half (if mget false s.online (2 + c.val) then 2 ^ 48 - 1 else 0) 0x100 o else 0
  | .tdc n => tdcWord s n o
  | .scr n => scrWord s n o
  | .eng n e =>
    if 6 ≤ e.val then creelWord s (Fin.ofNat 16 (2 * n.val + (e.val - 6))) (w.bank s (tensorHub n.val)) o
    else gcWord s (8 * n.val + e.val) o
  | .cmu _ | .none => 0

/-! ## Common words (R632–R641) -/

/-- BLK_VER.GEN of a die. -/
def dieGen (s : State) (d : Nat) : Nat := if d < 2 then s.boot.hubGen else if d < 4 then 1 else 3

/-- Whether a reader sees the requester of an ERR_FIRST (R641). -/
def seesError (s : State) (h : Hub) (w : RegWho) (b : Blk) : Bool :=
  let v := b.errFirst.toNat
  w.isProstoza || !b.errFirst.getLsbD 63 || decide (w.part s h = if bit v 56 then none else some (bits v 52 4))
/-- ERR_FIRST as a reader sees it. -/
def errFirstSeen (s : State) (h : Hub) (w : RegWho) (b : Blk) : Nat :=
  let v := b.errFirst.toNat
  if seesError s h w b then v else v - bits v 32 16 * 2 ^ 32 - bits v 52 4 * 2 ^ 52 - bits v 56 1 * 2 ^ 56

/-- One 32-bit word of a block page, read without side effect. -/
def pageWord (s : State) (d i : Nat) (w : RegWho) (o : Nat) : Nat :=
  let k := pageAt d i
  let b := s.blk (pgKey d i)
  let h := dieHub d
  if k = .none then 0
  else if 0x100 ≤ o then blockWord s k w o
  else if 0x080 ≤ o then
    let c := o - o % 8
    let secret := (match k with | .hub _ => decide (c = 0x080 ∨ c = 0x088) && !w.isProstoza | _ => false)
    if secret then 0
    else half (if mget false b.snapView (w.bank s h) then mget 0 b.snap c else mget 0 b.cnt c).toNat c o
  else if o = 0x000 then (blkIdent k).1 + 256 * (blkIdent k).2 + 65536 * d + 2 ^ 20 * s.boot.pos.val
  else if o = 0x004 then (Config.blkVersion (blkIdent k).1).toNat + 65536 * dieGen s d
  else if o = 0x008 then capWord s k
  else if o = 0x010 then b2n (mget false b.snapView (w.bank s h)) + 4 * b2n b.cntFreeze
  else if o = 0x014 then b2n b.initDone + 2 * b2n b.snapValid + 4 * b2n b.cntFreeze
  else if o = 0x018 then b.intStat.toNat
  else if o = 0x01C then b.intEn.toNat
  else if o = 0x030 ∨ o = 0x034 then half (errFirstSeen s h w b) 0x030 o
  else if o = 0x038 ∨ o = 0x03C then if seesError s h w b then half b.errAddr.toNat 0x038 o else 0
  else if o = 0x040 then b.errCount.toNat
  else 0

/-! ## Doorbell pages (R152, R158) -/

/-- The queue status word (R158). -/
def qsw (x : Queue) : Nat :=
  x.st.code + 8 * b2n x.suspend + 16 * x.err + 256 * x.lastRefuse + 4096 * x.refuseSeen.toNat +
    32768 * b2n (x.cmds.any fun c => decide (c.phase = .held ∨ c.phase = .deferred)) + 2 ^ 32 * x.lastRefSeq.toNat

/-- The 64-bit word of a doorbell page at an offset that is a multiple of 8. -/
def bellReg (x : Queue) (o : Nat) : Nat :=
  if o = 0x008 then qsw x
  else if o = 0x010 then x.prod.toNat
  else if o = 0x018 then x.cons.toNat
  else if o = 0x020 then x.done.toNat
  else if o = 0x028 then x.ack.toNat
  else if o = 0x040 then x.ringBase.toNat
  else if o = 0x048 then x.cmplBase.toNat
  else if o = 0x050 then x.depthLog2 + 256 * b2n x.dx2 + 512 * policyCode x.policy + 65536 * x.timeoutUs
  else if o = 0x058 then b2n x.enable + 4 * b2n x.resumeAct
  else if o = 0x060 then b2n x.cmplEn + 2 * b2n x.faultEn + 4 * b2n x.refuseEn + 256 * x.coal
  else if o = 0x070 then x.fiSeq.toNat + 2 ^ 32 * x.fiIdx.toNat + 2 ^ 48 * x.fiCause + 2 ^ 56 * x.fiStatus
  else if o = 0x078 then x.fiVa.toNat
  else 0

/-- A 32-bit word at a package offset of the register or doorbell region, read without side effect. -/
def regWord (s : State) (w : RegWho) (o : Nat) : Nat :=
  match regionOf s o with
  | .reg d r => pageWord s d.val (r / 4096) w (r % 4096)
  | .bell q r => half (bellReg (s.queue q) (r - r % 8)) (r - r % 8) r
  | _ => 0

/-- What an aligned read of 4 or 8 bytes returns. -/
def regValue (s : State) (w : RegWho) (o size : Nat) : Nat :=
  if size = 8 then regWord s w o + 2 ^ 32 * regWord s w (o + 4) else regWord s w o

/-- A read of a register: its value, and the clearing of ERR_COUNT by Prostoza or a requester of the owning partition (R645). -/
def regRead (s : State) (w : RegWho) (o size : Nat) : Nat × State :=
  let s := countCutUs (countCutUs s 0) 1
  let v := regValue s w o size
  match regionOf s o with
  | .reg d r =>
    let h := dieHub d.val
    let clears := w.isProstoza || (match w.part s h with | some n => decide (hankOwner s h = some n) | none => false)
    if r % 4096 = 0x040 ∧ clears ∧ pageAt d.val (r / 4096) ≠ .none then
      (v, s.modBlk (pgKey d.val (r / 4096)) fun b => { b with errCount := 0 })
    else (v, s)
  | _ => (v, s)

end Sys2Proof.Machine
end

