-- ==== Sys2Proof/Machine/Storage.lean ====
section
/-! DEFINITION. The storage ports (R382–R385, R612): requests in flight, their failure, and the loss of an SSD; and the release
of the fatal dump (R595). -/

namespace Sys2Proof.Machine

/-- The SLK page of a hub die. -/
def slkPage (h : Hub) : Nat := pgKey h.val ixSlk
/-- The storage port of a hub die changed by f. -/
def State.modSlk (s : State) (h : Hub) (f : Slk → Slk) : State := s.modHub h fun x => { x with slk := f x.slk }

/-- Whether a command is still under way. -/
def underWay (c : Cmd) : Bool := decide (c.phase = .running)

/-- A STORE fails at the storage port of hub die h, which logs the NVMe status (R385). (DEDUCED, log entry 27) -/
def storeFail (s : State) (h : Hub) (q : QIdx) (c : Cmd) (status : Nat) : State :=
  let s := report s (slkPage h) 1 cFetchFailed status (reqTag s h (.engine q)) 0 0
  endCmd s q c .failed cFetchFailed 0xFFFF 0 0

/-- A read, acknowledgement or notice that comes too late is discarded and counted by the receiving die (R574). -/
def lateDiscard (s : State) (d : Nat) : State := s.count (pgKey d ixErr) 0x0A8 1

/-- The request with a tag leaves a storage port. -/
def dropReq (s : State) (h : Hub) (tag : Nat) : State :=
  s.modSlk h fun x => { x with reqs := x.reqs.filter fun r => r.tag ≠ tag }
/-- Requests that an earlier occupant of the same place has left behind go: their completions come too late. -/
def dropOwner (s : State) (h : Hub) (o : NvmeOwner) : State :=
  s.modSlk h fun x => { x with reqs := x.reqs.filter fun r => r.owner ≠ o }

/-- The creel fetch of a slot, if it is in flight. -/
def fillingAt (s : State) (e : Fin 16) (b j : Nat) : Option Fetch :=
  match (s.creel e).fetchOf b j with
  | some f => if f.st = .filling then some f else none
  | none => none

/-- A request at a storage port fails with an NVMe status, 0 where the link is lost (R385, R408, R612). -/
def nvmeFail (s : State) (h : Hub) (r : NvmeReq) (status : Nat) : State :=
  let s := dropReq s h r.tag
  match r.owner with
  | .cmd q seq =>
    (match findCmd s q seq with
     | some c => if underWay c then storeFail (timerRace s q c) h q c status else lateDiscard s h.val
     | none => lateDiscard s h.val)
  | .creel e b j =>
    (match fillingAt s e b j with
     | some f =>
       let q := (s.creel e).queue
       let s := report s (slkPage h) 1 cFetchFailed status (reqTag s h (.engine q)) 0 0
       fetchFail s e (slotKey b j) f 4
     | none => lateDiscard s h.val)

/-- An SSD drops from the link of a storage port until the next start (R612). -/
def ssdDrop (s : State) (h : Hub) (ssd : Nat) : State :=
  let l := (s.hub h).slk.reqs.filter fun r => r.ssd % 8 = ssd
  let s := l.foldl (fun s r => nvmeFail s h r 0) s
  s.modSlk h fun x => { x with nss := x.nss.filter fun n => n.ssd.val ≠ ssd }

/-- Sub-ports of a storage port (R612). -/
def subPorts (bifur : BitVec 2) : Nat := 2 ^ bifur.toNat

/-- SLK_CTL.EN is written (R560, R612, R656): the port releases or asserts its SSD reset, and what enumeration finds is taken.
(DESIGN CHOICE, log entry 61) -/
def portEnable (s : State) (h : Hub) (v : Bool) (found : List NsFound) : State :=
  let pin (s : State) (l : Level) : State :=
    { s with pins := if h = 0 then { s.pins with perst0 := l } else { s.pins with perst1 := l } }
  if v = (s.hub h).slk.en then s
  else if v then
    let n := (found.map fun x => x.ssd.val).dedup.length
    pin (s.modSlk h fun x => { x with
      en := true, nss := found, speed := if n = 0 then 0 else 5
      linkUp := BitVec.ofNat 8 (2 ^ min n (subPorts x.bifur) - 1) }) .high
  else
    let s := (List.range 8).foldl (fun s k => ssdDrop s h k) s
    pin (s.modSlk h fun x => { x with en := false, nss := [], speed := 0, linkUp := 0 }) .low

/-! ## Release of the dump (R589, R595) -/

/-- The summary at a hub die with DUMP_PRESENT cleared and its CRC right again. (DEDUCED, log entry 60) -/
def clearSummary (s : State) (h : Hub) : State :=
  let o := mramBase h + summaryOff
  let l := rawBytes s o 4096
  let l := l.take 6 ++ [(l.getD 6 0) &&& 0xFE] ++ l.drop 7
  let c := leBytes 4 (crc32 (zeroField l 12 4)).toNat
  s.store (o + 6) (slice l 6 1) |>.store (o + 12) c

/-- Package offset of the GDDR dump region (R589). -/
def dumpBase (s : State) : Nat := gddrBase 0 + gddrSize s - 0x10000000

/-- The dump is released (R595). -/
def dumpRelease (s : State) : State :=
  if dumpPresent s then clearSummary (clearSummary (zeroRange s (dumpBase s) 0x10000000) 0) 1 else s

end Sys2Proof.Machine
end

