-- ==== Sys2Proof/Machine/RegWrite.lean ====
section
/-! DEFINITION. Writes of registers (R12–R14, R639–R644, R665): the fields of every register with who may write them, and what a
write does. -/

namespace Sys2Proof.Machine

/-! ## Fields -/

/-- Who may write a field (R639). -/
inductive Writer where
  | any | mgmt | prostoza
  deriving DecidableEq, Repr

/-- A writable field: bits lo to lo + n − 1; act tells that writing a 1 clears a bit or starts an action (W1C, SC, W). -/
structure Field where
  lo  : Nat
  n   : Nat
  who : Writer
  act : Bool := false
  deriving DecidableEq, Repr

/-- A field that keeps what is written. -/
def rw (lo n : Nat) (w : Writer) : Field := { lo := lo, n := n, who := w }
/-- A field whose written ones act. -/
def ac (lo n : Nat) (w : Writer) : Field := { lo := lo, n := n, who := w, act := true }

/-- The writable fields of the register at a base offset of a block page; none where no field is writable. (DEDUCED, log entry 57) -/
def fieldsOf (k : PageKind) (o : Nat) : List Field :=
  if k = .none then []
  else if o = 0x010 then [rw 0 1 .any, ac 1 1 .prostoza, rw 2 1 .prostoza]
  else if o = 0x018 then [ac 0 32 .any]
  else if o = 0x01C then [rw 0 32 .mgmt]
  else if o = 0x020 then [ac 0 32 .prostoza]
  else if o = 0x030 then [ac 63 1 .any]
  else if o < 0x100 then []
  else match k with
  | .hub h =>
    if o = 0x104 then if h = 0 then [ac 0 1 .prostoza, ac 1 1 .prostoza, ac 2 1 .prostoza, rw 16 16 .prostoza] else []
    else if o = 0x114 then [rw 0 4 .prostoza, ac 8 1 .prostoza]
    else if o = 0x118 then [ac 0 2 .any]
    else if o = 0x204 then [rw 0 2 .prostoza, rw 4 4 .prostoza, ac 8 1 .prostoza]
    else if 0x210 ≤ o ∧ o < 0x290 ∧ o % 8 = 0 then
      [rw 0 16 .prostoza, rw 16 5 .prostoza, rw 21 1 .prostoza, rw 25 1 .prostoza]
    else if 0x290 ≤ o ∧ o < 0x310 then [rw 0 4 .prostoza, rw 4 1 .prostoza]
    else []
  | .err _ => if o = 0x104 then [ac 0 1 .prostoza] else if o = 0x108 then [rw 0 32 .prostoza] else []
  | .mgt h =>
    if h ≠ 0 then []
    else if o = 0x100 then [rw 0 8 .prostoza, ac 31 1 .prostoza]
    else if o = 0x110 then [rw 0 5 .prostoza, rw 8 1 .prostoza]
    else if o = 0x114 then [ac 0 1 .prostoza]
    else if o = 0x120 then [ac 0 1 .prostoza, rw 1 1 .prostoza]
    else []
  | .ltu _ =>
    if o = 0x100 then [rw 0 1 .prostoza] else if o = 0x110 then [rw 0 16 .prostoza]
    else if o = 0x120 then [rw 0 16 .prostoza, rw 16 16 .prostoza] else []
  | .seq _ =>
    if 0x300 ≤ o then []
    else if o % 0x20 = 0 then [rw 0 1 .mgmt, rw 1 1 .mgmt]
    else if o % 0x20 = 4 then [rw 0 16 .mgmt, rw 16 16 .mgmt]
    else []
  | .gov _ =>
    if o = 0x100 then [rw 0 1 .mgmt, rw 1 1 .mgmt] else if o = 0x104 then [rw 0 8 .mgmt]
    else if o = 0x110 then [rw 0 10 .mgmt] else if o = 0x114 then [rw 0 16 .mgmt]
    else if o = 0x120 then [rw 0 16 .prostoza, rw 16 16 .prostoza] else []
  | .led _ =>
    if o = 0x100 then [rw 0 1 .prostoza, rw 16 16 .prostoza] else if o = 0x104 then [rw 0 16 .prostoza]
    else if o = 0x108 then [rw 0 16 .prostoza, rw 16 16 .prostoza] else if o = 0x140 then [rw 0 6 .mgmt]
    else if o = 0x148 then [ac 0 1 .any] else if o = 0x150 then [rw 0 32 .any] else []
  | .mrm _ | .gmc _ | .smc _ => if o = 0x180 then [rw 0 1 .prostoza, rw 16 16 .prostoza] else []
  | .hcc _ | .scc _ =>
    if o = 0x100 then [rw 0 1 .mgmt] else if o = 0x110 then [rw 0 2 .mgmt, ac 8 1 .any, rw 32 4 .mgmt]
    else if o = 0x118 then [rw 0 (match k with | .scc _ => 16 | _ => 24) .mgmt]
    else if o = 0x120 then [rw 0 64 .mgmt] else if o = 0x128 then [rw 0 40 .mgmt]
    else if o = 0x130 then [rw 0 24 .mgmt, ac 31 1 .any] else []
  | .xlt _ =>
    if o = 0x100 then [rw 0 6 .prostoza] else if o = 0x108 then [rw 0 1 .prostoza, rw 12 40 .prostoza]
    else if o = 0x118 then [rw 0 6 .prostoza, rw 8 1 .prostoza, ac 16 1 .prostoza, ac 31 1 .prostoza]
    else if o = 0x120 then [rw 0 64 .prostoza] else if o = 0x128 then [rw 0 48 .prostoza] else []
  | .qm d =>
    if o = 0x100 then [rw 0 7 .any]
    else if o = 0x108 then
      [rw 0 6 .prostoza, rw 6 1 .prostoza, rw 8 4 .prostoza, rw 12 2 .mgmt, rw 14 1 .mgmt, rw 16 4 .mgmt, rw 20 1 .mgmt]
    else if o = 0x110 then [rw 0 7 .mgmt, ac 31 1 .mgmt]
    else if 2 ≤ d.val then []
    else if 0x200 ≤ o ∧ o < 0x220 ∧ o % 8 = 0 then [rw 0 32 .mgmt, rw 32 1 .mgmt]
    else if o = 0x240 then [rw 0 8 .mgmt, rw 8 8 .mgmt] else if o = 0x244 then [rw 0 10 .mgmt] else []
  | .flk _ =>
    if o = 0x150 then [rw 0 1 .prostoza] else if o = 0x208 then [ac 0 1 .prostoza]
    else if 0x300 ≤ o ∧ o < 0x340 then [rw 0 10 .prostoza] else []
  | .slk _ => if o = 0x100 then [rw 0 1 .prostoza, rw 1 2 .prostoza] else []
  | .cb _ =>
    if o = 0x100 then [rw 0 8 .any] else if o = 0x108 then [ac 0 1 .mgmt]
    else if o = 0x300 then [rw 0 1 .mgmt, ac 1 1 .any] else []
  | .cph _ => if o = 0x300 then [rw 0 1 .mgmt, ac 1 1 .any] else []
  | .eng _ e =>
    if o = 0x300 then [rw 0 1 .mgmt, ac 1 1 .any]
    else if o = 0x218 ∧ 6 ≤ e.val then [rw 0 4 .any, rw 8 8 .any] else []
  | .hlk _ =>
    if o = 0x100 then [rw 0 1 .prostoza, rw 8 6 .prostoza]
    else if 0x114 ≤ o ∧ o < 0x134 then [rw 0 5 .prostoza, rw 8 1 .prostoza]
    else if o = 0x140 then [rw 0 5 .prostoza, rw 8 1 .prostoza]
    else if o = 0x144 then [rw 0 13 .prostoza] else []
  | .tdc _ => if o = 0x100 then [ac 0 8 .mgmt] else []
  | .scr _ => if o = 0x100 then [ac 0 1 .any] else []
  | .dlk _ _ | .core _ | .cmu _ | .none => []

/-- The writable fields of a doorbell page's register (R152). -/
def bellFields (o : Nat) : List Field :=
  if o = 0x000 then [ac 0 32 .any]
  else if o = 0x028 then [rw 0 32 .any]
  else if o = 0x040 ∨ o = 0x048 then [rw 0 64 .any]
  else if o = 0x050 then [rw 0 5 .any, rw 8 1 .any, rw 9 2 .any, rw 16 16 .any]
  else if o = 0x058 then [rw 0 1 .any, ac 1 1 .any, rw 2 1 .any, ac 3 1 .any]
  else if o = 0x060 then [rw 0 1 .any, rw 1 1 .any, rw 2 1 .any, rw 8 8 .any]
  else []

/-- Whether the fields of the register at a base offset reach beyond bit 31. -/
def wide (l : List Field) : Bool := l.any fun f => decide (32 < f.lo + f.n)

/-- The mask of a field. -/
def Field.mask (f : Field) : Nat := (2 ^ f.n - 1) * 2 ^ f.lo

/-- What a write comes to, field by field: the value that takes effect, the bits that a permitted writer wrote, and whether a
field was refused (R665). -/
def mergeFields (may : Writer → Bool) (cur written v : Nat) : List Field → Nat × Nat × Bool
  | [] => (0, 0, false)
  | f :: rest =>
    let r := mergeFields may cur written v rest
    let m := f.mask &&& written
    let want := v &&& m
    let now_ := cur &&& f.mask
    if may f.who then
      if f.act then (r.1 ||| want, r.2.1 ||| m, r.2.2)
      else (r.1 ||| (now_ - (cur &&& m)) ||| want, r.2.1 ||| m, r.2.2)
    else if f.act then (r.1, r.2.1, r.2.2 || decide (want ≠ 0))
    else (r.1 ||| now_, r.2.1, r.2.2 || decide (want ≠ cur &&& m))

/-! ## What writes do -/

/-- A write of a register: its base offset, the value that takes effect and the bits that were written. -/
structure Wr where
  off  : Nat
  v    : Nat
  wm   : Nat
  deriving DecidableEq, Repr

/-- Whether the write reaches a bit. -/
def Wr.hits (w : Wr) (i : Nat) : Bool := bit w.wm i
/-- Whether the write sets a bit. -/
def Wr.sets (w : Wr) (i : Nat) : Bool := bit w.wm i && bit w.v i
/-- A field of the value. -/
def Wr.f (w : Wr) (lo n : Nat) : Nat := bits w.v lo n

/-- The fatal code FW_DECLARED. -/
def fcDeclared : Nat := 8

/-- Writes of the common registers (R632). -/
def commonAct (s : State) (p bank : Nat) (w : Wr) : State :=
  if w.off = 0x010 then
    let s := if w.hits 0 then s.modBlk p fun b => { b with snapView := mput false bank (bit w.v 0) b.snapView } else s
    let s := if w.sets 1 then s.modBlk p fun b => { b with cnt := [] } else s
    if w.hits 2 then s.modBlk p fun b => { b with cntFreeze := bit w.v 2 } else s
  else if w.off = 0x018 then s.withIrq p fun b => { b with intStat := b.intStat &&& ~~~(BitVec.ofNat 32 w.v) }
  else if w.off = 0x01C then s.withIrq p fun b => { b with intEn := BitVec.ofNat 32 w.v }
  else if w.off = 0x020 then
    s.withIrq p fun b => { b with intStat := b.intStat ||| BitVec.ofNat 32 (w.v &&& intBits (pageAt (p / 4096) (p % 4096))) }
  else if w.off = 0x030 ∧ w.sets 63 then s.modBlk p fun b => { b with errFirst := b.errFirst &&& BitVec.ofNat 64 (2 ^ 63 - 1) }
  else s

/-- Writes of the HUB page. -/
def hubAct (s : State) (h : Hub) (w : Wr) : State :=
  if w.off = 0x104 then
    let s := if w.wm / 65536 = 0 then s else { s with boot := { s.boot with fwCode := BitVec.ofNat 16 (w.f 16 16) } }
    let s := if w.sets 0 then readyAct s else s
    let s := if w.sets 1 then fwFailAct s else s
    if w.sets 2 then packageReset s 4 false else s
  else if w.off = 0x114 then
    let s := if w.hits 0 then s.modPart h fun p => { p with rstPart := BitVec.ofNat 4 (w.f 0 4) } else s
    if w.sets 8 ∧ !(s.hub h).part.rstBusy then partReset s h (s.hub h).part.rstPart.toNat else s
  else if w.off = 0x118 then
    let ask (a : State × Bool) (b : Bool) (i : Nat) : State × Bool :=
      if b then let r := engineReset a.1 i; (r.1, a.2 || !r.2) else a
    if w.v = 0 then s
    else
      let r := ask (ask (s, false) (w.sets 0) (64 + h.val)) (w.sets 1) (66 + h.val)
      r.1.modPart h fun p => { p with engRefused := r.2 }
  else if w.off = 0x204 then
    let s := if w.wm = 0 then s else s.modPart h fun p => { p with ctlOp := BitVec.ofNat 2 (w.f 0 2), ctlPart := BitVec.ofNat 4 (w.f 4 4) }
    if w.sets 8 then
      let p := (s.hub h).part
      if p.ctlOp = 1 then hankAssign s h p.ctlPart.toFin else if p.ctlOp = 2 then hankRelease s h else s
    else s
  else if 0x210 ≤ w.off ∧ w.off < 0x290 then
    if w.wm = 0 then s
    else s.modPart h fun p => { p with
      parts := mput {} ((w.off - 0x210) / 8)
        (PartEnt.mk (BitVec.ofNat 16 (w.f 0 16)) (BitVec.ofNat 5 (w.f 16 5)) (bit w.v 21) (bit w.v 25)) p.parts }
  else if w.wm = 0 then s
  else s.modPart h fun p => { p with
    funcs := mput {} ((w.off - 0x290) / 4)
      (FuncEnt.mk (BitVec.ofNat 4 (w.f 0 4)) (bit w.v 4)) p.funcs }

/-- Writes of the MGT page (R596, R649). -/
def mgtAct (s : State) (w : Wr) : State :=
  if w.off = 0x100 then
    let s := if w.hits 0 then { s with mgt := { s.mgt with detail := BitVec.ofNat 8 (w.f 0 8) } } else s
    if w.sets 31 then raiseFatal s fcDeclared (pgKey 0 ixMgt) else s
  else if w.off = 0x110 then
    if w.wm = 0 then s else { s with mgt := { s.mgt with dumpFn := BitVec.ofNat 5 (w.f 0 5), dumpV := bit w.v 8 } }
  else if w.off = 0x114 then if w.sets 0 then dumpRelease s else s
  else
    let s := if w.sets 0 then { s with mgt := { s.mgt with kickAt := s.now } } else s
    if w.sets 1 ∧ !s.mgt.wdogEn then { s with mgt := { s.mgt with wdogEn := true, kickAt := s.now } } else s

/-- Writes of the LTU page. -/
def ltuAct (s : State) (h : Hub) (w : Wr) : State :=
  if w.wm = 0 then s
  else if w.off = 0x100 then dcWrite s h (bit w.v 0)
  else if w.off = 0x110 then
    if 0x2D00 ≤ w.v ∧ w.v ≤ 0x4200 then s.modLtu h fun l => { l with nomFreq := BitVec.ofNat 16 w.v } else s
  else s.modLtu h fun l => { l with snapPeriod := BitVec.ofNat 16 (w.f 0 16), snapPhase := BitVec.ofNat 16 (w.f 16 16) }

/-- A legal SEQ_GRP_GRID.PERIOD (R188). -/
def periodOk (p : Nat) : Bool := decide (p ∈ [0, 256, 512, 1024, 2048, 4096, 8192, 16384, 32768])

/-- Writes of the SEQ page (R187, R188). -/
def seqAct (s : State) (h : Hub) (w : Wr) : State :=
  let g : Fin 16 := Fin.ofNat 16 ((w.off - 0x100) / 0x20)
  let en := (s.grp h g).en
  if w.off % 0x20 = 0 then
    let s := if w.hits 1 ∧ !en then s.modGrp h g fun x => { x with layerInc := bit w.v 1 } else s
    if w.hits 0 then (if bit w.v 0 then enableGrp s h g else disableGrp s h g) else s
  else if w.wm = 0 ∨ en then s
  else s.modGrp h g fun x =>
    { x with period := if periodOk (w.f 0 16) then BitVec.ofNat 16 (w.f 0 16) else x.period, phase := BitVec.ofNat 16 (w.f 16 16) }

/-- Writes of the GOV page (R93, R97). -/
def govAct (s : State) (h : Hub) (w : Wr) : State :=
  if w.wm = 0 then s
  else if w.off = 0x100 then govBallast (cutApply (s.modGov h fun g => { g with fallEn := bit w.v 0, cutSw := bit w.v 1 }) h) h
  else if w.off = 0x104 then if 1 ≤ w.v ∧ w.v ≤ 40 then s.modGov h fun g => { g with step := w.v } else s
  else if w.off = 0x110 then if w.v ≤ 1000 then cutApply (s.modGov h fun g => { g with cutLevel := w.v }) h else s
  else if w.off = 0x114 then s.modGov h fun g => { g with c0Reserve := w.v }
  else s.modGov h fun g => { g with dvfsA := BitVec.ofNat 16 (w.f 0 16), dvfsB := BitVec.ofNat 16 (w.f 16 16) }

/-- Writes of the LED page (R532, R534). A value of LED_VIEW_OFS that is no multiple of 2 KiB is rounded down to one. (DESIGN CHOICE, log
entry 127) -/
def ledAct (s : State) (h : Hub) (bank ctx : Nat) (w : Wr) : State :=
  if w.wm = 0 then s
  else if w.off = 0x100 then
    s.modLed h fun d => { d with clearAct := bit w.v 0, clearUs := if 100 ≤ w.f 16 16 then w.f 16 16 else d.clearUs }
  else if w.off = 0x104 then if 1000 ≤ w.v ∧ w.v ≤ 16000 then s.modLed h fun d => { d with deadline := w.v } else s
  else if w.off = 0x108 then
    s.modLed h fun d => { d with ckPeriod := BitVec.ofNat 16 (w.f 0 16), ckPhase := BitVec.ofNat 16 (w.f 16 16) }
  else if w.off = 0x140 then if w.v < 48 then s.modLed h fun d => { d with viewSel := mput 0 bank w.v d.viewSel } else s
  else if w.off = 0x148 then if w.sets 0 then viewRelease s h ctx else s
  else s.modLed h fun d => { d with viewOfs := mput 0 bank (w.v - w.v % 2048) d.viewOfs }

/-- Writes of an SCC or HCC page (R357–R365). -/
def ccAct (s : State) (i : Nat) (w : Wr) : State :=
  if w.wm = 0 then s
  else if w.off = 0x100 then if bit w.v 0 then cacheOn s i else cacheOff s i
  else if w.off = 0x110 then
    let op := if w.hits 0 ∧ w.f 0 2 ≠ 3 then w.f 0 2 else (s.cache i).maintOp
    let s := if w.hits 0 ∧ !w.sets 8 then s.modCache i fun c => { c with maintOp := op } else s
    maintCarve s i (if w.sets 8 then some op else none) (if w.hits 32 then some (w.f 32 4) else none)
  else if w.off = 0x118 then s.modCache i fun c => { c with lock := BitVec.ofNat 24 (w.v % 2 ^ uncarved s i) }
  else if w.off = 0x120 then s.modCache i fun c => { c with plBase := BitVec.ofNat 64 w.v }
  else if w.off = 0x128 then s.modCache i fun c => { c with plLen := BitVec.ofNat 40 w.v }
  else
    let ways := if w.hits 0 then BitVec.ofNat 24 (w.f 0 24) else (s.cache i).plWays
    if w.sets 31 then preloadStart s i ways else s.modCache i fun c => { c with plWays := ways }

/-- A write of GC_CTL (R371). -/
def gcAct (s : State) (e : Nat) (w : Wr) : State :=
  if w.hits 0 then gcWrite s e (bit w.v 0) (w.sets 1) else if w.sets 1 then gcFlush s e 0x0E8 else s

/-- Writes of the XLT page (R139, R140, R652, R653). -/
def xltAct (s : State) (h : Hub) (bank : Nat) (w : Wr) : State :=
  if w.wm = 0 then s
  else if w.off = 0x100 then if w.v < 48 then s.modXlt h fun x => { x with csel := mput 0 bank w.v x.csel } else s
  else if w.off = 0x108 then
    ctxWrite s h (mget 0 (s.hub h).xlt.csel bank) (bit w.v 0) (BitVec.ofNat 40 (w.f 12 40))
  else if w.off = 0x118 then
    let s := s.modXlt h fun x => { x with invCtx := BitVec.ofNat 6 (w.f 0 6), invAll := bit w.v 8
                                          overrun := x.overrun && !w.sets 16 }
    if w.sets 31 then invStart s h else s
  else if w.off = 0x120 then s.modXlt h fun x => { x with invVa := BitVec.ofNat 64 w.v }
  else s.modXlt h fun x => { x with invLen := BitVec.ofNat 64 w.v }

/-- A write of QM_QD (R150). -/
def qdAct (x : Queue) (w : Wr) : Queue :=
  let x := { x with classFloor := w.f 12 2, suspend := bit w.v 14 }
  if x.st = .disabled then
    { x with ctx := w.f 0 6, bound := bit w.v 6, part := BitVec.ofNat 4 (w.f 8 4), stepGrp := Fin.ofNat 16 (w.f 16 4), stepEn := bit w.v 20 }
  else x

/-- Writes of a queue-manager page (R150, R500, R557, R563, R651). -/
def qmAct (s : State) (d : DieId) (bank : Nat) (w : Wr) : State :=
  let h := dieHub d.val
  if w.wm = 0 then s
  else if w.off = 0x100 then
    if w.v < qCount d.val then { s with qsel := mput 0 (qselKey d.val bank) w.v s.qsel } else s
  else if w.off = 0x108 then
    match queueAt d.val (mget 0 s.qsel (qselKey d.val bank)) with
    | some q => s.modQueue q fun x => qdAct x w
    | none => s
  else if w.off = 0x110 then
    let s := if w.hits 0 then { s with qrst := mput 0 d.val (w.f 0 7) s.qrst } else s
    if w.sets 31 ∧ mget 0 s.qrstRun d.val = 0 then
      match queueAt d.val (mget 0 s.qrst d.val) with
      | some q =>
        if s.doff.stopped ∨ (s.queue q).st = .reset then s
        else queueReset { s with qrstRun := mput 0 d.val (q.val + 1) s.qrstRun } q
      | none => s
    else s
  else if w.off < 0x220 then
    s.modQos h fun k =>
      let c := (w.off - 0x200) / 8
      { k with budget := mput 0xFFFFFFFF c (w.f 0 32) k.budget, mode := mput true c (bit w.v 32) k.mode }
  else if w.off = 0x240 then
    s.modQos h fun k => { k with w1 := if w.f 0 8 = 0 then k.w1 else BitVec.ofNat 8 (w.f 0 8)
                                 w2 := if w.f 8 8 = 0 then k.w2 else BitVec.ofNat 8 (w.f 8 8) }
  else if w.v ≤ 500 then s.modQos h fun k => { k with memC0 := BitVec.ofNat 10 w.v } else s

/-- Writes of the FLK page (R327, R501, R655). -/
def flkAct (s : State) (h : Hub) (w : Wr) : State :=
  if w.wm = 0 then s
  else if w.off = 0x150 then s.modHub h fun x => { x with flk := { x.flk with loopback := bit w.v 0 } }
  else if w.off = 0x208 then if w.sets 0 then knotFlush s h else s
  else
    let l := mput 0 ((w.off - 0x300) / 4) w.v (s.hub h).flk.c0Slice
    if (l.map (·.2)).sum ≤ 600 then s.modHub h fun x => { x with flk := { x.flk with c0Slice := l } } else s

/-- Writes of the SLK page (R612, R656). -/
def slkAct (s : State) (h : Hub) (found : List NsFound) (w : Wr) : State :=
  if w.wm = 0 then s
  else
    let s := if (s.hub h).slk.en then s else s.modSlk h fun x => { x with bifur := BitVec.ofNat 2 (w.f 1 2) }
    portEnable s h (bit w.v 0) found

/-- Writes of the CBE page (R430, R439). -/
def cbAct (s : State) (h : Hub) (bank : Nat) (w : Wr) : State :=
  if w.off = 0x300 then gcAct s (64 + h.val) w
  else if w.wm = 0 then s
  else if w.off = 0x100 then s.modHub h fun x => { x with cbSel := mput 0 bank w.v x.cbSel }
  else if w.sets 0 then cbClear s h (mget 0 (s.hub h).cbSel bank) else s

/-- Writes of an HLK page (R629). -/
def hlkAct (s : State) (p : Port) (w : Wr) : State :=
  if w.wm = 0 then s
  else if w.off = 0x100 then
    s.modHlk p fun x => { x with cxlEn := bit w.v 0
                                 apLog2 := if 32 ≤ w.f 8 6 ∧ w.f 8 6 ≤ 48 then w.f 8 6 else x.apLog2 }
  else if w.off < 0x134 then
    s.modHlk p fun x => { x with vfMap := mput (0, false) ((w.off - 0x110) / 4) (BitVec.ofNat 5 (w.f 0 5), bit w.v 8) x.vfMap }
  else if w.off = 0x140 then s.modHlk p fun x => { x with cxlFn := BitVec.ofNat 5 (w.f 0 5), cxlV := bit w.v 8 }
  else if w.v ≤ 4096 then s.modHlk p fun x => { x with cxlSize := w.v } else s

/-- A write of ENG_RST (R559, R563). -/
def tdcAct (s : State) (n : Tensor) (w : Wr) : State :=
  if w.v = 0 then s
  else
    let r := (List.range 8).foldl (fun (a : State × Bool) e =>
      if w.sets e ∧ !mget false a.1.engRst (8 * n.val + e) then
        let x := engineReset a.1 (8 * n.val + e); (x.1, a.2 || !x.2)
      else a) (s, false)
    { r.1 with engRef := mput false n.val r.2 r.1.engRef }

/-- What a write of a block-specific register does. -/
def blockAct (s : State) (k : PageKind) (bank ctx : Nat) (found : List NsFound) (w : Wr) : State :=
  let scrub (i : Nat) : State :=
    if w.wm = 0 then s else s.modScrub i fun x => { x with en := bit w.v 0, credit := BitVec.ofNat 16 (w.f 16 16) }
  match k with
  | .hub h => hubAct s h w
  | .err d =>
    if w.off = 0x104 then
      if w.sets 0 then { s with errs := mput {} d.val (let e := mget {} s.errs d.val; { e with unread := 0, overflow := false }) s.errs }
      else s
    else if w.wm = 0 then s
    else { s with errs := mput {} d.val (let e := mget {} s.errs d.val; { e with thresh := BitVec.ofNat 32 w.v }) s.errs }
  | .mgt _ => mgtAct s w
  | .ltu h => ltuAct s h w
  | .seq h => seqAct s h w
  | .gov h => govAct s h w
  | .led h => ledAct s h bank ctx w
  | .mrm h => scrub (10 + h.val)
  | .gmc h => scrub (8 + h.val)
  | .smc n => scrub n.val
  | .hcc h => ccAct s (8 + h.val) w
  | .scc n => ccAct s n.val w
  | .xlt h => xltAct s h bank w
  | .qm d => qmAct s d bank w
  | .flk h => flkAct s h w
  | .slk h => slkAct s h found w
  | .cb h => cbAct s h bank w
  | .cph h => gcAct s (66 + h.val) w
  | .eng n e =>
    if w.off = 0x300 then gcAct s (8 * n.val + e.val) w
    else if w.wm = 0 then s
    else s.modCreel (Fin.ofNat 16 (2 * n.val + (e.val - 6))) fun x =>
      { x with selBuf := mput 0 bank (w.f 0 4) x.selBuf, selSlot := mput 0 bank (w.f 8 8) x.selSlot }
  | .hlk p => hlkAct s p w
  | .tdc n => tdcAct s n w
  | .scr n => if w.sets 0 then scrZeroStart s n else s
  | .dlk _ _ | .core _ | .cmu _ | .none => s

/-- Writes of a doorbell page (R150–R157, R175). (DEDUCED, log entry 58) -/
def bellAct (s : State) (q : QIdx) (w : Wr) : State :=
  let x := s.queue q
  let dis := decide (x.st = .disabled)
  if w.wm = 0 then s
  else if w.off = 0x000 then ringBell s q (BitVec.ofNat 32 w.v)
  else if w.off = 0x028 then s.setQueue q { x with ack := BitVec.ofNat 32 w.v }
  else if w.off = 0x040 then if dis then s.setQueue q { x with ringBase := BitVec.ofNat 64 w.v } else s
  else if w.off = 0x048 then if dis then s.setQueue q { x with cmplBase := BitVec.ofNat 64 w.v } else s
  else if w.off = 0x050 then
    if dis then
      let d := w.f 0 5
      let p := w.f 9 2
      let t := w.f 16 16
      s.setQueue q { x with
        depthLog2 := if 6 ≤ d ∧ d ≤ 16 then d else x.depthLog2, dx2 := bit w.v 8
        policy := if p = 0 then .halt else if p = 1 then .skip else if p = 2 then .resume else x.policy
        timeoutUs := if 1 ≤ t ∧ t ≤ 99 then 100 else t }
    else s
  else if w.off = 0x058 then
    let s := s.modQueue q fun x => { x with resumeAct := bit w.v 2 }
    let s := if w.sets 3 then s.modQueue q fun x => { x with refuseSeen := 0 } else s
    let s := if w.sets 1 then resumeQueue s q else s
    if w.hits 0 then
      if bit w.v 0 then (if (s.queue q).enable ∧ (s.queue q).st ≠ .disabled then s else enableQueue s q)
      else disableQueue s q
    else s
  else s.setQueue q { x with cmplEn := bit w.v 0, faultEn := bit w.v 1, refuseEn := bit w.v 2, coal := w.f 8 8 }

/-! ## A whole write -/

/-- The registers that a write of a page meets, as base offset and width in bytes. -/
def regsMet (fields : Nat → List Field) (o size : Nat) : List (Nat × Nat) :=
  let b := o - o % 8
  if wide (fields b) then [(b, 8)] else if size = 8 then [(o, 4), (o + 4, 4)] else [(o, 4)]

/-- Whether a requester may write a kind of field of hank h's pages (R12, R471, R639). -/
def mayWrite (s : State) (h : Hub) (who : RegWho) : Writer → Bool
  | .any => true
  | .mgmt => who.isMgmt s h
  | .prostoza => who.isProstoza

/-- A write of 4 or 8 bytes, aligned, at a package offset of the register or doorbell region by a requester that has passed the
firewall.  found is what enumeration finds behind a storage port that the write enables.  A write of SEQ_GRP_CTL and SEQ_GRP_GRID
together is indivisible (R16): the grid is taken or ignored by the EN that stood before the write (R188), so it goes first. -/
def regWrite (s : State) (who : RegWho) (o size v : Nat) (found : List NsFound := []) : State :=
  let go (h : Hub) (fields : Nat → List Field) (cur : State → Nat → Nat → Nat) (act : State → Wr → State) (r : Nat) (gridFirst : Bool := false) : State :=
    let met := regsMet fields r size
    let res := (if gridFirst then met.reverse else met).foldl (fun (a : State × Bool) b =>
      let lo := max r b.1
      let n := min (r + size) (b.1 + b.2) - lo
      let written := (2 ^ (8 * n) - 1) * 2 ^ (8 * (lo - b.1))
      let val := bits v (8 * (lo - r)) (8 * n) * 2 ^ (8 * (lo - b.1))
      let m := mergeFields (mayWrite a.1 h who) (cur a.1 b.1 b.2) written val (fields b.1)
      (act a.1 { off := b.1, v := m.1, wm := m.2.1 }, a.2 || m.2.2)) (s, false)
    if res.2 then
      fwViolation res.1 h fwRwl
        (match who with
         | .self x => reqTag s h x
         | .far t _ => t) (paOf s o)
    else res.1
  match regionOf s o with
  | .reg d r =>
    let i := r / 4096
    let k := pageAt d.val i
    let h := dieHub d.val
    let bank := who.bank s h
    let ctx := ledCtx s h who
    go h (fieldsOf k)
      (fun s b n =>
        let view : RegWho := if 0x100 ≤ b ∧ d.val < 2 ∧ i = ixHub then .self .prostoza else who
        pageWord s d.val i view b + (if n = 8 then 2 ^ 32 * pageWord s d.val i view (b + 4) else 0))
      (fun s w => if w.off < 0x100 then commonAct s (pgKey d.val i) bank w else blockAct s k bank ctx found w) (r % 4096) (k = .seq h)
  | .bell q r =>
    go (qHub q) bellFields (fun s b _ => bellReg (s.queue q) b) (fun s w => bellAct s q w) r
  | _ => s

end Sys2Proof.Machine
end

