-- ==== Sys2Proof/Machine/RegCmds.lean ====
section
/-! DEFINITION. The commands that are register writes, each as the write that performs it, so that every check and rule of the
register applies (R12, R471, R475, R480, R639, R665). -/

namespace Sys2Proof.Machine

/-! ## Faults of core and host accesses (R117, R280, R281, R478) -/

/-- The CORE page of a core's die. -/
def corePage (c : CoreId) : Nat := pgKey (coreDie c) ixCore
/-- A core takes a precise data abort of a fault class (R281); an exception loses the reservation (R276). (DEDUCED, log entry 90) -/
def coreAbort (s : State) (c : CoreId) (cls addr : Nat) : State :=
  let s := report s (corePage c) 1 cls 0 (reqTag s (coreHub c) (.core c)) addr (if cls = cXltMiss then 0 else addr)
  s.modCore c fun x => { x with abort := some (cls, addr), resv := none }
/-- A core store fails on its way (R280). -/
def storeFailed (s : State) (c : CoreId) (cls addr : Nat) : State :=
  let s := (report s (corePage c) 1 cls 0 (reqTag s (coreHub c) (.core c)) addr addr).count (corePage c) 0x0B8 1
  s.modCore c fun x => { x with storeErr := some (cls, addr), resv := none }

/-- An access that is not performed is logged for its requester: the CORE page for a core, the translating XLT for a function.
(DEDUCED, log entry 62) -/
def accessFault (s : State) (r : Requester) (cause addr : Nat) : State :=
  match r with
  | .core c => coreAbort s c cause addr
  | .function f =>
    let h := reqHub s (.function f)
    report s (pgKey h.val ixXlt) 1 cause 0 (reqTag s h r) addr addr
  | _ => s

/-- Whether a store of the core may commit: no earlier load and no FENCE.REMOTE is waited for (R261, R269). -/
def mayCommit (x : Core) : Bool := !loadsBefore x x.nextNo && !(x.fence.any fun f => f.1)

/-- The die from which a requester reaches an offset of this package; Prostoza is at hand on either hub die. -/
def reqDie (s : State) (r : Requester) (o : Nat) : Nat :=
  match r with
  | .prostoza => (dieHub (servingDie s 0 o)).val
  | .function _ => (reqHub s r).val
  | .core c => coreDie c
  | .engine q => qDie q

/-- Whether a register access has to wait: any, for a link of its way (R646); a core's, until its earlier loads and stores have been
performed and no barrier holds it (R261, R265, R269, R271). (DEDUCED, log entry 88) -/
def mustWait (s : State) (r : Requester) (rd : Bool) (o : Nat) : Bool :=
  regHeld s (reqDie s r o) o ||
  match r with
  | .core c =>
    let x := s.core c
    !mayCommit x || !x.sb.isEmpty || (rd && x.fence.isSome)
  | _ => false

/-- A register write by a requester, with the checks of the frame map and of the firewall before it; a core store that the
firewall stops is a STORE_ERROR. -/
def regAccess (s : State) (r : Requester) (off size v : Nat) (found : List NsFound := []) : State :=
  if !isReg off || mustWait s r false off then s
  else match physCheck s r (paOf s off) size with
    | .ok => regWrite s (.self r) off size (v % 2 ^ (8 * size)) found
    | .fw h f k a =>
      let s := logFw s h f k a r
      (match r with
       | .core c => storeFailed s c cFirewall a
       | _ => s)
    | .bad c a => accessFault s r c a

/-- A register read by a requester; the value goes out. -/
def regQuery (s : State) (r : Requester) (off size : Nat) : State :=
  if mustWait s r true off then s
  else match physCheck s r (paOf s off) size with
  | .ok => let (v, s) := regRead s (.self r) off size; s.send (.value (BitVec.ofNat 64 v))
  | .fw h f k a =>
    let s := logFw s h f k a r
    (match r with
     | .core c => coreAbort s c cFirewall a
     | _ => s)
  | .bad c a => accessFault s r c a

/-- Package offset of a page (R630). -/
def pgOff (p : Nat) : Nat := regBase + p / 4096 * 0x1000000 + p % 4096 * 0x1000
/-- Package offset of a queue's doorbell page (R115). -/
def bellOff (q : QIdx) : Nat := bellBase + q.val * 0x1000
/-- A write of a block page's register. -/
def pageAccess (s : State) (r : Requester) (p off size v : Nat) : State := regAccess s r (pgOff p + off) size v

/-- A meaning that takes a next state of a package that works. -/
def onward (s : State) (f : State → State) : Host.Outcome State Fault Refusal := .next (s.whenAlive f)
/-- The same at cycle t. -/
def onwardAt (s : State) (t : Nat) (f : State → State) : Host.Outcome State Fault Refusal := .next (s.atTime t f)

/-! ## Line time and governor -/

/-- R72. -/
def execDcModeWrite (r : Requester) (u : Hub) (v : Bool) (s : State) : Host.Outcome State Fault Refusal :=
  onward s fun s => pageAccess s r (ltuPage u) 0x100 4 (b2n v)
/-- R97: FALL_EN is written as it stands. -/
def execGovCtlCutWrite (r : Requester) (h : Hub) (v : Bool) (s : State) : Host.Outcome State Fault Refusal :=
  onward s fun s => pageAccess s r (govPage h) 0x100 4 (b2n (s.hub h).gov.fallEn + 2 * b2n v)
/-- R97. -/
def execGovCutLevelWrite (r : Requester) (h : Hub) (v : W32) (s : State) : Host.Outcome State Fault Refusal :=
  onward s fun s => pageAccess s r (govPage h) 0x110 4 v.toNat

/-! ## Queues (R152–R157, R175, R176, R187, R557) -/

/-- A write of Q_CTL with ENABLE, RESUME, RESUME_ACT and QSW_CLR. (DEDUCED, log entry 59) -/
def qCtl (s : State) (r : Requester) (q : QIdx) (en resume act clr : Bool) : State :=
  regAccess s r (bellOff q + 0x058) 4 (b2n en + 2 * b2n resume + 4 * b2n act + 8 * b2n clr)

/-- R154. -/
def execDoorbell (r : Requester) (q : QIdx) (v : W32) (s : State) : Host.Outcome State Fault Refusal :=
  onward s fun s => regAccess s r (bellOff q) 4 v.toNat
/-- R156. -/
def execQueueEnable (r : Requester) (q : QIdx) (s : State) : Host.Outcome State Fault Refusal :=
  onward s fun s => qCtl s r q true false (s.queue q).resumeAct false
/-- R156. -/
def execQueueDisable (r : Requester) (q : QIdx) (s : State) : Host.Outcome State Fault Refusal :=
  onward s fun s => qCtl s r q false false (s.queue q).resumeAct false
/-- R175. -/
def execQueueResume (r : Requester) (q : QIdx) (s : State) : Host.Outcome State Fault Refusal :=
  onward s fun s => qCtl s r q (s.queue q).enable true (s.queue q).resumeAct false
/-- R176: RESUME with RESUME_ACT = 0. -/
def execFaultWaitRetry (r : Requester) (q : QIdx) (t : Nat) (s : State) : Host.Outcome State Fault Refusal :=
  onwardAt s t fun s => qCtl s r q (s.queue q).enable true false false
/-- R176: RESUME with RESUME_ACT = 1. -/
def execFaultWaitAbandon (r : Requester) (q : QIdx) (t : Nat) (s : State) : Host.Outcome State Fault Refusal :=
  onwardAt s t fun s => qCtl s r q (s.queue q).enable true true false
/-- R152. -/
def execQswClr (r : Requester) (q : QIdx) (s : State) : Host.Outcome State Fault Refusal :=
  onward s fun s => qCtl s r q (s.queue q).enable false (s.queue q).resumeAct true
/-- R557, R563. -/
def execQmQrst (r : Requester) (q : QIdx) (t : Nat) (s : State) : Host.Outcome State Fault Refusal :=
  onwardAt s t fun s => pageAccess s r (qmPage q) 0x110 4 (qLocal q + 2 ^ 31)
/-- R187: LAYER_INC is written as it stands. -/
def execStepGroupEnable (r : Requester) (h : Hub) (g : Fin 16) (s : State) : Host.Outcome State Fault Refusal :=
  onward s fun s => pageAccess s r (pgKey h.val ixSeq) (0x100 + 0x20 * g.val) 4 (1 + 2 * b2n (s.grp h g).layerInc)
/-- R187. -/
def execStepGroupDisable (r : Requester) (h : Hub) (g : Fin 16) (s : State) : Host.Outcome State Fault Refusal :=
  onward s fun s => pageAccess s r (pgKey h.val ixSeq) (0x100 + 0x20 * g.val) 4 (2 * b2n (s.grp h g).layerInc)

/-! ## Combine -/

/-- R430, R439: the group is the one the requester has selected. -/
def execCbGrpClr (r : Requester) (h : Hub) (s : State) : Host.Outcome State Fault Refusal :=
  onward s fun s => pageAccess s r (cbPage h) 0x108 4 1

/-! ## Storage -/

/-- R560, R612, R656: BIFUR is written as it stands. -/
def execStoragePortEnable (r : Requester) (h : Hub) (v : Bool) (found : List NsFound) (s : State) :
    Host.Outcome State Fault Refusal :=
  onward s fun s => regAccess s r (pgOff (slkPage h) + 0x100) 4 (b2n v + 2 * (s.hub h).slk.bifur.toNat) found

/-! ## Caches and scratchpad (R357–R371, R375) -/

/-- R357, R359. -/
def execCacheEnable (r : Requester) (c : CacheId) (s : State) : Host.Outcome State Fault Refusal :=
  onward s fun s => pageAccess s r (cachePage (cacheIx c)) 0x100 4 1
/-- R357. -/
def execCacheDisable (r : Requester) (c : CacheId) (s : State) : Host.Outcome State Fault Refusal :=
  onward s fun s => pageAccess s r (cachePage (cacheIx c)) 0x100 4 0
/-- R361. -/
def execCacheMaintWb (r : Requester) (c : CacheId) (s : State) : Host.Outcome State Fault Refusal :=
  onward s fun s => pageAccess s r (cachePage (cacheIx c)) 0x110 4 0x100
/-- R361. -/
def execCacheMaintInv (r : Requester) (c : CacheId) (s : State) : Host.Outcome State Fault Refusal :=
  onward s fun s => pageAccess s r (cachePage (cacheIx c)) 0x110 4 0x101
/-- R361. -/
def execCacheMaintWbinv (r : Requester) (c : CacheId) (s : State) : Host.Outcome State Fault Refusal :=
  onward s fun s => pageAccess s r (cachePage (cacheIx c)) 0x110 4 0x102
/-- R363. -/
def execCacheCarve (r : Requester) (c : CacheId) (units : Fin 16) (s : State) : Host.Outcome State Fault Refusal :=
  onward s fun s => pageAccess s r (cachePage (cacheIx c)) 0x114 4 units.val
/-- R364. -/
def execCachePreload (r : Requester) (c : CacheId) (ways : BitVec 24) (s : State) : Host.Outcome State Fault Refusal :=
  onward s fun s => pageAccess s r (cachePage (cacheIx c)) 0x130 4 (ways.toNat + 2 ^ 31)
/-- R371. -/
def execGcEnable (r : Requester) (e : EngineId) (inv : Bool) (s : State) : Host.Outcome State Fault Refusal :=
  onward s fun s => pageAccess s r (engPage (engIx e)) 0x300 4 (1 + 2 * b2n inv)
/-- R371. -/
def execGcDisable (r : Requester) (e : EngineId) (s : State) : Host.Outcome State Fault Refusal :=
  onward s fun s => pageAccess s r (engPage (engIx e)) 0x300 4 0
/-- R371: EN is written as it stands. -/
def execGcInv (r : Requester) (e : EngineId) (s : State) : Host.Outcome State Fault Refusal :=
  onward s fun s => pageAccess s r (engPage (engIx e)) 0x300 4 (b2n (s.gc (engIx e)).en + 2)
/-- R375. -/
def execScrZero (r : Requester) (n : Tensor) (s : State) : Host.Outcome State Fault Refusal :=
  onward s fun s => pageAccess s r (pgKey (tDie n.val) ixScr) 0x100 4 1

/-! ## Hanks and partitions (R486, R487, R556) -/

/-- R486. -/
def execHankRelease (r : Requester) (h : Hub) (t : Nat) (s : State) : Host.Outcome State Fault Refusal :=
  onwardAt s t fun s => pageAccess s r (pgKey h.val ixHub) 0x204 4 0x102
/-- R487. -/
def execHankAssign (r : Requester) (h : Hub) (part : Fin 16) (s : State) : Host.Outcome State Fault Refusal :=
  onward s fun s => pageAccess s r (pgKey h.val ixHub) 0x204 4 (0x101 + 16 * part.val)
/-- R556. -/
def execPartRst (r : Requester) (h : Hub) (part : Fin 16) (t : Nat) (s : State) : Host.Outcome State Fault Refusal :=
  onwardAt s t fun s => pageAccess s r (pgKey h.val ixHub) 0x114 4 (0x100 + part.val)
/-- R532. -/
def execLedViewRel (r : Requester) (h : Hub) (s : State) : Host.Outcome State Fault Refusal :=
  onward s fun s => pageAccess s r (ledPage h) 0x148 4 1

/-! ## Start and reset (R541, R553, R559) -/

/-- HUB_CTL of H0 with FW_CODE as it stands. -/
def hubCtl (s : State) (r : Requester) (v : Nat) : State := pageAccess s r (pgKey 0 ixHub) 0x104 4 (v + 65536 * s.boot.fwCode.toNat)

/-- R553. -/
def execSoftPkgReset (r : Requester) (s : State) : Host.Outcome State Fault Refusal := onward s fun s => hubCtl s r 4
/-- R541. -/
def execSetReady (r : Requester) (s : State) : Host.Outcome State Fault Refusal := onward s fun s => hubCtl s r 1
/-- R541. -/
def execFwFail (r : Requester) (t : Nat) (s : State) : Host.Outcome State Fault Refusal := onwardAt s t fun s => hubCtl s r 2
/-- R559, R563. -/
def execEngRst (r : Requester) (n : Tensor) (bits : BitVec 8) (s : State) : Host.Outcome State Fault Refusal :=
  onward s fun s => pageAccess s r (pgKey (tDie n.val) ixTdc) 0x100 4 bits.toNat
/-- R559, R562. -/
def execHubEngRst (r : Requester) (h : Hub) (cb cph : Bool) (s : State) : Host.Outcome State Fault Refusal :=
  onward s fun s => pageAccess s r (pgKey h.val ixHub) 0x118 4 (b2n cb + 2 * b2n cph)

/-! ## Errors and management (R565, R595, R596, R632, R638, R645, R649) -/

/-- R649: EN is written as it stands. -/
def execWatchdogKick (r : Requester) (t : Nat) (s : State) : Host.Outcome State Fault Refusal :=
  onwardAt s t fun s => pageAccess s r (pgKey 0 ixMgt) 0x120 4 (1 + 2 * b2n s.mgt.wdogEn)
/-- R649. -/
def execWatchdogArm (r : Requester) (t : Nat) (s : State) : Host.Outcome State Fault Refusal :=
  onwardAt s t fun s => pageAccess s r (pgKey 0 ixMgt) 0x120 4 2
/-- R565. -/
def execErrLogAck (r : Requester) (d : DieId) (s : State) : Host.Outcome State Fault Refusal :=
  onward s fun s => pageAccess s r (pgKey d.val ixErr) 0x104 4 1
/-- R645. -/
def execErrCountRead (r : Requester) (d : DieId) (page : Nat) (s : State) : Host.Outcome State Fault Refusal :=
  onward s fun s => regQuery s r (pgOff (pgKey d.val (page % 4096)) + 0x040) 4
/-- R638: the other fields of BLK_CTL are written as they stand. -/
def execCntClear (r : Requester) (d : DieId) (page : Nat) (s : State) : Host.Outcome State Fault Refusal :=
  onward s fun s =>
    let p := pgKey d.val (page % 4096)
    pageAccess s r p 0x010 4 (2 + regValue s (.self r) (pgOff p + 0x010) 4)
/-- R632. -/
def execIntForce (r : Requester) (d : DieId) (page : Nat) (v : W32) (s : State) : Host.Outcome State Fault Refusal :=
  onward s fun s => pageAccess s r (pgKey d.val (page % 4096)) 0x020 4 v.toNat
/-- R595. -/
def execDumpRel (r : Requester) (s : State) : Host.Outcome State Fault Refusal :=
  onward s fun s => pageAccess s r (pgKey 0 ixMgt) 0x114 4 1

/-! ## Translation (R139, R140, R653) -/

/-- R139. -/
def execXltInvalidate (r : Requester) (h : Hub) (ctx : Fin 64) (all : Bool) (s : State) : Host.Outcome State Fault Refusal :=
  onward s fun s => pageAccess s r (xltPage h) 0x118 4 (ctx.val + 256 * b2n all + 2 ^ 31)
/-- R653: the context is the one that Prostoza has selected. -/
def execXltContextEnable (r : Requester) (h : Hub) (root : BitVec 40) (s : State) : Host.Outcome State Fault Refusal :=
  onward s fun s => pageAccess s r (xltPage h) 0x108 8 (1 + 4096 * root.toNat)
/-- R140, R653: ROOT is written as it stands. -/
def execXltContextDisable (r : Requester) (h : Hub) (s : State) : Host.Outcome State Fault Refusal :=
  onward s fun s =>
    let o := pgOff (xltPage h) + 0x108
    pageAccess s r (xltPage h) 0x108 8 (let v := regValue s (.self r) o 8; v - v % 2)

end Sys2Proof.Machine
end

