-- ==== Sys2Proof/Machine/Cores.lean ====
section
/-! DEFINITION. Core accesses (R258–R294): the checks and aborts of R268 and R281, the store buffer (R261–R271), reserved pairs
(R272–R279), the matrix unit (R282–R286) and vector gathers and scatters (R287–R290). -/

namespace Sys2Proof.Machine

/-! ## Checks (R268, R281) -/

/-- What the checks of a core access answer: it may be made; it meets a condition that is precise for loads and stores; or one that is
imprecise for stores. -/
inductive CoreChk where
  | ok
  | precise (m : CoreMiss)
  | late (m : CoreMiss)
  deriving DecidableEq, Repr

/-- One piece of a core access under the checks of the frame map, the position and the firewall. -/
def coreChkPiece (s : State) (c : CoreId) (p : Nat × Nat) : CoreChk :=
  match physCheck s (.core c) p.1 p.2 with
  | .ok => .ok
  | .bad k a => if k = cPosDown then .late { cls := k, addr := a } else .precise { cls := k, addr := a }
  | .fw h f k a => .late { cls := cFirewall, addr := a, fw := some (h, f, k) }

/-- The pieces of a core access (R267): split at 16-byte boundaries; a register access is judged whole (R118), and an aligned access of
64 bytes is indivisible (R392). (DEDUCED, log entry 117) -/
def corePieces (a : CoreAccess) : List (Nat × Nat) :=
  if isReg (offOf a.addr) || decide (a.size = 64 ∧ a.addr % 64 = 0) then [(a.addr, a.size)] else splitAt_ 16 a.addr a.size

/-- What the checks of each piece of an access answer (R268), the attribute conflict first (R127). -/
def coreChks (s : State) (c : CoreId) (a : CoreAccess) : List CoreChk :=
  if bit a.attr.toNat 1 && bit a.attr.toNat 2 then [.precise { cls := cXltAttr, addr := a.addr }]
  else (corePieces a).map (coreChkPiece s c)

/-- What the checks of an access answer: the first condition in address order. -/
def coreLook (s : State) (c : CoreId) (a : CoreAccess) : CoreChk := ((coreChks s c a).find? fun r => r ≠ .ok).getD .ok

/-- The attributes in force for a core access (R128). -/
def coreAcc (s : State) (a : CoreAccess) : Acc := effAttr s a.addr a.attr.toNat 0

/-- An access has been performed; where R128 forced the C of its leaf to 0, the core die counts it (R129). -/
def countForced (s : State) (c : CoreId) (a : CoreAccess) : State :=
  if bit a.attr.toNat 1 && !(coreAcc s a).c then s.count (pgKey (coreDie c) ixCore) 0x080 1 else s

/-- The fault class of an answer from another package (R281). -/
def answerClass : Answer → Nat
  | .firewall => cFirewall
  | .poison => cPoison
  | .link => cLink
  | .unmapped => cUnmapped
  | _ => cPosDown

/-- The CMU page of a core's die. -/
def cmuPage (c : CoreId) : Nat := pgKey (coreDie c) ixCmu

/-- Whether a core is in service (R650). (DESIGN CHOICE, log entry 49) -/
def coreOnline (s : State) (c : CoreId) : Bool := mget false s.online (coreDie c)

/-- The partition a core's transfers carry (R473). -/
def corePart (s : State) (c : CoreId) : Option (Fin 16) := (reqPart s (coreHub c) (.core c)).map (Fin.ofNat 16)

/-- What a firewall that stopped a core access has to say of it. -/
def logMiss (s : State) (c : CoreId) (m : CoreMiss) : State :=
  match m.fw with
  | some (h, f, k) => logFw s h f k m.addr (.core c)
  | none => s

/-- A core access ends in a precise data abort (R281). -/
def coreMissed (s : State) (c : CoreId) (m : CoreMiss) : State := coreAbort (logMiss s c m) c m.cls m.addr

/-- A store fails on its way (R280); one whose destination package finds its address unmapped aborts, as that class is precise for
stores too (R117, R281). (DEDUCED, log entry 118) -/
def storeMissed (s : State) (c : CoreId) (m : CoreMiss) : State :=
  if m.cls = cUnmapped then coreMissed s c m else storeFailed (logMiss s c m) c m.cls m.addr

/-! ## Loads (R258, R262–R265) -/

/-- What a core load answers: its bytes, a condition, or that it waits, and what for. -/
inductive CoreRd where
  | ok (bytes : List Byte) (s : State)
  | stop (m : CoreMiss) (s : State)
  | wait (ask : CoreAsk) (s : State)
  deriving Repr

/-- Whether an access meets the bytes of a buffered store. -/
def overlaps (a : CoreAccess) (e : SbEnt) : Bool := decide (a.addr < e.acc.addr + e.acc.size ∧ e.acc.addr < a.addr + a.size)

/-- The bytes that a buffered store gives a load it covers. -/
def forwarded (a : CoreAccess) (e : SbEnt) : Option (List Byte) :=
  if e.acc.addr ≤ a.addr ∧ a.addr + a.size ≤ e.acc.addr + e.acc.size then some (slice e.data (a.addr - e.acc.addr) a.size) else none

/-- The next number of a core's requests and accesses. -/
def nextNo (s : State) (c : CoreId) : Nat × State := ((s.core c).nextNo, s.modCore c fun x => { x with nextNo := x.nextNo + 1 })

/-- The pieces of a load are asked of another package, each with a number of its own. -/
def askPieces (s : State) (c : CoreId) (x : FarAttr) (ask : CoreAsk) : List (Nat × Nat) → CoreAsk × State
  | [] => (ask, s)
  | (pa, n) :: l =>
    let (k, s) := nextNo s c
    askPieces (sendRead s (corePart s c) 1 (.core c k) x pa n) c x { ask with need := ask.need ++ [(k, pa, n)] } l

/-- A performed access of a core may make the line of its reservation leave its caches (R276). (DESIGN CHOICE, log entry 114) -/
def lineMayLeave (s : State) (c : CoreId) (a : CoreAccess) : State :=
  if (s.core c).resv.isSome && (coreAcc s a).c then
    let (n, s) := s.draw
    if Config.lineLeaves n then s.modCore c fun x => { x with resv := none } else s
  else s

/-- A load is made from memory, a register or another package, once the store buffer allows it.  early tells of a read before
commit, which consumes no poison and leaves the counters of the core die to the commit (R285). (DEDUCED, log entry 87) -/
def coreFetch (s : State) (c : CoreId) (a : CoreAccess) (early : Bool) (ask : CoreAsk) : CoreRd :=
  let o := offOf a.addr
  let counted (s : State) : State := if early then s else countForced s c a
  if !isLocal s a.addr then
    match ask.rfail with
    | some (p, k) => .stop { cls := answerClass k, addr := p } s
    | none =>
      if hasAll ask.rdata a.addr a.size then .ok (arrived ask.rdata a.addr a.size) (counted s)
      else if !ask.need.isEmpty then .wait ask s
      else
        let (ask, s) := askPieces s c (coreAcc s a).far { ask with at0 := s.now } (corePieces a)
        .wait ask s
  else if regHeld s (coreDie c) o then .wait ask s
  else if isReg o then
    let (v, s) := regRead s (.self (.core c)) o a.size
    .ok (leBytes a.size v) (counted s)
  else if memBusy s o then .wait ask s
  else if early && (splitAt_ 64 o a.size).any (fun p => coherentPoison s p.1) then .stop { cls := cPoison, addr := a.addr } s
  else
    let (b, p, s) := readMem s (coreAcc s a) o a.size
    if p then .stop { cls := cPoison, addr := a.addr } s else .ok b (lineMayLeave (counted s) c a)

/-- A load of a core (R262–R265, R269): checks, barriers, the store buffer, then the access.  A load that a buffered store meets in part
replays, which is counted once. -/
def coreRead (s : State) (c : CoreId) (a : CoreAccess) (early : Bool) (ask : CoreAsk) : CoreRd :=
  let x := s.core c
  match coreLook s c a with
  | .precise m | .late m => .stop m s
  | .ok =>
    if x.fence.isSome then .wait ask s
    else if (coreAcc s a).se then if x.sb.isEmpty then coreFetch s c a early ask else .wait ask s
    else match (x.sb.filter (overlaps a)).getLast? with
      | none => coreFetch s c a early ask
      | some e =>
        match forwarded a e with
        | some b => .ok b s
        | none => .wait { ask with replayed := true } (if ask.replayed || early then s else s.count (corePage c) 0x088 1)

/-- A load that has been performed or aborted waits no more, and what is still to come for it is not awaited. -/
def loadDone (x : Core) : Core := { x with pendLoad := none, pendVec := false, ask := {} }

/-- Whether another load of the core is still to be performed before this one, which so waits (R261). -/
def otherLoad (x : Core) (a : CoreAccess) : Bool :=
  match x.pendLoad with
  | some (b, _) => x.pendVec || decide (b ≠ a) || loadsBefore x x.pendNo
  | none => loadsBefore x x.nextNo

/-- The load waits from now on; vec tells that it is an element of a gather. (DEDUCED, log entry 88) -/
def waitLoad (s : State) (c : CoreId) (a : CoreAccess) (vec : Bool) (ask : CoreAsk) : State :=
  match (s.core c).pendLoad with
  | some _ => s.modCore c fun x => { x with ask := ask }
  | none =>
    let (n, s) := nextNo s c
    s.modCore c fun x => { x with pendLoad := some (a, s.now), pendNo := n, pendVec := vec, ask := ask }

/-- A core load: performed, aborted, or waiting (R264, R281). -/
def coreLoadStep (s : State) (c : CoreId) (a : CoreAccess) : State :=
  let x := s.core c
  if !coreOnline s c || otherLoad x a then s
  else match coreRead s c a false x.ask with
    | .ok b s => s.modCore c fun x => { loadDone x with regs := mput [] a.dest b x.regs }
    | .stop m s => (coreMissed s c m).modCore c loadDone
    | .wait ask s => waitLoad s c a false ask

/-- What a load awaits, with the answer to its request n taken in. -/
def CoreAsk.answer (x : CoreAsk) (n pa : Nat) (k : Answer) (data : List Byte) : CoreAsk :=
  { x with
    need := x.need.filter fun y => y.1 ≠ n
    rdata := if k = .ok then keepBytes x.rdata pa data else x.rdata
    rfail := if k = .ok then x.rfail else x.rfail.orElse fun _ => some (pa, k) }

/-- Whether a load awaits the answer to request n. -/
def CoreAsk.awaits (x : CoreAsk) (n pa : Nat) (k : Answer) (data : List Byte) : Bool :=
  x.need.any fun y => decide (y.1 = n ∧ y.2.1 = pa ∧ (k = .ok → data.length = y.2.2))

/-- Data for a core's remote load arrives (R324); a load that only waited for it is performed, and what no load awaits is discarded. -/
def coreData (s : State) (c : CoreId) (n pa : Nat) (k : Answer) (data : List Byte) : State :=
  let x := s.core c
  if x.ask.awaits n pa k data then
    let s := s.modCore c fun x => { x with ask := x.ask.answer n pa k data }
    match x.pendLoad with
    | some (a, _) => if x.pendVec then s else coreLoadStep s c a
    | none => s
  else if (x.cmu.any fun b => b.ask.awaits n pa k data) then
    let take (b : CmuBegun) : CmuBegun := if b.ask.awaits n pa k data then { b with ask := b.ask.answer n pa k data } else b
    s.modCore c fun x => { x with cmu := x.cmu.map take }
  else s.count (pgKey (coreDie c) ixErr) 0x0A8 1

/-! ## The store buffer (R259–R271, R280) -/

/-- The position of a store's destination. -/
def SbEnt.pos (e : SbEnt) : Nat := posOf e.acc.addr

/-- Entry i leaves the store buffer; a barrier that waited for no other store completes (R269, R270). -/
def sbRemove (s : State) (c : CoreId) (i : Nat) : State :=
  s.modCore c fun x =>
    let sb := x.sb.eraseIdx i
    { x with
      sb := sb
      fence := match x.fence with
        | none => none
        | some (r, n) =>
          let n := if i < n then n - 1 else n
          if n = 0 ∨ (!r && (sb.take n).all fun e => decide (e.pos ≠ s.boot.pos.val)) then none else some (r, n) }

/-- Whether the order of R263 and R271 lets entry i be performed. -/
def sbMay (s : State) (x : Core) (i : Nat) (e : SbEnt) : Bool :=
  if (coreAcc s e.acc).se then decide (i = 0) else (x.sb.take i).all fun y => decide (y.pos ≠ e.pos)
/-- Whether a store to another package may be sent: its links keep the order of what was sent before (R263). -/
def sbMaySend (s : State) (x : Core) (i : Nat) (e : SbEnt) : Bool :=
  !e.sent && !isLocal s e.acc.addr &&
    (if (coreAcc s e.acc).se then decide (i = 0) else (x.sb.take i).all fun y => decide (y.pos ≠ e.pos) || y.sent)

/-- The bytes of one piece of a buffered store. -/
def SbEnt.bytes (e : SbEnt) (p : Nat × Nat) : List Byte := slice e.data (p.1 - e.acc.addr) p.2

/-- A store of the buffer is sent to its package, piece by piece in ascending order, or fails before it leaves (R26, R267, R280,
R477). -/
def sbSend (s : State) (c : CoreId) (i : Nat) (e : SbEnt) : State :=
  match coreLook s c e.acc with
  | .ok =>
    let (n, s) := nextNo s c
    let s := s.modCore c fun x => { x with sb := x.sb.set i { e with sent := true, req := n } }
    (corePieces e.acc).foldl (fun s p => sendWrite s (corePart s c) 1 (.core c n) (coreAcc s e.acc).far p.1 (e.bytes p)) s
  | .precise m | .late m => sbRemove (storeMissed s c m) c i

/-- The stores that may be sent are sent. -/
def sbDrive (s : State) (c : CoreId) : Nat → State
  | 0 => s
  | n + 1 =>
    let x := s.core c
    match (x.sb.zipIdx.find? fun p => sbMaySend s x p.2 p.1) with
    | some (e, i) => sbDrive (sbSend s c i e) c n
    | none => s
/-- The same for the whole buffer. -/
def sbFlow (s : State) (c : CoreId) : State := sbDrive s c (s.core c).sb.length

/-- A store that has passed its checks enters the buffer. -/
def sbPush (s : State) (c : CoreId) (a : CoreAccess) (data : List Byte) : State :=
  s.modCore c fun x => { x with sb := x.sb ++ [{ acc := a, data := data, issued := s.now, sent := false }] }

/-- The precise condition that a store meets, if one of its pieces meets one (R268, R281). -/
def storeFault (s : State) (c : CoreId) (a : CoreAccess) : Option CoreMiss :=
  (coreChks s c a).findSome? fun r => match r with | .precise m => some m | _ => none

/-- A core store commits (R261, R268). -/
def coreStoreStep (s : State) (c : CoreId) (a : CoreAccess) (data : List Byte) : State :=
  if !coreOnline s c || !mayCommit (s.core c) || decide (data.length ≠ a.size) then s
  else match storeFault s c a with
    | some m => coreMissed s c m
    | none => sbFlow (sbPush s c a data) c

/-- One more piece of entry i is performed; with its last one the store is, and leaves the buffer (R259, R267). -/
def sbPiece (s : State) (c : CoreId) (i : Nat) (e : SbEnt) : State :=
  if (corePieces e.acc).length ≤ e.done + 1 then sbFlow (sbRemove (countForced s c e.acc) c i) c
  else s.modCore c fun x => { x with sb := x.sb.set i { e with done := e.done + 1 } }

/-- The next piece of entry i of the store buffer is performed in this package, or acknowledged by another (R259, R263, R267,
R271). -/
def sbPerform (s : State) (c : CoreId) (i : Nat) : State :=
  let x := s.core c
  match x.sb[i]? with
  | none => s
  | some e =>
    if !isLocal s e.acc.addr then if e.sent then sbPiece s c i e else s
    else if !sbMay s x i e then s
    else match coreLook s c e.acc with
      | .precise m | .late m => sbFlow (sbRemove (storeMissed s c m) c i) c
      | .ok =>
        let o := offOf e.acc.addr
        if regHeld s (coreDie c) o then s
        else if isReg o then sbPiece (regWrite s (.self (.core c)) o e.acc.size (leNat e.data)) c i e
        else if memBusy s o then s
        else match (corePieces e.acc)[e.done]? with
          | none => sbPiece s c i e
          | some p =>
            if sharedBytes s (offOf p.1) p.2 then snoopBytes s (offOf p.1) p.2
            else sbPiece (writeMem s (some c) (coreAcc s e.acc) (offOf p.1) (e.bytes p)) c i e

/-- Entry i of the store buffer fails on its way (R280). -/
def sbFail (s : State) (c : CoreId) (i : Nat) (k : Answer) : State :=
  match (s.core c).sb[i]? with
  | some e => if k = .ok then s else sbFlow (sbRemove (storeMissed s c { cls := answerClass k, addr := e.acc.addr }) c i) c
  | none => s

/-- The acknowledgement of a core store's piece arrives (R259, R280). -/
def coreAck (s : State) (c : CoreId) (n : Nat) (k : Answer) : State :=
  match (s.core c).sb.zipIdx.find? fun p => p.1.sent && decide (p.1.req = n) with
  | some (_, i) => if k = .ok then sbPerform s c i else sbFail s c i k
  | none => s.count (pgKey (coreDie c) ixErr) 0x0A8 1

/-- FENCE.SL (R269). -/
def fenceSlStep (s : State) (c : CoreId) : State :=
  if !coreOnline s c then s
  else s.modCore c fun x =>
    if (x.fence.any fun f => f.1) || x.sb.all (fun e => decide (e.pos ≠ s.boot.pos.val)) then x
    else { x with fence := some (false, x.sb.length) }
/-- FENCE.REMOTE (R269). -/
def fenceRemoteStep (s : State) (c : CoreId) : State :=
  if !coreOnline s c then s
  else (s.modCore c fun x => { x with fence := if x.sb.isEmpty then none else some (true, x.sb.length) }).count (corePage c) 0x0B0 1

/-- GIDX is set. -/
def setGidx (s : State) (c : CoreId) (f : Nat) : State := s.modCore c fun x => { x with gidx := f }

/-- An element of a gather or scatter that meets a precise condition stops it (R288). -/
def vecFault (s : State) (c : CoreId) (f : Nat) (m : CoreMiss) : State :=
  setGidx (((coreMissed s c m).modCore c loadDone).count (cmuPage c) 0x098 1) c f

/-- The load that the core waits for ends in a condition. -/
def pendFails (s : State) (c : CoreId) (m : CoreMiss) : State :=
  if (s.core c).pendVec then vecFault s c (s.core c).gidx m else (coreMissed s c m).modCore c loadDone

/-- Whether a load has asked another package for data that has not come within 2 ms (R578). -/
def CoreAsk.late (x : CoreAsk) (now : Nat) : Bool := !x.need.isEmpty && decide (x.at0 + ms 2 ≤ now)

/-- The loads that begun matrix-unit instructions wait for end in a condition, which is met at commit (R282); which says of which. -/
def cmuFails (s : State) (c : CoreId) (which : CoreAsk → Bool) (k : Nat) : State :=
  let fail (b : CmuBegun) : CmuBegun :=
    if which b.ask then { b with ask := {}, fault := some { cls := k, addr := (b.ask.need.head?.map fun y => y.2.1).getD 0 } } else b
  s.modCore c fun x => { x with cmu := x.cmu.map fail }

/-- Whether an access of a core to a register of this package waits for a link and was issued 2 ms ago (R646). -/
def regLate (s : State) (c : CoreId) (a : CoreAccess) (at0 : Nat) : Bool :=
  isLocal s a.addr && regHeld s (coreDie c) (offOf a.addr) && decide (at0 + ms 2 ≤ s.now)

/-- A core's access to another package, or to a register behind a die link, has not been performed 2 ms after its issue (R578, R646). -/
def coreLinkTimeout (s : State) (c : CoreId) (i : Option Nat) : State :=
  match i with
  | none =>
    let s := if (s.core c).cmu.any (fun b => b.ask.late s.now) then cmuFails s c (fun x => x.late s.now) cLink else s
    (match (s.core c).pendLoad with
     | some (a, t) => if (s.core c).ask.late s.now || regLate s c a t then pendFails s c { cls := cLink, addr := a.addr } else s
     | none => s)
  | some i =>
    (match (s.core c).sb[i]? with
     | some e => if (e.sent ∧ e.issued + ms 2 ≤ s.now) ∨ regLate s c e.acc e.issued then sbFail s c i .link else s
     | none => s)

/-! ## Reserved pairs (R272–R279) -/

/-- The size and the alignment that a reserved pair asks for (R272). -/
def pairSize (a : CoreAccess) : Bool := decide (a.size = 4 ∨ a.size = 8)

/-- LDRES (R272, R273). -/
def ldresStep (s : State) (c : CoreId) (a : CoreAccess) : State :=
  let x := s.core c
  if !coreOnline s c || otherLoad x a || !pairSize a then s
  else if a.addr % a.size ≠ 0 then coreAbort s c cAlign a.addr
  else
    let here := isLocal s a.addr
    match coreRead s c a false x.ask with
    | .ok b s => s.modCore c fun x =>
        { loadDone x with regs := mput [] a.dest b x.regs, resv := if here then some (offOf a.addr, a.size) else none }
    | .stop m s => (coreMissed s c m).modCore c loadDone
    | .wait ask s => (waitLoad s c a false ask).modCore c fun x => { x with resv := none }

/-- The outcome of a STCOND reaches its register; the reservation is cleared (R274), and a run of spurious failures ends (R279). -/
def stcondEnd (s : State) (c : CoreId) (a : CoreAccess) (status : Nat) : State :=
  let off := if status = 0 then 0x090 else if status = 1 then 0x098 else if status = 2 then 0x0A0 else 0x0A8
  (s.modCore c fun x => { x with
      resv := none, stStatus := status, spurious := 0, regs := mput [] a.dest (leBytes 8 status) x.regs }).count
    (corePage c) off 1

/-- The most failures in a row of a simple loop that nothing but chance explains (R279). -/
def spuriousMax : Nat := 3

/-- STCOND; a.simple tells that it ends an iteration of a simple loop (R272, R274–R279). (DEDUCED, log entry 89) -/
def stcondStep (s : State) (c : CoreId) (a : CoreAccess) (data : List Byte) : State :=
  let x := s.core c
  if !coreOnline s c || !mayCommit x || !pairSize a || decide (data.length ≠ a.size) then s
  else if a.addr % a.size ≠ 0 then coreAbort s c cAlign a.addr
  else if bit a.attr.toNat 1 && bit a.attr.toNat 2 then coreAbort s c cXltAttr a.addr
  else if 8 * window ≤ a.addr then coreAbort s c cUnmapped a.addr
  else if !isLocal s a.addr then stcondEnd s c a 2
  else match storeFault s c a with
    | some m => coreMissed s c m
    | none =>
      if !(coreAcc s a).c || (coreAcc s a).se then stcondEnd s c a 3
      else
        let o := offOf a.addr
        if x.resv ≠ some (o, a.size) then stcondEnd s c a 1
        else if x.sb.any fun e => decide (e.pos = s.boot.pos.val) then s
        else if sharedBytes s o a.size then snoopBytes s o a.size
        else match coreLook s c a with
          | .ok =>
            let (n, s) := s.draw
            if (!a.simple || decide (x.spurious < spuriousMax)) && Config.spurious n then
              (stcondEnd s c a 1).modCore c fun y => { y with spurious := x.spurious + 1 }
            else stcondEnd (writeMem s (some c) (coreAcc s a) o data) c a 0
          | .precise m | .late m => stcondEnd (storeMissed s c m) c a 1

/-! ## The matrix unit (R282–R286) -/

/-- The begun instruction with a number. -/
def begun (s : State) (c : CoreId) (id : Nat) : Option CmuBegun := (s.core c).cmu.find? fun b => b.instr.id = id
/-- A begun instruction replaces the one of its number. -/
def putBegun (s : State) (c : CoreId) (b : CmuBegun) : State :=
  s.modCore c fun x => { x with
    cmu := if x.cmu.any (fun y => decide (y.instr.id = b.instr.id)) then
        x.cmu.map fun y => if y.instr.id = b.instr.id then b else y
      else x.cmu ++ [b] }
/-- The begun instruction goes. -/
def dropBegun (s : State) (c : CoreId) (id : Nat) : State :=
  s.modCore c fun x => { x with cmu := x.cmu.filter fun y => y.instr.id ≠ id }

/-- The loads of a begun instruction that are still to be made, in order. -/
def cmuLoads (s : State) (c : CoreId) (b : CmuBegun) : List CoreAccess → CmuBegun × State
  | [] => (b, s)
  | a :: l =>
    match coreRead s c a true b.ask with
    | .ok d s => cmuLoads s c { b with data := b.data ++ [d], ask := {}, replays := b.replays + b2n b.ask.replayed } l
    | .stop m s => ({ b with fault := some m, ask := {} }, s)
    | .wait ask s => ({ b with ask := ask }, s)

/-- A begun instruction is executed as far as it can be (R282, R284). -/
def cmuExecute (s : State) (c : CoreId) (b : CmuBegun) : State :=
  let r := cmuLoads s c b (b.instr.loads.drop b.data.length)
  putBegun r.2 c r.1

/-- Whether a begun instruction is the oldest that the core has not committed, as far as the memory system sees it (R286). -/
def noneBefore (x : Core) (b : CmuBegun) : Bool :=
  !(x.pendLoad.isSome && decide (x.pendNo < b.no)) && x.cmu.all fun y => decide (b.no ≤ y.no)

/-- The CMU begins an instruction, or goes on with it (R282, R286). -/
def cmuBegin (s : State) (c : CoreId) (i : CmuInstr) (oldest : Bool) : State :=
  if !coreOnline s c then s
  else match begun s c i.id with
    | some b =>
      if executed b || (!(oldest && noneBefore (s.core c) b) && b.instr.loads.any fun a => (coreAcc s a).se) then s
      else cmuExecute s c b
    | none =>
      let (n, s) := nextNo s c
      let b : CmuBegun := { instr := i, data := [], fault := none, no := n }
      if !(oldest && noneBefore (s.core c) b) && i.loads.any fun a => (coreAcc s a).se then
        (putBegun s c b).count (cmuPage c) 0x090 1
      else cmuExecute s c b

/-- The first store of an instruction that meets a precise condition. -/
def cmuStoreFault (s : State) (c : CoreId) (i : CmuInstr) : Option CoreMiss := i.stores.findSome? fun p => storeFault s c p.1

/-- What the loads of a committed instruction leave in the counters of the core die (R129, R264, R285). -/
def cmuCount (s : State) (c : CoreId) (b : CmuBegun) : State :=
  let s := (b.instr.loads.take b.data.length).foldl (fun s a => countForced s c a) s
  if b.replays = 0 then s else s.count (corePage c) 0x088 b.replays

/-- A committed instruction that met no condition becomes architectural: its registers, flags and stores (R282, R283). -/
def cmuRetire (s : State) (c : CoreId) (i : CmuInstr) : State :=
  let s := s.modCore c fun x => { x with
    regs := i.regs.foldl (fun m r => mput [] r.1 r.2 m) x.regs, cmuFlags := x.cmuFlags ||| i.flags }
  sbFlow (i.stores.foldl (fun s p => sbPush s c p.1 p.2) s) c

/-- The core commits a begun instruction (R282–R284). -/
def cmuCommitStep (s : State) (c : CoreId) (id : Nat) : State :=
  match begun s c id with
  | none => s
  | some b =>
    if loadsBefore (s.core c) b.no || ((s.core c).fence.any fun f => f.1) then s
    else
      let s := if b.redo then
          cmuExecute (s.count (cmuPage c) 0x088 1) c { b with data := [], fault := none, redo := false, ask := {} }
        else s
      match begun s c id with
      | none => s
      | some b =>
        if !executed b then s
        else
          let s := cmuCount (dropBegun s c id) c b
          match b.fault with
          | some m =>
            coreMissed (if m.cls = cPoison ∧ isLocal s m.addr then ctlCount s (regionOf s (offOf m.addr)) 0x090 1 else s) c m
          | none =>
            match cmuStoreFault s c b.instr with
            | some m => coreMissed s c m
            | none => cmuRetire s c b.instr

/-- The core squashes a begun instruction (R285). -/
def cmuSquashStep (s : State) (c : CoreId) (id : Nat) : State :=
  if (begun s c id).isSome then (dropBegun s c id).count (cmuPage c) 0x080 1 else s

/-! ## Vector gather and scatter (R287–R290) -/

/-- Where element f lies in the vector register. -/
def laneOff (v : VecInstr) (f : Nat) : Nat := ((v.elems.take f).map (·.size)).sum
/-- A vector register with bytes at an offset. -/
def putLane (r : List Byte) (o : Nat) (b : List Byte) : List Byte :=
  let r := r ++ List.replicate (o + b.length - r.length) 0
  r.take o ++ b ++ r.drop (o + b.length)
/-- The bytes of a lane, an unwritten register being zero. -/
def getLane (r : List Byte) (o n : Nat) : List Byte := (List.range n).map fun j => r.getD (o + j) 0

/-- A gather or scatter that has moved its last element ends; one that has not is interrupted (R276, R289). -/
def vecPause (s : State) (c : CoreId) (v : VecInstr) : State :=
  if v.elems.length ≤ (s.core c).gidx then setGidx s c 0 else s.modCore c fun x => { x with resv := none }

/-- At most n elements are read from GIDX on (R287–R289): what is left is interrupted with GIDX at the next element. -/
def gatherFrom (s : State) (c : CoreId) (v : VecInstr) : Nat → State
  | 0 => if (s.core c).pendVec then s else vecPause s c v
  | n + 1 =>
    let f := (s.core c).gidx
    match v.elems[f]? with
    | none => setGidx s c 0
    | some a =>
      match coreRead s c a false (s.core c).ask with
      | .ok b s =>
        gatherFrom (s.modCore c fun x => { loadDone x with
          gidx := f + 1, vregs := mput [] v.vreg (putLane (mget [] x.vregs v.vreg) (laneOff v f) b) x.vregs }) c v n
      | .stop m s => vecFault s c f m
      | .wait ask s => waitLoad s c a true ask

/-- Whether a gather may go on: no earlier load is awaited but its own element (R261). -/
def gatherMay (x : Core) (v : VecInstr) : Bool :=
  match x.pendLoad with
  | some (a, _) => x.pendVec && decide (v.elems[x.gidx]? = some a) && !loadsBefore x x.pendNo
  | none => !loadsBefore x x.nextNo

/-- At most n elements are committed as stores from GIDX on (R287–R290). -/
def scatterFrom (s : State) (c : CoreId) (v : VecInstr) : Nat → State
  | 0 => vecPause s c v
  | n + 1 =>
    let f := (s.core c).gidx
    match v.elems[f]? with
    | none => setGidx s c 0
    | some a =>
      match storeFault s c a with
      | some m => vecFault s c f m
      | none =>
        scatterFrom (setGidx (sbPush s c a (getLane (mget [] (s.core c).vregs v.vreg) (laneOff v f) a.size)) c (f + 1)) c v n

/-! ## Meanings -/

/-- R264. -/
def execCoreLoad (c : CoreId) (a : CoreAccess) (t : Nat) (s : State) : Host.Outcome State Fault Refusal :=
  onwardAt s t fun s => coreLoadStep s c a
/-- R261. -/
def execCoreStore (c : CoreId) (a : CoreAccess) (data : List Byte) (t : Nat) (s : State) : Host.Outcome State Fault Refusal :=
  onwardAt s t fun s => coreStoreStep s c a data
/-- R259. -/
def execCoreStorePerformed (c : CoreId) (i : Nat) (s : State) : Host.Outcome State Fault Refusal := onward s fun s => sbPerform s c i
/-- R280. -/
def execStoreError (c : CoreId) (i : Nat) (cls : Answer) (s : State) : Host.Outcome State Fault Refusal :=
  onward s fun s => sbFail s c i cls
/-- R269. -/
def execFenceSl (c : CoreId) (s : State) : Host.Outcome State Fault Refusal := onward s fun s => fenceSlStep s c
/-- R269. -/
def execFenceRemote (c : CoreId) (s : State) : Host.Outcome State Fault Refusal := onward s fun s => fenceRemoteStep s c
/-- R273. -/
def execLdres (c : CoreId) (a : CoreAccess) (s : State) : Host.Outcome State Fault Refusal := onward s fun s => ldresStep s c a
/-- R274. -/
def execStcond (c : CoreId) (a : CoreAccess) (data : List Byte) (s : State) : Host.Outcome State Fault Refusal :=
  onward s fun s => stcondStep s c a data
/-- R578. -/
def execCoreAccessLinkTimeout (c : CoreId) (i : Option Nat) (t : Nat) (s : State) : Host.Outcome State Fault Refusal :=
  onwardAt s t fun s => coreLinkTimeout s c i
/-- R282. -/
def execCmuIssue (c : CoreId) (i : CmuInstr) (oldest : Bool) (s : State) : Host.Outcome State Fault Refusal :=
  onward s fun s => cmuBegin s c i oldest
/-- R283. -/
def execCmuCommit (c : CoreId) (id : Nat) (t : Nat) (s : State) : Host.Outcome State Fault Refusal :=
  onwardAt s t fun s => cmuCommitStep s c id
/-- R285. -/
def execCmuSquash (c : CoreId) (id : Nat) (s : State) : Host.Outcome State Fault Refusal := onward s fun s => cmuSquashStep s c id
/-- R288. -/
def execVectorGather (c : CoreId) (v : VecInstr) (n : Nat) (s : State) : Host.Outcome State Fault Refusal :=
  onward s fun s => if !coreOnline s c || !gatherMay (s.core c) v then s else gatherFrom s c v n
/-- R287. -/
def execVectorScatter (c : CoreId) (v : VecInstr) (n : Nat) (t : Nat) (s : State) : Host.Outcome State Fault Refusal :=
  onwardAt s t fun s => if !coreOnline s c || !mayCommit (s.core c) then s else sbFlow (scatterFrom s c v n) c

end Sys2Proof.Machine
end

