-- ==== Sys2Proof/Machine/EngIo.lean ====
section
/-! DEFINITION. How an engine reads and writes memory for a command (R117, R173, R295–R305, R310–R317, R368–R370): the checks of an
access, what it waits for, the gather cache, its pieces, and how a command goes on and ends. -/

namespace Sys2Proof.Machine

/-! ## Answers -/

/-- Why an access is not made: its cause, the address of FAULT_VA, the address of ERR_ADDR, and the element, where it is not the
one in progress. -/
structure Miss where
  cause : Nat
  va    : Nat := 0
  ea    : Nat := 0
  elem  : Option Nat := none
  deriving DecidableEq, Repr

/-- What an access, or a part of a command's execution, answers: done, not to be made, or to be tried again later. -/
inductive Rd (α : Type) where
  | ok (a : α) (s : State)
  | stop (m : Miss) (s : State)
  | wait (s : State)
  deriving Repr

/-- What follows an access that is done. -/
def Rd.bind {α β : Type} (x : Rd α) (f : α → State → Rd β) : Rd β :=
  match x with
  | .ok a s => f a s
  | .stop m s => .stop m s
  | .wait s => .wait s

/-- f over a list in order, with what has been gathered so far. -/
def Rd.fold {α β : Type} (f : β → α → State → Rd β) : List α → β → State → Rd β
  | [], b, s => .ok b s
  | x :: l, b, s => (f b x s).bind fun b s => Rd.fold f l b s

/-! ## Checks of an access -/

/-- The first address of an access that its checks stop (R173). -/
def faultAt (s : State) (q : QIdx) (rd wr : Bool) (va n : Nat) : Nat :=
  let x := s.queue q
  (((splitAt_ 4096 va n).find? fun p =>
    match vaCheck s (qHub q) x.ctx (.engine q) rd wr 0 p.1 p.2 with
    | .ok _ => false
    | _ => true).map (·.1)).getD va

/-- The checks of an access by a command, as R117–R140 and R475 give them. -/
def engLook (s : State) (q : QIdx) (c : Cmd) (rd wr : Bool) (va n : Nat) : Rd (List Span) :=
  let h := qHub q
  match vaCheck s h (s.queue q).ctx (.engine q) rd wr c.hdr.hint va n with
  | .ok l => .ok l (countWalks s h (s.queue q).ctx va n false)
  | .bad k a =>
    .stop { cause := k, va := faultAt s q rd wr va n, ea := a } (countWalks s h (s.queue q).ctx va n (decide (cXltMiss ≤ k ∧ k ≤ cXltWalk)))
  | .fw i f k a => .stop { cause := cFirewall, va := faultAt s q rd wr va n, ea := a } (logFw s i f k a (.engine q))

/-- Whether two ranges given by start and length meet. -/
def hits (a n b m : Nat) : Bool := decide (a < b + m ∧ b < a + n)

/-- Whether an access waits for writes of its queue that are not acknowledged, or that may still be performed (R162, R301, R575):
those of earlier commands, and those of its own where they are not knotted (R222). (DEDUCED, log entry 36) -/
def unackedBlocks (s : State) (q : QIdx) (c : Cmd) (l : List Span) : Bool :=
  let x := s.queue q
  let on (a n : Nat) : Bool := l.any fun y => hits a n y.pa y.n
  let meet (y : Cmd) : Bool := y.unacked.any fun u => on u.1 u.2.1
  (x.earlier c).any meet || (decide (s.now < x.lateUntil) && x.lateW.any fun w => on w.1 w.2) ||
    (!c.hdr.knot && meet (s.cmdNow q c))

/-- Whether an access waits for unacknowledged writes of its queue on SE or ORD pages: an access to an SE page for every SE write
before it (R125), a write to an ORD page for the ORD writes before it to the same package (R261, R263, R310). -/
def orderBlocks (s : State) (q : QIdx) (c : Cmd) (wr : Bool) (l : List Span) : Bool :=
  let out (y : Cmd) : List (Nat × Bool) := y.soOut.filter fun o => y.unacked.any fun u => decide (u.1 = o.1)
  let before := ((s.queue q).earlier c).flatMap out ++ out (s.cmdNow q c)
  l.any fun x => (x.acc.se && before.any fun o => o.2) || (wr && x.acc.ord && before.any fun o => decide (posOf o.1 = posOf x.pa))

/-- Whether local memory of an access is being zeroed (R375). -/
def spansBusy (s : State) (l : List Span) : Bool := l.any fun x => isLocal s x.pa && memBusy s (offOf x.pa)

/-! ## Links that recover (R568, R573) -/

/-- The links that a transfer between a queue's die and a frame address uses: those of this package, and the half-link to another (R39,
R42, R44). -/
def linkUses (s : State) (q : QIdx) (pa : Nat) : List LinkId :=
  if isLocal s pa then localLinks s (qDie q) (offOf pa)
  else match portTo s.boot.pos (posFin pa) with
    | none => dieLink (qDie q)
    | some j =>
      let d : Hub := Fin.ofNat 2 ((remoteHub (offOf pa)).map (·.val) |>.getD 0)
      let e : Hub := if linkUp s d j then d else 1 - d
      dieLink (qDie q) ++ hubLink (qHub q) e ++ [.flk e j]

/-- The frame addresses of a command's transfers that are still to be answered, or to be made over a link that recovers. -/
def Cmd.open_ (c : Cmd) : List Nat := c.unacked.map (·.1) ++ c.need.map (·.1) ++ c.linkWait
/-- Whether any transfer of a command is being replayed or waits on a retraining link (R573). (DEDUCED, log entry 98) -/
def onBadLink (s : State) (q : QIdx) (c : Cmd) : Bool := c.open_.any fun a => (linkUses s q a).any (linkBusy s)
/-- From now the command waits on link recovery, if a transfer of its does (R568). -/
def linkStall (s : State) (q : QIdx) (c : Cmd) : Cmd := if onBadLink s q c then c.beginStall cLinkReplay s.now else c

/-- The addresses of an access in this package that lie behind a link that recovers (R38, R568). -/
def linkHeld (s : State) (q : QIdx) (l : List Span) : List Nat :=
  (l.filter fun x => isLocal s x.pa && (linkUses s q x.pa).any (linkBusy s)).map (·.pa)

/-- What an access waits for after its checks: writes before it, a scratchpad being zeroed, a link that recovers (R125, R301, R310,
R375, R568). -/
def engGate (s : State) (q : QIdx) (c : Cmd) (wr : Bool) (l : List Span) : Rd Unit :=
  if unackedBlocks s q c l || orderBlocks s q c wr l || spansBusy s l then .wait s
  else
    let b := linkHeld s q l
    let s := if b = (s.cmdNow q c).linkWait then s else s.modCmd q c.seq fun y => { y with linkWait := b }
    if b.isEmpty then .ok () s else .wait s

/-! ## Reads -/

/-- Read requests go out for pieces that are not asked for yet. -/
def askFor (s : State) (q : QIdx) (c : Cmd) (l : List (Nat × Nat × Acc)) : State :=
  let l := l.filter fun p => !(s.cmdNow q c).need.contains (p.1, p.2.1)
  let at0 := s.stamp
  let s := s.modCmd q c.seq fun y => { y with need := y.need ++ ranges l, askAt := if y.need.isEmpty then at0 else y.askAt }
  l.foldl (fun s p => sendRead s (queuePart s q) c.cls (.cmd q c.seq c.gen) p.2.2.far p.1 p.2.1) s

/-- A command that carries ACQ has performed a read (R304). -/
def noteRead (s : State) (q : QIdx) (c : Cmd) : State :=
  if c.hdr.acq then s.modCmd q c.seq fun y => { y with didRead := true } else s

/-- One piece is read: bytes that arrived before, a register, or memory.  What has side effects, and what is read in order, is kept, so
that it is read once (R125, R310). -/
def readPiece (q : QIdx) (c : Cmd) (va : Nat) (bs : List Byte) (x : Nat × Nat × Acc) (s : State) : Rd (List Byte) :=
  let got := (s.cmdNow q c).rdata
  let keep (s : State) (b : List Byte) : State := s.modCmd q c.seq fun y => { y with rdata := keepBytes y.rdata x.1 b }
  if hasAll got x.1 x.2.1 then .ok (bs ++ arrived got x.1 x.2.1) s
  else if isReg (offOf x.1) then
    let (v, s) := regRead s (.self (.engine q)) (offOf x.1) x.2.1
    .ok (bs ++ leBytes x.2.1 v) (keep s (leBytes x.2.1 v))
  else
    let (b, p, s) := rdPiece s x.2.2 (offOf x.1) x.2.1
    if p then .stop { cause := cPoison, va := va, ea := x.1 } s
    else .ok (bs ++ b) (if x.2.2.se || x.2.2.ord then keep s b else s)

/-- One piece of a read that is made in order: a piece of another package is asked for when its turn comes (R310). -/
def readTurn (q : QIdx) (c : Cmd) (va : Nat) (bs : List Byte) (x : Nat × Nat × Acc) (s : State) : Rd (List Byte) :=
  if !isLocal s x.1 && !hasAll (s.cmdNow q c).rdata x.1 x.2.1 then .wait (askFor s q c [x]) else readPiece q c va bs x s

/-- Pieces are read: on ORD = 1 pages one after the other in ascending address (R310), else once everything remote among them has
arrived. -/
def readPieces (s : State) (q : QIdx) (c : Cmd) (va : Nat) (l : List (Nat × Nat × Acc)) : Rd (List Byte) :=
  let y := s.cmdNow q c
  let failed : Option (Nat × Answer) := match y.rfail with
    | some (a, k) => if l.any (fun x => x.1 = a) then some (a, k) else none
    | none => none
  match failed with
  | some (a, k) => .stop { cause := answerCause k, va := va, ea := a } s
  | none =>
    if l.any (fun x => x.2.2.ord) then Rd.fold (readTurn q c va) l [] (noteRead s q c)
    else
      let miss := l.filter fun x => !isLocal s x.1 && !hasAll y.rdata x.1 x.2.1
      if !miss.isEmpty then .wait (askFor s q c miss)
      else Rd.fold (readPiece q c va) l [] (noteRead s q c)

/-- Entries of a gather cache (R368). -/
def gcSize : Nat := 48
/-- A block enters a gather cache in place of the least recently used one (R369). -/
def gcFill (s : State) (e : Nat) (x : GcEnt) : State :=
  let (t, s) := s.tick
  s.modGc e fun g =>
    let l := g.ents.filter fun y => y.block ≠ x.block
    let oldest := (l.map (·.stamp)).foldl min t
    { g with ents := { x with stamp := t } :: (if l.length < gcSize then l else l.filter fun y => y.stamp ≠ oldest) }

/-- The 64-byte block that holds a span (R368). -/
def blockOf (x : Span) : Span := { x with pa := 64 * (x.pa / 64), n := 64 }

/-- A gather-cache miss: the whole block is read, and fills an entry unless it was asked for before an acquire on the cache (R299, R304,
R306, R369). -/
def gcMiss (s : State) (q : QIdx) (c : Cmd) (va n : Nat) (x : Span) : Rd (List Byte) :=
  let e := qEng q
  (engGate s q c false [blockOf x]).bind fun _ s =>
  (readPieces s q c va [(64 * (x.pa / 64), 64, x.acc)]).bind fun d s =>
    let ent : GcEnt := { block := x.pa / 64, data := d, stamp := 0, so := if x.acc.ord then some (q.val, c.seq.toNat) else none }
    let s := if isLocal s x.pa || decide ((s.gc e).acqAt ≤ (s.cmdNow q c).askAt) then gcFill s e ent else s
    .ok (slice d (x.pa % 64) n) (s.count (engPage e) 0x0D8 1)

/-- A read of n bytes for a command (R297, R299, R310, R368, R369); gcOk tells that it may be looked up in the gather cache. -/
def engRead (s : State) (q : QIdx) (c : Cmd) (gcOk : Bool) (va n : Nat) : Rd (List Byte) :=
  (engLook s q c true false va n).bind fun l s =>
  (engGate s q c false l).bind fun _ s =>
    let e := qEng q
    match l with
    | [x] =>
      if gcOk && (s.gc e).en && !x.acc.se && decide (0 < n ∧ x.pa / 64 = (x.pa + n - 1) / 64) then
        let hit := (s.gc e).ents.find? fun y =>
          decide (y.block = x.pa / 64) && (!x.acc.ord || decide (y.so = some (q.val, c.seq.toNat)))
        match hit with
        | some y =>
          let (t, s) := s.tick
          let s := (s.modGc e fun g => { g with ents := g.ents.map fun z => if z.block = y.block then { z with stamp := t } else z }).count
            (engPage e) 0x0D0 1
          .ok (slice y.data (x.pa % 64) n) (noteRead s q c)
        | none => gcMiss s q c va n x
      else readPieces s q c va (spanPieces l)
    | _ => readPieces s q c va (spanPieces l)

/-! ## Writes -/

/-- A write of a command that is ready to be made: its device virtual address, its spans, its bytes, its element. -/
structure Wr1 where
  va    : Nat
  spans : List Span
  data  : List Byte
  elem  : Nat
  deriving DecidableEq, Repr

/-- The package and hub die that own a frame address (R312). -/
def destHub (s : State) (pa : Nat) : Nat × Nat :=
  (posOf pa, if isLocal s pa then ((regionHub (regionOf s (offOf pa))).map (·.val)).getD 0 else ((remoteHub (offOf pa)).map (·.val)).getD 0)

/-- Whether a command's writes have to lie under one hub die: a knot member and a partial triple (R314, R425). -/
def oneHub (h : Hdr) : Bool := h.knot || (decide (h.opcode = opAttn) && bit h.subop 0)

/-- Whether a REL-marked command waits for earlier commands of its queue, or for writes of theirs that may still be performed (R303,
R575). -/
def relBlocks (s : State) (q : QIdx) (c : Cmd) : Bool :=
  c.hdr.rel && (((s.queue q).earlier c).any (fun y => decide (y.phase ≠ .ended)) || decide (s.now < (s.queue q).lateUntil))

/-- Whether a package offset lies in memory that may hold a partial triple: HBM, GDDR or a hub cache's carve-out (R425). -/
def tripleMem (s : State) (pa : Nat) : Bool :=
  let o := offOf pa
  if isLocal s pa then (match regionOf s o with | .hbm _ _ | .gddr _ _ | .hubCarve _ _ => true | _ => false)
  else decide (o < 0x20000000000 ∨ (hubCarveBase 0 ≤ o ∧ o < 0x200A0000000))

/-- Whether the command is an ATTN that writes a partial triple (R424). -/
def isPartial (h : Hdr) : Bool := decide (h.opcode = opAttn) && bit h.subop 0

/-- The package and hub die that own the first destination byte of a partial triple, so that its notice can be sent (R426). -/
def noteOwner (s : State) (q : QIdx) (c : Cmd) : State :=
  if isPartial c.hdr ∧ c.knotDst.isNone then
    match xlate s (qHub q) (s.queue q).ctx (va48 (wd c.words 3)) false true with
    | .ok pa _ => (match ownerAt s pa with
      | some d => if canSend s (Fin.ofNat 8 d.1) then s.modCmd q c.seq fun y => { y with knotDst := some d } else s
      | none => s)
    | .fault _ _ => s
  else s

/-- The checks of a write and the first destination of a command that must keep to one hub die. -/
def engTarget (s : State) (q : QIdx) (c : Cmd) (va n : Nat) : Rd (List Span) :=
  (engLook s q c false true va n).bind fun l s =>
    if oneHub c.hdr then
      let first := match (s.cmdNow q c).knotDst with
        | some d => some d
        | none => (l.head?.map fun x => destHub s x.pa)
      let s := s.modCmd q c.seq fun y => { y with knotDst := first }
      match l.find? fun x => decide (some (destHub s x.pa) ≠ first) || (isPartial c.hdr && !tripleMem s x.pa) with
      | some x => .stop { cause := cBadOperand, va := va, ea := x.pa } s
      | none => .ok l s
    else .ok l s

/-- A write is made ready: its checks, and the waits of R301, R303 and R375. -/
def engPrep (s : State) (q : QIdx) (c : Cmd) (elem va : Nat) (bs : List Byte) : Rd Wr1 :=
  (engTarget s q c va bs.length).bind fun l s =>
    if relBlocks s q c then .wait s
    else (engGate s q c true l).bind fun _ s => .ok { va := va, spans := l, data := bs, elem := elem } s

/-- The partition a command's transfers carry, and its issuer. -/
def issuerOf (q : QIdx) (c : Cmd) : Issuer := .cmd q c.seq c.gen

/-- One piece of a write is made or sent (R259, R295, R312, R370). -/
def putPiece (q : QIdx) (c : Cmd) (elem va : Nat) (s : State) (x : Nat × Nat × Acc) (bs : List Byte) : State :=
  let h := c.hdr
  let s := gcDrop s (qEng q) x.1 x.2.1
  let so := if x.2.2.ord || x.2.2.se then [(x.1, x.2.2.se)] else []
  let owe (s : State) : State := s.modCmd q c.seq fun y => { y with
    unacked := y.unacked ++ [(x.1, x.2.1, elem, va)], sent := y.sent + 1, soOut := y.soOut ++ so }
  if h.knot then
    let d := destHub s x.1
    (owe s).send (.knot (Fin.ofNat 8 d.1)
      { src := s.boot.pos, hub := Fin.ofNat 2 d.2, knotId := BitVec.ofNat 16 h.knotId, knotSeq := BitVec.ofNat 32 h.knotSeq
        part := queuePart s q, addr := x.1, data := bs, issuer := issuerOf q c, attr := x.2.2.far })
  else if !isLocal s x.1 then sendWrite (owe s) (queuePart s q) c.cls (issuerOf q c) x.2.2.far x.1 bs
  else if isReg (offOf x.1) then regWrite s (.self (.engine q)) (offOf x.1) x.2.1 (leNat bs)
  else wrPiece s none x.2.2 (offOf x.1) bs

/-- A write is made, piece by piece, in one step. (DESIGN CHOICE, log entry 132) -/
def putOne (q : QIdx) (c : Cmd) (s : State) (w : Wr1) : State :=
  ((spanPieces w.spans).foldl (fun (acc : State × List Byte) x =>
    (putPiece q c w.elem (w.va + (w.data.length - acc.2.length)) acc.1 x (acc.2.take x.2.1), acc.2.drop x.2.1)) (s, w.data)).1

/-- Writes that are ready are made, once no host shares a line of theirs (R611). (DESIGN CHOICE, log entry 34) -/
def engCommit (s : State) (q : QIdx) (c : Cmd) (l : List Wr1) : Rd Unit :=
  match sharedWait s (l.flatMap (·.spans)) with
  | some s => .wait s
  | none => .ok () (l.foldl (putOne q c) s)

/-- Bytes are written at a device virtual address. -/
def engWrite (s : State) (q : QIdx) (c : Cmd) (elem va : Nat) (bs : List Byte) : Rd Unit :=
  (engPrep s q c elem va bs).bind fun w s => engCommit s q c [w]

/-! ## How a command goes on -/

/-- A delay of a running command ends; reduced clocks go on delaying it (R95, R168). -/
def runStall (s : State) (q : QIdx) (c : Cmd) : Cmd :=
  let c := c.endStall s.now
  if (s.hub (qHub q)).gov.slowed then c.beginStall cThrottleLine s.now else c

/-- Whether a command of the plain group needs its engine only for a moment (R141). -/
def lightOp (h : Hdr) : Bool := decide (h.opcode ≤ opStep)

/-- The target of a queue starts, or goes on after a wait or a pause, if its engine may be had (R89, R163, R182, R489, R496). -/
def goOn (s : State) (q : QIdx) : Bool × State :=
  let e := qEng q
  let s := gateReady s q
  match (s.queue q).target with
  | none => (false, s)
  | some c =>
    let others := (engineTargets s e).filter fun p => p.1 ≠ q
    let busy := others.any fun p => engaged p.2
    let c0 := decide (0 < c.cls) && others.any fun p => decide (p.2.cls = 0) && isReady p.2
    match c.phase with
    | .ready =>
      match (if busy || (decide (0 < c.cls) && others.any fun p => p.2.paused) then none else enginePick s e) with
      | none => (false, s)
      | some (p, a) =>
        if p.1 ≠ q then (false, s) else
        let s := { s with arbs := mput {} e a s.arbs }
        let c := runStall s q { c with phase := .running, startT := some s.now, granted := false }
        (true, runOversize (putThrottled s q { c with preUnc := c.uncountedSum
                                                      c0Ref := max (c.readyT.getD s.now) (mget 0 s.c0End e) }) (qHub q) q c)
    | .running =>
      if c.paused then
        if busy || c0 then (false, s) else (true, putThrottled s q { runStall s q c with paused := false })
      else if c.waiting then
        if !lightOp c.hdr && (busy || c0) then (false, s) else (true, putCmd s q { c with waiting := false })
      else (true, s)
    | _ => (false, s)

/-- What a command keeps until its last element is performed is written (R461). -/
def engClose (s : State) (q : QIdx) (c : Cmd) : State :=
  if c.head = [] then s
  else c.head.foldl (fun s x => putPiece q c (c.prog - 1) 0 s (x.1, x.2.2.length, x.2.1) x.2.2)
    (s.modCmd q c.seq fun y => { y with head := [] })

/-- All accesses of a command have been made or sent: it ends, or awaits its acknowledgements (R164, R315, R317).  A knot member that
fails with no element performed ends at once, so that its end mark follows its last write (R315, R320). (DEDUCED, log entry 38) -/
def engDone (s : State) (q : QIdx) (seq : W32) (st : Status) (cause : Nat) (idx : BitVec 16) (va ea : Nat) : State :=
  match findCmd s q seq with
  | none => s
  | some c =>
    if c.phase ≠ .running then s
    else
    let s := engClose s q c
    let c := s.cmdNow q c
    if c.unacked.isEmpty ∨ st = .failed ∨ (c.hdr.knot ∧ st ≠ .ok ∧ (idx = 0xFFFF ∨ idx = 0)) then endCmd s q c st cause idx va ea
    else
      let s := if c.hdr.knot && decide (st = .ok) then sendMark s q c true else s
      let c := c.endStall s.now
      let c := if c.hdr.knot then c.beginStall cKnotHold s.now else c
      let c := linkStall s q c
      let s := putCmd s q { c with performed := true, marked := c.marked || (c.hdr.knot && decide (st = .ok)), waiting := false, status := st
                                   cause := cause, fidx := idx, faultVa := BitVec.ofNat 64 va, faultEa := ea, need := [], rdata := [], acc := []
                                   linkWait := [] }
      refreshReady s q

/-- A command stops at an access that is not made. -/
def engStop (s : State) (q : QIdx) (seq : W32) (m : Miss) : State :=
  match findCmd s q seq with
  | none => s
  | some c =>
    let ix := elementIndexed c.hdr.opcode
    let f := m.elem.getD c.prog
    let idx : BitVec 16 := if ix ∧ (m.cause ≠ cBadOperand ∨ m.elem.isSome) then BitVec.ofNat 16 f else 0xFFFF
    engDone s q seq (missStatus ix m.cause f) m.cause idx m.va m.ea

/-- The command waits and leaves its engine to others. -/
def engWait (s : State) (q : QIdx) (seq : W32) : State :=
  s.modCmd q seq fun c => { linkStall s q c with waiting := decide (c.phase = .running) }

/-- An element of an element-indexed command is begun when the writes of those before it have been performed, so that nothing of it is
done if one of them is refused (R173). -/
def elementWait (s : State) (q : QIdx) (c : Cmd) : Option State :=
  if !elementIndexed c.hdr.opcode || c.unacked.isEmpty then none
  else some (if c.hdr.knot then putCmd s q (c.beginStall cKnotHold s.now) else s)

/-- At most n boundaries of a command are passed: f answers true when nothing is left to do. (DESIGN CHOICE, log entry 71) -/
def passBoundaries (f : State → QIdx → Cmd → Rd Bool) (s : State) (q : QIdx) (seq : W32) : Nat → State
  | 0 => s
  | n + 1 =>
    match findCmd s q seq with
    | none => s
    | some c =>
      if c.phase ≠ .running ∨ c.performed then s
      else match elementWait s q c with
      | some s => engWait s q seq
      | none =>
        let s := if (c.stallNow.map (·.1)) = some cKnotHold then putCmd s q (runStall s q c) else s
        match f s q (s.cmdNow q c) with
        | .wait s => engWait s q seq
        | .stop m s => engStop s q seq m
        | .ok true s => engDone (acquire s q c) q seq .ok 0 0xFFFF 0 0
        | .ok false s =>
          passBoundaries f ((acquire s q c).modCmd q seq fun y => { y with rdata := [], need := [], rfail := none }) q seq n

/-- The flags of row or element k join a command's flags (R170). -/
def State.addFlags (s : State) (q : QIdx) (c : Cmd) (k f : Nat) : State :=
  s.modCmd q c.seq fun y => { y with fl := mput 0 k (orF (mget 0 y.fl k) f) y.fl }
/-- A boundary of a command has been passed. -/
def State.setProg (s : State) (q : QIdx) (c : Cmd) (n : Nat) : State := s.modCmd q c.seq fun y => { y with prog := n }

/-! ## The start of an execution (R191, R192, R202, R231, R409–R411) -/

/-- The body of a command is at hand; the operand block of an indirect one is read, and its cost counted (R191, R231, R493). -/
def getBody (s : State) (q : QIdx) (c : Cmd) : Rd Bool :=
  let w0 := wd c.words 0
  if c.body.isSome then .ok true s
  else if w0 % 64 ≠ 0 ∨ 2 ^ 48 ≤ w0 then .ok false s
  else
    let y := s.cmdNow q c
    match y.rfail with
    | some (a, k) => .stop { cause := answerCause k, va := w0, ea := a } s
    | none =>
      match qmRead s q y.rdata w0 48 with
      | (.bad k a, s) => .stop { cause := k, va := faultAt s q true false w0 48, ea := a } s
      | (.need l, s) => .wait (askFor s q c l)
      | (.ok b poison, s) =>
        if poison then .stop { cause := cPoison, va := w0, ea := 0 } s
        else
          let w := blockWords b
          let e := costOf s q c.hdr w
          let s := if c.cost < e then debit s (qHub q) c.cls (e - c.cost) else s
          .ok true (s.modCmd q c.seq fun y =>
            { y with body := some (w.map (BitVec.ofNat 64)), cost := max y.cost e, rdata := [], need := [] })

/-- Nothing of a command's operands has been accessed yet. -/
def untouched (c : Cmd) : Bool := decide (c.prog = 0) && c.rdata.isEmpty && c.need.isEmpty && c.acc.isEmpty && c.rfail.isNone

/-- The creel lets a consumer go on, keeps it waiting, or fails it (R409–R411). -/
def creelPass (s : State) (q : QIdx) (c : Cmd) : Bool × State :=
  if !untouched c then (true, s)
  else match creelGate s q c with
    | .fail e => (false, depFail s q c e)
    | .wait e k =>
      let same := decide (c.lateCp = some e ∧ (c.stallNow.map (·.1)) = some k)
      let s := if same then s else closeLate s c
      (false, putCmd s q { (if same then c else c.beginStall k s.now) with lateCp := some e, waiting := true })
    | .go =>
      if c.lateCp.isSome then (true, putThrottled (closeLate s c) q { runStall s q c with lateCp := none }) else (true, s)

/-- The place in State.upsets of what an engine keeps of a command of queue q. -/
def cmdKey (q : QIdx) (seq : W32) : Nat := 2 ^ 41 + 2 ^ 32 * q.val + seq.toNat

/-- A row of queue q's engine: the target starts or goes on, its checks are made, and at most n boundaries are passed.  mine tells
whether the row is that command's own; a command that its engine does not accept ends under any row (R202), and one whose state in the
engine is lost ends POISONED (R582). -/
def engineRow (mine : Hdr → Bool) (f : State → QIdx → Cmd → Rd Bool) (q : QIdx) (n : Nat) (s : State) : State :=
  let e := qEng q
  match (s.queue q).target with
  | none => s
  | some c =>
    let ok := accepts (qEngId q) c.hdr.opcode
    if ok && !mine c.hdr then s
    else
      let (go, s) := goOn s q
      if !go then s
      else match findCmd s q c.seq with
        | none => s
        | some c =>
          let k := cmdKey q c.seq
          let s :=
            if 2 ≤ mget 0 s.upsets k then engDone (clearUpset s k) q c.seq .poisoned cPoison 0xFFFF 0 0
            else if !ok then endCmd s q c .failed cIllegalOp 0xFFFF 0 0
            else match getBody s q c with
              | .wait s => engWait s q c.seq
              | .stop m s => endCmd s q (s.cmdNow q c) (missStatus false m.cause 0) m.cause 0xFFFF m.va m.ea
              | .ok has s =>
                let c := s.cmdNow q c
                (match checkCmd (qEngId q) s.boot.feat c.dx2 (!has) c.hdr (entryWords c.dx2 c.entry) c.words with
                 | some (st, k) => endCmd s q c st k 0xFFFF 0 0
                 | none =>
                   let s := noteOwner s q c
                   let c := s.cmdNow q c
                   let (go, s) := creelPass s q c
                   if go then passBoundaries f s q c.seq n else s)
          qosStalls s e

/-- The row of one opcode. (DESIGN CHOICE, log entry 108) -/
def opRow (op : Nat) (f : State → QIdx → Cmd → Rd Bool) (q : QIdx) (n t : Nat) (s : State) : Host.Outcome State Fault Refusal :=
  onwardAt s t (engineRow (fun h => decide (h.opcode = op)) f q n)

end Sys2Proof.Machine
end

