-- ==== Sys2Proof/Machine/FrameStore.lean ====
section
/-! DEFINITION. The frame store and the creel as they move data: STORE (R225, R384, R385), CREEL ARM and DISARM (R226, R397–R402),
the issue and the end of creel fetches (R405, R408), NVMe completions and lost SSDs (R385, R612). -/

namespace Sys2Proof.Machine

/-! ## Requests to SSDs (R382–R385) -/

/-- The hub die whose storage port serves an SSD of 0–15 (R383). -/
def ssdHub (ssd : Nat) : Hub := Fin.ofNat 2 (ssd / 8)

/-- A Read or Write goes to an SSD; its completion is awaited under a new tag. -/
def nvmeSend (s : State) (ssd nsid lba blocks : Nat) (write : Bool) (data : List Byte) (o : NvmeOwner) : State :=
  let h := ssdHub ssd
  let tag := (s.hub h).slk.nextTag
  let s := s.modSlk h fun x => { x with nextTag := tag + 1, reqs := x.reqs ++ [{ tag := tag, owner := o, ssd := ssd }] }
  s.send (.nvme h tag ssd nsid lba blocks write data)

/-- Whether a request of an owner is awaited at a storage port. -/
def nvmeAwaited (s : State) (h : Hub) (o : NvmeOwner) : Bool := (s.hub h).slk.reqs.any fun r => decide (r.owner = o)

/-! ## STORE (R225) -/

/-- Bytes of a STORE's data at one of its boundaries: aligned pieces of 64 bytes. -/
def storePiece (s : State) (q : QIdx) (c : Cmd) (va : Nat) : Rd Bool :=
  let data := (c.acc.drop (64 * c.prog)).take 64
  if data.isEmpty then .ok true s
  else (engWrite s q c 0 (va + 64 * c.prog) (data.map (BitVec.ofNat 8))).bind fun _ s => .ok false (s.setProg q c (c.prog + 1))

/-- STORE: with SUBOP 0 the blocks are asked for and, once they have come, written; with SUBOP 1 the memory is read and sent, and
the SSD's success awaited (R225, R384, R385). (DEDUCED, log entry 83) -/
def storeBody (s : State) (q : QIdx) (c : Cmd) : Rd Bool :=
  let w := c.words
  let va := wd w 0
  let lba := wd w 1
  let n := bits (wd w 2) 0 16
  let nsid := bits (wd w 2) 16 32
  let ssd := bits (wd w 2) 48 4
  let me : NvmeOwner := .cmd q c.seq
  match nsBlock s ssd nsid with
  | none => if c.acc.isEmpty then .stop { cause := cBadOperand } s else storePiece s q c va
  | some b =>
    if nvmeAwaited s (ssdHub ssd) me then .wait s
    else if c.hdr.subop = 0 then
      if !c.acc.isEmpty then storePiece s q c va
      else (engLook s q c false true va (n * b)).bind fun _ s => .wait (nvmeSend s ssd nsid lba n false [] me)
    else if !c.acc.isEmpty then .ok true s
    else (engRead s q c true va (n * b)).bind fun d s => .wait (nvmeSend s ssd nsid lba n true d me)

/-- The boundaries that a STORE can pass at most: 4,096 blocks of 4,096 bytes in pieces of 64. -/
def storeSteps : Nat := 262146

/-- The engine row of STORE. -/
def storeRow (q : QIdx) (s : State) : State := engineRow (fun h => decide (h.opcode = opStore)) storeBody q storeSteps s

/-! ## CREEL ARM (R397–R403) -/

/-- The descriptor of buffer b in a header (R398). -/
def bufAt (h : List Byte) (b : Nat) : CreelBuf :=
  { dst := leAt h (16 + 16 * b) 8, slotBytes := leAt h (24 + 16 * b) 4, slots := leAt h (28 + 16 * b) 2 }
/-- The limits of a buffer descriptor (R398). -/
def bufOk (d : CreelBuf) : Bool :=
  decide (d.dst % 4096 = 0 ∧ d.slotBytes % 4096 = 0 ∧ 4096 ≤ d.slotBytes ∧ 1 ≤ d.slots ∧ d.slots ≤ 256)
/-- The bytes of a buffer as a range. -/
def CreelBuf.range (d : CreelBuf) : Nat × Nat := (d.dst, d.dst + d.slots * d.slotBytes)

/-- A creel entry (R399). -/
def entAt (e : List Byte) : CreelEnt :=
  let b3 := leAt e 3 1
  let src := leAt e 8 8
  { layer := leAt e 0 2, lead := leAt e 2 1, buf := bits b3 0 4, store := bit b3 4, hint := bits b3 5 2, len := leAt e 4 4
    src := bits src 0 48, ssd := bits src 48 4, nsid := leAt e 16 4 }
/-- The limits of an entry (R399): SSD and NSID of a memory source are taken as reserved. (DEDUCED, log entry 81) -/
def entOk (layers nbuf : Nat) (bufs : List CreelBuf) (e : List Byte) : Bool :=
  let x := entAt e
  decide (x.layer < layers ∧ x.lead < layers ∧ x.buf < nbuf ∧ 1 ≤ x.len) &&
    decide (x.len ≤ (bufs[x.buf]?.map (·.slotBytes)).getD 0) &&
    !bit (leAt e 3 1) 7 && decide (bits (leAt e 8 8) 52 12 = 0 ∧ leAt e 20 8 = 0 ∧ leAt e 28 4 = 0) &&
    (x.store || decide (x.ssd = 0 ∧ x.nsid = 0))

/-- Whether no two of a list of ranges meet. -/
def apart : List (Nat × Nat) → Bool
  | [] => true
  | r :: l => l.all (fun x => !meets r x) && apart l
/-- Entries in non-decreasing LAYER order, no two of one buffer with the same LAYER (R400). -/
def layersOk : List CreelEnt → Bool
  | [] => true
  | e :: l => l.all (fun x => decide (e.layer ≤ x.layer) && !(decide (x.layer = e.layer ∧ x.buf = e.buf))) && layersOk l

/-- The chunks of n bytes each of a table, k of them. -/
def chunks (n : Nat) : Nat → List Byte → List (List Byte)
  | 0, _ => []
  | k + 1, l => l.take n :: chunks n k (l.drop n)

/-- The buffers and entries of a table of n entries, if it keeps the limits of R397–R400. -/
def parseTable (t : List Byte) (n : Nat) : Option (List CreelBuf × List CreelEnt) :=
  let layers := leAt t 2 2
  let nbuf := leAt t 4 1
  let bufs := (List.range nbuf).map (bufAt t)
  let raw := chunks 32 n (t.drop 512)
  let ents := raw.map entAt
  if 1 ≤ layers ∧ 1 ≤ nbuf ∧ nbuf ≤ 16 ∧ bufs.all bufOk ∧ apart (bufs.map CreelBuf.range) ∧ raw.all (entOk layers nbuf bufs) ∧
    layersOk ents then some (bufs, ents)
  else none

/-- The copy engine that a queue is bound to, as R142 counts them. -/
def cpOf (q : QIdx) : Fin 16 := Fin.ofNat 16 (2 * (qDie q - 4) + (qEngId q - 6))

/-- CREEL ARM: an armed creel is disarmed first; then the whole table is read and, if it is in order, armed (R400, R401, R403).
(DEDUCED, log entry 82) -/
def armBody (s : State) (q : QIdx) (c : Cmd) : Rd Bool :=
  let w := c.words
  let e := cpOf q
  let n := bits (wd w 1) 0 16
  let g : Fin 16 := Fin.ofNat 16 (bits (wd w 1) 16 4)
  if c.hdr.subop ≠ 0 then .stop { cause := cBadOperand } s
  else
    let s := disarmStart s e
    if (s.creel e).st ≠ 0 then .wait s
    else (engRead s q c true (wd w 0) (512 + 32 * n)).bind fun t s =>
      match parseTable t n with
      | none => .stop { cause := cBadOperand } s
      | some (bufs, ents) =>
        let layers := leAt t 2 2
        let a := (s.grp (qHub q) g).layer.toNat % layers
        let to_ := leAt t 8 4
        .ok true (s.modCreel e fun x =>
          { st := 1, group := g, nbuf := bufs.length, model := leAt t 0 2, table := BitVec.ofNat 64 (wd w 0), aNow := a, aArm := a
            layers := layers, queue := q, cls := c.cls, timeout := if to_ = 0 then 0 else max 100 to_, bufs := bufs, ents := ents
            selBuf := x.selBuf, selSlot := x.selSlot })

/-- CREEL DISARM: it completes once no fetch is in flight (R402). -/
def disarmBody (s : State) (q : QIdx) (_ : Cmd) : Rd Bool :=
  let s := disarmStart s (cpOf q)
  if (s.creel (cpOf q)).st = 0 then .ok true s else .wait s

/-! ## Creel fetches (R405, R408) -/

/-- The reason of a failed fetch for the cause of a failed check (R408, R413). -/
def reasonOf (cause : Nat) : Nat := if cause = cFirewall then 2 else if cause = cPosDown then 5 else 1

/-- Where slot j of a buffer begins. -/
def Creel.slotVa (x : Creel) (b j : Nat) : Nat := match x.bufs[b]? with | some d => d.dst + j * d.slotBytes | none => 0

/-- Why a fetch cannot be made, if it cannot, and the spans of its source (R408). (DEDUCED, log entry 80) -/
def fetchCheck (s : State) (e : Fin 16) (ent : CreelEnt) (dst : Nat) : Except (Nat × State) (List Span) :=
  let x := s.creel e
  let q := x.queue
  let h := qHub q
  let ctx := (s.queue q).ctx
  let src := if ent.store then .ok [] else vaCheck s h ctx (.engine q) true false ent.hint ent.src ent.len
  match src with
  | .bad k a => .error (reasonOf k, xltFault (countWalks s h ctx ent.src ent.len (decide (cXltMiss ≤ k ∧ k ≤ cXltWalk))) q k a)
  | .fw i f k a => .error (2, logFw s i f k a (.engine q))
  | .ok l =>
    match vaCheck s h ctx (.engine q) false true ent.hint dst ent.len with
    | .bad k a => .error (if k = cPosDown then 7 else reasonOf k, xltFault (countWalks s h ctx dst ent.len (decide (cXltMiss ≤ k ∧ k ≤ cXltWalk))) q k a)
    | .fw i f k a => if isLocal s a then .error (2, logFw s i f k a (.engine q)) else .error (7, s)
    | .ok d => if d.all fun y => isLocal s y.pa then .ok l else .error (7, s)

/-- Whether the creel of copy engine e, one more queue of the class at which it was armed, must leave the engine to a command (R401, R489):
one that is using it, or a ready one of a class that comes first. (DEDUCED, log entry 79) -/
def creelYields (s : State) (e : Fin 16) : Bool :=
  let k := (s.creel e).cls
  (engineTargets s (cpEng e)).any fun p =>
    engaged p.2 || (isReady p.2 && (decide (p.2.cls = 0 ∧ 0 < k) || decide (k = 3 ∧ p.2.cls < 3)))

/-- The copy engine's creel issues its next due occurrence (R401, R405, R408, R503). (DEDUCED, log entry 79) -/
def fetchIssue (s : State) (e : Fin 16) : State :=
  let x := s.creel e
  let q := x.queue
  if x.st ≠ 1 || s.doff.stopped || mget false s.stopped (engPage (cpEng e)) || creelYields s e then s
  else match x.next with
    | none => s
    | some (a, b, j, ent) =>
      let k := slotKey b j
      let me : NvmeOwner := .creel e b j
      let f : Fetch := { occ := a, st := .filling, at0 := s.now, rdata := [], need := [], rfail := none }
      let s := (s.modCreel e fun x => { x with fetches := mput none k (some f) x.fetches }).count (engPage (cpEng e)) 0x080 1
      let s := dropOwner (dropOwner s 0 me) 1 me
      if ent.store then
        match nsBlock s ent.ssd ent.nsid with
        | none => fetchFail s e k f 4
        | some bl =>
          if ent.len % bl ≠ 0 then fetchFail s e k f 4
          else nvmeSend s ent.ssd ent.nsid ent.src (ent.len / bl) false [] me
      else match fetchCheck s e ent (x.slotVa b j) with
        | .error _ => s
        | .ok l =>
          let need := missing s [] l
          let s := s.modCreel e fun x => { x with fetches := mput none k (some { f with need := ranges need }) x.fetches }
          need.foldl (fun s p =>
            sendRead s (queuePart s q) x.cls (.creel e b j a) { p.2.2.far with queue := fqi s q } p.1 p.2.1) s

/-- One piece of a fetch's source: bytes that arrived, a register, or memory; none where it is poisoned. -/
def fetchPiece (q : QIdx) (got : SMap (Option Byte)) (acc : List Byte × Bool × State) (x : Nat × Nat × Acc) :
    List Byte × Bool × State :=
  let (bs, bad, s) := acc
  if bad then acc
  else if !isLocal s x.1 then (bs ++ arrived got x.1 x.2.1, false, s)
  else if isReg (offOf x.1) then
    let (v, s) := regRead s (.self (.engine q)) (offOf x.1) x.2.1
    (bs ++ leBytes x.2.1 v, false, s)
  else
    let (b, p, s) := rdPiece s x.2.2 (offOf x.1) x.2.1
    (if p then bs else bs ++ b, p, s)

/-- The bytes that a fetch has read are written to its slot, piece by piece (R297, R408). -/
def fetchPut (e : Fin 16) (q : QIdx) (acc : State × List Byte) (x : Nat × Nat × Acc) : State × List Byte :=
  let (s, bs) := acc
  let b := bs.take x.2.1
  if b.length < x.2.1 then (s, [])
  else
    let s := gcDrop s (cpEng e) x.1 x.2.1
    let s := if isReg (offOf x.1) then regWrite s (.self (.engine q)) (offOf x.1) x.2.1 (leNat b) else wrPiece s none x.2.2 (offOf x.1) b
    (s.count (engPage (cpEng e)) 0x088 x.2.1, bs.drop x.2.1)

/-- An end of a fetch that meets its timer in the same cycle wins (R577). -/
def fetchRace (s : State) (x : Creel) (f : Fetch) : State :=
  if x.timeout ≠ 0 ∧ f.at0 + us x.timeout = s.now then s.count (qmPage x.queue) 0x0C0 1 else s

/-- A fetch whose data is at hand ends (R408): its bytes are written and its slot becomes READY, or FAILED with a reason. -/
def fetchEnd (s : State) (e : Fin 16) (b j : Nat) : State :=
  let x := s.creel e
  let q := x.queue
  let k := slotKey b j
  match fillingAt s e b j, x.slotVa b j with
  | none, _ => s
  | some f, dst =>
    match (x.entsOf b).find? fun y => y.layer = f.occ % x.layers with
    | none => s
    | some ent =>
      let fail (s : State) (r : Nat) : State := fetchFail (fetchRace s x f) e k f r
      match f.rfail with
      | some r => fail s (if r = .poison then 3 else if r = .firewall then 2 else if r = .unmapped then 1 else 5)
      | none =>
        if nvmeAwaited s (ssdHub ent.ssd) (.creel e b j) then s
        else match fetchCheck s e ent dst with
          | .error (r, s) => fail s r
          | .ok l =>
            match vaCheck s (qHub q) (s.queue q).ctx (.engine q) false true ent.hint dst ent.len with
            | .ok d =>
              if !(missing s f.rdata l).isEmpty || spansBusy s (l ++ d) then s
              else match sharedWait s d with
                | some s => s
                | none =>
                  let s := if ent.store then s else countWalks s (qHub q) (s.queue q).ctx ent.src ent.len false
                  let s := countWalks s (qHub q) (s.queue q).ctx dst ent.len false
                  let (bs, bad, s) := if ent.store then (arrived f.rdata 0 ent.len, false, s)
                    else (spanPieces l).foldl (fetchPiece q f.rdata) ([], false, s)
                  let s := ((spanPieces d).foldl (fetchPut e q) (s, bs)).1
                  if bad then fail s 3
                  else
                    let s := (fetchRace s x f).modCreel e fun x => { x with fetches := mput none k (some { f with st := .ready, rdata := [], need := [] }) x.fetches }
                    disarmCheck s e
            | _ => fail s 1

/-- FETCH_TIMEOUT_US of a fetch has passed since its issue (R408); its end in the cycle of the expiry still counts (R577). -/
def fetchExpire (s : State) (e : Fin 16) (b j : Nat) : State :=
  let x := s.creel e
  match fillingAt s e b j with
  | some f => if x.timeout ≠ 0 ∧ f.at0 + us x.timeout < s.now then fetchFail s e (slotKey b j) f 6 else s
  | none => s

/-! ## NVMe completions -/

/-- Bytes that a Read of a STORE or of a fetch returns. -/
def readLength (s : State) (c : Cmd) : Nat :=
  let w := c.words
  bits (wd w 2) 0 16 * (nsBlock s (bits (wd w 2) 48 4) (bits (wd w 2) 16 32)).getD 0

/-- A completion with a tag arrives at a storage port (R385, R408, R574). (DEDUCED, log entry 84) -/
def nvmeDone (s : State) (h : Hub) (tag status : Nat) (data : List Byte) : State :=
  match (s.hub h).slk.reqs.find? fun r => r.tag = tag with
  | none => lateDiscard s h.val
  | some r =>
    if status ≠ 0 then nvmeFail s h r status
    else match r.owner with
      | .cmd q seq =>
        (match findCmd s q seq with
         | some c =>
           if !underWay c then lateDiscard (dropReq s h tag) h.val
           else if c.hdr.subop = 0 ∧ data.length ≠ readLength s c then s
           else
             let s := dropReq s h tag
             storeRow q (s.modCmd q seq fun y => { y with acc := if c.hdr.subop = 0 then data.map (·.toNat) else [1] })
         | none => lateDiscard (dropReq s h tag) h.val)
      | .creel e b j =>
        (match fillingAt s e b j with
         | some f =>
           let x := s.creel e
           let ent := (x.entsOf b).find? fun y => y.layer = f.occ % x.layers
           if ent.map (·.len) ≠ some data.length then s
           else
           let s := dropReq s h tag
           let s := s.modCreel e fun x => { x with fetches := mput none (slotKey b j) (some { f with rdata := keepBytes [] 0 data }) x.fetches }
           fetchEnd s e b j
         | none => lateDiscard (dropReq s h tag) h.val)

/-! ## Meanings -/

/-- R225. -/
def execStore (q : QIdx) (t : Nat) (s : State) : Host.Outcome State Fault Refusal := onwardAt s t (storeRow q)
/-- R226, R400: the row of CREEL with any SUBOP but DISARM. -/
def execCreelArm (q : QIdx) (t : Nat) (s : State) : Host.Outcome State Fault Refusal :=
  onwardAt s t (engineRow (fun h => decide (h.opcode = opCreel ∧ h.subop ≠ 1)) armBody q 1)
/-- R226, R402. -/
def execCreelDisarm (q : QIdx) (t : Nat) (s : State) : Host.Outcome State Fault Refusal :=
  onwardAt s t (engineRow (fun h => decide (h.opcode = opCreel ∧ h.subop = 1)) disarmBody q 1)
/-- R405. -/
def execCreelFetchIssue (e : Fin 16) (t : Nat) (s : State) : Host.Outcome State Fault Refusal := onwardAt s t fun s => fetchIssue s e
/-- R408. -/
def execCreelFetchComplete (e : Fin 16) (buf slot : Nat) (t : Nat) (s : State) : Host.Outcome State Fault Refusal :=
  onwardAt s t fun s => fetchEnd s e buf slot
/-- R408. -/
def execCreelFetchTimeout (e : Fin 16) (buf slot : Nat) (t : Nat) (s : State) : Host.Outcome State Fault Refusal :=
  onwardAt s t fun s => fetchExpire s e buf slot
/-- R385. -/
def execNvmeCompletion (h : Hub) (tag : Nat) (status : W16) (data : List Byte) (t : Nat) (s : State) :
    Host.Outcome State Fault Refusal := onwardAt s t fun s => nvmeDone s h tag status.toNat data
/-- R612. -/
def execSsdLinkDrop (h : Hub) (ssd : Fin 8) (t : Nat) (s : State) : Host.Outcome State Fault Refusal :=
  onwardAt s t fun s => ssdDrop s h ssd.val

end Sys2Proof.Machine
end

