-- ==== Sys2Proof/Machine/Dump.lean ====
section
/-! DEFINITION. The fatal dump and its summary (R588–R596), partition errors, GDDR transfers that fail, and the rows that complete operations. -/

namespace Sys2Proof.Machine

/-! ## The dump (R589–R593) -/

/-- The bytes of one block page from offset a to b, as Prostoza reads them without side effect. -/
def pageBytes (s : State) (p a b : Nat) : List Byte :=
  (List.range ((b - a) / 4)).flatMap fun i => leBytes 4 (pageWord s (p / 4096) (p % 4096) (.self .prostoza) (a + 4 * i))

/-- The die link that leads from H0 to a die, and whether a link on the way has failed. -/
def dieLost (s : State) (d : Nat) : Bool :=
  let dead (a b : Nat) : Bool := decide ((s.dlk (Fin.ofNat 12 a) (Fin.ofNat 12 b)).lnk.st = .failed)
  if d = 0 then false
  else if d = 1 then dead 0 1
  else if d < 4 then dead 0 d && (dead 0 1 || dead 1 d)
  else let h := (dieHub d).val; dead h d || (h = 1 && dead 0 1)

/-- Page bytes of a die, zero where the die cannot be reached. -/
def dieBytes (s : State) (p a b : Nat) : List Byte :=
  if dieLost s (p / 4096) then List.replicate (b - a) 0 else pageBytes s p a b

/-- Whether any die of a list of pages is lost. -/
def anyLost (s : State) (l : List Nat) : Bool := l.any fun p => dieLost s (p / 4096)

/-- A section of the dump: ID, whether all could be read, contents. -/
structure Section_ where
  id    : Nat
  whole : Bool
  data  : List Byte
  deriving DecidableEq, Repr

/-- The committed ledger copy of a hub die. -/
def committedCopy (s : State) (h : Hub) : List Byte := coherentBytes s (copyOff h ((validCopy s h).getD 0)) copyLen

/-- Pages that section LINKS holds. -/
def linkPages : List Nat := allPages.filter (fun p => decide (ixDlk ≤ p % 4096)) ++ [pgKey 0 ixFlk, pgKey 1 ixFlk]
/-- Pages that section PAGES holds. -/
def otherPages : List Nat :=
  allPages.filter fun p => !decide (p % 4096 = ixErr) && !decide (p / 4096 < 2 ∧ p % 4096 = ixHub) && !linkPages.contains p

/-- The sections in their order (R592). -/
def dumpSections (s : State) : List Section_ :=
  let errs := (List.range 12).map fun d => pgKey d ixErr
  let hubs := [pgKey 0 ixHub, pgKey 1 ixHub]
  let queue (q : QIdx) : List Byte :=
    if dieLost s (qDie q) then List.replicate 128 0
    else leBytes 8 (qdWord (s.queue q)) ++ (List.range 15).flatMap fun i => leBytes 8 (bellReg (s.queue q) (8 * (i + 1)))
  [ ⟨1, !anyLost s errs, errs.flatMap fun p => dieBytes s p 0 0x400⟩,
    ⟨2, !anyLost s hubs, hubs.flatMap fun p => dieBytes s p 0 0x1000⟩,
    ⟨3, !anyLost s errs, (List.finRange 1024).flatMap queue⟩,
    ⟨4, !dieLost s 1, committedCopy s 0 ++ if dieLost s 1 then List.replicate copyLen 0 else committedCopy s 1⟩,
    ⟨5, !anyLost s linkPages, linkPages.flatMap fun p => dieBytes s p 0 0x1000⟩,
    ⟨6, !anyLost s otherPages, otherPages.flatMap fun p => dieBytes s p 0 0x1000⟩,
    ⟨7, !(dieLost s 2 || dieLost s 3), (List.finRange 96).flatMap fun c =>
      if dieLost s (coreDie c) then List.replicate 4096 0 else (List.range 4096).map fun i => Config.coreDebug (c.val + 128 * s.fresh) i⟩,
    ⟨8, true, (List.range (min (Config.traceLength s.fresh) 0x1000000)).map fun i => Config.traceRing (i + 0x1000000 * s.fresh)⟩ ]

/-- Where each section begins, counted from the dump base. -/
def sectionOffsets (o : Nat) : List Section_ → List Nat
  | [] => []
  | x :: l => o :: sectionOffsets (o + x.data.length) l

/-- The 256-byte header (R591). (DEDUCED, log entry 67) -/
def dumpHeader (s : State) (seq : Nat) (l : List Section_) : List Byte :=
  let m := s.mgt
  let total := 256 + (l.map fun x => x.data.length).sum
  let entry (x : Section_ × Nat) : List Byte :=
    leBytes 2 x.1.id ++ leBytes 2 (if x.1.whole then 1 else 4) ++ leBytes 4 x.2 ++ leBytes 4 x.1.data.length ++
      leBytes 4 (crc32 x.1.data).toNat
  let b := leBytes 4 0x504D5544 ++ leBytes 2 1 ++ leBytes 2 l.length ++ leBytes 4 seq ++ leBytes 4 total ++
    leBytes 8 m.tfCycle.toNat ++ leBytes 2 m.tfPhase.toNat ++ leBytes 2 0 ++ leBytes 4 0 ++ List.replicate 32 0 ++
    (l.zip (sectionOffsets 256 l)).flatMap entry
  let b := b ++ List.replicate (256 - b.length) 0
  b.take 28 ++ leBytes 4 (crc32 b).toNat ++ b.drop 32

/-- The summary (R590): its STATE bits, FATAL_SEQ, and length and header CRC of the dump that it describes. -/
def summaryBytes (s : State) (st seq len hdrCrc : Nat) : List Byte :=
  let m := s.mgt
  let sp := pgKey m.srcDie.val m.srcPage
  let first := if m.code = fcDeclared then m.detail.toNat else (s.blk sp).errFirst.toNat
  let b := leBytes 4 0x4D555346 ++ leBytes 2 1 ++ leBytes 1 st ++ leBytes 1 (s.boot.pos.val + 8 * (dieHub m.srcDie.val).val) ++
    leBytes 4 seq ++ leBytes 4 0 ++ leBytes 8 m.tfCycle.toNat ++ leBytes 2 m.tfPhase.toNat ++ leBytes 2 m.code ++
    leBytes 1 m.srcDie.val ++ leBytes 2 m.srcPage ++ leBytes 1 0 ++ leBytes 8 first ++ leBytes 8 (s.blk sp).errAddr.toNat ++
    leBytes 8 (paOf s (dumpBase s)) ++ leBytes 4 len ++ leBytes 4 hdrCrc ++ leBytes 4 s.boot.attempts.toNat ++
    leBytes 1 s.boot.cause.toNat
  let b := b ++ List.replicate (0x100 - b.length) 0 ++ pageBytes s (pgKey m.srcDie.val ixErr) 0x200 0x400
  let b := b ++ List.replicate (0x1000 - b.length) 0
  b.take 12 ++ leBytes 4 (crc32 b).toNat ++ b.drop 16

/-- Prostoza's accesses are uncached and have side effects (R119). -/
def prostozaAcc : Acc := { hint := 0, se := true, ord := true, c := false }

/-- Whether the management cores cannot run after the fatal error: its watchdog has expired, or it lies in them: any other error that an
MGT block detects, but the one that they declare themselves (R584, R588). (DEDUCED, log entry 66) -/
def mgmtCoresDown (s : State) : Bool :=
  decide (s.mgt.code = 5) || (decide (s.mgt.srcPage = ixMgt ∧ s.mgt.srcDie.val < 2) && decide (s.mgt.code ≠ fcDeclared))

/-- The dump and the summary of a fatal stop are written, or the summary alone: by the hub die where the management cores cannot run,
or with DUMP_FAIL where the region cannot be written, which the manual leaves open (R588, R593).  The mirror is written last. -/
def writeDump (s : State) : State :=
  let seq := summaryField s 8 4 + 1
  let put (s : State) (b : List Byte) : State :=
    let s := writeMem s none prostozaAcc (mramBase 0 + summaryOff) b
    if dieLost s 1 then s else writeMem s none prostozaAcc (mramBase 1 + summaryOff) b
  let (n, s) := { s with mgt := { s.mgt with dumped := true } }.draw
  if mgmtCoresDown s then put s (summaryBytes s 4 seq 0 0)
  else if Config.dumpFails n then put s (summaryBytes s 2 seq 0 0)
  else
    let l := dumpSections s
    let hdr := dumpHeader s seq l
    let body := hdr ++ l.flatMap fun x => x.data
    let sum := summaryBytes s 1 seq body.length (leAt hdr 28 4)
    put (writeMem s none prostozaAcc (dumpBase s) body) sum

/-! ## Meanings: errors -/

/-- R583: the reporting block is of the kind that the code names. -/
def partitionErr (s : State) (d : DieId) (page : Nat) (code : Nat) : State :=
  let fits : Bool := match pageAt d.val page with
    | .qm _ => decide (code = 1)
    | .xlt _ => decide (code = 2)
    | .eng _ _ | .cb _ | .cph _ => decide (code = 3)
    | _ => false
  if fits then
    let p := pgKey d.val page
    let s := report s p 3 code 0 {} 0 0
    { s with stopped := mput false p true s.stopped }
  else s

/-- R583. -/
def execPartitionError (d : DieId) (page : Nat) (code : Fin 4) (s : State) : Host.Outcome State Fault Refusal :=
  onward s fun s => partitionErr s d page code.val
/-- A GDDR transfer at a range offset has failed its link check once more (R381, R572); what remains wrong poisons the granule, but not on
GDDR6 (R390). (DEDUCED, log entry 29) -/
def gddrRetry (s : State) (h : Hub) (off : Nat) (wr : Bool) : State :=
  if gddrSize s ≤ off then s
  else
    let o := gddrBase h + off
    let e := mget (0, 0, 0) s.gddrTry h.val
    let n := if e.1 = granule o + 1 ∧ s.now ≤ e.2.2 + us 2 then e.2.1 else 0
    let since := if n = 0 then s.now else e.2.2
    if n < 4 then
      corrected ({ s with gddrTry := mput (0, 0, 0) h.val (granule o + 1, n + 1, since) s.gddrTry }.count (pgKey h.val ixGmc) 0x0B8 1) h.val
    else
      let s := { s with gddrTry := mput (0, 0, 0) h.val (0, 0, 0) s.gddrTry }
      if wr then
        let a := paOf s (64 * granule o)
        let s := match eccCounters s (regionOf s o) with
          | some c => (setPoison s (granule o)).count (pgKey h.val ixGmc) c.2 1
          | none => s
        report s (pgKey h.val ixGmc) 1 cPoison 0 {} a a
      else eccUe s o

/-- R572. -/
def execGddrTransferRetry (h : Hub) (off : Nat) (wr : Bool) (s : State) : Host.Outcome State Fault Refusal :=
  onward s fun s => gddrRetry s h off wr

/-! ## Meanings: operations that complete -/

/-- R357. -/
def execCacheDrainDone (c : CacheId) (s : State) : Host.Outcome State Fault Refusal := onward s fun s => drainEnd s (cacheIx c)
/-- R358, R361. -/
def execCacheMaintDone (c : CacheId) (s : State) : Host.Outcome State Fault Refusal := onward s fun s => maintEnd s (cacheIx c)
/-- R363. -/
def execCarveDone (c : CacheId) (s : State) : Host.Outcome State Fault Refusal := onward s fun s => carveEnd s (cacheIx c)
/-- R364. -/
def execPreloadDone (c : CacheId) (s : State) : Host.Outcome State Fault Refusal := onward s fun s => preloadEnd s (cacheIx c)
/-- R139. -/
def execXltInvalidateDone (h : Hub) (s : State) : Host.Outcome State Fault Refusal := onward s fun s => invEnd s h
/-- R140. -/
def execXltDisableDone (h : Hub) (ctx : Fin 48) (s : State) : Host.Outcome State Fault Refusal :=
  onward s fun s => ctxDisabled s h ctx.val

end Sys2Proof.Machine
end

