-- ==== Sys2Proof/Machine/Fabric.lean ====
section
/-! DEFINITION. Transfers that reach this package: the receiving check (R477, R551), remote writes and reads (R295, R324), the knot
units (R312–R322) and combine notices (R426–R430). -/

namespace Sys2Proof.Machine

/-! ## The receiving check (R477) -/

/-- Whether a requester partition may reach this package's hank h, as its hub die's own tables say (R475, R485). (DEDUCED, log entry 86) -/
def farAllows (s : State) (h : Hub) (part : Option (Fin 16)) : Bool :=
  decide ((s.hub h).part.hank = .owned) && part.isSome && decide (part.map (·.val) = ownerOf s h (frameHank s.boot.pos h))

/-- Why a transfer of n bytes at a frame address is not performed, if it is not: its answer, and the hub die that logs a violation. -/
def farStop (s : State) (part : Option (Fin 16)) (pa n : Nat) : Option (Answer × Hub) :=
  let o := offOf pa
  if posOf pa ≠ s.boot.pos.val then some (.unmapped, 0)
  else match regionFor s o with
    | .unmapped => some (.unmapped, 0)
    | .mram h _ => some (.firewall, h)
    | rg =>
      if isReg o && !regSizeOk o n then some (.unmapped, 0)
      else match regionHub rg with
        | none => some (.unmapped, 0)
        | some h => if farAllows s h part then none else some (.firewall, h)

/-- The tag of a requester in another package (R33, R566): a creel fetch and a command carry the frame queue index of their queue. -/
def farTag (src : Pos) (part : Option (Fin 16)) (i : Issuer) (x : FarAttr) : ReqTag :=
  let p := part.map (·.val)
  match i with
  | .cmd q _ _ => { id := src.val * 1024 + q.val, kind := 0, part := p }
  | .core c _ => { id := c.val, kind := 2, part := p }
  | .host _ _ | .posted _ _ => { id := (x.fn.map (·.val)).getD 0, kind := 1, part := p }
  | .creel _ _ _ _ => { id := x.queue, kind := 0, part := p }

/-- A transfer that fails the receiving check is logged by the receiving hub die (R477, R478). -/
def logFar (s : State) (a : Answer) (h : Hub) (t : ReqTag) (pa : Nat) : State :=
  if a = .firewall then (fwViolation s h fwFabric t pa).count (pgKey h.val ixHub) 0x088 1 else s

/-- Whether a transfer from a position can arrive: over a link that is up, or from the package itself. -/
def reaches (s : State) (src : Pos) : Bool := decide (posState s src = .present ∨ posState s src = .own)

/-! ## Remote writes and reads -/

/-- How an access from another package is made: with the hint, SE and ORD that it carries (R126, R128, R130); registers force
theirs. -/
def farAcc (x : FarAttr) : Acc := { hint := x.hint.val, se := x.se, ord := x.ord }

/-- Bytes are written at an offset for a requester of another package, unless the write has to wait (R375, R611): whether it was
made. -/
def farPut (s : State) (t : ReqTag) (x : FarAttr) (pa : Nat) (bs : List Byte) : Bool × State :=
  let o := offOf pa
  if isReg o then (true, regWrite s (.far t x.fn) o bs.length (leNat bs))
  else if memBusy s o then (false, s)
  else if sharedBytes s o bs.length then (false, snoopBytes s o bs.length)
  else (true, writeMem s none (farAcc x) o bs)

/-- The hub die that a transfer to an address of this package reaches (R42). -/
def homeHub (s : State) (pa : Nat) : Hub := (regionHub (regionOf s (offOf pa))).getD 0

/-- A write from another package arrives (R259, R477): it is performed and acknowledged, or answered with what stopped it; once
the receiving hub die has begun its commit it is discarded (R511). (DEDUCED, log entry 85) -/
def farWrite (s : State) (w : RemoteWrite) : State :=
  if !reaches s w.src || commitBegun s (homeHub s w.addr) then s
  else match farStop s w.part w.addr w.data.length with
    | some (a, h) => (logFar s a h (farTag w.src w.part w.issuer w.attr) w.addr).send (.flkAck w.src w.issuer w.addr a)
    | none =>
      match farPut s (farTag w.src w.part w.issuer w.attr) w.attr w.addr w.data with
      | (true, s) => s.send (.flkAck w.src w.issuer w.addr .ok)
      | (false, s) => s

/-- LENGTH of the dump (R590, R591). -/
def dumpLength (s : State) : Nat := leNat (rawBytes s (dumpBase s + 12) 4)

/-- A byte of the dump window of this package for a host function (R594, R606). -/
def dumpByte (s : State) (f : Nat) (o : Nat) : Byte :=
  if s.mgt.dumpV && decide (s.mgt.dumpFn.toNat = f) && dumpPresent s then
    if o < 0x1000 then rawByte s (mramBase 0 + summaryOff + o)
    else if o - 0x1000 < 0x10000000 then coherentByte s (dumpBase s + (o - 0x1000)) else 0
  else 0

/-- A byte of the ledger window of this package's hank h for a host function (R531, R605). -/
def ledgerByte (s : State) (h : Hub) (f o : Nat) : Byte :=
  if (s.hub h).led.views.contains f then viewByte s h (.ctx f) o else 0

/-- A host function of another package's port reads a ledger or dump window of this package (R116, R605, R606). -/
def farView (s : State) (r : RemoteRead) (v : FarView) : State :=
  let f := (r.attr.fn.map (·.val)).getD 0
  let o := offOf r.addr
  s.send (.flkData r.src r.issuer r.addr .ok ((List.range r.len).map fun i =>
    match v with
    | .ledger h => ledgerByte s h f (o + i)
    | .dump => dumpByte s f (o + i)))

/-- A read from another package arrives (R324, R477). -/
def farRead (s : State) (r : RemoteRead) : State :=
  if !reaches s r.src then s
  else match r.view with
  | some v => farView s r v
  | none =>
    match farStop s r.part r.addr r.len with
    | some (a, h) => (logFar s a h (farTag r.src r.part r.issuer r.attr) r.addr).send (.flkData r.src r.issuer r.addr a [])
    | none =>
      let o := offOf r.addr
      if isReg o then
        let (v, s) := regRead s (.far (farTag r.src r.part r.issuer r.attr) r.attr.fn) o r.len
        s.send (.flkData r.src r.issuer r.addr .ok (leBytes r.len v))
      else if memBusy s o then s
      else
        let (b, p, s) := readMem s (farAcc r.attr) o r.len
        if p then s.send (.flkData r.src r.issuer r.addr .poison []) else s.send (.flkData r.src r.issuer r.addr .ok b)

/-! ## Knot units (R312–R322) -/

/-- The knot unit of hub die h changed by f. -/
def State.modKnot (s : State) (h : Hub) (f : Knot → Knot) : State :=
  s.modHub h fun x => { x with flk := { x.flk with knot := f x.flk.knot } }
/-- The knot unit of hub die h. -/
def State.knot (s : State) (h : Hub) : Knot := (s.hub h).flk.knot

/-- The key of a sequence (R312). -/
def knotKey (src : Pos) (id : W16) : Nat := 65536 * src.val + id.toNat
/-- The position of a member in its sequence (R313). -/
def knotPos (w : W32) : Nat := w.toNat % 2 ^ 31
/-- LAST (R313). -/
def knotLast (w : W32) : Bool := w.getLsbD 31

/-- A sequence of hub die h. -/
def State.seq (s : State) (h : Hub) (k : Nat) : KnotSeq := mget {} (s.knot h).seqs k
/-- A sequence of hub die h changed by f. -/
def State.modSeq (s : State) (h : Hub) (k : Nat) (f : KnotSeq → KnotSeq) : State :=
  s.modKnot h fun x => { x with seqs := mput {} k (f (mget {} x.seqs k)) x.seqs }
/-- A member of a sequence changed by f. -/
def State.modMember (s : State) (h : Hub) (k n : Nat) (f : KMember → KMember) : State :=
  s.modSeq h k fun x => { x with members := mput {} n (f (mget {} x.members n)) x.members }

/-- How far position n lies after NEXT (R316). -/
def ahead (x : KnotSeq) (n : Nat) : Nat := (n + 2 ^ 31 - x.next) % 2 ^ 31
/-- Position n is after NEXT. -/
def isAfter (x : KnotSeq) (n : Nat) : Bool := decide (1 ≤ ahead x n ∧ ahead x n ≤ 2 ^ 30)
/-- Position n is before NEXT. -/
def isBefore (x : KnotSeq) (n : Nat) : Bool := decide (2 ^ 30 < ahead x n)

/-- A member has landed (R315). -/
def landed (m : KMember) : Bool := match m.mark with | some (n, _) => decide (n ≤ m.seen) | none => false

/-- Open sequences of a knot unit. -/
def openSeqs (k : Knot) : Nat := (k.seqs.filter fun e => e.2.isOpen).length

/-- A sequence is opened, if it is not open and a place is free: whether it is open now (R316, R318). -/
def openSeq (s : State) (h : Hub) (k : Nat) : Bool × State :=
  if (s.seq h k).isOpen then (true, s)
  else if knotMax ≤ openSeqs (s.knot h) then (false, s)
  else (true, s.modSeq h k fun _ => { isOpen := true })

/-- Position 0 of a new use arrives while writes of an earlier use are held: NEXT becomes 0, and the landings of positions before
the old NEXT go, and nothing else (R322). -/
def newUse (s : State) (h : Hub) (k n : Nat) : State :=
  let x := s.seq h k
  if n = 0 ∧ x.next ≠ 0 ∧ !x.held.isEmpty then
    s.modSeq h k fun x => { x with next := 0, members := x.members.filter fun e => !(isBefore x e.1 && landed e.2) }
  else s

/-- A piece of a member has been performed or discarded (R315). -/
def knotSeen (s : State) (h : Hub) (k : Nat) (p : KnotPiece) : State :=
  s.modMember h k (knotPos p.knotSeq) fun m => { m with seen := m.seen + 1, last := m.last || knotLast p.knotSeq }

/-- A piece is performed and acknowledged (R316, R317), or has to wait: whether it was. -/
def knotPut (s : State) (h : Hub) (k : Nat) (p : KnotPiece) : Bool × State :=
  match farPut s (farTag p.src p.part p.issuer p.attr) p.attr p.addr p.data with
  | (false, s) => (false, s)
  | (true, s) => (true, (knotSeen s h k p).send (.flkAck p.src p.issuer p.addr .ok))

/-- Held pieces that may be performed now are, in arrival order: one that has to wait keeps the later ones of its member back (R316). -/
def knotRelease (s : State) (h : Hub) (k : Nat) : State :=
  ((s.seq h k).held.foldl (fun (acc : State × List Nat) p =>
    let n := knotPos p.knotSeq
    if isAfter (acc.1.seq h k) n || acc.2.contains n then acc
    else match knotPut acc.1 h k p with
      | (true, s) => (s.modSeq h k fun x => { x with held := x.held.erase p }, acc.2)
      | (false, s) => (s, n :: acc.2)) (s, [])).1

/-- The notices of members that have landed reach the CB, each once (R316, R427). -/
def knotTell (s : State) (h : Hub) (k : Nat) : State :=
  (s.seq h k).members.foldl (fun s e =>
    match e.2.notice, e.2.mark with
    | some (g, j), some (_, ok) =>
      if landed e.2 then cbNotice (s.modMember h k e.1 fun m => { m with notice := none }) h g j ok else s
    | _, _ => s) s

/-- A sequence goes on as far as it can: releases, notices, and the advance of NEXT; past LAST with nothing held it is freed
(R316, R318). -/
def knotSettle (s : State) (h : Hub) (k : Nat) : Nat → State
  | 0 => s
  | n + 1 =>
    let s := knotTell (knotRelease s h k) h k
    let s := s.modSeq h k fun x => { x with members := x.members.filter fun e => !(isBefore x e.1 && landed e.2) }
    let x := s.seq h k
    let m := mget {} x.members x.next
    if landed m then
      if m.last && x.held.isEmpty then s.modKnot h fun y => { y with seqs := y.seqs.filter fun e => decide (e.1 ≠ k) }
      else
        knotSettle (s.modSeq h k fun x =>
          { x with next := (x.next + 1) % 2 ^ 31, members := x.members.filter fun e => decide (e.1 ≠ x.next) }) h k n
    else s

/-- Enough passes for every member and piece that a sequence holds. -/
def settleSeq (s : State) (h : Hub) (k : Nat) : State :=
  let x := s.seq h k
  if x.isOpen then knotSettle s h k (x.members.length + x.held.length + 2) else s

/-- A piece is discarded (R320). -/
def knotDrop (s : State) (h : Hub) (k n : Nat) : State :=
  (s.modKnot h fun x => { x with discarded := x.discarded + 1 }).modMember h k n fun m => { m with seen := m.seen + 1 }

/-- A piece comes to its sequence (R316–R322), which it opens where it is not open; one that fails the receiving check is discarded
there (R477): whether it was taken, or goes on waiting on the link with what it has been counted in. -/
def knotTake (s : State) (h : Hub) (w : KnotWait) : Option KnotWait × State :=
  let p := w.piece
  let k := knotKey p.src p.knotId
  let n := knotPos p.knotSeq
  match openSeq s h k with
  | (false, s) =>
    (some { w with table := true }, if w.table then s else s.modKnot h fun x => { x with tableFull := x.tableFull + 1 })
  | (true, s) =>
    let s := newUse s h k n
    let x := s.seq h k
    let keep (s : State) : State := s.modSeq h k fun x => { x with held := x.held ++ [p] }
    match farStop s p.part p.addr p.data.length with
    | some (a, _) =>
      let s := (logFar s a h (farTag p.src p.part p.issuer p.attr) p.addr).send (.flkAck p.src p.issuer p.addr a)
      (none, settleSeq (knotSeen s h k p) h k)
    | none =>
      match (mget {} x.members n).mark with
      | some (_, false) => (none, settleSeq (knotDrop s h k n) h k)
      | _ =>
        if isAfter x n then
          if knotSpace ≤ (s.knot h).heldList.length then
            (some { w with buf := true }, if w.buf then s else s.modKnot h fun x => { x with bufFull := x.bufFull + 1 })
          else (none, (keep s).modKnot h fun x => { x with heldCnt := x.heldCnt + 1 })
        else
          let s := if isBefore x n then s.modKnot h fun x => { x with stale := x.stale + 1 } else s
          match knotPut s h k p with
          | (true, s) => (none, settleSeq s h k)
          | (false, s) => (none, keep s)

/-- The pieces that wait on the link are tried again until none is taken (R318, R319). -/
def knotRetry (s : State) (h : Hub) : Nat → State
  | 0 => s
  | n + 1 =>
    let l := (s.knot h).waiting
    let s' := l.foldl (fun s p =>
      match knotTake s h p with
      | (none, s) => s
      | (some w, s) => s.modKnot h fun x => { x with waiting := x.waiting ++ [w] }) (s.modKnot h fun x => { x with waiting := [] })
    if (s'.knot h).waiting.length < l.length then knotRetry s' h n else s'

/-- The knot unit of hub die h does all that it can, unless its hub die has begun its commit (R511). -/
def knotRun (s : State) (h : Hub) : State :=
  if commitBegun s h then s
  else
    let s := (mkeys (s.knot h).seqs).foldl (fun s k => settleSeq s h k) s
    knotRetry s h (s.knot h).waiting.length

/-- A piece of a knot member reaches its knot unit (R316, R477). -/
def knotArrive (s : State) (p : KnotPiece) : State :=
  let h := p.hub
  if !reaches s p.src || commitBegun s h then s
  else match knotTake s h { piece := p } with
    | (none, s) => knotRun s h
    | (some w, s) => s.modKnot h fun x => { x with waiting := x.waiting ++ [w] }

/-- The end mark of a member reaches its knot unit (R315, R316, R320).  With every sequence open it waits on the link; a mark that
corrects an earlier one finds nothing to correct once the member has landed. (DEDUCED, log entry 70) -/
def knotMark (s : State) (m : EndMark) : State :=
  let h := m.hub
  let k := knotKey m.src m.knotId
  let n := knotPos m.knotSeq
  if !reaches s m.src || commitBegun s h then s
  else if !farAllows s h m.part then
    logFar s .firewall h { id := m.queue, kind := 0, part := m.part.map (·.val) } 0
  else if m.again && (mget {} (s.seq h k).members n).mark.isNone then s
  else match openSeq s h k with
    | (false, s) => s
    | (true, s) =>
      let s := if m.again then s else newUse s h k n
      let gone := if m.ok then [] else (s.seq h k).held.filter fun p => decide (knotPos p.knotSeq = n)
      let s := s.modMember h k n fun y =>
        { y with mark := some (m.pieces, m.ok), last := y.last || knotLast m.knotSeq, notice := m.notice }
      let s := gone.foldl (fun s p =>
        knotDrop (s.modSeq h k fun x => { x with held := x.held.erase p }) h k n) s
      knotRun (settleSeq s h k) h

/-! ## Meanings -/

/-- R477, R259, R295. -/
def execRemoteWriteArrival (w : RemoteWrite) (s : State) : Host.Outcome State Fault Refusal := onward s fun s => farWrite s w
/-- R324, R477. -/
def execRemoteReadRequest (rd : RemoteRead) (s : State) : Host.Outcome State Fault Refusal := onward s fun s => farRead s rd
/-- R327: what waited on the link for a place goes on. -/
def execKnotCtlFlush (r : Requester) (h : Hub) (s : State) : Host.Outcome State Fault Refusal :=
  onward s fun s => knotRun (pageAccess s r (pgKey h.val ixFlk) 0x208 4 1) h
/-- R665: a write of 4 or 8 bytes at a package offset; a flush of a knot unit lets what waits for a place in it go on (R318). -/
def execRegisterWrite (r : Requester) (off size : Nat) (v : W64) (t : Nat) (s : State) : Host.Outcome State Fault Refusal :=
  onwardAt s t fun s =>
    let s := regAccess s r off size v.toNat
    bothHubs.foldl (fun s h => if off = pgOff (pgKey h.val ixFlk) + 0x208 then knotRun s h else s) s
/-- R316. -/
def execKnotWriteArrival (p : KnotPiece) (s : State) : Host.Outcome State Fault Refusal := onward s fun s => knotArrive s p
/-- R315, R316, R320. -/
def execKnotEndMark (m : EndMark) (s : State) : Host.Outcome State Fault Refusal := onward s fun s => knotMark s m
/-- R428, R430. -/
def execCombineNotice (h : Hub) (group span : Nat) (ok : Bool) (s : State) : Host.Outcome State Fault Refusal :=
  onward s fun s => cbNotice s h group span ok
/-- R375: what the zeroing kept back goes on. -/
def execScrZeroDone (n : Tensor) (s : State) : Host.Outcome State Fault Refusal :=
  onward s fun s => knotRun (knotRun (scrZeroEnd s n) 0) 1

end Sys2Proof.Machine
end

