-- ==== Sys2Proof/Machine/Plain.lean ====
section
/-! DEFINITION. The commands that every engine executes (R200, R209–R215, R302, R307–R309) and memory-side atomics (R224,
R328–R346). -/

namespace Sys2Proof.Machine

/-! ## Atomic operations (R331–R334) -/

/-- Operand size of an ATOMIC in bytes (R224). -/
def atomicSize (op : Nat) : Nat := if op ∈ [1, 9, 0xB, 0x10, 0x11, 0x12, 0x13, 0x14] then 8 else 4

/-- DI for subnormal operands of a float atomic (R256, R331). -/
def subF (f : FFmt) (w : Nat) : Nat := if (f.decode w).2 then fDI else 0

/-- One lane of a float add (R331, R332). -/
def laneAdd (f : FFmt) (rz : Bool) (a b : Nat) : Nat × Nat :=
  let x := addX (f.decode a).1 (f.decode b).1
  let r := f.put rz false x.1
  (r.1, orF (orF x.2 r.2) (orF (subF f a) (subF f b)))

/-- The new target value and the flags of an atomic operation (R331). -/
def atomicNew (op : Nat) (rz : Bool) (old v cmp : Nat) : Nat × Nat :=
  let n := 8 * atomicSize op
  let v := v % 2 ^ n
  let lanes (f : FFmt) : Nat × Nat :=
    let lo := laneAdd f rz (bits old 0 16) (bits v 0 16)
    let hi := laneAdd f rz (bits old 16 16) (bits v 16 16)
    (lo.1 + 65536 * hi.1, orF lo.2 hi.2)
  if op ≤ 1 then ((old + v) % 2 ^ n, 0)
  else if op = 2 then laneAdd f32 rz old v
  else if op = 3 then lanes bf16
  else if op = 4 then lanes f16
  else if op = 8 ∨ op = 9 then (if sint n v < sint n old then v else old, 0)
  else if op = 0xA ∨ op = 0xB then (if sint n old < sint n v then v else old, 0)
  else if op = 0xC then min32 old v
  else if op = 0xD then max32 old v
  else if op = 0x10 then (v, 0)
  else if op = 0x11 then (if old = cmp then v else old, 0)
  else if op = 0x12 then (old &&& v, 0)
  else if op = 0x13 then (old ||| v, 0)
  else (old ^^^ v, 0)

/-- The ranges that accept an operation (R329). -/
def atomicRange (op : Nat) : Region → Bool
  | .hbm _ _ => decide (op < 0x10)
  | .gddr _ _ => true
  | _ => false

/-- Whether a GDDR atomic at range offset o goes through the hub cache's atomic buffer (R342). -/
def atomicBuffered (s : State) (i : Nat) (se : Bool) (o : Nat) : Bool :=
  let c := s.cache i
  let present := (findLine c (o / 256)).isSome
  se || (match c.st with
    | .disabled | .carving => true
    | .draining => !present
    | .enabled => !present && (victim s i (setOf i (o / 256))).isNone)

/-- The update of an atomic at a package offset (R328–R330, R339–R343, R347): through the atomic buffer it goes to GDDR and takes no
way (R342, R353); one that follows another to the same 8-byte word of a stack in the same cycle has waited behind it.
(DESIGN CHOICE, log entry 116) -/
def atomicPut (s : State) (a : Acc) (o : Nat) (new : List Byte) : State :=
  let s := match regionOf s o with
    | .hbm n _ =>
      let s := s.count (memPage n.val) 0x0C0 1
      let s := if mget (0, 0) s.lastAt n.val = (o / 8, s.now + 1) then s.count (memPage n.val) 0x0C8 1 else s
      { s with lastAt := mput (0, 0) n.val (o / 8, s.now + 1) s.lastAt }
    | .gddr h _ => s.count (cachePage (8 + h.val)) 0x0C0 1
    | _ => s
  match regionOf s o with
  | .gddr h r =>
    let i := 8 + h.val
    if atomicBuffered s i a.se r then
      let s := poisonOnWrite (loseResv (s.count (cachePage i) 0x0C8 1) none (granule o)) o new.length
      let s := if !a.se && decide ((s.cache i).st = .enabled ∨ (s.cache i).st = .draining) then s.count (cachePage i) 0x088 1 else s
      wrThrough s i r new
    else wrPiece s none a o new
  | _ => wrPiece s none a o new

/-- The checks of an atomic's target in the order of R335, steps 2 to 5, for requester r in a context of hub die h. -/
def atomicLook (s : State) (h : Hub) (ctx : Nat) (r : Requester) (hint op size va : Nat) : Except (Miss × State) Span :=
  match xlate s h ctx va true true with
  | .fault k a => .error ({ cause := k, va := va, ea := a }, countWalks s h ctx va size true)
  | .ok pa attr =>
    let s := countWalks s h ctx va size false
    if isLocal s pa then
      match physCheck s r pa size with
      | .bad k a => .error ({ cause := k, va := va, ea := a }, s)
      | .fw i f k a => .error ({ cause := cFirewall, va := va, ea := a }, logFw s i f k a r)
      | .ok =>
        if atomicRange op (regionFor s (offOf pa)) then .ok { pa := pa, n := size, acc := effAttr s pa attr hint }
        else .error ({ cause := cBadOperand, va := va, ea := pa }, s)
    else if 8 * window ≤ pa then .error ({ cause := cUnmapped, va := va, ea := pa }, s)
    else match remoteHub (offOf pa) with
      | none => .error ({ cause := cUnmapped, va := va, ea := pa }, s)
      | some d =>
        match fwStopRemote s r (posOf pa) d.val with
        | some i => .error ({ cause := cFirewall, va := va, ea := pa }, logFw s i false (if isReg (offOf pa) then fwRegister else fwMemory) pa r)
        | none => .error ({ cause := cRemoteAtomic, va := va, ea := pa }, s)

/-- An ATOMIC, or the ADD of a SIGNAL, on its target (R335–R345). (DEDUCED, log entry 76) -/
def atomicRun (s : State) (q : QIdx) (c : Cmd) (op target v cmp ret : Nat) : Rd Bool :=
  let n := atomicSize op
  if target % n ≠ 0 ∨ ret % 8 ≠ 0 then .stop { cause := cBadOperand } s
  else match atomicLook s (qHub q) (s.queue q).ctx (.engine q) c.hdr.hint op n target with
    | .error (m, s) =>
      .stop m (if m.cause = cRemoteAtomic ∧ 6 ≤ qEngId q ∧ qEngId q ≤ 7 then s.count (engPage (qEng q)) 0x0C0 1 else s)
    | .ok x =>
      let s := countWalks s (qHub q) (s.queue q).ctx target n false
      let o := offOf x.pa
      let ready : Rd (List Wr1) := (engGate s q c true [x]).bind fun _ s =>
        if ret = 0 then .ok [] s
        else (engTarget s q c ret 8).bind fun l s =>
          (engGate s q c true l).bind fun _ s => .ok [{ va := ret, spans := l, data := leBytes 8 (leNat (coherentBytes s o n)), elem := 0 }] s
      ready.bind fun l s =>
        if coherentPoison s o then
          .stop { cause := cPoison, va := target, ea := x.pa } (ctlCount s (regionOf s o) 0x090 1)
        else if relBlocks s q c then .wait s
        else match sharedWait s (x :: l.flatMap (·.spans)) with
          | some s => .wait s
          | none =>
            let s := noteRead s q c
            let old := leNat (coherentBytes s o n)
            let r := atomicNew op c.hdr.rz old v cmp
            let s := atomicPut (gcDrop s (qEng q) x.pa n) x.acc o (leBytes n r.1)
            .ok true ((l.foldl (putOne q c) s).addFlags q c 0 r.2)

/-- ATOMIC (R224, R328–R345). -/
def atomicBody (s : State) (q : QIdx) (c : Cmd) : Rd Bool :=
  let w := c.words
  atomicRun s q c c.hdr.subop (wd w 0) (wd w 1) (wd w 2) (wd w 3)

/-! ## WAIT, SIGNAL, FENCE, STEP -/

/-- One look of a WAIT at its sync word (R210, R211). (DEDUCED, log entry 69) -/
def waitBody (s : State) (q : QIdx) (c : Cmd) : Rd Bool :=
  let w := c.words
  let still (s : State) : State := s.modCmd q c.seq fun y => y.beginStall cWaitSignal s.now
  match engRead s q c false (wd w 0) 8 with
  | .stop m s => .stop m s
  | .wait s => .wait (still s)
  | .ok b s =>
    let v := leNat b
    let x := wd w 1
    let met := if wd w 2 = 0 then decide (x ≤ v) else if wd w 2 = 1 then decide (v = x) else decide (v ≠ x)
    if met then .ok true (timerRace s q (s.cmdNow q c))
    else .wait ((still s).modCmd q c.seq fun y => { y with rdata := [], need := [], didRead := false })

/-- SIGNAL (R212). -/
def signalBody (s : State) (q : QIdx) (c : Cmd) : Rd Bool :=
  let w := c.words
  if wd w 2 = 1 then atomicRun s q c 1 (wd w 0) (wd w 1) 0 0
  else (engWrite s q c 0 (wd w 0) (leBytes 8 (wd w 1))).bind fun _ s => .ok true s

/-- Whether the condition of a FENCE holds (R307–R309, R575). -/
def fenceHolds (s : State) (q : QIdx) (c : Cmd) : Bool :=
  let l := (s.queue q).earlier c
  if wd c.words 0 = 1 then l.all (fun y => decide (y.phase = .ended)) && decide ((s.queue q).lateUntil ≤ s.now)
  else l.all fun y => decide (y.phase = .ended) || (y.performed && y.unacked.all fun u => !isLocal s u.1)

/-- FENCE (R213). -/
def fenceBody (s : State) (q : QIdx) (c : Cmd) : Rd Bool :=
  if fenceHolds s q c then .ok true s else .wait (s.modCmd q c.seq fun y => y.beginStall cFenceWait s.now)

/-- STEP (R214, R215). -/
def stepBody (s : State) (q : QIdx) (c : Cmd) : Rd Bool :=
  let w0 := wd c.words 0
  let x := s.queue q
  let h := qHub q
  if bit w0 16 && x.stepEn && (s.grp h x.stepGrp).en then
    .ok true (layerWrite s h x.stepGrp (BitVec.ofNat 16 (bits w0 0 16)) (some q.val))
  else .ok true s

/-! ## Meanings -/

/-- R200. -/
def execNop (q : QIdx) (t : Nat) (s : State) : Host.Outcome State Fault Refusal := opRow opNop (fun s _ _ => .ok true s) q 1 t s
/-- R210: the command starts, and looks at its sync word. -/
def execWait (q : QIdx) (t : Nat) (s : State) : Host.Outcome State Fault Refusal := opRow opWait waitBody q 1 t s
/-- R210, R211: a WAIT that has started looks at its sync word again. -/
def execWaitPoll (q : QIdx) (t : Nat) (s : State) : Host.Outcome State Fault Refusal :=
  onwardAt s t fun s =>
    match (s.queue q).target with
    | some c => if c.startT.isSome then engineRow (fun h => decide (h.opcode = opWait)) waitBody q 1 s else s
    | none => s
/-- R212. -/
def execSignal (q : QIdx) (t : Nat) (s : State) : Host.Outcome State Fault Refusal := opRow opSignal signalBody q 1 t s
/-- R213, R307–R309. -/
def execFence (q : QIdx) (t : Nat) (s : State) : Host.Outcome State Fault Refusal := opRow opFence fenceBody q 1 t s
/-- R214. -/
def execStep (q : QIdx) (t : Nat) (s : State) : Host.Outcome State Fault Refusal := opRow opStep stepBody q 1 t s
/-- R224, R335. -/
def execAtomic (q : QIdx) (t : Nat) (s : State) : Host.Outcome State Fault Refusal := opRow opAtomic atomicBody q 1 t s

end Sys2Proof.Machine
end

