-- ==== Sys2Proof/Machine/Hosts.lean ====
section
/-! DEFINITION. The host ports (R597–R611, R346, R578, R600): memory accesses of host functions, AtomicOps, configuration
requests, function windows, function level resets and CXL. -/

namespace Sys2Proof.Machine

/-! ## Functions and answers -/

/-- The number v of a VF, 1 to 8. -/
def vfNum (vf : Fin 8) : Nat := vf.val + 1

/-- The host function that a VF presents, where its map entry is valid (R601, R602). -/
def vfFn (s : State) (p : Port) (v : Nat) : Option (Fin 32) :=
  let e := mget (0, false) (s.hlk p).vfMap v
  if e.2 then some (Fin.ofNat 32 e.1.toNat) else none

/-- The function of a VF, if it is bound to a partition (R484). -/
def boundFn (s : State) (p : Port) (v : Nat) : Option (Fin 32) :=
  match vfFn s p v with
  | some f => if (reqPart s (portHub p) (.function f)).isSome then some f else none
  | none => none

/-- The FATAL state (R587). -/
def fatalState (s : State) : Bool := s.mgt.fatal && s.doff.done

/-- PCIe completion codes. -/
def stSc : Nat := 0
def stUr : Nat := 1
def stRrs : Nat := 2
def stCa : Nat := 4

/-- A completion goes to the host and counts where it is UR or CA. -/
def hostAnswer (s : State) (p : Port) (tag st : Nat) (data : List Byte) : State :=
  let s := if st = stUr then s.count (hlkPage p) 0x088 1 else if st = stCa then s.count (hlkPage p) 0x090 1 else s
  s.send (.pcie p tag st data)

/-- A host request that the firewall stops is logged by the port's hub die, and is an error of its XLT (R478, R564; log entry
25). -/
def hostViolation (s : State) (p : Port) (t : ReqTag) (addr : Nat) : State :=
  report (fwViolation s (portHub p) fwMemory t addr) (pgKey (portHub p).val ixXlt) 1 cFirewall 0 t addr addr

/-- An access of an unbound VF is logged as a firewall violation (R484, R602). -/
def unboundFault (s : State) (p : Port) (v addr : Nat) : State :=
  let id := match vfFn s p v with | some f => f.val | none => 0
  hostViolation s p { id := id, kind := 1, part := none } addr

/-- An access of a host function that is not performed is logged by the XLT of the port's hub die (R117, R600). -/
def hostFault (s : State) (p : Port) (f : Fin 32) (cause addr : Nat) : State :=
  let h := portHub p
  report s (pgKey h.val ixXlt) 1 cause 0 (reqTag s h (.function f)) addr (if cXltMiss ≤ cause ∧ cause ≤ cXltWalk then 0 else addr)

/-- The status that a cause gives a host request (R117, R478, R600). -/
def causeStatus (cause : Nat) : Nat := if cause = cPosDown ∨ cause = cPoison then stCa else stUr
/-- The status that an answer from another package gives it. -/
def answerStatus : Answer → Nat
  | .ok => stSc
  | .firewall | .unmapped => stUr
  | _ => stCa

/-- The checks of a host function's access, logged where they stop it: its spans, or the cause. -/
def hostLook (s : State) (p : Port) (f : Fin 32) (rd wr : Bool) (va n : Nat) : Except (Nat × State) (List Span) :=
  let h := portHub p
  match vaCheck s h f.val (.function f) rd wr 0 va n with
  | .ok l => .ok l
  | .bad k a => .error (k, hostFault (countWalks s h f.val va n (decide (cXltMiss ≤ k ∧ k ≤ cXltWalk))) p f k a)
  | .fw i b k a => .error (cFirewall, logFw (countWalks s h f.val va n false) i b k a (.function f))

/-- The partition that a function's transfers carry (R473). -/
def hostPart (s : State) (p : Port) (f : Fin 32) : Option (Fin 16) := (reqPart s (portHub p) (.function f)).map (Fin.ofNat 16)

/-- What a function's access carries to another package (R126, R471). -/
def hostAttr (f : Fin 32) (a : Acc) : FarAttr := { a.far with fn := some f }
/-- An access whose target position has become DOWN is logged by the XLT that translated it (R600). -/
def hostPosDown (s : State) (p : Port) (f : Option (Fin 32)) (pa : Nat) : State :=
  match f with | some f => hostFault s p f cPosDown pa | none => s
/-- An access that another package found unmapped is logged by the XLT that translated it (R117). -/
def farUnmapped (s : State) (p : Port) (f : Fin 32) (k : Answer) (pa : Nat) : State :=
  if k = .unmapped then hostFault s p f cUnmapped pa else s

/-! ## Reads (R599, R600, R605) -/

/-- The pieces of a host read that lie in this package are read; none where poison is met. -/
def hostPieces (r : Requester) (acc : Option (SMap (Option Byte)) × State) (x : Nat × Nat × Acc) : Option (SMap (Option Byte)) × State :=
  match acc with
  | (none, s) => (none, s)
  | (some got, s) =>
    if !isLocal s x.1 then (some got, s)
    else if isReg (offOf x.1) then
      let (v, s) := regRead s (.self r) (offOf x.1) x.2.1
      (some (keepBytes got x.1 (leBytes x.2.1 v)), s)
    else
      let (b, q, s) := rdPiece s x.2.2 (offOf x.1) x.2.1
      (if q then none else some (keepBytes got x.1 b), s)

/-- The bytes of a request's pieces, in order. -/
def pendBytes (got : SMap (Option Byte)) (l : List (Nat × Nat)) : List Byte := l.flatMap fun x => arrived got x.1 x.2

/-- How a read ends: with a completion, or with a CXL answer. -/
def readAnswer (s : State) (p : Port) (tag st : Nat) (cxl : Option Nat) (data : List Byte) : State :=
  match cxl with
  | none => hostAnswer s p tag st data
  | some a => s.send (.cxl p (if st = stSc then 1 else 3) a (if st = stSc then data else []))

/-- The line of a CXL read that lies in this package is shared by the host from now on, under CXL 3.1 (R611). (DEDUCED, log entry 97) -/
def shareLines (s : State) (p : Port) (l : List Span) : State :=
  if (s.hlk p).proto ≠ 3 then s
  else (spanPieces l).foldl (fun s x =>
    if isLocal s x.1 && (cacheOfRegion (regionOf s (offOf x.1))).isSome then
      s.modHlk p fun y => { y with sharers := mput none (offOf x.1 / 64) (some false) y.sharers }
    else s) s

/-- The links between a port's hub die and the registers of an access (R646). -/
def hostLinks (s : State) (p : Port) (l : List Span) : List LinkId :=
  l.flatMap fun x => if isLocal s x.pa && isReg (offOf x.pa) then localLinks s (portHub p).val (offOf x.pa) else []
/-- A die link on the way to a register has failed for good: the access can never be completed. (DEDUCED, log entry 124) -/
def linkLost (s : State) (p : Port) (l : List Span) : Bool := (hostLinks s p l).any fun k => decide (linkSt s k = .failed)
/-- An access to a register waits for a link that recovers. -/
def hostHeld (s : State) (p : Port) (l : List Span) : Bool := !linkLost s p l && (hostLinks s p l).any (linkBusy s)

/-- A read of n bytes at a device virtual address for a host function: answered at once, or when the other packages have answered. -/
def hostRead (s : State) (p : Port) (f : Fin 32) (va n tag : Nat) (cxl : Option Nat) : State :=
  match hostLook s p f true false va n with
  | .error (k, s) => readAnswer s p tag (causeStatus k) cxl []
  | .ok l =>
    if spansBusy s l || hostHeld s p l then s
    else if linkLost s p l then readAnswer s p tag stCa cxl []
    else
      let s := countWalks s (portHub p) f.val va n false
      match (spanPieces l).foldl (hostPieces (.function f)) (some [], s) with
      | (none, s) =>
        (match cxl with
         | none => hostAnswer s p tag stCa []
         | some a => s.send (.cxl p 2 a []))
      | (some got, s) =>
        let pieces := (spanPieces l).map fun x => (x.1, x.2.1)
        let need := ranges (missing s got l)
        let s := if cxl.isSome then shareLines s p l else s
        if need.isEmpty then readAnswer s p tag stSc cxl (pendBytes got pieces)
        else
          let s := s.modHlk p fun x => { x with
            pend := x.pend ++ [{ tag := tag, at0 := s.now, pieces := pieces, rdata := got, need := need, cxl := cxl, fn := f }] }
          (spanPieces l).foldl (fun s y => if need.contains (y.1, y.2.1) then
            sendRead s (hostPart s p f) 1 (.host p tag) (hostAttr f y.2.2) y.1 y.2.1 else s) s

/-- The request with a tag goes. -/
def dropPend (s : State) (p : Port) (tag : Nat) : State := s.modHlk p fun x => { x with pend := x.pend.filter fun y => y.tag ≠ tag }

/-- Data for a host's read arrives from another package (R324, R600). -/
def hostData (s : State) (p : Port) (tag pa : Nat) (k : Answer) (data : List Byte) : State :=
  match (s.hlk p).pend.find? fun x => decide (x.tag = tag) && x.need.any fun y => decide (y.1 = pa) with
  | none => s.count (pgKey (portHub p).val ixErr) 0x0A8 1
  | some x =>
    if k ≠ .ok then
      (match k, x.cxl with
       | .poison, some a => (dropPend s p tag).send (.cxl p 2 a [])
       | _, _ => readAnswer (farUnmapped (dropPend s p tag) p x.fn k pa) p tag (answerStatus k) x.cxl [])
    else
      let got := keepBytes x.rdata pa data
      let need := x.need.filter fun y => y.1 ≠ pa
      if need.isEmpty then readAnswer (dropPend s p tag) p tag stSc x.cxl (pendBytes got x.pieces)
      else s.modHlk p fun y => { y with pend := y.pend.map fun z => if z.tag = tag then { z with rdata := got, need := need } else z }

/-! ## Posted writes (R599, R600) -/

/-- A write of bytes to the spans of an access: pieces of this package are performed, those of others sent. -/
def hostPut (p : Port) (f : Fin 32) (i : Issuer) (acc : State × List Byte) (x : Nat × Nat × Acc) : State × List Byte :=
  let (s, bs) := acc
  let b := bs.take x.2.1
  let s := if !isLocal s x.1 then sendWrite s (hostPart s p f) 1 i (hostAttr f x.2.2) x.1 b
    else if isReg (offOf x.1) then regWrite s (.self (.function f)) (offOf x.1) x.2.1 (leNat b)
    else wrPiece s none x.2.2 (offOf x.1) b
  (s, bs.drop x.2.1)

/-- Posted writes of a function through a port that the other packages still have to acknowledge and that are not given up (R578, R599). -/
def postedWait (s : State) (p : Port) (f : Fin 32) : Bool :=
  (s.hlk p).posted.any fun x => decide (vfFn s p x.1 = some f ∧ s.now < x.2.2 + ms 2)

/-- A posted write of a host function at a device virtual address (R117, R478, R599, R600). (DEDUCED, log entry 92) -/
def hostWrite (s : State) (p : Port) (v : Nat) (f : Fin 32) (va : Nat) (data : List Byte) : State :=
  if postedWait s p f then s
  else match hostLook s p f false true va data.length with
    | .error (_, s) => s
    | .ok l =>
      if spansBusy s l || hostHeld s p l then s
      else if linkLost s p l then s
      else
        let s := countWalks s (portHub p) f.val va data.length false
        let far := (spanPieces l).filter fun x => !isLocal s x.1
        let s := s.modHlk p fun x => { x with
          posted := x.posted.filter (fun y => y.1 ≠ v) ++ far.map fun y => (v, y.1, s.now) }
        ((spanPieces l).foldl (hostPut p f (.posted p v)) (s, data)).1

/-- The acknowledgement of a posted write, which is dropped where the other package found it unmapped (R117). -/
def postedAck (s : State) (p : Port) (v pa : Nat) (k : Answer) : State :=
  if (s.hlk p).posted.any fun x => decide (x.1 = v ∧ x.2.1 = pa) then
    (match vfFn s p v with | some f => farUnmapped s p f k pa | none => s).modHlk p fun x => { x with posted := x.posted.filter fun y => !decide (y.1 = v ∧ y.2.1 = pa) }
  else s.count (pgKey (portHub p).val ixErr) 0x0A8 1

/-! ## Requests through BAR0 -/

/-- A request to a VF's memory aperture: counted, and handed on where the package answers and the aperture holds it; miss is what
an access outside it gets. (DEDUCED, log entry 93) -/
def viaBar0 (s : State) (p : Port) (vf : Fin 8) (off n : Nat) (miss : State → State) (f : State → Fin 32 → State) : State :=
  if !s.boot.ready || (s.hlk p).speed = 0 then s
  else
    let s := s.count (hlkPage p) 0x080 1
    if fatalState s || decide (2 ^ (s.hlk p).apActive < off + n) then miss s
    else match boundFn s p (vfNum vf) with
      | none => miss (unboundFault s p (vfNum vf) off)
      | some fn => f s fn

/-- R605: a memory read. -/
def memRead (s : State) (p : Port) (vf : Fin 8) (off len tag : Nat) : State :=
  viaBar0 s p vf off len (fun s => hostAnswer s p tag stUr []) fun s f => hostRead s p f off len tag none

/-- R605: a memory write. -/
def memWrite (s : State) (p : Port) (vf : Fin 8) (off : Nat) (data : List Byte) : State :=
  viaBar0 s p vf off data.length id fun s f => hostWrite s p (vfNum vf) f off data

/-! ## AtomicOps (R346) -/

/-- The operation of R224 that performs an AtomicOp; a 4-byte Swap or CAS has the range rules of the 8-byte one. -/
def atomicCode (op : HostAtomic) (size : Nat) : Nat :=
  match op with
  | .fetchAdd => if size = 8 then 1 else 0
  | .swap => 0x10
  | .cas => 0x11

/-- The new value that an AtomicOp leaves. -/
def atomicResult (op : HostAtomic) (size old v cmp : Nat) : Nat :=
  let m := 2 ^ (8 * size)
  match op with
  | .fetchAdd => (old + v) % m
  | .swap => v % m
  | .cas => if old = cmp % m then v % m else old

/-- An AtomicOp request of a host function (R346). -/
def hostAtomic (s : State) (p : Port) (vf : Fin 8) (off : Nat) (op : HostAtomic) (size v cmp tag : Nat) : State :=
  if size ≠ 4 ∧ size ≠ 8 then viaBar0 s p vf off size (fun s => hostAnswer s p tag stUr []) fun s _ => hostAnswer s p tag stUr []
  else viaBar0 s p vf off size
    (fun s => hostAnswer s p tag (if fatalState s then stCa else stUr) []) fun s f =>
    if off % size ≠ 0 then hostAnswer s p tag stCa []
    else match atomicLook s (portHub p) f.val (.function f) 0 (atomicCode op size) size off with
      | .error (m, s) =>
        let s := if m.cause = cFirewall ∨ m.cause = cRemoteAtomic ∨ m.cause = cBadOperand then s else hostFault s p f m.cause m.ea
        hostAnswer s p tag stCa []
      | .ok x =>
        let s := countWalks s (portHub p) f.val off size false
        let o := offOf x.pa
        if coherentPoison s o then hostAnswer (ctlCount s (regionOf s o) 0x090 1) p tag stCa []
        else
          let old := coherentBytes s o size
          let s := atomicPut s x.acc o (leBytes size (atomicResult op size (leNat old) v cmp))
          hostAnswer s p tag stSc old

/-! ## Configuration space, windows and resets -/

/-- The place of a byte of configuration space. -/
def cfgIx (p : Port) (fn off : Nat) : Nat := (16 * p.val + fn) * 4096 + off % 4096
/-- A byte of configuration space as it reads: the Vendor ID (R615), TotalVFs, VF offset and stride of the SR-IOV capability (R601), the
largest payload and the AtomicOp bits of each function's Device Capabilities (R597), Bus Master Enable (R598); the rest is PCIe's.
(PRESUMED, log entry 94) -/
def cfgByte (s : State) (p : Port) (fn off : Nat) : Byte :=
  let put := mget 0 (s.hlk p).cfg (4096 * fn + off % 4096)
  let b := Config.configSpace (cfgIx p fn off) put.toNat
  if fn = 0 ∧ off < 2 then BitVec.ofNat 8 (Config.pciVendorId.toNat / 256 ^ off)
  else if off = 4 then (b &&& 0xFB#8) ||| (put &&& 0x04#8)
  else if fn = 0 ∧ Config.sriovCap + 0x0E ≤ off ∧ off < Config.sriovCap + 0x10 then BitVec.ofNat 8 (8 / 256 ^ (off - (Config.sriovCap + 0x0E)))
  else if fn = 0 ∧ Config.sriovCap + 0x14 ≤ off ∧ off < Config.sriovCap + 0x18 then BitVec.ofNat 8 (0x00010001 / 256 ^ (off - (Config.sriovCap + 0x14)))
  else if off = Config.pcieCap + 0x04 then (b &&& 0xF8#8) ||| 0x02#8
  else if off = Config.pcieCap + 0x24 then b ||| 0x80#8
  else if off = Config.pcieCap + 0x25 then (b &&& 0xFC#8) ||| 0x01#8
  else b

/-- A VF presenting a host function is reset (R557, R608). (DEDUCED, log entry 95) -/
def flrVf (s : State) (p : Port) (v : Nat) : State :=
  let s := match vfFn s p v with
    | some f => (everyQueue s).foldl (fun (s : State) (q : QIdx) =>
        let x := s.queue q
        if x.bound && decide (x.ctx = f.val) then queueReset s q else s) s
    | none => s
  (s.modHlk p fun x => { x with
    msix := mclear (512 * v) 512 x.msix, pba := mclear (32 * v) 32 x.pba, qvec := mclear (8192 * v) 8192 x.qvec }).count (hlkPage p) 0x0A0 1

/-- Every VF of a port is reset. -/
def flrAll (s : State) (p : Port) : State := (List.range 8).foldl (fun s v => flrVf s p (v + 1)) s

/-- A reset of functions (R608).  A hot reset clears configuration space too; with the link down nothing waits for the host. -/
def funcReset (s : State) (p : Port) (k : FlrKind) : State :=
  match k with
  | .flr vf => flrVf s p (vfNum vf)
  | .vfEnableClear => flrAll s p
  | .hotReset => (flrAll s p).modHlk p fun x => { x with cfg := [], numVf := 0, pend := [], sharers := [] }
  | .linkDown =>
    (flrAll s p).modHlk p fun x => { x with cfg := [], numVf := 0, pend := [], sharers := [], speed := 0, width := 0, proto := 0 }

/-- Vectors that were pending and need wait no longer are sent (R598). -/
def msixRelease (s : State) (p : Port) (v f : Nat) : State :=
  (List.range 32).foldl (fun s k =>
    if mget false (s.hlk p).pba (32 * v + k) && !msixHeld (s.hlk p) v k then
      raiseMsixVf (s.modHlk p fun x => { x with pba := mput false (32 * v + k) false x.pba }) p v f k
    else s) s

/-- A configuration write (R598, R601, R608, R629): Bus Master Enable, NumVFs and VF Enable have their effects. -/
def cfgWrite (s : State) (p : Port) (fn off : Nat) (w : W32) : State :=
  let was := (mget 0 (s.hlk p).cfg (off % 4096)).getLsbD 0
  let s := s.modHlk p fun x => { x with
    cfg := (List.range 4).foldl (fun m i => mput 0 (4096 * fn + (off + i) % 4096) (BitVec.ofNat 8 (w.toNat / 256 ^ i)) m) x.cfg }
  if fn ≠ 0 then
    (match vfFn s p fn with
     | some f => msixRelease s p fn f.val
     | none => s)
  else if off = Config.sriovCap + 16 then s.modHlk p fun x => { x with numVf := min 8 (w.toNat % 65536) }
  else if off = Config.sriovCap + 8 then
    if was && !w.getLsbD 0 then funcReset s p .vfEnableClear
    else if !was && w.getLsbD 0 then s.modHlk p fun x => { x with apActive := x.apLog2 }
    else s
  else s

/-- A configuration request (R546): Request Retry Status until READY. -/
def cfgRequest (s : State) (p : Port) (fn off : Nat) (w : Option W32) (tag : Nat) : State :=
  if (s.hlk p).speed = 0 then s
  else
    let s := s.count (hlkPage p) 0x080 1
    if !s.boot.ready then hostAnswer s p tag stRrs []
    else match w with
      | none => hostAnswer s p tag stSc ((List.range 4).map fun i => cfgByte s p fn (off + i))
      | some v => hostAnswer (cfgWrite s p fn off v) p tag stSc []

/-- The boot status block (R547). -/
def bootBlock (s : State) : List Byte :=
  let b := s.boot
  leBytes 4 b.attempts.toNat ++ leBytes 1 b.step ++ leBytes 1 b.bfReason.toNat ++ leBytes 1 b.bfDie.toNat ++
    leBytes 1 (b.posId.toNat + 8 * b2n b.ready + 16 * b2n b.backoff) ++ leBytes 1 b.cause.toNat ++ List.replicate 7 0

/-- The port page of PF0 (R604). -/
def portPage (s : State) (p : Port) (o : Nat) : Byte :=
  if o < 16 then (bootBlock s).getD o 0
  else if o = 16 then BitVec.ofNat 8 (p.val + 4 * s.boot.pos.val + 32 * (s.boot.feat % 8))
  else if 0x24 ≤ o ∧ o < 0x44 then
    let e := mget (0, false) (s.hlk p).vfMap ((o - 0x20) / 4)
    BitVec.ofNat 8 ((e.1.toNat + 256 * b2n e.2) / 256 ^ (o % 4))
  else 0

/-- What a function window offset lies in (R605). -/
inductive Win where
  | msix | pba | qvec (q : Nat)
  | ledger (i o : Nat)
  | dump (p o : Nat)
  | none
  deriving DecidableEq, Repr

/-- The part of the function window that an access lies in, if it lies in one. -/
def winAt (off n : Nat) : Win :=
  if off + n ≤ 0x200 then .msix
  else if 0x1000 ≤ off ∧ off + n ≤ 0x1008 then .pba
  else if 0x100000 ≤ off ∧ off + n ≤ 0x102000 ∧ 1 ≤ n ∧ n ≤ 8 then .qvec (off - 0x100000)
  else if 0x40000000 ≤ off ∧ off + n ≤ 0x80000000 ∧ (off - 0x40000000) / 0x4000000 = (off + n - 1 - 0x40000000) / 0x4000000 then
    .ledger ((off - 0x40000000) / 0x4000000) ((off - 0x40000000) % 0x4000000)
  else if 0x100000000 ≤ off ∧ off + n ≤ 0x200000000 ∧ (off - 0x100000000) / 0x20000000 = (off + n - 1 - 0x100000000) / 0x20000000 then
    .dump ((off - 0x100000000) / 0x20000000) ((off - 0x100000000) % 0x20000000)
  else .none

/-- A read of another package's ledger or dump window waits for it (R116, R605, R606). (DEDUCED, log entry 96) -/
def farWindow (s : State) (p : Port) (f : Fin 32) (tag : Nat) (v : FarView) (pa n : Nat) : State :=
  if posState s (posFin pa) ≠ .present then hostAnswer (hostFault s p f cPosDown pa) p tag stCa []
  else
    let s := s.modHlk p fun x => { x with
      pend := x.pend ++ [{ tag := tag, at0 := s.now, pieces := [(pa, n)], rdata := [], need := [(pa, n)], fn := f }] }
    sendRead s (hostPart s p f) 1 (.host p tag) { fn := some f } pa n (some v)

/-- A read of a function window (R605, R606, R587). -/
def windowRead (s : State) (p : Port) (v : Nat) (f : Fin 32) (off n tag : Nat) : State :=
  let x := s.hlk p
  let ok (s : State) (g : Nat → Byte) : State := hostAnswer s p tag stSc ((List.range n).map g)
  let w := winAt off n
  let shown : Bool := match w with | .ledger _ _ | .dump _ _ => true | _ => !fatalState s
  if !shown then hostAnswer s p tag stUr []
  else match w with
    | .msix => ok s fun i => msixByte x v (off + i)
    | .pba => ok s fun i => BitVec.ofNat 8 (((List.range 8).map fun k =>
        b2n (decide (8 * (off - 0x1000 + i) + k < 32) && mget false x.pba (32 * v + 8 * (off - 0x1000 + i) + k)) * 2 ^ k).sum)
    | .qvec q => ok s fun i => mget 1 x.qvec (8192 * v + q + i)
    | .ledger i o =>
      let h : Hub := Fin.ofNat 2 i
      if i / 2 = s.boot.pos.val then ok s fun j => ledgerByte s h f.val (o + j)
      else farWindow s p f tag (.ledger h) (i / 2 * window + o) n
    | .dump d o =>
      if d = s.boot.pos.val then ok s fun j => dumpByte s f.val (o + j)
      else farWindow s p f tag .dump (d * window + o) n
    | .none => hostAnswer (hostFault s p f cUnmapped 0) p tag stUr []

/-- A write to a function window (R605, R606). -/
def windowWrite (s : State) (p : Port) (v : Nat) (f : Fin 32) (off : Nat) (data : List Byte) : State :=
  let each (s : State) (g : Hlk → Nat → Byte → Hlk) : State :=
    (data.zipIdx.foldl (fun s y => s.modHlk p fun x => g x y.2 y.1) s)
  let violation (s : State) : State := hostViolation s p (reqTag s (portHub p) (.function f)) 0
  match winAt off data.length with
  | .ledger _ _ | .dump _ _ => violation s
  | .msix => if fatalState s then s else msixRelease (each s fun x i b => msixPut x v (off + i) b) p v f.val
  | .pba => s
  | .qvec q => if fatalState s then s else each s fun x i b => { x with qvec := mput 1 (8192 * v + q + i) b x.qvec }
  | .none => if fatalState s then s else hostFault s p f cUnmapped 0

/-- An access to the port page of PF0 or to a VF's function window (R604–R606). -/
def winAccess (s : State) (p : Port) (a : WinAccess) (tag : Nat) : State :=
  if !s.boot.ready || (s.hlk p).speed = 0 then s
  else
    let s := s.count (hlkPage p) 0x080 1
    match a with
    | .pf0Read off n =>
      if fatalState s || decide (4096 < off + n) then hostAnswer s p tag stUr []
      else hostAnswer s p tag stSc ((List.range n).map fun i => portPage s p (off + i))
    | .pf0Write _ _ => s
    | .vfRead vf off n =>
      (match boundFn s p (vfNum vf) with
       | none => hostAnswer (unboundFault s p (vfNum vf) 0) p tag stUr []
       | some f => windowRead s p (vfNum vf) f off n tag)
    | .vfWrite vf off data =>
      (match boundFn s p (vfNum vf) with
       | none => unboundFault s p (vfNum vf) 0
       | some f => windowWrite s p (vfNum vf) f off data)

/-! ## Timeouts and links (R546, R578, R609) -/

/-- A non-posted request has waited for 2 ms (R578, R600). -/
def hostExpire (s : State) (p : Port) (tag : Nat) : State :=
  match (s.hlk p).pend.find? fun x => x.tag = tag with
  | some x => if x.at0 + ms 2 ≤ s.now then readAnswer (dropPend s p tag) p tag stCa x.cxl [] else s
  | none => s

/-- A host port has trained (R546, R597, R609): speed and width as HLK_STAT shows them, and the protocol. -/
def portUp (s : State) (p : Port) (speed width cxl : Nat) : State :=
  if s.boot.step < 3 ∨ speed = 0 ∨ ¬ (width = 1 ∨ width = 2 ∨ width = 4 ∨ width = 8 ∨ width = 16) then s
  else s.modHlk p fun x => { x with
    speed := speed, width := width
    proto := if x.cxlEn && decide (2 ≤ cxl) then (if 3 ≤ s.boot.feat ∧ cxl = 3 then 3 else 2) else 1 }

/-! ## CXL.mem (R609–R611) -/

/-- The function that serves CXL.mem, if one is named and bound, and the device virtual address of a host physical address. -/
def cxlTarget (s : State) (p : Port) (hpa n : Nat) : Option (Fin 32 × Nat) :=
  let x := s.hlk p
  let f : Fin 32 := Fin.ofNat 32 x.cxlFn.toNat
  let base := Config.hdmBase p.val
  if x.cxlV && (reqPart s (portHub p) (.function f)).isSome && decide (base ≤ hpa ∧ hpa + n ≤ base + x.cxlSize * 2 ^ 28) then
    some (f, hpa - base)
  else none

/-- A CXL.mem request (R610): data, poison, an error, or the end of a write. -/
def cxlMem (s : State) (p : Port) (rq : CxlReq) (tag : Nat) : State :=
  if !s.boot.ready || (s.hlk p).proto < 2 then s
  else
    let s := s.count (hlkPage p) 0x080 1
    match rq with
    | .read hpa n =>
      (match cxlTarget s p hpa n with
       | none => s.send (.cxl p 3 hpa [])
       | some (f, va) => if fatalState s then s.send (.cxl p 3 hpa []) else hostRead s p f va n tag (some hpa))
    | .write hpa data =>
      match cxlTarget s p hpa data.length with
      | none => s.send (.cxl p 3 hpa [])
      | some (f, va) =>
        if fatalState s then s.send (.cxl p 3 hpa [])
        else match hostLook s p f false true va data.length with
          | .error (_, s) => s.send (.cxl p 3 hpa [])
          | .ok l =>
            if spansBusy s l || hostHeld s p l then s
            else if linkLost s p l then s.send (.cxl p 3 hpa [])
            else
              let s := countWalks s (portHub p) f.val va data.length false
              let s := ((spanPieces l).foldl (hostPut p f (.host p tag)) (s, data)).1
              let far := ((spanPieces l).filter fun x => !isLocal s x.1).map fun x => (x.1, x.2.1)
              if far.isEmpty then s.send (.cxl p 4 hpa [])
              else s.modHlk p fun x => { x with
                pend := x.pend ++ [{ tag := tag, at0 := s.now, pieces := far, rdata := [], need := far, cxl := some hpa, fn := f }] }

/-- The acknowledgement of a CXL.mem write to another package. -/
def cxlAck (s : State) (p : Port) (tag pa : Nat) (k : Answer) : State :=
  match (s.hlk p).pend.find? fun x => decide (x.tag = tag) && x.need.any fun y => decide (y.1 = pa) with
  | none => s.count (pgKey (portHub p).val ixErr) 0x0A8 1
  | some x =>
    let a := x.cxl.getD 0
    if k ≠ .ok then (farUnmapped (dropPend s p tag) p x.fn k pa).send (.cxl p 3 a [])
    else
      let need := x.need.filter fun y => y.1 ≠ pa
      if need.isEmpty then (dropPend s p tag).send (.cxl p 4 a [])
      else s.modHlk p fun y => { y with pend := y.pend.map fun z => if z.tag = tag then { z with need := need } else z }

/-- The host has answered a back-invalidate snoop: it shares the line no more, and what waited for it goes on (R611). -/
def bisnpAnswer (s : State) (p : Port) (line : Nat) : State :=
  if mget none (s.hlk p).sharers line = some true then
    knotRun (knotRun (s.modHlk p fun x => { x with sharers := mput none line none x.sharers }) 0) 1
  else s

/-! ## Meanings -/

/-- R605. -/
def execHostMemoryRead (p : Port) (vf : Fin 8) (off len tag t : Nat) (s : State) : Host.Outcome State Fault Refusal :=
  onwardAt s t fun s => memRead s p vf off len tag
/-- R605. -/
def execHostMemoryWrite (p : Port) (vf : Fin 8) (off : Nat) (data : List Byte) (s : State) : Host.Outcome State Fault Refusal :=
  onward s fun s => memWrite s p vf off data
/-- R346. -/
def execHostAtomicop (p : Port) (vf : Fin 8) (off : Nat) (op : HostAtomic) (size : Nat) (operand compare : W64) (tag : Nat)
    (s : State) : Host.Outcome State Fault Refusal :=
  onward s fun s => hostAtomic s p vf off op size operand.toNat compare.toNat tag
/-- R578, R600. -/
def execHostRequestTimeout (p : Port) (tag t : Nat) (s : State) : Host.Outcome State Fault Refusal :=
  onwardAt s t fun s => hostExpire s p tag
/-- R546. -/
def execHostConfigRequest (p : Port) (fn : Fin 9) (off : Nat) (w : Option W32) (tag : Nat) (s : State) :
    Host.Outcome State Fault Refusal := onward s fun s => cfgRequest s p fn.val off w tag
/-- R608. -/
def execFunctionLevelReset (p : Port) (k : FlrKind) (t : Nat) (s : State) : Host.Outcome State Fault Refusal :=
  onwardAt s t fun s => funcReset s p k
/-- R610. -/
def execCxlMemRequest (p : Port) (rq : CxlReq) (tag : Nat) (s : State) : Host.Outcome State Fault Refusal :=
  onward s fun s => cxlMem s p rq tag
/-- R609: every snoop is answered with RspIHitI. -/
def execCxlH2dSnoop (p : Port) (hpa : Nat) (s : State) : Host.Outcome State Fault Refusal :=
  onward s fun s => if (s.hlk p).proto < 2 then s else s.send (.cxl p 0 hpa [])
/-- R611. -/
def execCxlBisnpResponse (p : Port) (line : Nat) (s : State) : Host.Outcome State Fault Refusal :=
  onward s fun s => bisnpAnswer s p line
/-- R604–R606. -/
def execFunctionWindowAccess (p : Port) (a : WinAccess) (tag : Nat) (s : State) : Host.Outcome State Fault Refusal :=
  onward s fun s => winAccess s p a tag
/-- R546, R597, R609. -/
def execHostLinkUp (p : Port) (speed : Fin 7) (width : Fin 17) (cxl : Fin 4) (s : State) : Host.Outcome State Fault Refusal :=
  onward s fun s => portUp s p speed.val width.val cxl.val

end Sys2Proof.Machine
end

