-- ==== Sys2Proof/Machine/Answers.lean ====
section
/-! DEFINITION. Answers from other packages and knot units: read data (R324, R574), acknowledgements (R317, R477), and command
timeouts (R163, R573). -/

namespace Sys2Proof.Machine

/-! ## Read data (R324, R574) -/

/-- Whether the data of an answer has the length that was asked for. -/
def fitsLen (k : Answer) (data : List Byte) (n : Nat) : Bool := decide (k ≠ .ok ∨ data.length = n)

/-- Data for the fetch of the next entry of a ring in another package (R148). -/
def fetchAnswer (s : State) (q : QIdx) (seq : W32) (pa : Nat) (k : Answer) (data : List Byte) : State :=
  let x := s.queue q
  match x.fetchNeed.find? fun p => decide (x.cons = seq) && decide (p.1 = pa) with
  | none => lateDiscard s (qDie q)
  | some p =>
    if !fitsLen k data p.2 then s
    else s.modQueue q fun x => { x with
      fetchNeed := x.fetchNeed.filter fun y => y ≠ p
      fetchData := if k = .ok then keepBytes x.fetchData pa data else x.fetchData
      fetchFail := if k = .ok then x.fetchFail else some (pa, k) }

/-- The running command that an answer for an execution belongs to (R574). -/
def answered (s : State) (q : QIdx) (seq : W32) (gen : Nat) : Option Cmd :=
  match findCmd s q seq with
  | some c => if underWay c ∧ c.gen = gen then some c else none
  | none => none

/-- Data for a command's read. -/
def cmdData (s : State) (q : QIdx) (seq : W32) (gen pa : Nat) (k : Answer) (data : List Byte) : State :=
  match (answered s q seq gen).bind fun c => c.need.find? fun p => p.1 = pa with
  | none => lateDiscard s (qDie q)
  | some p =>
    if !fitsLen k data p.2 then s
    else s.modCmd q seq fun c => { c with
      need := c.need.filter fun y => y ≠ p
      rdata := if k = .ok then keepBytes c.rdata pa data else c.rdata
      rfail := if k = .ok then c.rfail else some (pa, k) }

/-- Data for a creel fetch. -/
def creelData (s : State) (e : Fin 16) (b j occ pa : Nat) (k : Answer) (data : List Byte) : State :=
  match fillingAt s e b j with
  | none => lateDiscard s (tDie (e.val / 2))
  | some f =>
    match f.need.find? fun p => decide (p.1 = pa ∧ f.occ = occ) with
    | none => lateDiscard s (tDie (e.val / 2))
    | some p =>
      if !fitsLen k data p.2 then s
      else s.modCreel e fun x => { x with fetches := mput none (slotKey b j) (some { f with
        need := f.need.filter fun y => y ≠ p
        rdata := if k = .ok then keepBytes f.rdata pa data else f.rdata
        rfail := if k = .ok then f.rfail else some k }) x.fetches }

/-- Read data returns to its issuer. -/
def readResponse (s : State) (i : Issuer) (pa : Nat) (k : Answer) (data : List Byte) : State :=
  match i with
  | .cmd q seq gen => if gen = 0 then fetchAnswer s q seq pa k data else cmdData s q seq gen pa k data
  | .core c n => coreData s c n pa k data
  | .host p tag => hostData s p tag pa k data
  | .posted _ _ => s
  | .creel e b j occ => creelData s e b j occ pa k data

/-! ## Acknowledgements (R317, R477, R580) -/

/-- The rows or elements whose bytes a write of a command holds: the output rows of an ATTN, else the one that it was made for. -/
def rowsMet (c : Cmd) (u : Nat × Nat × Nat × Nat) : List Nat :=
  if c.hdr.opcode = opAttn ∧ !isPartial c.hdr then
    let w := c.words
    let rb := atDim w * eBytes (fmt4 (wd w 3))
    let o := u.2.2.2 - va48 (wd w 3)
    (List.range (atRows w)).filter fun r => decide (r * rb < o + u.2.1 ∧ o < (r + 1) * rb)
  else [u.2.2.1]

/-- A write of a command was not performed at its destination: the command stops there, or, when all its accesses have been sent,
ends with the lowest element that failed. (DEDUCED, log entry 103) -/
def ackFail (s : State) (q : QIdx) (c : Cmd) (k : Answer) (u : Nat × Nat × Nat × Nat) : State :=
  let ix := elementIndexed c.hdr.opcode
  let f := u.2.2.1
  let cause := answerCause k
  let s := s.modCmd q c.seq fun y => { y with fl := (rowsMet c u).foldl (fun m k => mput 0 k 0 m) y.fl }
  let c := s.cmdNow q c
  if !c.performed then engStop s q c.seq { cause := cause, va := u.2.2.2, ea := u.1, elem := some f }
  else if c.status ≠ .ok ∧ !(ix && decide (f < c.fidx.toNat)) then s
  else
    let st := missStatus ix cause f
    let idx : BitVec 16 := if ix then BitVec.ofNat 16 f else 0xFFFF
    if st = .failed then endCmd (timerRace s q c) q c st cause idx u.2.2.2 u.1
    else s.modCmd q c.seq fun y => { y with
      status := st, cause := cause, fidx := idx, faultVa := BitVec.ofNat 64 u.2.2.2, faultEa := u.1 }

/-- A command all of whose accesses are performed ends once its last write is acknowledged (R164, R577). -/
def ackEnd (s : State) (q : QIdx) (seq : W32) : State :=
  match findCmd s q seq with
  | some c =>
    if c.phase = .running ∧ c.performed ∧ c.unacked.isEmpty then
      qosStalls (endCmd (timerRace s q c) q c c.status c.cause c.fidx c.faultVa.toNat c.faultEa) (qEng q)
    else s
  | none => s

/-- The acknowledgement of a command's write (R164, R335, R370). -/
def cmdAck (s : State) (q : QIdx) (seq : W32) (gen pa : Nat) (k : Answer) : State :=
  match answered s q seq gen with
  | none => lateDiscard s (qDie q)
  | some c =>
    match c.unacked.find? fun u => u.1 = pa with
    | none => lateDiscard s (qDie q)
    | some u =>
      let s := gcDrop s (qEng q) u.1 u.2.1
      let s := s.modCmd q seq fun y => { y with unacked := y.unacked.erase u }
      let c := s.cmdNow q c
      let s := if k = .ok || updated c then s else ackFail s q c k u
      ackEnd s q seq

/-- The acknowledgement of a completion record written to another package (R161, R164). -/
def recAck (s : State) (q : QIdx) (seq : W32) (k : Answer) : State :=
  match (s.queue q).cmds.head? with
  | some c => if c.recSent ∧ c.seq = seq then finishRecord s q c (decide (k = .ok)) else lateDiscard s (qDie q)
  | none => lateDiscard s (qDie q)

/-- An acknowledgement returns to its issuer. -/
def writeAck (s : State) (i : Issuer) (pa : Nat) (k : Answer) : State :=
  match i with
  | .cmd q seq gen => if gen = 0 then recAck s q seq k else cmdAck s q seq gen pa k
  | .core c n => coreAck s c n k
  | .host p tag => cxlAck s p tag pa k
  | .posted p v => postedAck s p v pa k
  | .creel _ _ _ _ => s

/-! ## Timeouts (R163, R573) -/

/-- The timer of a command is looked at.  It stands still while the queue is in FAULT_WAIT (R163), and what arrives in the cycle in which
it expires still wins (R211, R577). (DESIGN CHOICE, log entry 121) -/
def cmdExpire (s : State) (q : QIdx) (seq : W32) : State :=
  match findCmd s q seq with
  | none => s
  | some c =>
    match expiry (s.queue q) c with
    | none => s
    | some t =>
      if (c.phase ≠ .running ∧ c.phase ≠ .faultWait) ∨ (s.queue q).st = .faultWait ∨ s.now ≤ t ∨ updated c then s
      else
        let s := if onBadLink s q c then stopCmd s q c .timeoutLink cTimeoutLink else stopCmd s q c .timeout cTimeout
        qosStalls s (qEng q)

/-! ## Meanings -/

/-- R324, R574. -/
def execRemoteReadResponse (i : Issuer) (addr : Nat) (a : Answer) (data : List Byte) (t : Nat) (s : State) :
    Host.Outcome State Fault Refusal := onwardAt s t fun s => readResponse s i addr a data
/-- R317, R477. -/
def execRemoteWriteAck (i : Issuer) (addr : Nat) (a : Answer) (t : Nat) (s : State) : Host.Outcome State Fault Refusal :=
  onwardAt s t fun s => writeAck s i addr a
/-- R163, R573. -/
def execCommandTimeout (q : QIdx) (seq : W32) (t : Nat) (s : State) : Host.Outcome State Fault Refusal :=
  onwardAt s t fun s => cmdExpire s q seq

end Sys2Proof.Machine
end

