-- ==== Sys2Proof/Machine/Moves.lean ====
section
/-! DEFINITION. COPY, FILL, GATHER and SCATTER (R207, R208, R220–R223, R173, R314). -/

namespace Sys2Proof.Machine

/-- The checks of a read of n bytes, before anything is performed (R173, R202). -/
def srcCheck (s : State) (q : QIdx) (c : Cmd) (va n : Nat) : Rd Unit :=
  match engLook s q c true false va n with
  | .stop m s => .stop m s
  | _ => .ok () s
/-- The checks of a write of n bytes, before anything is performed. -/
def dstCheck (s : State) (q : QIdx) (c : Cmd) (va n : Nat) : Rd Unit :=
  match engTarget s q c va n with
  | .stop m s => .stop m s
  | _ => .ok () s
/-- Those checks over ranges given by first byte and length, sources before destinations. -/
def checkAll (s : State) (q : QIdx) (c : Cmd) (src dst : List (Nat × Nat)) : Rd Unit :=
  (Rd.fold (fun _ (r : Nat × Nat) s => srcCheck s q c r.1 r.2) src () s).bind fun _ s =>
    Rd.fold (fun _ (r : Nat × Nat) s => dstCheck s q c r.1 r.2) dst () s

/-- The rows of a two-dimensional operand. -/
def rowsOf (va n bytes stride : Nat) : List (Nat × Nat) := (List.range n).map fun r => (va + r * stride, bytes)

/-- Pieces of a linear write: how many, and offset and length of piece k (R297). -/
def pieceCount (dst n : Nat) : Nat := (dst % 64 + n + 63) / 64
def pieceAt (dst n k : Nat) : Nat × Nat :=
  let o := if k = 0 then 0 else 64 * k - dst % 64
  (o, min (64 - (dst + o) % 64) (n - o))

/-- The boundary after piece or row k of m. -/
def nextPiece (s : State) (q : QIdx) (c : Cmd) (k m : Nat) : Rd Bool := .ok (decide (m ≤ k + 1)) (s.setProg q c (k + 1))

/-- COPY (R220): a boundary is a piece of the linear form, a row of the strided form. -/
def copyCmd (s : State) (q : QIdx) (c : Cmd) : Rd Bool :=
  let w := c.words
  let a := wd w 0
  let b := wd w 1
  let k := c.prog
  if c.hdr.subop = 0 then
    let n := wd w 2
    let p := pieceAt b n k
    (if k = 0 then checkAll s q c [(a, n)] [(b, n)] else .ok () s).bind fun _ s =>
    (engRead s q c (decide (a / 64 = (a + n - 1) / 64)) (a + p.1) p.2).bind fun bs s =>
    (engWrite s q c 0 (b + p.1) bs).bind fun _ s => nextPiece s q c k (pieceCount b n)
  else
    let rb := bits (wd w 2) 0 32
    let rows := bits (wd w 2) 32 32
    (if k = 0 then checkAll s q c (rowsOf a rows rb (wd w 3)) (rowsOf b rows rb (wd w 4)) else .ok () s).bind fun _ s =>
    (engRead s q c false (a + k * wd w 3) rb).bind fun bs s =>
    (engWrite s q c 0 (b + k * wd w 4) bs).bind fun _ s => nextPiece s q c k rows

/-- FILL (R223). -/
def fillBody (s : State) (q : QIdx) (c : Cmd) : Rd Bool :=
  let w := c.words
  let b := wd w 0
  let n := wd w 1
  let k := c.prog
  let p := pieceAt b n k
  let bs := (List.range p.2).map fun j => BitVec.ofNat 8 (wd w 2 >>> (8 * ((p.1 + j) % 8)))
  (if k = 0 then checkAll s q c [] [(b, n)] else .ok () s).bind fun _ s =>
  (engWrite s q c 0 (b + p.1) bs).bind fun _ s => nextPiece s q c k (pieceCount b n)

/-- Element k of a GATHER or SCATTER: its index, then its checks, then its move (R173, R221, R222). -/
def indexedBody (s : State) (q : QIdx) (c : Cmd) : Rd Bool :=
  let w := c.words
  let k := c.prog
  let n := bits (wd w 3) 0 16
  let e := bits (wd w 3) 16 20
  (engRead s q c true (wd w 1 + 4 * k) 4).bind fun ib s =>
    let i := leNat ib
    let (src, dst) := if c.hdr.opcode = opGather then (wd w 0 + i * e, wd w 2 + k * e) else (wd w 0 + k * e, wd w 2 + i * e)
    (checkAll s q c [(src, e)] [(dst, e)]).bind fun _ s =>
    (engRead s q c true src e).bind fun bs s =>
    (engWrite s q c k dst bs).bind fun _ s => nextPiece s q c k n

/-! ## Meanings -/

/-- R220. -/
def execCopy (q : QIdx) (n t : Nat) (s : State) : Host.Outcome State Fault Refusal := opRow opCopy copyCmd q n t s
/-- R221. -/
def execGather (q : QIdx) (n t : Nat) (s : State) : Host.Outcome State Fault Refusal := opRow opGather indexedBody q n t s
/-- R221, R222. -/
def execScatter (q : QIdx) (n t : Nat) (s : State) : Host.Outcome State Fault Refusal := opRow opScatter indexedBody q n t s
/-- R223. -/
def execFill (q : QIdx) (n t : Nat) (s : State) : Host.Outcome State Fault Refusal := opRow opFill fillBody q n t s

end Sys2Proof.Machine
end

