-- ==== Sys2Proof/Machine/Matrix.lean ====
section
/-! DEFINITION. MATMUL, VEC and RB_MATMUL (R216–R219, R237–R256, R462–R466). -/

namespace Sys2Proof.Machine

/-! ## Elements and tiles -/

/-- Element i of packed elements of a format (R206). -/
def rawElem (fmt : Nat) (b : List Byte) (i : Nat) : Nat :=
  if elemBits fmt = 4 then bits (leAt b (i / 2) 1) (4 * (i % 2)) 4
  else leAt b (i * (elemBits fmt / 8)) (elemBits fmt / 8)

/-- The contents of a tile: the bytes of its rows and of its scales. -/
structure TileData where
  rows   : List (List Byte)
  scales : List Byte
  deriving DecidableEq, Repr

/-- The ranges of a tile: its rows, then its scales. -/
def Tile.ranges (t : Tile) : List (Nat × Nat) :=
  rowsOf t.va t.rows t.rowBytes t.stride ++ (if t.scaleBytes = 0 then [] else [(t.scales, t.scaleBytes)])

/-- A tile is read. -/
def readTile (s : State) (q : QIdx) (c : Cmd) (t : Tile) : Rd TileData :=
  (Rd.fold (fun (l : List (List Byte)) (r : Nat × Nat) s => (engRead s q c false r.1 r.2).bind fun b s => .ok (l ++ [b]) s)
    t.ranges [] s).bind fun l s => .ok { rows := l.take t.rows, scales := (l.drop t.rows).headD [] } s

/-- An MX element as an exact value (R237), with the flags of its decoding. -/
def mxElem (fmt sc w : Nat) : FV × Nat :=
  let (v, f) := elemV false fmt w
  if sc = 255 then (.nan false, fNV)
  else match v with
    | .fin n m e => (.fin n m (e + (sc : Int) - 127), f)
    | v => (v, f)

/-- Element i of row r of a tile in a format of codes 0–8. -/
def tileElem (t : Tile) (d : TileData) (r i : Nat) : FV × Nat :=
  let w := rawElem t.fmt (d.rows.getD r []) i
  if 6 ≤ t.fmt then mxElem t.fmt (leAt d.scales (r * t.blocks + i / 32) 1) w else elemV false t.fmt w

/-! ## Dot products -/

/-- A product joins an FP32 accumulator: added exactly, or rounded to FP32 before it is added (R243, R244). (DEDUCED, log entry 33) -/
def accStep (rz ftz first : Bool) (acc : FR) (p : FV × Nat) : FR :=
  let q : FR := if first then put32 rz ftz p else (0, p.2)
  let r := if first then put32 rz ftz (addX (v32 acc.1) (v32 q.1)) else put32 rz ftz (addX (v32 acc.1) p.1)
  (r.1, orF acc.2 (orF q.2 r.2))

/-- The sum of products of two lists of elements, from an accumulator (R243, R244, R463). -/
def dotAcc (rz ftz first : Bool) (acc : FR) (a b : List (FV × Nat)) : FR :=
  (a.zip b).foldl (fun acc p =>
    let m := mulX p.1.1 p.2.1
    accStep rz ftz first acc (m.1, orF m.2 (orF p.1.2 p.2.2))) acc

/-- An element of a destination format as an FP32 number, with the flags of its reading. -/
def opd (ftz : Bool) (fmt w : Nat) : FR :=
  let (v, f) := elemV ftz fmt w
  ((f32.put false false v).1, orF f (if v.isSnan then fNV else 0))

/-- One element of an integer product (R245): the sum, and its scaling. -/
def intElem (rz : Bool) (fmt : Nat) (ra rb : List Byte) (k sa sb : Nat) : FR :=
  let n := elemBits fmt
  let sum := ((List.range k).map fun i => sint n (rawElem fmt ra i) * sint n (rawElem fmt rb i)).sum
  let x := put32 rz false (intFV sum, 0)
  let y := mul32 rz false x.1 sa
  let z := mul32 rz false y.1 sb
  (z.1, orF (orF x.2 y.2) (orF z.2 (orF (subF f32 sa) (subF f32 sb))))

/-- Element (r, n) of D (R216, R243–R245), from D's old value where ACC is set. -/
def matElem (rz : Bool) (old : Option FR) (ta tb : Tile) (a b : TileData) (r n : Nat) : FR :=
  if 9 ≤ ta.fmt then
    let x := intElem rz ta.fmt (a.rows.getD r []) (b.rows.getD n []) ta.cols (leAt a.scales (4 * r) 4) (leAt b.scales (4 * n) 4)
    match old with
    | none => x
    | some d => let y := add32 rz false x.1 d.1; (y.1, orF x.2 (orF d.2 y.2))
  else
    let el (t : Tile) (d : TileData) (r : Nat) : List (FV × Nat) := (List.range t.cols).map (tileElem t d r)
    dotAcc rz false (decide (6 ≤ ta.fmt)) (old.getD (0, 0)) (el ta a r) (el tb b n)

/-- FP32 results put into a destination format: bytes and flags (R248, R249). -/
def packRow (rz ftz : Bool) (fmt : Nat) (l : List FR) : List Byte × Nat :=
  l.foldl (fun acc x =>
    let o := outElem rz ftz fmt x.1
    (acc.1 ++ elemBytes fmt o.1, orF acc.2 (orF x.2 o.2))) ([], 0)

/-- The rows of D that a MATMUL computes. -/
def matRows (h : Hdr) (w : List Nat) (a b d : TileData) : List (List Byte × Nat) :=
  let ta := tileOf w 0
  let tb := tileOf w 2
  let td := tileOf w 4
  (List.range td.rows).map fun r => packRow h.rz false td.fmt ((List.range td.cols).map fun n =>
    let old := if bit h.subop 0 then some (opd false td.fmt (rawElem td.fmt (d.rows.getD r []) n)) else none
    matElem h.rz old ta tb a b r n)

/-- What has been computed is kept, to be written row by row: each row's bytes, then its flags. -/
def keepRows (s : State) (q : QIdx) (c : Cmd) (rows : List (List Byte × Nat)) : Rd Bool :=
  .ok false (s.modCmd q c.seq fun y => { y with acc := rows.flatMap fun r => r.1.map (·.toNat) ++ [r.2] })

/-- The next row of D is written, and its flags are the command's (R170). -/
def writeRow (s : State) (q : QIdx) (c : Cmd) (t : Tile) : Rd Bool :=
  let k := c.prog
  let row := slice c.acc (k * (t.rowBytes + 1)) (t.rowBytes + 1)
  (engWrite s q c k (t.va + k * t.stride) ((row.take t.rowBytes).map (BitVec.ofNat 8))).bind fun _ s =>
    nextPiece (s.addFlags q c k (row.getD t.rowBytes 0)) q c k t.rows

/-- MATMUL (R216): every source is read before the first row is written. -/
def matmulBody (s : State) (q : QIdx) (c : Cmd) : Rd Bool :=
  let w := c.words
  let ta := tileOf w 0
  let tb := tileOf w 2
  let td := tileOf w 4
  let acc := bit c.hdr.subop 0
  let drows := rowsOf td.va td.rows td.rowBytes td.stride
  if !c.acc.isEmpty then writeRow s q c td
  else
    (checkAll s q c (ta.ranges ++ tb.ranges ++ (if acc then drows else [])) drows).bind fun _ s =>
    (readTile s q c ta).bind fun a s =>
    (readTile s q c tb).bind fun b s =>
    (if acc then readTile s q c td else .ok { rows := [], scales := [] } s).bind fun d s =>
    keepRows s q c (matRows c.hdr w a b d)

/-! ## VEC (R218, R252–R255, R662) -/

/-- The operation of a SUBOP on FP32 operands. -/
def vecOp (op : Nat) (rz ftz : Bool) (a b : Nat) : FR :=
  if op = 1 then add32 rz ftz a b
  else if op = 2 then mul32 rz ftz a b
  else if op = 3 then max32 a b
  else if op = 4 then min32 a b
  else if op = 5 then relu32 a
  else if op = 6 then silu32 rz ftz a
  else if op = 7 then exp32 rz ftz false a
  else if op = 8 then recip32 rz ftz a
  else if op = 9 then rsqrt32 rz ftz a
  else (a, 0)

/-- An operand of a VEC.  The row of R257 for CVT of the FP32 number 2⁻¹³³ to BF16 binds as stated: no DI, and under FTZ the result's
UF NX, so there the operand is taken as it is (DEDUCED, log entry 126); every other operand follows R247 and R256. -/
def vecOpd (h : Hdr) (fa fd : Nat) (w : Nat) : FR :=
  if h.subop = 0 ∧ fa = 0 ∧ fd = 2 ∧ w = 0x00010000 then (w, 0) else opd h.ftz fa w

/-- One row of a VEC's result, for a destination of format fd. -/
def vecRow (h : Hdr) (fa fb fd n : Nat) (a b : List Byte) : List FR :=
  let x := (List.range n).map fun i => vecOpd h fa fd (rawElem fa a i)
  if 10 ≤ h.subop then
    match x with
    | [] => []
    | y :: l => [l.foldl (fun acc z =>
        let r := if h.subop = 10 then add32 h.rz h.ftz acc.1 z.1 else max32 acc.1 z.1
        (r.1, orF acc.2 (orF z.2 r.2))) y]
  else
    let y : List FR := if 1 ≤ h.subop ∧ h.subop ≤ 4 then (List.range n).map fun i => opd h.ftz fb (rawElem fb b i) else x
    (x.zip y).map fun p =>
      let r := vecOp h.subop h.rz h.ftz p.1.1 p.2.1
      (r.1, orF r.2 (orF p.1.2 p.2.2))

/-- VEC (R218). -/
def vecBody (s : State) (q : QIdx) (c : Cmd) : Rd Bool :=
  let w := c.words
  let h := c.hdr
  let ta := tileOf w 0
  let tb := tileOf w 2
  let td := tileOf w 4
  let two := decide (1 ≤ h.subop ∧ h.subop ≤ 4)
  if !c.acc.isEmpty then writeRow s q c td
  else
    (checkAll s q c (ta.ranges ++ (if two then tb.ranges else [])) td.ranges).bind fun _ s =>
    (readTile s q c ta).bind fun a s =>
    (if two then readTile s q c tb else .ok { rows := [], scales := [] } s).bind fun b s =>
    keepRows s q c ((List.range td.rows).map fun r =>
      packRow h.rz h.ftz td.fmt (vecRow h ta.fmt tb.fmt td.fmt ta.cols (a.rows.getD r []) (b.rows.getD r [])))

/-! ## RB_MATMUL (R462–R466) -/

/-- Rule k: IN_ROW, OUT_ROW and the offset index (R460, R465). -/
def readRule (s : State) (q : QIdx) (c : Cmd) (k : Nat) : Rd (Nat × Nat × Nat) :=
  (engRead s q c true (wd c.words 0 + 16 * k) 16).bind fun b s =>
    if 124 < leAt b 8 1 ∨ leAt b 9 7 ≠ 0 then .stop { cause := cBadOperand, elem := some k } s
    else .ok (leAt b 0 4, leAt b 4 4, leAt b 8 1) s

/-- The contribution of a rule to each output channel (R463). -/
def ruleSums (rz : Bool) (fi fw cin cout : Nat) (x wg : List Byte) : List FR :=
  let a := (List.range cin).map fun i => elemV false fi (rawElem fi x i)
  (List.range cout).map fun n => dotAcc rz false true (0, 0) a ((List.range cin).map fun i => elemV false fw (rawElem fw wg (n * cin + i)))

/-- The input row and the weights of rule k are read, and its contribution is added to the output row (R463, R464). -/
def addRule (s : State) (q : QIdx) (c : Cmd) (r : Nat × Nat × Nat) (row : List FR) : Rd (List FR) :=
  let w := c.words
  let fi := fmt4 (wd w 2)
  let fw := fmt4 (wd w 3)
  let cin := bits (wd w 1) 16 16
  let cout := bits (wd w 1) 32 16
  let blk := elemsBytes fw (cin * cout)
  (engRead s q c true (va48 (wd w 2) + r.1 * bits (wd w 5) 0 32) (elemsBytes fi cin)).bind fun x s =>
  (engRead s q c true (va48 (wd w 3) + r.2.2 * blk) blk).bind fun g s =>
    .ok ((row.zip (ruleSums c.hdr.rz fi fw cin cout x g)).map fun p =>
      let t := add32 c.hdr.rz false p.1.1 p.2.1
      (t.1, orF p.1.2 (orF p.2.2 t.2))) s

/-- The rest of a run from rule k on: it ends where the output row changes, or before a rule that does not go through, which the
next boundary meets again. -/
def runOn (q : QIdx) (c : Cmd) (out : Nat) : Nat → Nat → List FR → State → Rd (Nat × List FR)
  | 0, k, row, s => .ok (k, row) s
  | fuel + 1, k, row, s =>
    match (readRule s q c k).bind fun r s' => if r.2.1 = out then (addRule s' q c r row).bind fun x s' => .ok (some x) s' else .ok none s with
    | .ok (some x) s' => runOn q c out fuel (k + 1) x s'
    | .ok none s' => .ok (k, row) s'
    | .stop _ _ => .ok (k, row) s
    | .wait s' => .wait s'

/-- RB_MATMUL (R464): a boundary is a run, or what of it goes through. -/
def rbBody (s : State) (q : QIdx) (c : Cmd) : Rd Bool :=
  let w := c.words
  let n := bits (wd w 1) 0 16
  let cout := bits (wd w 1) 32 16
  let fo := fmt4 (wd w 4)
  let k := c.prog
  (readRule s q c k).bind fun r s =>
    let out := va48 (wd w 4) + r.2.1 * bits (wd w 5) 32 32
    (checkAll s q c [(out, elemsBytes fo cout)] [(out, elemsBytes fo cout)]).bind fun _ s =>
    (engRead s q c true out (elemsBytes fo cout)).bind fun b s =>
    (addRule s q c r ((List.range cout).map fun i => opd false fo (rawElem fo b i))).bind fun row s =>
    (runOn q c r.2.1 (n - k - 1) (k + 1) row s).bind fun x s =>
      let p := packRow c.hdr.rz false fo x.2
      (engWrite s q c k out p.1).bind fun _ s => .ok (decide (n ≤ x.1)) ((s.addFlags q c k p.2).setProg q c x.1)

/-! ## Meanings -/

/-- R216. -/
def execMatmul (q : QIdx) (n t : Nat) (s : State) : Host.Outcome State Fault Refusal := opRow opMatmul matmulBody q n t s
/-- R218. -/
def execVec (q : QIdx) (n t : Nat) (s : State) : Host.Outcome State Fault Refusal := opRow opVec vecBody q n t s
/-- R464. -/
def execRbMatmul (q : QIdx) (n t : Nat) (s : State) : Host.Outcome State Fault Refusal := opRow opRb rbBody q n t s

end Sys2Proof.Machine
end

