-- ==== Sys2Proof/Machine/Attention.lean ====
section
/-! DEFINITION. ATTN and COMBINE (R229, R414–R437). -/

namespace Sys2Proof.Machine

/-! ## The operands of ATTN (R414–R419) -/

/-- −∞ in FP32. -/
def negInf : Nat := 0xFF800000

/-- What a page-table header says: KV_FMT, BASE_TOKEN, K_SCALE, V_SCALE. -/
structure KvHead where
  fmt  : Nat
  base : Nat
  ks   : Nat
  vs   : Nat
  deriving DecidableEq, Repr

/-- Whether a page-table header is within its limits and holds the command's tokens (R415, R417). -/
def kvHeadOk (w : List Nat) (b : List Byte) : Bool :=
  let first := bits (wd w 2) 0 32
  let n := bits (wd w 2) 32 32
  let count := leAt b 4 4
  let base := leAt b 8 4
  decide (1 ≤ leAt b 0 1 ∧ leAt b 0 1 ≤ 4 ∧ 1 ≤ count ∧ count ≤ 16384 ∧ leAt b 1 3 = 0 ∧ leAt b 20 44 = 0) &&
    positiveNormal (leAt b 12 4) && positiveNormal (leAt b 16 4) &&
    decide (base ≤ first ∧ first + n ≤ base + 256 * count)

/-- The page-table header is read (R415–R417). -/
def readKvHead (s : State) (q : QIdx) (c : Cmd) : Rd KvHead :=
  let w := c.words
  (engRead s q c true (wd w 1) 64).bind fun b s =>
    if kvHeadOk w b then .ok { fmt := leAt b 0 1, base := leAt b 8 4, ks := leAt b 12 4, vs := leAt b 16 4 } s
    else .stop { cause := cBadOperand } s

/-- Entry p of the page table: the page's address (R415, R417). -/
def readKvEntry (s : State) (q : QIdx) (c : Cmd) (p : Nat) : Rd Nat :=
  (engRead s q c true (wd c.words 1 + 64 + 8 * p) 8).bind fun b s =>
    let e := leNat b
    if !bit e 63 || decide (bits e 48 15 ≠ 0 ∨ va48 e % 4096 ≠ 0) then .stop { cause := cBadOperand } s else .ok (va48 e) s

/-- The tokens of one page that a command uses: the first token's index, and the bytes of the K and of the V rows (R414). -/
structure KvBlock where
  first : Nat
  n     : Nat
  k     : List Byte
  v     : List Byte
  deriving DecidableEq, Repr

/-- The entries and pages that hold a command's tokens are read (R414, R416). -/
def readKv (s : State) (q : QIdx) (c : Cmd) (hd : KvHead) : Rd (List KvBlock) :=
  let w := c.words
  let first := bits (wd w 2) 0 32
  let last := first + bits (wd w 2) 32 32 - 1
  let row := atDim w * eBytes hd.fmt
  let p0 := (first - hd.base) / 256
  let p1 := (last - hd.base) / 256
  (Rd.fold (fun (l : List (Nat × Nat)) p s => (readKvEntry s q c p).bind fun a s => .ok (l ++ [(p, a)]) s)
    ((List.range (p1 + 1 - p0)).map (p0 + ·)) [] s).bind fun pages s =>
  Rd.fold (fun (l : List KvBlock) (x : Nat × Nat) s =>
    let lo := max first (hd.base + 256 * x.1)
    let n := min (last + 1) (hd.base + 256 * (x.1 + 1)) - lo
    let r := lo - hd.base - 256 * x.1
    (engRead s q c false (x.2 + r * row) (n * row)).bind fun k s =>
    (engRead s q c false (x.2 + (256 + r) * row) (n * row)).bind fun v s =>
      .ok (l ++ [{ first := lo, n := n, k := k, v := v }]) s) pages [] s

/-- The query position block: Q_POS and Q_GROUP (R418). -/
def readQPos (s : State) (q : QIdx) (c : Cmd) (qend : Nat) : Rd (Nat × Nat) :=
  (engRead s q c true (up64 qend) 16).bind fun b s =>
    let g := leAt b 4 2
    if 1 ≤ g ∧ g ≤ 256 ∧ leAt b 6 10 = 0 then .ok (leAt b 0 4, g) s else .stop { cause := cBadOperand } s

/-! ## The arithmetic of ATTN (R420, R421) -/

/-- m, l and o of a row, with the flags raised so far. -/
structure AtRow where
  m : Nat
  l : Nat
  o : List Nat
  f : Nat
  deriving DecidableEq, Repr

/-- A KV element times its scale (R420). -/
def kvElem (rz ftz : Bool) (fmt sc w : Nat) : FR :=
  let x := opd ftz fmt w
  let y := mul32 rz ftz x.1 sc
  (y.1, orF x.2 y.2)

/-- The score of a token (R420). -/
def score (rz ftz : Bool) (q k : List FR) (scale : FR) : FR :=
  let d := dotAcc rz ftz true (0, 0) (q.map fun x => (v32 x.1, x.2)) (k.map fun x => (v32 x.1, x.2))
  let r := mul32 rz ftz d.1 scale.1
  (r.1, orF d.2 (orF scale.2 r.2))

/-- A block with at least one used token joins a row: keys and values of its used tokens in ascending order (R420). -/
def atBlock (rz ftz : Bool) (q : List FR) (scale : FR) (toks : List (List FR × List FR)) (x : AtRow) : AtRow :=
  let ss := toks.map fun t => score rz ftz q t.1 scale
  let m2 := ss.foldl (fun acc y => let r := max32 acc.1 y.1; (r.1, orF acc.2 (orF y.2 r.2))) (x.m, x.f)
  let ex (a : Nat) : FR :=
    let d := sub32 rz ftz a m2.1
    let r := exp32 rz ftz true d.1
    (r.1, orF d.2 r.2)
  let c := ex x.m
  let es := ss.map fun y => ex y.1
  let l0 := mul32 rz ftz x.l c.1
  let l := es.foldl (fun acc e => let r := add32 rz ftz acc.1 e.1; (r.1, orF acc.2 (orF e.2 r.2))) (l0.1, orF m2.2 (orF c.2 l0.2))
  let o := (x.o.zipIdx).map fun od =>
    let p := mul32 rz ftz od.1 c.1
    (es.zip toks).foldl (fun acc y =>
      let v := y.2.2.getD od.2 (0, 0)
      let t := mul32 rz ftz y.1.1 v.1
      let r := add32 rz ftz acc.1 t.1
      (r.1, orF acc.2 (orF v.2 (orF t.2 r.2)))) p
  { m := m2.1, l := l.1, o := o.map (·.1), f := (o.map (·.2)).foldl orF l.2 }

/-- The elements of row i of packed rows of n elements. -/
def rowElems (fmt n : Nat) (b : List Byte) (i : Nat) (f : Nat → FR) : List FR :=
  (List.range n).map fun d => f (rawElem fmt b (i * n + d))

/-- Row r of an ATTN: limit is the position below or at which tokens are used, none for all (R419–R421). -/
def atRow (rz ftz : Bool) (dim : Nat) (scale : FR) (hd : KvHead) (kv : List KvBlock) (q : List FR) (limit : Option Nat) : AtRow :=
  kv.foldl (fun x b =>
    let used := match limit with
      | none => b.n
      | some p => min b.n (p + 1 - b.first)
    if used = 0 then x
    else atBlock rz ftz q scale ((List.range used).map fun i =>
      (rowElems hd.fmt dim b.k i (kvElem rz ftz hd.fmt hd.ks), rowElems hd.fmt dim b.v i (kvElem rz ftz hd.fmt hd.vs))) x)
    { m := negInf, l := 0, o := List.replicate dim 0, f := 0 }

/-- The output row: o / l, or +0 where l = +0 (R422, R435). -/
def outRow (rz ftz : Bool) (fmt : Nat) (x : AtRow) : List Byte × Nat :=
  if x.l = 0 then packRow rz ftz fmt (x.o.map fun _ => (0, 0)) else packRow rz ftz fmt (x.o.map fun v => div32 rz ftz v x.l)

/-- The bytes of a triple block (R424). -/
def tripleBlock (w : List Nat) (flags : Nat) (rows : List AtRow) : List Byte :=
  let pad (n : Nat) : Nat := 64 * ((n + 15) / 16) - 4 * n
  let n := rows.length
  leBytes 2 (bits (wd w 5) 0 16) ++ leBytes 2 (bits (wd w 5) 16 16) ++ leBytes 2 (atRows w) ++ leBytes 2 (atDim w) ++
    leBytes 1 flags ++ leBytes 3 0 ++ leBytes 4 (bits (wd w 2) 0 32) ++ leBytes 4 (bits (wd w 2) 32 32) ++ leBytes 44 0 ++
    (rows.flatMap fun x => leBytes 4 x.m) ++ leBytes (pad n) 0 ++ (rows.flatMap fun x => leBytes 4 x.l) ++ leBytes (pad n) 0 ++
    rows.flatMap fun x => x.o.flatMap (leBytes 4)

/-- ATTN (R414–R424). (DEDUCED, log entry 73) -/
def attnBody (s : State) (q : QIdx) (c : Cmd) : Rd Bool :=
  let w := c.words
  let h := c.hdr
  let rows := atRows w
  let dim := atDim w
  let fq := fmt4 (wd w 0)
  let qva := va48 (wd w 0)
  let qn := rows * dim * eBytes fq
  let fo := fmt4 (wd w 3)
  let triple := bit h.subop 0
  let outLen := if triple then tripleBytes rows dim else rows * dim * eBytes fo
  (readKvHead s q c).bind fun hd s =>
  (engRead s q c false qva qn).bind fun qb s =>
  (if bit h.subop 1 then (readQPos s q c (qva + qn)).bind fun p s => .ok (some p) s else .ok none s).bind fun pos s =>
  (readKv s q c hd).bind fun kv s =>
  (checkAll s q c [] [(va48 (wd w 3), outLen)]).bind fun _ s =>
    let scale := opd h.ftz 0 (atScale w)
    let limits := (List.range rows).map fun r => pos.map fun p => p.1 + r / p.2
    let res := limits.zipIdx.map fun x => atRow h.rz h.ftz dim scale hd kv (rowElems fq dim qb x.2 (opd h.ftz fq)) x.1
    let f1 := (res.map (·.f)).foldl orF 0
    let outs := res.map (outRow h.rz h.ftz fo)
    let flags := if triple then [f1] else (res.zip outs).map fun x => orF x.1.f x.2.2
    let bytes := if triple then tripleBlock w f1 res else outs.flatMap (·.1)
    (engWrite s q c 0 (va48 (wd w 3)) bytes).bind fun _ s =>
      let p := engPage (qEng q)
      let n := bits (wd w 2) 32 32
      let empty := (limits.filter fun l => match l with
        | some x => decide (x < bits (wd w 2) 0 32)
        | none => false).length
      let s := (((s.count p 0x080 1).count p 0x088 n).count p 0x090 kv.length).count p 0x0A0 empty
      .ok true (flags.zipIdx.foldl (fun s x => s.addFlags q c x.2 x.1) (if triple then s.count p 0x098 1 else s))

/-! ## COMBINE (R428–R437) -/

/-- The group of a COMBINE is opened (R430): what was recorded at or above SPANS goes. -/
def openGroup (s : State) (h : Hub) (g spans : Nat) : State :=
  let x := s.cbGrp h g
  let drop := (mkeys x.spans).filter fun k => spans ≤ k
  let s := if drop.isEmpty then s else s.count (cbPage h) 0x0A0 drop.length
  s.modCbGrp h g fun x =>
    { st := .opened, limit := spans, spans := x.spans.filter fun e => decide (e.1 < spans)
      fail := match x.fail with
        | some k => if k < spans then some k else none
        | none => none }

/-- A triple as it is read: M, L and O of each row, with DI for its subnormal numbers (R256). -/
def tripleRows (rows dim : Nat) (b : List Byte) : List AtRow :=
  let z := 64 * ((rows + 15) / 16)
  (List.range rows).map fun r =>
    let m := leAt b (64 + 4 * r) 4
    let l := leAt b (64 + z + 4 * r) 4
    let o := (List.range dim).map fun d => leAt b (64 + 2 * z + 4 * (r * dim + d)) 4
    { m := m, l := l, o := o, f := (o.map (subF f32)).foldl orF (orF (subF f32 m) (subF f32 l)) }

/-- A row of a further triple joins (R435). -/
def mergeRow (rz : Bool) (x y : AtRow) : AtRow :=
  if y.m = negInf then { x with f := orF x.f y.f }
  else if x.m = negInf then { y with f := orF x.f y.f }
  else
    let m2 := max32 x.m y.m
    let ex (a : Nat) : FR :=
      let d := sub32 rz false a m2.1
      let r := exp32 rz false true d.1
      (r.1, orF d.2 r.2)
    let a := ex x.m
    let b := ex y.m
    let mix (u v : Nat) : FR :=
      let p := mul32 rz false u a.1
      let t := mul32 rz false v b.1
      let r := add32 rz false p.1 t.1
      (r.1, orF p.2 (orF t.2 r.2))
    let l := mix x.l y.l
    let o := (x.o.zip y.o).map fun p => mix p.1 p.2
    { m := m2.1, l := l.1, o := o.map (·.1), f := (o.map (·.2)).foldl orF (orF (orF (orF x.f y.f) m2.2) (orF (orF a.2 b.2) l.2)) }

/-- Rows as numbers, and back. -/
def flatRows (l : List AtRow) : List Nat := l.flatMap fun x => x.f :: x.m :: x.l :: x.o
def unflatRows (rows dim : Nat) (l : List Nat) : List AtRow :=
  (List.range rows).map fun r =>
    let x := slice l (r * (dim + 3)) (dim + 3)
    { f := x.getD 0 0, m := x.getD 1 0, l := x.getD 2 0, o := x.drop 3 }

/-- Slot k of a COMBINE's buffer is read and merged (R434, R435). -/
def mergeSpan (s : State) (q : QIdx) (c : Cmd) (k : Nat) : Rd Unit :=
  let w := c.words
  let rows := bits (wd w 0) 32 16
  let dim := bits (wd w 0) 48 16
  let n := tripleBytes rows dim
  let va := wd w 1 + k * n
  (engLook s q c true false va n).bind fun l _ =>
    if l.any fun x => decide (destHub s x.pa ≠ (s.boot.pos.val, (qHub q).val)) || !tripleMem s x.pa then
      .stop { cause := cBadOperand, va := va } s
    else (engRead s q c false va n).bind fun b s =>
      if leAt b 0 2 ≠ k ∨ leAt b 2 2 ≠ bits (wd w 0) 0 16 ∨ leAt b 4 2 ≠ rows ∨ leAt b 6 2 ≠ dim then
        .stop { cause := cBadOperand, va := va } s
      else
        let t := tripleRows rows dim b
        let x := if k = 0 then t else
          ((unflatRows rows dim (s.cmdNow q c).acc).zip t).map fun p => mergeRow c.hdr.rz p.1 p.2
        let s := s.modCmd q c.seq fun y => { y with acc := flatRows x, merged := k + 1, rdata := [], need := [] }
        .ok () (s.count (cbPage (qHub q)) 0x0B0 1)

/-- Spans that have arrived are merged in order (R434). -/
def mergeOn (q : QIdx) (c : Cmd) (g spans : Nat) : Nat → State → Rd Unit
  | 0, s => .ok () s
  | fuel + 1, s =>
    let k := (s.cmdNow q c).merged
    if k < spans ∧ mget false (s.cbGrp (qHub q) g).spans k then (mergeSpan s q c k).bind fun _ s => mergeOn q c g spans fuel s
    else .ok () s

/-- The output rows of a COMBINE are made ready one after the other. -/
def prepRows (q : QIdx) (c : Cmd) (va stride : Nat) (rows : List (List Byte)) (s : State) : Rd (List Wr1) :=
  Rd.fold (fun (l : List Wr1) (x : List Byte × Nat) s => (engPrep s q c x.2 (va + x.2 * stride) x.1).bind fun y s => .ok (l ++ [y]) s)
    rows.zipIdx [] s

/-- COMBINE (R227, R228, R430–R436). (DEDUCED, log entry 72) -/
def combineBody (s : State) (q : QIdx) (c : Cmd) : Rd Bool :=
  let w := c.words
  let h := qHub q
  let g := bits (wd w 0) 0 16
  let spans := bits (wd w 0) 16 16
  let rows := bits (wd w 0) 32 16
  let dim := bits (wd w 0) 48 16
  let st := (s.cbGrp h g).st
  if !c.marked ∧ (st = .opened ∨ st = .stale) then .wait (s.modCmd q c.seq fun y => y.beginStall cCombineFull s.now)
  else
    let s := if c.marked then s else
      let s := openGroup s h g spans
      putThrottled s q { runStall s q (s.cmdNow q c) with marked := true, merged := 0 }
    if (s.cbGrp h g).fail.isSome then .stop { cause := cFetchFailed } s
    else
      (mergeOn q c g spans (spans + 1) s).bind fun _ s =>
        let y := s.cmdNow q c
        if y.merged < spans then .wait (s.modCmd q c.seq fun y => y.beginStall cLateFabric s.now)
        else
          let s := putThrottled s q (runStall s q (s.cmdNow q c))
          let outs := (unflatRows rows dim y.acc).map fun x =>
            let o := outRow c.hdr.rz false (fmt4 (wd w 2)) x
            (o.1, orF x.f o.2)
          (prepRows q c (va48 (wd w 2)) (wd w 3) (outs.map (·.1)) s).bind fun l s =>
          (engCommit s q c l).bind fun _ s =>
            .ok true ((outs.zipIdx.foldl (fun s x => s.addFlags q c x.2 x.1.2) s).count (cbPage h) 0x0A8 1)

/-! ## Meanings -/

/-- R414–R427. -/
def execAttn (q : QIdx) (t : Nat) (s : State) : Host.Outcome State Fault Refusal := opRow opAttn attnBody q 1 t s
/-- R428–R437. -/
def execCombine (q : QIdx) (t : Nat) (s : State) : Host.Outcome State Fault Refusal := opRow opCombine combineBody q 1 t s

end Sys2Proof.Machine
end

