-- ==== Sys2Proof/Machine/Links.lean ====
section
/-! DEFINITION. Recovery of die links and frame half-links (R568–R571), training and loss of half-links (R23, R25, R43, R549, R550),
and what a position that becomes DOWN ends (R321, R580). -/

namespace Sys2Proof.Machine

/-! ## A link and its two ends -/

/-- Both ends of a die link, the hub end first, where the package has such a link (R37). -/
def dlkEnds (a b : DieId) : Option (DieId × DieId) :=
  dieLinks.find? fun l => decide (l = (a, b) ∨ l = (b, a))

/-- A link as the rest of the model names it: a die link by its hub end; none where the package has no such link. -/
def theLink : LinkId → Option LinkId
  | .dlk a b => (dlkEnds a b).map fun l => .dlk l.1 l.2
  | .flk h j => some (.flk h j)

/-- The recovery state of a link, at both ends of a die link. -/
def State.modLink (s : State) (l : LinkId) (f : Lnk → Lnk) : State :=
  match l with
  | .dlk a b => (s.modDlk a b fun d => { d with lnk := f d.lnk }).modDlk b a fun d => { d with lnk := f d.lnk }
  | .flk h j => s.modFport h j fun x => { x with lnk := f x.lnk }

/-- The recovery state that a link shows. -/
def lnkOf (s : State) : LinkId → Lnk
  | .dlk a b => (s.dlk a b).lnk
  | .flk h j => (s.fport h j).lnk

/-- Recovery events that links count (R572). -/
inductive LinkEvent where
  | episode | exhausted | retrain | failure
  deriving DecidableEq, Repr

/-- The page of a frame-link block. -/
def flkPage (h : Hub) : Nat := pgKey h.val ixFlk

/-- A recovery event is counted at both ends of a die link, or by the hub die of a half-link, which has no count of failures.
(DEDUCED, log entry 99) -/
def linkCount (s : State) (l : LinkId) (e : LinkEvent) : State :=
  match l with
  | .dlk a b =>
    let off := match e with | .episode => 0x080 | .exhausted => 0x088 | .retrain => 0x090 | .failure => 0x098
    (s.count (pgKey a.val (ixDlk + b.val)) off 1).count (pgKey b.val (ixDlk + a.val)) off 1
  | .flk h _ =>
    match e with
    | .episode => s.count (flkPage h) 0x0C8 1
    | .exhausted => s.count (flkPage h) 0x0D0 1
    | .retrain => s.count (flkPage h) 0x0D8 1
    | .failure => s

/-- A replay or retrain that succeeds is a corrected error of the dies at the link's ends (R564). -/
def linkCorrected (s : State) (l : LinkId) : State :=
  match l with
  | .dlk a b => corrected (corrected s a.val) b.val
  | .flk h _ => corrected s h.val

/-! ## Commands that wait on a link (R168, R568) -/

/-- Every command under way, with its queue. -/
def runningCmds (s : State) : List (QIdx × Cmd) :=
  s.queues.flatMap fun (k, x) => (x.cmds.filter underWay).map fun c => ((Fin.ofNat 1024 k : QIdx), c)

/-- The commands whose transfers a link that now recovers holds up wait on it. -/
def stallsBegin (s : State) : State := (runningCmds s).foldl (fun s p => putCmd s p.1 (linkStall s p.1 p.2)) s

/-- What delays a command that waits on no link any more. -/
def afterLink (s : State) (q : QIdx) (c : Cmd) : Cmd :=
  let c := runStall s q c
  if c.hdr.knot && c.performed then c.beginStall cKnotHold s.now
  else if c.hdr.opcode = opWait then c.beginStall cWaitSignal s.now else c

/-- The commands that waited on links and do so no more go on. -/
def stallsEnd (s : State) : State :=
  (runningCmds s).foldl (fun s p =>
    if (p.2.stallNow.map (·.1)) = some cLinkReplay ∧ !onBadLink s p.1 p.2 then
      putThrottled s p.1 { afterLink s p.1 p.2 with linkWait := [] }
    else s) s

/-! ## A position becomes DOWN (R321, R580) -/

/-- Whether a frame address lies in the window of position p. -/
def inWindow (p : Pos) (a : Nat) : Bool := decide (posOf a = p.val)

/-- A command that waits for a position that has become DOWN ends. -/
def cmdLost (s : State) (p : Pos) (q : QIdx) (c : Cmd) : State :=
  if !c.open_.any (inWindow p) then s
  else if updated c then endCmd s q c .ok 0 0xFFFF 0 0
  else
    let u := c.unacked.find? fun u => inWindow p u.1
    let a := (c.open_.find? (inWindow p)).getD 0
    endCmd (timerRace s q c) q c .failed cPosDown (stopIdx c) ((u.map fun u => u.2.2.2).getD 0) a

/-- A completion record on its way to a position that has become DOWN cannot be written (R161). (DEDUCED, log entry 102) -/
def recLost (s : State) (p : Pos) (q : QIdx) : State :=
  let x := s.queue q
  match x.cmds.head? with
  | some c =>
    if !c.recSent then s
    else match xlate s (qHub q) x.ctx (x.cmplBase.toNat + 32 * (c.seq.toNat % x.depth)) false true with
      | .ok pa _ => if inWindow p pa then finishRecord s q c false else s
      | .fault _ _ => s
  | none => s

/-- What queue q awaits from a position that has become DOWN. -/
def queueLost (s : State) (p : Pos) (q : QIdx) : State :=
  let s := ((s.queue q).cmds.filter underWay).foldl (fun s c => cmdLost s p q c) s
  let s := recLost s p q
  let x := s.queue q
  match x.fetchNeed.find? fun y => inWindow p y.1 with
  | some y => s.modQueue q fun x => { x with
      fetchNeed := x.fetchNeed.filter fun z => !inWindow p z.1, fetchFail := some (y.1, .posDown) }
  | none => s

/-- The fetches of a creel that await data from the position fail. -/
def creelLost (s : State) (p : Pos) (e : Fin 16) : State :=
  (s.creel e).fetches.foldl (fun s y =>
    match y.2 with
    | some f => if f.st = .filling ∧ f.need.any (fun z => inWindow p z.1) then fetchFail (fetchRace s (s.creel e) f) e y.1 f 5 else s
    | none => s) s

/-- The stores of a core that the position has not acknowledged fail, oldest first. -/
def coreStoresLost (s : State) (p : Pos) (c : CoreId) : Nat → State
  | 0 => s
  | n + 1 =>
    match (s.core c).sb.zipIdx.find? fun y => y.1.sent && decide (y.1.pos = p.val) with
    | some (_, i) => coreStoresLost (sbFail s c i .posDown) p c n
    | none => s

/-- What a core awaits from the position fails. -/
def coreLost (s : State) (p : Pos) (c : CoreId) : State :=
  let s := coreStoresLost s p c (s.core c).sb.length
  let asked (x : CoreAsk) : Bool := x.need.any fun y => inWindow p y.2.1
  let s := if (s.core c).cmu.any (fun b => asked b.ask) then cmuFails s c asked cPosDown else s
  match (s.core c).pendLoad with
  | some (a, _) => if asked (s.core c).ask then pendFails s c { cls := cPosDown, addr := a.addr } else s
  | none => s

/-- What a host port awaits from the position ends (R600). -/
def hostLost (s : State) (p : Pos) (k : Port) : State :=
  let s := ((s.hlk k).pend.filter fun x => x.need.any fun y => inWindow p y.1).foldl (fun s x =>
    readAnswer (hostPosDown (dropPend s k x.tag) k (some x.fn) (((x.need.find? fun y => inWindow p y.1).map (·.1)).getD 0)) k x.tag stCa x.cxl []) s
  let lost := (s.hlk k).posted.filter fun y => inWindow p y.2.1
  let s := lost.foldl (fun s y => hostPosDown s k (vfFn s k y.1) y.2.1) s
  s.modHlk k fun x => { x with posted := x.posted.filter fun y => !inWindow p y.2.1 }

/-- Position p has become DOWN. -/
def posLost (s : State) (p : Pos) : State :=
  let s := (s.queues.map fun e => (Fin.ofNat 1024 e.1 : QIdx)).foldl (fun s q => queueLost s p q) s
  let s := (List.finRange 16).foldl (fun s e => creelLost s p e) s
  let s := (s.cores.map fun e => (Fin.ofNat 96 e.1 : CoreId)).foldl (fun s c => coreLost s p c) s
  let s := (List.finRange 4).foldl (fun s k => hostLost s p k) s
  knotRun (knotRun (knotDropPos (knotDropPos s 0 p) 1 p) 0) 1

/-! ## The end of a fatal stop (R585) -/

/-- Every frame link goes to electrical idle, and every position that was reached is DOWN (R25, R580, R585). -/
def linksIdle (s : State) : State :=
  let was := (List.finRange 7).filter fun j => linkUp s 0 j || linkUp s 1 j
  let s := bothHubs.foldl (fun s h => (List.finRange 7).foldl (fun s j =>
    s.modFport h j fun x => { x with width := 0, lnk := { x.lnk with st := .down } }) s) s
  was.foldl (fun s j => posLost s (farOf s.boot.pos j)) s

/-- After the commit of both hub dies in a FATAL package: the frame links go idle and the dump is written (R585). (DEDUCED, log entry 66) -/
def fatalEnd (s : State) : State :=
  if s.mgt.fatal && s.doff.done && !s.mgt.dumped then writeDump (linksIdle s) else s

/-! ## Half-links (R23, R25, R43, R44, R570) -/

/-- The transfers that the package has under way to a position over hub die h's half-link. -/
def openOn (s : State) (h : Hub) (p : Pos) : Nat :=
  let on (a : Nat) : Bool := inWindow p a && decide ((destHub s a).2 = h.val)
  let sum (l : List Nat) : Nat := l.sum
  sum (s.queues.map fun e => ((e.2.cmds.flatMap Cmd.open_).filter on).length + (e.2.fetchNeed.filter fun y => on y.1).length) +
    sum (s.creels.map fun e => sum (e.2.fetches.map fun y => match y.2 with
      | some f => (f.need.filter fun z => on z.1).length
      | none => 0)) +
    sum (s.cores.map fun e => (e.2.sb.filter fun y => y.sent && on y.acc.addr).length +
      ((e.2.ask.need ++ e.2.cmu.flatMap fun b => b.ask.need).filter fun y => on y.2.1).length) +
    sum (s.hlks.map fun e => (e.2.posted.filter fun y => on y.2.1).length +
      sum (e.2.pend.map fun x => (x.need.filter fun y => on y.1).length))

/-- A half-link goes down: its transfers are resent on the other one, or the position is DOWN. -/
def halfDown (s : State) (h : Hub) (j : FPort) : State :=
  if !linkUp s h j then s
  else
    let p := farOf s.boot.pos j
    let other : Hub := 1 - h
    let n := openOn s h p
    let s := s.modFport h j fun x => { x with width := 0, lnk := { x.lnk with st := .down, fails := 0 } }
    if linkUp s other j then stallsEnd (if n = 0 then s else s.count (flkPage other) 0x0E0 n)
    else posLost s p

/-- Failed lanes of a half-link. -/
def failedLanes (f : BitVec 9) : Nat := ((List.range 9).filter fun i => f.getLsbD i).length
/-- WIDTH that failed lanes leave: 2 full, 1 half, 0 down (R43). -/
def widthOf (f : BitVec 9) : Nat := let n := failedLanes f; if n ≤ 1 then 2 else if n ≤ 4 then 1 else 0
/-- The lane that the spare replaces, 0xFF where it replaces none (R43). -/
def spareOf (f : BitVec 9) : Byte :=
  if failedLanes f = 1 then BitVec.ofNat 8 (((List.range 8).find? fun i => f.getLsbD i).getD 0xFF) else 0xFF
/-- The lanes of a half-link after training. -/
def setLanes (x : FlkPort) (f : BitVec 9) : FlkPort := { x with width := widthOf f, failed := f, spareFor := spareOf f }

/-- Whether frame links may train: from the end of step 2, until the package is FATAL (R549, R585). (DEDUCED, log entry 101) -/
def mayTrain (s : State) : Bool := (decide (3 ≤ s.boot.step) || s.boot.ready) && !fatalState s

/-- What training sends to the far end of a half-link: the own position (R23), READY and the cycle count (R80). -/
def sendTrain (s : State) (h : Hub) (j : FPort) : State := s.send (.flkTrain h j s.boot.pos s.boot.ready s.ltu.cycle)

/-- A port that is not up attempts training every 10 ms (R549). -/
def trainTry (s : State) (h : Hub) (j : FPort) : State :=
  let x := (s.fport h j).lnk
  if mayTrain s && !linkUp s h j && !(decide (x.st = .training) && decide (s.now < x.since + ms 10)) then
    sendTrain ((s.modFport h j fun x => { x with lnk := { x.lnk with st := .training, since := s.now } }).count (flkPage h) 0x0C0 1) h j
  else s

/-- What the far end of port j reported stands for both half-links of the port (R80). -/
def farReport (s : State) (j : FPort) (ready : Bool) (cycle : BitVec 48) : State :=
  bothHubs.foldl (fun s h => s.modFport h j fun x => { x with farReady := ready, farCycle := cycle, farAt := s.now }) s

/-- A half-link trains (R23, R25, R43, R80): a wrong far position holds the port, both its half-links, down, and too many failed lanes
the half-link. -/
def linkTrained (s : State) (h : Hub) (j : FPort) (far : Pos) (failed : BitVec 9) (farReady : Bool) (farCycle : BitVec 48) : State :=
  if !mayTrain s || linkUp s h j then s
  else
    let s := if (s.fport h j).lnk.st = .training then s else sendTrain s h j
    if far ≠ farOf s.boot.pos j then
      halfDown (s.modFport h j fun x =>
        { x with mismatch := true, farPos := BitVec.ofNat 3 far.val, lnk := { x.lnk with st := .down } }) (1 - h) j
    else
      let bad := decide (widthOf failed = 0) || (s.fport (1 - h) j).mismatch
      let s := s.modFport h j fun x => { setLanes x failed with farPos := BitVec.ofNat 3 far.val, mismatch := false }
      if bad then s.modFport h j fun x => { x with width := 0, lnk := { x.lnk with st := .down } }
      else adopt (farReport (s.modFport h j fun x => { x with trained := true, lnk := { x.lnk with st := .up, fails := 0 } })
        j farReady farCycle)

/-! ## Replay and retrain (R568–R571) -/

/-- Attempts and time of a replay episode (R568). -/
def replayMax : Nat := 8
def replayTime : Nat := us 12
/-- Attempts of a retrain (R569). -/
def retrainMax : Nat := 3
/-- The longest time of a retrain attempt (R569): one that has not succeeded by then has failed. -/
def retrainTime : LinkId → Nat
  | .dlk _ _ => us 100
  | .flk _ _ => us 500

/-- A transfer has a check error or is lost: a replay episode begins, or makes one more attempt. -/
def linkError (s : State) (l : LinkId) : State :=
  let x := lnkOf s l
  if x.st = .up then
    stallsBegin (linkCount (s.modLink l fun x => { x with st := .replay, attempts := 1, since := s.now }) l .episode)
  else if x.st = .replay ∧ x.attempts < replayMax then s.modLink l fun x => { x with attempts := x.attempts + 1 }
  else s

/-- A replay episode succeeds after a number of attempts. -/
def replayEnd (s : State) (l : LinkId) (attempts : Nat) : State :=
  let x := lnkOf s l
  if x.st = .replay ∧ 1 ≤ attempts ∧ attempts ≤ replayMax ∧ s.now ≤ x.since + replayTime then
    stallsEnd (linkCorrected (s.modLink l fun x => { x with st := .up, attempts := attempts, duration := s.now - x.since }) l)
  else s

/-- A replay episode exhausts its budget: the first retrain attempt begins. -/
def replayFail (s : State) (l : LinkId) : State :=
  let x := lnkOf s l
  if x.st = .replay then
    let s := linkCount (s.modLink l fun x =>
      { x with st := .retrain, attempts := replayMax, duration := s.now - x.since, since := s.now, fails := 0 }) l .exhausted
    linkCount s l .retrain
  else s

/-- A link that has failed all its attempts: a die link is FAILED and fatal, a half-link goes down (R571). (DEDUCED, log entry 100) -/
def linkFails (s : State) (l : LinkId) : State :=
  match l with
  | .dlk a b => fatalEnd (raiseFatal (s.modLink l fun x => { x with st := .failed }) fcDlink (pgKey a.val (ixDlk + b.val)))
  | .flk h j => halfDown s h j

/-- A retrain attempt ends. -/
def retrainEnd (s : State) (l : LinkId) (ok : Bool) (failed : BitVec 9) : State :=
  let x := lnkOf s l
  if x.st ≠ .retrain then s
  else if ok ∧ s.now ≤ x.since + retrainTime l then
    match l with
    | .flk h j =>
      if widthOf failed = 0 then halfDown s h j
      else stallsEnd (linkCorrected (s.modFport h j fun x => { setLanes x failed with lnk := { x.lnk with st := .up, fails := 0 } }) l)
    | .dlk _ _ => stallsEnd (linkCorrected (s.modLink l fun x => { x with st := .up, fails := 0 }) l)
  else
    let s := linkCount s l .failure
    if x.fails + 1 < retrainMax then linkCount (s.modLink l fun x => { x with fails := x.fails + 1, since := s.now }) l .retrain
    else linkFails s l

/-- An event of a link that the package has. -/
def onLink (l : LinkId) (f : State → LinkId → State) (s : State) : State := match theLink l with | some l => f s l | none => s

/-! ## Meanings -/

/-- R549. -/
def execFrameLinkTrainAttempt (h : Hub) (j : FPort) (t : Nat) (s : State) : Host.Outcome State Fault Refusal :=
  onwardAt s t fun s => trainTry s h j
/-- R23, R25, R43, R80. -/
def execFrameLinkTrained (h : Hub) (j : FPort) (farPos : Pos) (failed : BitVec 9) (farReady : Bool) (farCycle : BitVec 48)
    (s : State) : Host.Outcome State Fault Refusal := onward s fun s => linkTrained s h j farPos failed farReady farCycle
/-- R25, R44, R580. -/
def execFrameLinkLost (h : Hub) (j : FPort) (t : Nat) (s : State) : Host.Outcome State Fault Refusal :=
  onwardAt s t fun s => halfDown s h j
/-- R568. -/
def execLinkTransferError (l : LinkId) (t : Nat) (s : State) : Host.Outcome State Fault Refusal := onwardAt s t (onLink l linkError)
/-- R569. -/
def execReplayExhausted (l : LinkId) (t : Nat) (s : State) : Host.Outcome State Fault Refusal := onwardAt s t (onLink l replayFail)
/-- R569–R571. -/
def execLinkRetrainDone (l : LinkId) (ok : Bool) (failed : BitVec 9) (t : Nat) (s : State) : Host.Outcome State Fault Refusal :=
  onwardAt s t (onLink l fun s l => retrainEnd s l ok failed)
/-- R568. -/
def execReplayEpisodeSuccess (l : LinkId) (attempts : Fin 9) (t : Nat) (s : State) : Host.Outcome State Fault Refusal :=
  onwardAt s t (onLink l fun s l => replayEnd s l attempts.val)

end Sys2Proof.Machine
end

