-- ==== Sys2Proof/Machine/Failures.lean ====
section
/-! DEFINITION. The rows of doffing, of fatal errors and of what may end in a fatal stop (R502–R520, R584–R588, R649). -/

namespace Sys2Proof.Machine

/-! ## Meanings: doffing -/

/-- R502. -/
def execPwrWarnAssert (t : Nat) (s : State) : Host.Outcome State Fault Refusal := onwardAt s t doffBegin
/-- R503. -/
def execAdmissionStop (t : Nat) (s : State) : Host.Outcome State Fault Refusal := onwardAt s t doffStop
/-- R507. -/
def execDoffDeadline (t : Nat) (s : State) : Host.Outcome State Fault Refusal := onwardAt s t doffExpire
/-- R511, R515, R517, R585. -/
def execLedgerCommit (h : Hub) (t : Nat) (s : State) : Host.Outcome State Fault Refusal :=
  onwardAt s t fun s => fatalEnd (commitDone (commitHub s h))
/-- R519, R520. -/
def execPwrWarnClear (t : Nat) (s : State) : Host.Outcome State Fault Refusal := onwardAt s t doffClear

/-! ## Meanings: fatal errors -/

/-- R77, R584. -/
def execLtuInternalError (u : Hub) (s : State) : Host.Outcome State Fault Refusal :=
  onward s fun s => fatalEnd (ltuError s u)

/-- R584, R585: the page is that of the detecting block. -/
def execFatalError (code : Fin 9) (d : DieId) (page : Nat) (t : Nat) (s : State) : Host.Outcome State Fault Refusal :=
  onwardAt s t fun s => if code.val = 0 ∨ pageAt d.val page = .none then s else fatalEnd (raiseFatal s code.val (pgKey d.val page))
/-- R584, R649. -/
def execWatchdogExpiry (t : Nat) (s : State) : Host.Outcome State Fault Refusal :=
  onwardAt s t fun s =>
    if s.mgt.wdogEn ∧ s.mgt.kickAt + ms 1000 ≤ s.now ∧ ¬ (s.mgt.fatal ∧ s.mgt.code = 5) then
      fatalEnd (raiseFatal s 5 (pgKey 0 ixMgt))
    else s
/-- R596: DETAIL is written as it stands. -/
def execMgtFatalDeclare (r : Requester) (t : Nat) (s : State) : Host.Outcome State Fault Refusal :=
  onwardAt s t fun s => fatalEnd (pageAccess s r (pgKey 0 ixMgt) 0x100 4 (2 ^ 31 + s.mgt.detail.toNat))

end Sys2Proof.Machine
end

