-- ==== Sys2Proof/Machine/Mgmt.lean ====
section
/-! DEFINITION. The management endpoint (R613–R617): frame-controller messages (R101, R615), PLDM (R614, R616), the boot status block
(R547), the I3C address and the TAP. -/

namespace Sys2Proof.Machine

/-! ## Frame-controller messages (R101, R615) -/

/-- Completion codes of R615. -/
def ccOk : Nat := 0
def ccInvalid : Nat := 1
def ccNotReady : Nat := 2

/-- The response to a message of command cmd. -/
def respond (s : State) (cmd cc : Nat) (payload : List Byte) : State :=
  s.send (.mgmt (leBytes 1 0x7E ++ leBytes 2 Config.pciVendorId.toNat ++ leBytes 1 (cmd ||| 0x80) ++ leBytes 1 cc ++ payload))

/-- A message whose payload is as R101 asks has its effect and is answered OK. (DEDUCED, log entry 106) -/
def message (s : State) (cmd : Nat) (valid : Bool) (act : State → State) (payload : State → List Byte) : State :=
  if !s.boot.mctp then respond s cmd ccNotReady []
  else if !valid then respond s cmd ccInvalid []
  else let s := act s; respond s cmd ccOk (payload s)

/-- Both governors of the package (R101). -/
def bothGovs (s : State) (f : State → Hub → State) : State := f (f s 0) 1

/-- GOV_SET_STEP: the step takes effect at the next update (R101). -/
def setStep (s : State) (p : List Byte) : State :=
  let v := leNat p
  message s 1 (decide (p.length = 1 ∧ 1 ≤ v ∧ v ≤ 40)) (fun s => bothGovs s fun s h => s.modGov h fun g => { g with fcNext := some v })
    fun _ => []

/-- GOV_CUT (R97, R101). -/
def cutMsg (s : State) (p : List Byte) : State :=
  let v := leNat p
  message s 2 (decide (p.length = 2 ∧ v ≤ 1000))
    (fun s => bothGovs s fun s h => cutApply (s.modGov h fun g => { g with cutFc := true, fcLevel := v }) h) fun _ => []

/-- GOV_RELEASE (R99, R101). -/
def releaseMsg (s : State) (p : List Byte) : State :=
  message s 3 p.isEmpty (fun s => bothGovs s fun s h => cutApply (s.modGov h fun g => { g with cutFc := false }) h) fun _ => []

/-- LT_QUERY (R615). -/
def ltQueryMsg (s : State) (p : List Byte) : State :=
  message s 4 p.isEmpty id fun s =>
    let h := s.activeHub
    leBytes 4 (ltuWord s h 0x104) ++ leBytes 8 (ltuNow s.ltu) ++ leBytes 4 (ltuWord s h 0x114) ++
      leBytes 4 (govWord s 0 0x124) ++ leBytes 4 (govWord s 1 0x124)

/-- A message whose CMD is unknown (R615). -/
def unknownMsg (s : State) (m : List Byte) : State :=
  let cmd := leAt m 3 1
  if m.length < 4 ∨ leAt m 0 1 ≠ 0x7E ∨ (1 ≤ cmd ∧ cmd ≤ 4) then s else message s cmd false id fun _ => []

/-! ## PLDM (R614, R616) -/

/-- PLDM is answered from the end of step 4 (R547). (PRESUMED, log entry 30) -/
def pldm (s : State) (f : State → State) : State := if s.boot.mctp then f s else s

/-- A PLDM completion code, then the response data. -/
def pldmAnswer (s : State) (cc : Nat) (data : List Byte) : State := s.send (.mgmt (leBytes 1 cc ++ data))

/-- What a sensor reads (R614): the register that holds it, or the reading of its converter. (DEDUCED, log entry 104) -/
def sensorValue (s : State) (x : SensorId) (reading : Nat) : Nat :=
  match x with
  | .dieTemp d => if 4 ≤ d.val then tdcWord s (Fin.ofNat 8 (d.val - 4)) 0x108 else reading
  | .hankPower h => govWord s h 0x11C
  | .lineFreq => ltuWord s s.activeHub 0x114
  | .supply _ => reading

/-- PLDM completion code of a package that is not ready. -/
def pldmNotReady : Nat := 4
/-- PLDM completion code of a request of invalid length. -/
def pldmBadLength : Nat := 3
/-- PLDM completion code of invalid data. -/
def pldmBadData : Nat := 2
/-- NO_DUMP (R616). -/
def pldmNoDump : Nat := 0x80

/-- A firmware update writes the image slot that does not hold the running image (R614). (DEDUCED, log entry 105) -/
def firmwareUpdate (s : State) (image : List Byte) : State :=
  if s.doff.active || s.doff.done || s.mgt.fatal then pldmAnswer s pldmNotReady []
  else if image.length < 16 ∨ 0x1000000 < image.length then pldmAnswer s pldmBadLength []
  else
    let slot := !(s.boot.runSlot.getD true)
    pldmAnswer { s with mgt := { s.mgt with flash := mput [] (b2n slot) image s.mgt.flash } } 0 []

/-- DUMP_INFO (R616). -/
def dumpInfoMsg (s : State) : State := pldmAnswer s 0 (rawBytes s (mramBase 0 + summaryOff) 4096)

/-- DUMP_READ (R616): the data is trimmed at the dump's LENGTH. -/
def dumpReadMsg (s : State) (off n : Nat) : State :=
  if !dumpPresent s then pldmAnswer s pldmNoDump []
  else if n < 1 ∨ 1024 < n then pldmAnswer s pldmBadData []
  else
    let k := min n (dumpLength s - off)
    pldmAnswer s 0 (leBytes 2 k ++ coherentBytes s (dumpBase s + off) k)

/-- DUMP_RELEASE (R595, R616). -/
def dumpReleaseMsg (s : State) : State :=
  if dumpPresent s then pldmAnswer (dumpRelease s) 0 [] else pldmAnswer s pldmNoDump []

/-! ## Boundary scan and the management pair (R613, R617) -/

/-- IDCODE (R617). -/
def idcode (s : State) : Nat :=
  1 + 2 * Config.jedecId.toNat + 2 ^ 12 * 0x0812 + 2 ^ 28 * (if s.boot.hubGen = 2 then 0 else 1)

/-- The TAP takes an instruction; IDCODE shifts the identity out. -/
def tapTake (s : State) (i : JtagInstr) : State :=
  if !s.boot.power then s
  else
    let s := { s with mgt := { s.mgt with jtag := i } }
    if i = .idcode then s.send (.value (BitVec.ofNat 64 (idcode s))) else s

/-! ## Meanings -/

/-- R101, R615. -/
def execGovSetStep (p : List Byte) (s : State) : Host.Outcome State Fault Refusal := onward s fun s => setStep s p
/-- R101, R615. -/
def execGovCut (p : List Byte) (s : State) : Host.Outcome State Fault Refusal := onward s fun s => cutMsg s p
/-- R101, R615. -/
def execGovRelease (p : List Byte) (s : State) : Host.Outcome State Fault Refusal := onward s fun s => releaseMsg s p
/-- R101, R615. -/
def execLtQuery (p : List Byte) (s : State) : Host.Outcome State Fault Refusal := onward s fun s => ltQueryMsg s p
/-- R615. -/
def execUnknownCmdMessage (m : List Byte) (s : State) : Host.Outcome State Fault Refusal := onward s fun s => unknownMsg s m
/-- R547: the block is answered from power-good on, before any firmware runs. -/
def execBootStatusRead (s : State) : Host.Outcome State Fault Refusal :=
  .next (if s.boot.power then s.send (.mgmt (bootBlock s)) else s)
/-- R614. -/
def execPldmBaseDiscovery (req : List Byte) (s : State) : Host.Outcome State Fault Refusal :=
  onward s fun s => pldm s fun s => s.send (.mgmt (Config.pldmBase req))
/-- R614. -/
def execPldmSensorRead (x : SensorId) (reading : W32) (s : State) : Host.Outcome State Fault Refusal :=
  onward s fun s => pldm s fun s => pldmAnswer s 0 (leBytes 4 (sensorValue s x reading.toNat))
/-- R614. -/
def execPldmFirmwareUpdate (image : List Byte) (s : State) : Host.Outcome State Fault Refusal :=
  onward s fun s => pldm s fun s => firmwareUpdate s image
/-- R616. -/
def execDumpInfo (s : State) : Host.Outcome State Fault Refusal := onward s fun s => pldm s dumpInfoMsg
/-- R616. -/
def execDumpRead (off len : Nat) (s : State) : Host.Outcome State Fault Refusal := onward s fun s => pldm s fun s => dumpReadMsg s off len
/-- R595, R616. -/
def execDumpRelease (s : State) : Host.Outcome State Fault Refusal := onward s fun s => pldm s dumpReleaseMsg
/-- R617. -/
def execJtagInstruction (i : JtagInstr) (s : State) : Host.Outcome State Fault Refusal := .next (tapTake s i)
/-- R613. -/
def execI3cDynamicAddress (a : BitVec 7) (s : State) : Host.Outcome State Fault Refusal :=
  .next (if s.boot.power then { s with mgt := { s.mgt with i3cAddr := some a } } else s)

end Sys2Proof.Machine
end

