-- ==== Sys2Proof/Machine/Points.lean ====
section
/-! DEFINITION. The point commands (R230, R440–R461, R466, R467). -/

namespace Sys2Proof.Machine

/-! ## Voxel keys (R441, R442, R444) -/

/-- The largest voxel coordinate. -/
def coordMax : Nat := 2097151

/-- floor of a finite FP32 number. -/
def floor32 (w : Nat) : Option Int :=
  match v32 w with
  | .zero _ => some 0
  | .fin neg m e => let p := scaleQ m 1 e; some (if neg then -(((p.1 + p.2 - 1) / p.2 : Nat) : Int) else ((p.1 / p.2 : Nat) : Int))
  | _ => none

/-- A coordinate's voxel index, if it is in range, and the flags of its computation (R441, R442). -/
def quantize (c o voxel : Nat) : Option Nat × Nat :=
  let d := sub32 false false c o
  let r := div32 false false d.1 voxel
  let f := orF (orF (subF f32 c) (subF f32 o)) (orF d.2 r.2)
  let f := if (v32 r.1).isNan then orF f fNV else f
  match floor32 r.1 with
  | some x => (if 0 ≤ x ∧ x ≤ (coordMax : Int) then some x.toNat else none, f)
  | none => (none, f)

/-- The key of three voxel indices. -/
def voxelKey (x y z : Nat) : Nat := x + y * 2 ^ 21 + z * 2 ^ 42
/-- The three indices of a key. -/
def keyCoords (k : Nat) : Nat × Nat × Nat := (bits k 0 21, bits k 21 21, bits k 42 21)
/-- The home slot of a key in a table of 2^n slots (R444). -/
def homeSlot (n k : Nat) : Nat :=
  let (x, y, z) := keyCoords k
  (((x * 0xB5C5) ^^^ (y * 0x9E37)) ^^^ (z * 0x7F4B)) % 2 ^ n

/-- The key of a point record about an origin, and the flags (R440–R442). -/
def pointKey (pt org : List Byte) (voxel : Nat) : Option Nat × Nat :=
  let x := quantize (leAt pt 0 4) (leAt org 0 4) voxel
  let y := quantize (leAt pt 4 4) (leAt org 4 4) voxel
  let z := quantize (leAt pt 8 4) (leAt org 8 4) voxel
  (match x.1, y.1, z.1 with
   | some a, some b, some c => some (voxelKey a b c)
   | _, _, _ => none, orF x.2 (orF y.2 z.2))

/-! ## Probes (R443–R445) -/

/-- What a probe sequence ends with. -/
inductive Probe where
  | found (slot value : Nat)
  | empty (slot : Nat)
  | full
  deriving DecidableEq, Repr

/-- Probes of a key from probe i on, at most fuel of them: the answer and how many slots were read. -/
def probeFrom (q : QIdx) (c : Cmd) (key : Nat) : Nat → Nat → State → Rd (Probe × Nat)
  | 0, i, s => .ok (.full, i) s
  | fuel + 1, i, s =>
    let n := bits (wd c.words 1) 0 5
    let slot := (homeSlot n key + i) % 2 ^ n
    (engRead s q c true (wd c.words 0 + 16 * slot) 16).bind fun b s =>
      let k := leAt b 0 8
      if !bit k 63 then .ok (.empty slot, i + 1) s
      else if k % 2 ^ 63 = key then .ok (.found slot (leAt b 8 8), i + 1) s
      else probeFrom q c key fuel (i + 1) s
/-- The probe of a key (R444). -/
def probe (s : State) (q : QIdx) (c : Cmd) (key : Nat) : Rd (Probe × Nat) := probeFrom q c key 32 0 s

/-- A counter of the PTE page grows. -/
def ptCount (s : State) (q : QIdx) (off n : Nat) : State := if n = 0 then s else s.count (engPage (qEng q)) off n

/-! ## Insert and lookup (R446–R449) -/

/-- The result record of a point (R447). (DEDUCED, log entry 75) -/
def pointResult (pt : List Byte) (key : Option Nat) (slot : Option Nat) (code : Nat) : List Byte :=
  pt ++ leBytes 8 (key.getD (2 ^ 64 - 1)) ++ leBytes 4 (slot.getD 0xFFFFFFFF) ++ leBytes 1 code ++ leBytes 3 0

/-- Element k of PT_INSERT and PT_LOOKUP (R447–R449). -/
def pointBody (s : State) (q : QIdx) (c : Cmd) : Rd Bool :=
  let w := c.words
  let k := c.prog
  let ins := decide (c.hdr.opcode = opInsert)
  let res := wd w 4 + 32 * k
  (engRead s q c true (wd w 2 + 16 * k) 16).bind fun pt s =>
  (engRead s q c true (wd w 5) 16).bind fun org s =>
    let (key, f) := pointKey pt org (bits (wd w 1) 32 32)
    let finish (s : State) (l : List Wr1) (slot : Option Nat) (code probes : Nat) : Rd Bool :=
      (engPrep s q c k res (pointResult pt key slot code)).bind fun x s =>
      (engCommit s q c (l ++ [x])).bind fun _ s =>
        let s := ptCount (ptCount (ptCount s q 0x080 1) q 0x088 probes) q 0x090 (b2n (decide (code = 5)))
        let s := ptCount (ptCount s q 0x098 (b2n (decide (code = 6)))) q 0x0A0 (b2n (decide (code = 3 ∨ code = 4)))
        nextPiece (s.addFlags q c k f) q c k (bits (wd w 3) 0 16)
    match key with
    | none => finish s [] none 6 0
    | some key =>
      (probe s q c key).bind fun p s =>
        match p.1 with
        | .found slot v =>
          if ins then
            let v' := if v % 2 ^ 32 = 2 ^ 32 - 1 then v else v + 1
            (engPrep s q c k (wd w 0 + 16 * slot + 8) (leBytes 8 v')).bind fun x s => finish s [x] (some slot) 1 p.2
          else finish s [] (some slot) 2 p.2
        | .empty slot =>
          if ins then
            (engPrep s q c k (wd w 0 + 16 * slot) (leBytes 8 (2 ^ 63 + key) ++ leBytes 8 1)).bind fun x s =>
              finish s [x] (some slot) 0 p.2
          else finish s [] none 3 p.2
        | .full => finish s [] none (if ins then 5 else 4) p.2

/-! ## Neighbour search (R452–R457) -/

/-- The keys of the voxels around a key within reach c on every axis, in scan order (R453). -/
def nearKeys (key c : Nat) : List Nat :=
  let (x, y, z) := keyCoords key
  let axis (v : Nat) : List Nat := ((List.range (2 * c + 1)).filter fun i => decide (c ≤ v + i ∧ v + i - c ≤ coordMax)).map fun i => v + i - c
  (axis z).flatMap fun z => (axis y).flatMap fun y => (axis x).map fun x => voxelKey x y z

/-- A candidate: its ID and squared distance (R454). -/
structure Cand where
  id : Nat
  d2 : Nat
  deriving DecidableEq, Repr

/-- The squared distance of a candidate from a query, with flags (R454). -/
def dist2 (p qy : List Byte) : FR :=
  let sq (i : Nat) : FR :=
    let a := leAt p i 4
    let b := leAt qy i 4
    let d := sub32 false false a b
    let m := mul32 false false d.1 d.1
    (m.1, orF (orF (subF f32 a) (subF f32 b)) (orF d.2 m.2))
  let x := sq 0
  let y := sq 4
  let z := sq 8
  let u := add32 false false x.1 y.1
  let r := add32 false false u.1 z.1
  (r.1, orF (orF x.2 y.2) (orF z.2 (orF u.2 r.2)))

/-- The candidates of a query: what the near voxels list, in scan order, with flags and the number of slots read. -/
def candidates (s : State) (q : QIdx) (c : Cmd) (qy : List Byte) (keys : List Nat) : Rd (List Cand × Nat × Nat) :=
  Rd.fold (fun (acc : List Cand × Nat × Nat) key s =>
    (probe s q c key).bind fun p s =>
      match p.1 with
      | .found _ v =>
        (Rd.fold (fun (l : List Cand × Nat) j s =>
          (engRead s q c true (bits v 0 48 + 16 * j) 16).bind fun b s =>
            let d := dist2 b qy
            .ok (l.1 ++ [{ id := leAt b 12 4, d2 := d.1 }], orF l.2 d.2) s) (List.range (bits v 48 16)) (acc.1, acc.2.1) s).bind fun l s =>
          .ok (l.1, l.2, acc.2.2 + p.2) s
      | _ => .ok (acc.1, acc.2.1, acc.2.2 + p.2) s) keys ([], 0, 0) s

/-- Whether D2 ≤ bound; a NaN is never within reach (R454). -/
def within (d2 bound : Nat) : Bool := !(v32 d2).isNan && !(v32 bound).isNan && decide (cmpFV (v32 d2) (v32 bound) ≠ .gt)

/-- The order of PT_KNN (R456). -/
def nearer (a b : Cand) : Bool := decide (a.d2 < b.d2 ∨ (a.d2 = b.d2 ∧ a.id ≤ b.id))

/-- The record of a query (R457). -/
def searchResult (k code trunc cand : Nat) (l : List Cand) : List Byte :=
  leBytes 2 l.length ++ leBytes 1 code ++ leBytes 1 trunc ++ leBytes 4 (cand % 2 ^ 32) ++
    (l ++ List.replicate (k - l.length) ({ id := 0xFFFFFFFF, d2 := 0x7F800000 } : Cand)).flatMap fun (x : Cand) => leBytes 4 x.id ++ leBytes 4 x.d2

/-- Query i of PT_BALL and PT_KNN (R452–R457). -/
def searchBody (s : State) (q : QIdx) (c : Cmd) : Rd Bool :=
  let w := c.words
  let i := c.prog
  let n := bits (wd w 3) 0 16
  let k := bits (wd w 3) 16 8
  let rad := bits (wd w 5) 0 32
  let res := wd w 4 + i * (8 + 8 * k)
  (engRead s q c true (wd w 2 + 32 * i) 12).bind fun qy s =>
  (engRead s q c true (wd w 2 + 32 * i + 16) 8).bind fun kb s =>
    let key := leNat kb
    let range := bit key 63
    (candidates s q c qy (if range then [] else nearKeys key (reach rad (bits (wd w 1) 32 32)))).bind fun r s =>
      let bound := mul32 false false rad rad
      let inside := r.1.filter fun x => within x.d2 bound.1
      let ball := decide (c.hdr.opcode = opBall)
      let kept := (if ball then inside else sortBy nearer inside).take k
      let trunc := b2n (ball && decide (k < inside.length))
      (engWrite s q c i res (searchResult k (if range then 6 else 0) trunc r.1.length kept)).bind fun _ s =>
        let s := ptCount (ptCount s q 0x080 1) q 0x088 r.2.2
        let s := ptCount (ptCount (ptCount s q 0x098 (b2n range)) q 0x0A8 r.1.length) q 0x0B0 trunc
        nextPiece (s.addFlags q c i (if range then 0 else orF r.2.1 (orF bound.2 (subF f32 rad)))) q c i n

/-! ## Rulebooks (R458–R461) -/

/-- The input keys of a site by offset index, where they are in range (R459). -/
def siteKeys (key ks st : Nat) : List (Nat × Nat) :=
  let (x, y, z) := keyCoords key
  let half := (ks - 1) / 2
  let at_ (o d : Nat) : Option Nat := if half ≤ st * o + d ∧ st * o + d - half ≤ coordMax then some (st * o + d - half) else none
  (List.range (ks ^ 3)).filterMap fun j =>
    match at_ x (j % ks), at_ y (j / ks % ks), at_ z (j / ks ^ 2) with
    | some a, some b, some d => some (j, voxelKey a b d)
    | _, _, _ => none

/-- Site i of PT_RULEBOOK (R458–R461).  The header is checked with each site, and written when the command has performed its last one.
(DEDUCED, log entry 75) -/
def rulebookBody (s : State) (q : QIdx) (c : Cmd) : Rd Bool :=
  let w := c.words
  let i := c.prog
  let n := bits (wd w 3) 0 16
  let total := c.merged
  let rules := wd w 4
  (engRead s q c true (wd w 2 + 16 * i) 16).bind fun b s =>
    let key := leAt b 0 8
    (Rd.fold (fun (acc : List Byte × Nat) (x : Nat × Nat) s =>
      (probe s q c x.2).bind fun p s =>
        match p.1 with
        | .found _ v => .ok (acc.1 ++ leBytes 4 (v % 2 ^ 32) ++ slice b 8 4 ++ leBytes 1 x.1 ++ leBytes 7 0, acc.2 + p.2) s
        | _ => .ok (acc.1, acc.2 + p.2) s)
      (if bit key 63 then [] else siteKeys key (bits (wd w 1) 8 4) (bits (wd w 1) 12 4)) ([], 0) s).bind fun r s =>
      let m := r.1.length / 16
      let head := leBytes 4 (total + m) ++ leBytes 4 (i + 1) ++ leBytes 56 0
      let outs := (if m = 0 then [] else [(rules + 64 + 16 * total, r.1)]) ++
        (if wd w 5 = 0 then [] else [(wd w 5 + 8 * i, leBytes 4 total ++ leBytes 4 m)])
      (Rd.fold (fun (l : List Wr1) (x : Nat × List Byte) s => (engPrep s q c i x.1 x.2).bind fun y s => .ok (l ++ [y]) s)
        outs [] s).bind fun l s =>
      (engPrep s q c i rules head).bind fun x s =>
      match sharedWait s x.spans with
      | some s => .wait s
      | none =>
      (engCommit s q c l).bind fun _ s =>
        let s := ptCount (ptCount (ptCount s q 0x080 1) q 0x088 r.2) q 0x0B8 m
        let pieces := ((spanPieces x.spans).foldl (fun (a : List (Nat × Acc × List Byte) × List Byte) y =>
          (a.1 ++ [(y.1, y.2.2, a.2.take y.2.1)], a.2.drop y.2.1)) ([], head)).1
        nextPiece (s.modCmd q c.seq fun y => { y with merged := total + m, head := pieces }) q c i n

/-! ## Meanings -/

/-- R448. -/
def execPtInsert (q : QIdx) (n t : Nat) (s : State) : Host.Outcome State Fault Refusal := opRow opInsert pointBody q n t s
/-- R449. -/
def execPtLookup (q : QIdx) (n t : Nat) (s : State) : Host.Outcome State Fault Refusal := opRow opLookup pointBody q n t s
/-- R455. -/
def execPtBall (q : QIdx) (n t : Nat) (s : State) : Host.Outcome State Fault Refusal := opRow opBall searchBody q n t s
/-- R456. -/
def execPtKnn (q : QIdx) (n t : Nat) (s : State) : Host.Outcome State Fault Refusal := opRow opKnn searchBody q n t s
/-- R459. -/
def execPtRulebook (q : QIdx) (n t : Nat) (s : State) : Host.Outcome State Fault Refusal := opRow opRulebook rulebookBody q n t s

end Sys2Proof.Machine
end

