-- ==== Sys2Proof/Machine/Dispatch.lean ====
section
/-! DEFINITION. Which meaning each command has: one arm for each constructor of Instr. -/

namespace Sys2Proof.Machine
open Host

def exec (i : Instr) (s : State) : Host.Outcome State Fault Refusal :=
  match i with
  | .lineTickQualify t => Sys2Proof.Machine.execLineTickQualify t s
  | .ltAdvance t => Sys2Proof.Machine.execLtAdvance t s
  | .waitNoTickFreeRun u t => Sys2Proof.Machine.execWaitNoTickFreeRun u t s
  | .lockLossFreeRun u t => Sys2Proof.Machine.execLockLossFreeRun u t s
  | .dcModeWrite r u v => Sys2Proof.Machine.execDcModeWrite r u v s
  | .ltuCopyMessage transit => Sys2Proof.Machine.execLtuCopyMessage transit s
  | .ltuCopySilenceTimeout => Sys2Proof.Machine.execLtuCopySilenceTimeout s
  | .ltuInternalError u => Sys2Proof.Machine.execLtuInternalError u s
  | .governorUpdate h bg => Sys2Proof.Machine.execGovernorUpdate h bg s
  | .qosBudgetRefresh h => Sys2Proof.Machine.execQosBudgetRefresh h s
  | .dvfsChange h => Sys2Proof.Machine.execDvfsChange h s
  | .telemetrySnapshot => Sys2Proof.Machine.execTelemetrySnapshot s
  | .stepStart h g => Sys2Proof.Machine.execStepStart h g s
  | .ledgerCheckpoint h => Sys2Proof.Machine.execLedgerCheckpoint h s
  | .scrubCredit => Sys2Proof.Machine.execScrubCredit s
  | .scrubGranule sc e => Sys2Proof.Machine.execScrubGranule sc e s
  | .memoryRefresh => Sys2Proof.Machine.execMemoryRefresh s
  | .govSetStep payload => Sys2Proof.Machine.execGovSetStep payload s
  | .govCut payload => Sys2Proof.Machine.execGovCut payload s
  | .govRelease payload => Sys2Proof.Machine.execGovRelease payload s
  | .ltQuery payload => Sys2Proof.Machine.execLtQuery payload s
  | .govCtlCutWrite r h v => Sys2Proof.Machine.execGovCtlCutWrite r h v s
  | .govCutLevelWrite r h v => Sys2Proof.Machine.execGovCutLevelWrite r h v s
  | .doorbell r q v => Sys2Proof.Machine.execDoorbell r q v s
  | .entryAdmit q pwr t => Sys2Proof.Machine.execEntryAdmit q pwr t s
  | .queueEnable r q => Sys2Proof.Machine.execQueueEnable r q s
  | .queueDisable r q => Sys2Proof.Machine.execQueueDisable r q s
  | .queueResume r q => Sys2Proof.Machine.execQueueResume r q s
  | .faultWaitRetry r q t => Sys2Proof.Machine.execFaultWaitRetry r q t s
  | .faultWaitAbandon r q t => Sys2Proof.Machine.execFaultWaitAbandon r q t s
  | .qswClr r q => Sys2Proof.Machine.execQswClr r q s
  | .qmQrst r q t => Sys2Proof.Machine.execQmQrst r q t s
  | .stepGroupEnable r h g => Sys2Proof.Machine.execStepGroupEnable r h g s
  | .stepGroupDisable r h g => Sys2Proof.Machine.execStepGroupDisable r h g s
  | .nop q t => Sys2Proof.Machine.execNop q t s
  | .wait q t => Sys2Proof.Machine.execWait q t s
  | .waitPoll q t => Sys2Proof.Machine.execWaitPoll q t s
  | .signal q t => Sys2Proof.Machine.execSignal q t s
  | .fence q t => Sys2Proof.Machine.execFence q t s
  | .step q t => Sys2Proof.Machine.execStep q t s
  | .matmul q n t => Sys2Proof.Machine.execMatmul q n t s
  | .rbMatmul q n t => Sys2Proof.Machine.execRbMatmul q n t s
  | .vec q n t => Sys2Proof.Machine.execVec q n t s
  | .copy q n t => Sys2Proof.Machine.execCopy q n t s
  | .gather q n t => Sys2Proof.Machine.execGather q n t s
  | .scatter q n t => Sys2Proof.Machine.execScatter q n t s
  | .fill q n t => Sys2Proof.Machine.execFill q n t s
  | .atomic q t => Sys2Proof.Machine.execAtomic q t s
  | .store q t => Sys2Proof.Machine.execStore q t s
  | .creelArm q t => Sys2Proof.Machine.execCreelArm q t s
  | .creelDisarm q t => Sys2Proof.Machine.execCreelDisarm q t s
  | .combine q t => Sys2Proof.Machine.execCombine q t s
  | .attn q t => Sys2Proof.Machine.execAttn q t s
  | .ptInsert q n t => Sys2Proof.Machine.execPtInsert q n t s
  | .ptLookup q n t => Sys2Proof.Machine.execPtLookup q n t s
  | .ptBall q n t => Sys2Proof.Machine.execPtBall q n t s
  | .ptKnn q n t => Sys2Proof.Machine.execPtKnn q n t s
  | .ptRulebook q n t => Sys2Proof.Machine.execPtRulebook q n t s
  | .commandPreempt q t => Sys2Proof.Machine.execCommandPreempt q t s
  | .commandTimeout q seq t => Sys2Proof.Machine.execCommandTimeout q seq t s
  | .commandCompletion q t => Sys2Proof.Machine.execCommandCompletion q t s
  | .remoteWriteArrival w => Sys2Proof.Machine.execRemoteWriteArrival w s
  | .remoteReadRequest rd => Sys2Proof.Machine.execRemoteReadRequest rd s
  | .remoteReadResponse iss addr a data t => Sys2Proof.Machine.execRemoteReadResponse iss addr a data t s
  | .remoteWriteAck iss addr a t => Sys2Proof.Machine.execRemoteWriteAck iss addr a t s
  | .knotWriteArrival p => Sys2Proof.Machine.execKnotWriteArrival p s
  | .knotEndMark m => Sys2Proof.Machine.execKnotEndMark m s
  | .knotCtlFlush r h => Sys2Proof.Machine.execKnotCtlFlush r h s
  | .combineNotice h group span ok => Sys2Proof.Machine.execCombineNotice h group span ok s
  | .cbGrpClr r h => Sys2Proof.Machine.execCbGrpClr r h s
  | .creelFetchIssue e t => Sys2Proof.Machine.execCreelFetchIssue e t s
  | .creelFetchComplete e buf slot t => Sys2Proof.Machine.execCreelFetchComplete e buf slot t s
  | .creelFetchTimeout e buf slot t => Sys2Proof.Machine.execCreelFetchTimeout e buf slot t s
  | .nvmeCompletion h tag status data t => Sys2Proof.Machine.execNvmeCompletion h tag status data t s
  | .coreLoad c a t => Sys2Proof.Machine.execCoreLoad c a t s
  | .coreStore c a data t => Sys2Proof.Machine.execCoreStore c a data t s
  | .coreStorePerformed c n => Sys2Proof.Machine.execCoreStorePerformed c n s
  | .storeError c n cls => Sys2Proof.Machine.execStoreError c n cls s
  | .fenceSl c => Sys2Proof.Machine.execFenceSl c s
  | .fenceRemote c => Sys2Proof.Machine.execFenceRemote c s
  | .ldres c a => Sys2Proof.Machine.execLdres c a s
  | .stcond c a data => Sys2Proof.Machine.execStcond c a data s
  | .coreAccessLinkTimeout c n t => Sys2Proof.Machine.execCoreAccessLinkTimeout c n t s
  | .cmuIssue c n oldest => Sys2Proof.Machine.execCmuIssue c n oldest s
  | .cmuCommit c id t => Sys2Proof.Machine.execCmuCommit c id t s
  | .cmuSquash c id => Sys2Proof.Machine.execCmuSquash c id s
  | .vectorGather c v n => Sys2Proof.Machine.execVectorGather c v n s
  | .vectorScatter c v n t => Sys2Proof.Machine.execVectorScatter c v n t s
  | .hostMemoryRead p vf off len tag t => Sys2Proof.Machine.execHostMemoryRead p vf off len tag t s
  | .hostMemoryWrite p vf off data => Sys2Proof.Machine.execHostMemoryWrite p vf off data s
  | .hostAtomicop p vf off op size operand compare tag => Sys2Proof.Machine.execHostAtomicop p vf off op size operand compare tag s
  | .hostRequestTimeout p tag t => Sys2Proof.Machine.execHostRequestTimeout p tag t s
  | .hostConfigRequest p fn off w tag => Sys2Proof.Machine.execHostConfigRequest p fn off w tag s
  | .functionLevelReset p k t => Sys2Proof.Machine.execFunctionLevelReset p k t s
  | .cxlMemRequest p rq tag => Sys2Proof.Machine.execCxlMemRequest p rq tag s
  | .cxlH2dSnoop p hpa => Sys2Proof.Machine.execCxlH2dSnoop p hpa s
  | .cxlBisnpResponse p line => Sys2Proof.Machine.execCxlBisnpResponse p line s
  | .bootStatusRead => Sys2Proof.Machine.execBootStatusRead s
  | .pldmBaseDiscovery req => Sys2Proof.Machine.execPldmBaseDiscovery req s
  | .pldmSensorRead sensor reading => Sys2Proof.Machine.execPldmSensorRead sensor reading s
  | .pldmFirmwareUpdate image => Sys2Proof.Machine.execPldmFirmwareUpdate image s
  | .dumpInfo => Sys2Proof.Machine.execDumpInfo s
  | .dumpRead off len => Sys2Proof.Machine.execDumpRead off len s
  | .dumpRelease => Sys2Proof.Machine.execDumpRelease s
  | .dumpRel r => Sys2Proof.Machine.execDumpRel r s
  | .jtagInstruction n => Sys2Proof.Machine.execJtagInstruction n s
  | .ssdLinkDrop h ssd t => Sys2Proof.Machine.execSsdLinkDrop h ssd t s
  | .storagePortEnable r h v found => Sys2Proof.Machine.execStoragePortEnable r h v found s
  | .cacheEnable r c => Sys2Proof.Machine.execCacheEnable r c s
  | .cacheDisable r c => Sys2Proof.Machine.execCacheDisable r c s
  | .cacheDrainDone c => Sys2Proof.Machine.execCacheDrainDone c s
  | .cacheMaintWb r c => Sys2Proof.Machine.execCacheMaintWb r c s
  | .cacheMaintInv r c => Sys2Proof.Machine.execCacheMaintInv r c s
  | .cacheMaintWbinv r c => Sys2Proof.Machine.execCacheMaintWbinv r c s
  | .cacheMaintDone c => Sys2Proof.Machine.execCacheMaintDone c s
  | .cacheCarve r c units => Sys2Proof.Machine.execCacheCarve r c units s
  | .carveDone c => Sys2Proof.Machine.execCarveDone c s
  | .cachePreload r c ways => Sys2Proof.Machine.execCachePreload r c ways s
  | .preloadDone c => Sys2Proof.Machine.execPreloadDone c s
  | .gcEnable r e inv => Sys2Proof.Machine.execGcEnable r e inv s
  | .gcDisable r e => Sys2Proof.Machine.execGcDisable r e s
  | .gcInv r e => Sys2Proof.Machine.execGcInv r e s
  | .scrZero r n => Sys2Proof.Machine.execScrZero r n s
  | .scrZeroDone n => Sys2Proof.Machine.execScrZeroDone n s
  | .gddrTransferRetry h off wr => Sys2Proof.Machine.execGddrTransferRetry h off wr s
  | .hankRelease r h t => Sys2Proof.Machine.execHankRelease r h t s
  | .hankDrainTimeout h t => Sys2Proof.Machine.execHankDrainTimeout h t s
  | .hankZeroingDone h => Sys2Proof.Machine.execHankZeroingDone h s
  | .hankAssign r h part => Sys2Proof.Machine.execHankAssign r h part s
  | .partRst r h part t => Sys2Proof.Machine.execPartRst r h part t s
  | .partitionError d page code => Sys2Proof.Machine.execPartitionError d page code s
  | .pwrWarnAssert t => Sys2Proof.Machine.execPwrWarnAssert t s
  | .admissionStop t => Sys2Proof.Machine.execAdmissionStop t s
  | .doffDeadline t => Sys2Proof.Machine.execDoffDeadline t s
  | .ledgerCommit h t => Sys2Proof.Machine.execLedgerCommit h t s
  | .pwrWarnClear t => Sys2Proof.Machine.execPwrWarnClear t s
  | .ledViewRel r h => Sys2Proof.Machine.execLedViewRel r h s
  | .powerGoodLoss => Sys2Proof.Machine.execPowerGoodLoss s
  | .refclkLoss => Sys2Proof.Machine.execRefclkLoss s
  | .pkgResetPin width => Sys2Proof.Machine.execPkgResetPin width s
  | .frameResetPin width => Sys2Proof.Machine.execFrameResetPin width s
  | .softPkgReset r => Sys2Proof.Machine.execSoftPkgReset r s
  | .resetDeassert frame posId memtype => Sys2Proof.Machine.execResetDeassert frame posId memtype s
  | .startSequenceBegin t => Sys2Proof.Machine.execStartSequenceBegin t s
  | .startStepDone h f t => Sys2Proof.Machine.execStartStepDone h f t s
  | .startStepFail reason die detail t => Sys2Proof.Machine.execStartStepFail reason die detail t s
  | .startStepTimeout t => Sys2Proof.Machine.execStartStepTimeout t s
  | .retryBackoffExpiry t => Sys2Proof.Machine.execRetryBackoffExpiry t s
  | .setReady r => Sys2Proof.Machine.execSetReady r s
  | .fwFail r t => Sys2Proof.Machine.execFwFail r t s
  | .engRst r n bits => Sys2Proof.Machine.execEngRst r n bits s
  | .hubEngRst r h cb cph => Sys2Proof.Machine.execHubEngRst r h cb cph s
  | .frameLinkTrainAttempt h j t => Sys2Proof.Machine.execFrameLinkTrainAttempt h j t s
  | .frameLinkTrained h j farPos failed farReady farCycle => Sys2Proof.Machine.execFrameLinkTrained h j farPos failed farReady farCycle s
  | .frameLinkLost h j t => Sys2Proof.Machine.execFrameLinkLost h j t s
  | .linkTransferError l t => Sys2Proof.Machine.execLinkTransferError l t s
  | .replayExhausted l t => Sys2Proof.Machine.execReplayExhausted l t s
  | .linkRetrainDone l ok failed t => Sys2Proof.Machine.execLinkRetrainDone l ok failed t s
  | .fatalError code d page t => Sys2Proof.Machine.execFatalError code d page t s
  | .watchdogExpiry t => Sys2Proof.Machine.execWatchdogExpiry t s
  | .watchdogKick r t => Sys2Proof.Machine.execWatchdogKick r t s
  | .watchdogArm r t => Sys2Proof.Machine.execWatchdogArm r t s
  | .mgtFatalDeclare r t => Sys2Proof.Machine.execMgtFatalDeclare r t s
  | .errLogAck r d => Sys2Proof.Machine.execErrLogAck r d s
  | .errCountRead r d page => Sys2Proof.Machine.execErrCountRead r d page s
  | .cntClear r d page => Sys2Proof.Machine.execCntClear r d page s
  | .intForce r d page v => Sys2Proof.Machine.execIntForce r d page v s
  | .xltInvalidate r h ctx all => Sys2Proof.Machine.execXltInvalidate r h ctx all s
  | .xltInvalidateDone h => Sys2Proof.Machine.execXltInvalidateDone h s
  | .xltContextEnable r h root => Sys2Proof.Machine.execXltContextEnable r h root s
  | .xltContextDisable r h => Sys2Proof.Machine.execXltContextDisable r h s
  | .xltDisableDone h ctx => Sys2Proof.Machine.execXltDisableDone h ctx s
  | .registerWrite r off size v t => Sys2Proof.Machine.execRegisterWrite r off size v t s
  | .powerGood posId memtype t => Sys2Proof.Machine.execPowerGood posId memtype t s
  | .hostLinkUp p speed width cxl => Sys2Proof.Machine.execHostLinkUp p speed width cxl s
  | .replayEpisodeSuccess l attempts t => Sys2Proof.Machine.execReplayEpisodeSuccess l attempts t s
  | .lateWriteWindowEnd q t => Sys2Proof.Machine.execLateWriteWindowEnd q t s
  | .journalDrain h => Sys2Proof.Machine.execJournalDrain h s
  | .i3cDynamicAddress a => Sys2Proof.Machine.execI3cDynamicAddress a s
  | .unknownCmdMessage msg => Sys2Proof.Machine.execUnknownCmdMessage msg s
  | .functionWindowAccess p a tag => Sys2Proof.Machine.execFunctionWindowAccess p a tag s

end Sys2Proof.Machine
end

