-- ==== Sys2Proof/Safety.lean ====
section
/-! DEFINITION. The terms that claims about the package use: a package that works, maps in canonical form, caches that hold what memory
would, memory and registers that a command leaves alone. -/

namespace Sys2Proof.Machine

/-- The package works: powered, and neither reset pin held. -/
def Works (s : State) : Prop := s.alive = true

/-- Every map of the state that commands write and read back is in canonical form. -/
structure Canonical (s : State) : Prop where
  mem    : Memory.wf s.mem = true
  poison : mwf false s.poison = true
  queues : mwf {} s.queues = true
  keys   : ∀ e ∈ s.queues, e.1 < 1024
  blks   : mwf {} s.blks = true
  cores  : mwf {} s.cores = true
  caches : mwf {} s.caches = true
  gcs    : mwf {} s.gcs = true
  creels : mwf {} s.creels = true
  scrubs : mwf {} s.scrubs = true
  dlks   : mwf {} s.dlks = true
  hlks   : mwf {} s.hlks = true
  errs   : mwf {} s.errs = true
  qrst   : mwf 0 s.qrst = true
  qrstRun : mwf 0 s.qrstRun = true
  qsel   : mwf 0 s.qsel = true
  c0End  : mwf 0 s.c0End = true
  arbs   : mwf {} s.arbs = true
  lastAt : mwf (0, 0) s.lastAt = true
  upsets : mwf 0 s.upsets = true
  online : mwf false s.online = true
  scrZero : mwf false s.scrZero = true
  gddrTry : mwf (0, 0, 0) s.gddrTry = true
  stopped : mwf false s.stopped = true
  engRst : mwf false s.engRst = true
  engRef : mwf false s.engRef = true
  cnt    : ∀ p, mwf 0 (s.blk p).cnt = true
  grps   : ∀ h, mwf {} (s.hub h).grps = true
  ports  : ∀ h, mwf {} (s.hub h).flk.ports = true
  cbGrps : ∀ h, mwf {} (s.hub h).cbGrps = true
  seqs   : ∀ h, mwf {} (s.hub h).flk.knot.seqs = true

/-- A cache line of cache number i: it lies in the cache's range, its data is canonical, and a valid sector that is not dirty holds
what memory holds (R350, R351). -/
structure LineOk (s : State) (i : Nat) (l : Line) : Prop where
  inRange : 256 * l.num + 256 ≤ if i < 8 then hbmStack else 0x8000000000
  data    : mwf 0 l.data = true
  clean   : ∀ k < 8, l.has k = true → l.isDirty k = false →
              ∀ j < 32, mget 0 l.data (32 * k + j) = rawByte s (cacheBase i + 256 * l.num + 32 * k + j)

/-- The caches hold what memory would (R130): memory and the map of caches are canonical, and each line of a cache is well formed and
the only one of its number. -/
structure CachesOk (s : State) : Prop where
  mem   : Memory.wf s.mem = true
  map   : mwf {} s.caches = true
  lines : ∀ i < 10, ∀ l ∈ (s.cache i).lines, LineOk s i l
  once  : ∀ i < 10, (s.cache i).lines.Pairwise fun a b => a.num ≠ b.num

/-- Whether unit l, in LOCKED, accepts a candidate that qualifies at cycle t (R57). -/
def lockedAccepts (l : Ltu) (t : Nat) : Prop :=
  ((edgePhase l t).toNat < 0x1000 ∨ 0xF000 ≤ (edgePhase l t).toNat) ∧ ivalOk (t - l.lastAcc.getD 0) = true ∧ l.holdoff = 0

/-- The oldest command c of queue q has its completion record to come, and the 32 bytes of the record lie at span sp of this package's
memory, free to be written (R164, R375, R526). -/
structure RecordReady (s : State) (q : QIdx) (c : Cmd) (sp : Span) : Prop where
  oldest  : ∃ rest, (s.queue q).cmds = c :: rest
  unsent  : c.recSent = false
  journal : (s.hub (qHub q)).led.journal.length < journalCap
  span    : vaCheck s (qHub q) (s.queue q).ctx (.engine q) false true 0
              ((s.queue q).cmplBase.toNat + 32 * (c.seq.toNat % (s.queue q).depth)) 32 = .ok [sp]
  here    : isLocal s sp.pa = true
  memory  : isReg (offOf sp.pa) = false
  aligned : sp.pa % 32 = 0 ∧ sp.n = 32
  free    : memBusy s (offOf sp.pa) = false
  alone   : sharedWait s [sp] = none

/-- Memory, caches and poison marks are as before. -/
def SameMemory (s t : State) : Prop := t.mem = s.mem ∧ t.caches = s.caches ∧ t.poison = s.poison

/-- What runs is as before: queues, cores, creels, the engines' gather caches. -/
def SameWork (s t : State) : Prop := t.queues = s.queues ∧ t.cores = s.cores ∧ t.creels = s.creels ∧ t.gcs = s.gcs

/-- Start, reset, doff and management state are as before. -/
def SameStart (s t : State) : Prop := t.boot = s.boot ∧ t.pins = s.pins ∧ t.doff = s.doff ∧ t.mgt = s.mgt

/-! ## Commands in execution -/

/-- No access in context ctx of hub die h meets a translation that has been changed or removed since the XLT took it (R138, R139). -/
def HeldCurrent (s : State) (h : Hub) (ctx : Nat) : Prop := ∀ va rd wr, oldAnswers s h ctx va rd wr = []

/-- Command c of queue q is in execution and nothing holds it back: it is the next of its queue, its operands are at hand and legal, its
creel lets it go on, its engine has lost nothing of it, no element before waits for an answer, and no command of its engine is about to
start. -/
structure Runs (s : State) (q : QIdx) (c : Cmd) : Prop where
  target : (s.queue q).target = some c
  found  : findCmd s q c.seq = some c
  phase  : c.phase = .running
  begun  : c.startT.isSome = true
  onward : c.paused = false ∧ c.performed = false
  taking : c.waiting = false ∨ lightOp c.hdr = true ∨ ∀ p ∈ engineTargets s (qEng q), p.1 ≠ q → engaged p.2 = false
  body   : c.body.isSome = true
  taken  : accepts (qEngId q) c.hdr.opcode = true
  legal  : checkCmd (qEngId q) s.boot.feat c.dx2 false c.hdr (entryWords c.dx2 c.entry) c.words = none
  creel  : untouched c = false ∨ (creelGate s q c = .go ∧ c.lateCp = none)
  notice : isPartial c.hdr = false ∨ c.knotDst.isSome = true
  alone  : ∀ p ∈ engineTargets s (qEng q), isReady p.2 = false
  sound  : mget 0 s.upsets (cmdKey q c.seq) < 2
  before : (elementIndexed c.hdr.opcode = false ∨ c.unacked = []) ∧ (c.stallNow.map (·.1)) ≠ some cKnotHold
  head   : c.hdr.opcode = opRulebook ∨ c.head = []
  leaves : HeldCurrent s (qHub q) (s.queue q).ctx

/-- The state in which command c of queue q, if it waited, has its engine again. -/
def takenUp (s : State) (q : QIdx) (c : Cmd) : State := if c.waiting then putCmd s q { c with waiting := false } else s

/-- Nothing of memory or of the caches carries poison, and nothing has changed there by itself. -/
def NoPoison (s : State) : Prop := s.poison = [] ∧ (∀ i < 10, ∀ l ∈ (s.cache i).lines, l.poison = 0) ∧ s.upsets = []

/-- No write before it that is not acknowledged, and no link that recovers, keeps an access of the command to spans l waiting; wr tells
that it is a write (R162, R301, R310, R568). -/
structure Ungated (s : State) (q : QIdx) (c : Cmd) (wr : Bool) (l : List Span) : Prop where
  unacked : unackedBlocks s q c l = false
  order   : orderBlocks s q c wr l = false
  links   : linkHeld s q l = []

/-- Command c of queue q may read the n bytes at device virtual address va: they are memory of this package within one granule, which
span sp shows, and none of them has been read before. -/
structure ReadsHere (s : State) (q : QIdx) (c : Cmd) (va n : Nat) (sp : Span) : Prop where
  span   : vaCheck s (qHub q) (s.queue q).ctx (.engine q) true false c.hdr.hint va n = .ok [sp]
  here   : isLocal s sp.pa = true
  memory : isReg (offOf sp.pa) = false
  piece  : 0 < n ∧ sp.n = n ∧ sp.pa % 64 + n ≤ 64
  free   : memBusy s (offOf sp.pa) = false
  unread : c.rdata = [] ∧ c.rfail = none
  gate   : Ungated s q c false [sp]

/-- Command c of queue q, not a knot member and held by no REL mark, may write the n bytes at device virtual address va: they are memory
of this package within one granule, which span sp shows, and no host shares them. -/
structure WritesHere (s : State) (q : QIdx) (c : Cmd) (va n : Nat) (sp : Span) : Prop where
  span   : vaCheck s (qHub q) (s.queue q).ctx (.engine q) false true c.hdr.hint va n = .ok [sp]
  here   : isLocal s sp.pa = true
  memory : isReg (offOf sp.pa) = false
  piece  : 0 < n ∧ sp.n = n ∧ sp.pa % 64 + n ≤ 64
  free   : memBusy s (offOf sp.pa) = false
  alone  : sharedWait s [sp] = none
  plain  : oneHub c.hdr = false ∧ relBlocks s q c = false
  gate   : Ungated s q c true [sp]

/-- The command of queue q with sequence number seq has ended with status OK. -/
def EndedOk (s : State) (q : QIdx) (seq : W32) : Prop := ∃ d, findCmd s q seq = some d ∧ d.phase = .ended ∧ d.status = .ok

/-- After a boundary of command c of queue q: it has ended OK, or goes on from the next boundary. -/
def PassedTo (s : State) (q : QIdx) (seq : W32) (last : Bool) (prog : Nat) : Prop :=
  ∃ d, findCmd s q seq = some d ∧ d.prog = prog ∧ if last then d.phase = .ended ∧ d.status = .ok else d.phase = .running

/-- Coherent memory is as before but for the n bytes at package offset o. -/
def OnlyBytes (s t : State) (o n : Nat) : Prop := ∀ x, (x < o ∨ o + n ≤ x) → coherentByte t x = coherentByte s x

/-- A row of the table that is an engine's command: the row at cycle t, the headers it is for, and what one boundary of it does. -/
structure EngineRow where
  row  : QIdx → Nat → Instr
  mine : Hdr → Bool
  body : State → QIdx → Cmd → Rd Bool

/-- The engine rows of the table, a boundary at a time. -/
def engineRows : List EngineRow :=
  let op (o : Nat) (h : Hdr) : Bool := decide (h.opcode = o)
  [⟨.nop, op opNop, fun s _ _ => .ok true s⟩, ⟨.wait, op opWait, waitBody⟩, ⟨.signal, op opSignal, signalBody⟩,
   ⟨.fence, op opFence, fenceBody⟩, ⟨.step, op opStep, stepBody⟩, ⟨fun q t => .matmul q 1 t, op opMatmul, matmulBody⟩,
   ⟨fun q t => .rbMatmul q 1 t, op opRb, rbBody⟩, ⟨fun q t => .vec q 1 t, op opVec, vecBody⟩,
   ⟨fun q t => .copy q 1 t, op opCopy, copyCmd⟩, ⟨fun q t => .gather q 1 t, op opGather, indexedBody⟩,
   ⟨fun q t => .scatter q 1 t, op opScatter, indexedBody⟩, ⟨fun q t => .fill q 1 t, op opFill, fillBody⟩,
   ⟨.atomic, op opAtomic, atomicBody⟩, ⟨.store, op opStore, storeBody⟩,
   ⟨.creelArm, fun h => decide (h.opcode = opCreel ∧ h.subop ≠ 1), armBody⟩,
   ⟨.creelDisarm, fun h => decide (h.opcode = opCreel ∧ h.subop = 1), disarmBody⟩,
   ⟨.combine, op opCombine, combineBody⟩, ⟨.attn, op opAttn, attnBody⟩,
   ⟨fun q t => .ptInsert q 1 t, op opInsert, pointBody⟩, ⟨fun q t => .ptLookup q 1 t, op opLookup, pointBody⟩,
   ⟨fun q t => .ptBall q 1 t, op opBall, searchBody⟩, ⟨fun q t => .ptKnn q 1 t, op opKnn, searchBody⟩,
   ⟨fun q t => .ptRulebook q 1 t, op opRulebook, rulebookBody⟩]

/-! ## Longer accesses of commands -/

/-- Command c of queue q may read the n bytes at device virtual address va: spans l show them, and all of them are memory of this
package that is free to be read. -/
structure ReadsFrom (s : State) (q : QIdx) (c : Cmd) (va n : Nat) (l : List Span) : Prop where
  spans  : vaCheck s (qHub q) (s.queue q).ctx (.engine q) true false c.hdr.hint va n = .ok l
  here   : ∀ x ∈ l, isLocal s x.pa = true ∧ memBusy s (offOf x.pa) = false
  memory : ∀ y ∈ spanPieces l, isLocal s y.1 = true ∧ isReg (offOf y.1) = false
  gate   : Ungated s q c false l

/-- The coherent bytes that spans of this package show, in order. -/
def spanBytes (s : State) (l : List Span) : List Byte := (spanPieces l).flatMap fun y => coherentBytes s (offOf y.1) y.2.1

/-- The n bytes at device virtual address va, which the command may read, are bs. -/
def ReadsAs (s : State) (q : QIdx) (c : Cmd) (va n : Nat) (bs : List Byte) : Prop :=
  ∃ l, ReadsFrom s q c va n l ∧ spanBytes s l = bs

/-- The command may write the n bytes at va, which spans l show: all of them are memory of this package that is free to be written. -/
structure WritesTo (s : State) (q : QIdx) (c : Cmd) (va n : Nat) (l : List Span) : Prop where
  spans  : vaCheck s (qHub q) (s.queue q).ctx (.engine q) false true c.hdr.hint va n = .ok l
  here   : ∀ x ∈ l, isLocal s x.pa = true ∧ memBusy s (offOf x.pa) = false
  memory : ∀ y ∈ spanPieces l, isLocal s y.1 = true ∧ isReg (offOf y.1) = false
  gate   : Ungated s q c true l

/-- Writes to spans l are made at once: no host shares them, none meets another, and nothing holds the command back. -/
structure Lands (s : State) (q : QIdx) (c : Cmd) (l : List Span) : Prop where
  alone : sharedWait s l = none
  apart : l.Pairwise fun x y => x.pa + x.n ≤ y.pa ∨ y.pa + y.n ≤ x.pa
  plain : oneHub c.hdr = false ∧ relBlocks s q c = false

/-- Coherent memory is as before but for the bytes of spans l. -/
def OnlySpans (s t : State) (l : List Span) : Prop :=
  ∀ o, (∀ y ∈ spanPieces l, o < offOf y.1 ∨ offOf y.1 + y.2.1 ≤ o) → coherentByte t o = coherentByte s o

/-- Nothing that the command reads has been read before, and no write of it is unacknowledged. -/
structure Fresh (c : Cmd) : Prop where
  unread : c.rdata = [] ∧ c.rfail = none
  owed   : c.unacked = []

/-- The tile reads as d. -/
def ReadsTile (s : State) (q : QIdx) (c : Cmd) (t : Tile) (d : TileData) : Prop :=
  d.rows.length = t.rows ∧ (∀ r < t.rows, ReadsAs s q c (t.va + r * t.stride) t.rowBytes (d.rows.getD r [])) ∧
    if t.scaleBytes = 0 then d.scales = [] else ReadsAs s q c t.scales t.scaleBytes d.scales

/-- The slot of a command's hash table that probe i of a key reads (R444). -/
def probeSlot (w : List Nat) (key i : Nat) : Nat := (homeSlot (bits (wd w 1) 0 5) key + i) % 2 ^ bits (wd w 1) 0 5
/-- The 16 bytes of a slot hold the key. -/
def slotHolds (b : List Byte) (key : Nat) : Prop := bit (leAt b 0 8) 63 = true ∧ leAt b 0 8 % 2 ^ 63 = key
/-- The slot is empty. -/
def slotEmpty (b : List Byte) : Prop := bit (leAt b 0 8) 63 = false
/-- The first n slots that a probe of the key reads hold b, all of them other keys. -/
def ProbesPast (s : State) (q : QIdx) (c : Cmd) (key n : Nat) (b : Nat → List Byte) : Prop :=
  ∀ i < n, ReadsAs s q c (wd c.words 0 + 16 * probeSlot c.words key i) 16 (b i) ∧ ¬ slotEmpty (b i) ∧ ¬ slotHolds (b i) key

/-! ## Accesses of cores -/

/-- Access a of core c passes its checks and lies in memory of this package, within one granule, that is free to be accessed. -/
structure CoreReaches (s : State) (c : CoreId) (a : CoreAccess) : Prop where
  online : coreOnline s c = true
  checks : coreLook s c a = .ok
  here   : isLocal s a.addr = true
  memory : isReg (offOf a.addr) = false
  piece  : 0 < a.size ∧ offOf a.addr % 64 + a.size ≤ 64
  free   : memBusy s (offOf a.addr) = false

/-- Nothing of core c's own keeps load a from being performed from memory: no barrier and no other load waits, and no buffered store
meets it. -/
structure LoadsFreely (s : State) (c : CoreId) (a : CoreAccess) : Prop where
  fence  : (s.core c).fence = none
  load   : otherLoad (s.core c) a = false
  stores : ((s.core c).sb.filter (overlaps a)) = [] ∧ ((coreAcc s a).se = true → (s.core c).sb = [])

/-- No core but c has changed. -/
def OnlyCore (s t : State) (c : CoreId) : Prop := ∀ d, d ≠ c → t.core d = s.core d

/-- Coherent memory is as before. -/
def SameBytes (s t : State) : Prop := ∀ o, coherentByte t o = coherentByte s o

/-! ## Accesses of hosts -/

/-- The VF on a host port that serves: the package is READY and not in FATAL, the link is up, and the VF presents function f, bound. -/
structure VfServes (s : State) (p : Port) (vf : Fin 8) (f : Fin 32) : Prop where
  ready : s.boot.ready = true
  link  : (s.hlk p).speed ≠ 0
  fatal : fatalState s = false
  bound : boundFn s p (vfNum vf) = some f

/-- Function f of a port may access the n bytes at device virtual address va: memory of this package within one granule, which span sp
shows. -/
structure HostReaches (s : State) (p : Port) (f : Fin 32) (rd wr : Bool) (va n : Nat) (sp : Span) : Prop where
  span   : vaCheck s (portHub p) f.val (.function f) rd wr 0 va n = .ok [sp]
  here   : isLocal s sp.pa = true
  memory : isReg (offOf sp.pa) = false
  piece  : 0 < n ∧ sp.n = n ∧ sp.pa % 64 + n ≤ 64
  free   : memBusy s (offOf sp.pa) = false

end Sys2Proof.Machine
end

