-- ==== Sys2Proof/Certificates/Slice0/Obligations.lean ====
section
/-! DEFINITION. What the prover is asked to show of the model, with the words of the manual that each statement formalises. -/

open Sys2Proof Sys2Proof.Machine

/-! ## The machine as a whole -/

/-- The command at the front of the queue is taken and its effect performed on the rest; on an empty queue one cycle of the hub reference
clock passes (the model's choice, log entry 2). -/
def Obligations.StepPerformsFrontCommand : Prop :=
  (∀ (c : Instr) (rest : List Instr) (s : State), s.pending = c :: rest →
    Sys2Proof.core.step s = exec c { s with pending := rest }) ∧
  ∀ s : State, s.pending = [] → Sys2Proof.core.step s = .next { s with now := s.now + 1 }

/-- No command ends in a fault or a refusal of the model: every condition the manual describes ends in a record, an abort, an answer or no
effect. -/
def Obligations.EveryCommandAnswersNext : Prop := ∀ (c : Instr) (s : State), ∃ t, exec c s = .next t

/-- Memory after reset is in canonical form, its caches hold nothing that memory does not, and every byte reads 0 (the byte is the model's
choice, log entry 1). -/
def Obligations.ResetMemoryIsCanonical : Prop :=
  Memory.wf State.reset.mem = true ∧ CachesOk State.reset ∧ ∀ o, coherentByte State.reset o = 0

/-- Every step keeps memory in canonical form: addresses strictly rising, no entry equal to what an unlisted address reads as. -/
def Obligations.StepKeepsMemoryCanonical : Prop :=
  ∀ s t : State, Memory.wf s.mem = true → Sys2Proof.core.step s = .next t → Memory.wf t.mem = true

/-- A write of up to one granule changes exactly the bytes it names, as every coherent observer sees them, whatever the caches hold,
whatever their state, lock and carving, and whatever the hint and attributes of the access (R130, R131, R350, R351). -/
def Obligations.CachedWriteChangesExactlyItsBytes : Prop :=
  ∀ (s : State) (w : Option CoreId) (a : Acc) (o : Nat) (bs : List Byte), CachesOk s → bs ≠ [] → o % 64 + bs.length ≤ 64 →
    CachesOk (wrPiece s w a o bs) ∧
    (∀ j, (h : j < bs.length) → coherentByte (wrPiece s w a o bs) (o + j) = bs[j]) ∧
    ∀ x, (x < o ∨ o + bs.length ≤ x) → coherentByte (wrPiece s w a o bs) x = coherentByte s x

/-- A read of up to one granule answers the coherent bytes and changes no byte that a coherent observer sees, whatever it allocates,
evicts or writes back (R130, R131, R351). -/
def Obligations.CachedReadAnswersMemory : Prop :=
  ∀ (s : State) (a : Acc) (o n : Nat), CachesOk s → 0 < n → o % 64 + n ≤ 64 →
    (rdPiece s a o n).1 = coherentBytes s o n ∧ CachesOk (rdPiece s a o n).2.2 ∧
    ∀ x, coherentByte (rdPiece s a o n).2.2 x = coherentByte s x

/-! ## Line time -/

/-- One LT: once the present LT of the active unit has lasted its length, and nothing of it is still due, LT_ADVANCE advances the phase of
each unit by one, and its cycle count where the phase passes from 0xFFFF to 0; a unit in WAIT, or one that has failed, stands still;
the grid events of the new LT fall due. Before that, and while the active unit is in WAIT, nothing but the clock moves (R59–R61, R83;
the length is read as log entry 44 says). A candidate accepted in LOCKED is measured: period, phase error, base length of the LT;
phase, count and state stay (R57, R67, R71). A rejected candidate is counted and raises TICK_REJECT, and moves nothing but the
reference for the next interval (R58); in QUALIFY it returns the unit to FREE_RUN (R70). -/
def Obligations.LineTimeAndTicks : Prop :=
  (∀ (s : State) (t : Nat), Works s → s.due = [] →
    (ltDue (s.toTime t) = false → exec (.ltAdvance t) s = .next (s.toTime t)) ∧
    (ltDue (s.toTime t) = true → ∃ s', exec (.ltAdvance t) s = .next s' ∧
      (∀ u, (s'.ltuOf u).st = (s.ltuOf u).st ∧ (s'.ltuOf u).active = (s.ltuOf u).active ∧
        if (s.ltuOf u).st = .wait ∨ (s.ltuOf u).failed = true then
          (s'.ltuOf u).phase = (s.ltuOf u).phase ∧ (s'.ltuOf u).cycle = (s.ltuOf u).cycle
        else (s'.ltuOf u).phase = (s.ltuOf u).phase + 1 ∧
          (s'.ltuOf u).cycle = (if (s.ltuOf u).phase = 0xFFFF then (s.ltuOf u).cycle + 1 else (s.ltuOf u).cycle)) ∧
      s'.due = dueNow s' ∧ SameMemory s s' ∧ SameWork s s' ∧ SameStart s s')) ∧
  (∀ (s : State) (t c : Nat) (u : Hub), Works s → Canonical s → (s.ltuOf u).st = .locked → (s.ltuOf u).dcMode = false →
    (s.ltuOf (1 - u)).st ≠ .wait → (s.ltuOf u).failed = false → (s.ltuOf u).lastCand = some c → lockedAccepts (s.ltuOf u) t →
    ∃ s', exec (.lineTickQualify t) s = .next s' ∧
      s'.ltuOf u = { s.ltuOf u with
        lastCand := some t, lastAcc := some t, period := BitVec.ofNat 32 (t - (s.ltuOf u).lastAcc.getD 0)
        phaseErr := edgePhase (s.ltuOf u) t, holdoff := 8192, corr := 256 * (edgePhase (s.ltuOf u) t).toInt
        base := t - (s.ltuOf u).lastAcc.getD 0 } ∧
      ((s.blk (ltuPage u)).cntFreeze = false → s'.cnt (ltuPage u) 0x080 = s.cnt (ltuPage u) 0x080 + 1) ∧
      SameMemory s s' ∧ SameWork s s' ∧ SameStart s s') ∧
  (∀ (s : State) (t c : Nat) (u : Hub), Works s → Canonical s → (s.ltuOf u).dcMode = false → (s.ltuOf u).failed = false →
    (s.ltuOf (1 - u)).st ≠ .wait → (s.ltuOf u).lastCand = some c →
    ((s.ltuOf u).st = .locked → ¬ lockedAccepts (s.ltuOf u) t) →
    ((s.ltuOf u).st ≠ .locked → ivalOk (t - c) = false) →
    ∃ s', exec (.lineTickQualify t) s = .next s' ∧
      s'.ltuOf u = (if (s.ltuOf u).st = .qualify then { s.ltuOf u with lastCand := some t, st := .freeRun, ivals := [] }
        else { s.ltuOf u with lastCand := some t }) ∧
      (s'.blk (ltuPage u)).intStat.getLsbD 3 = true ∧
      ((s.blk (ltuPage u)).cntFreeze = false → s'.cnt (ltuPage u) 0x088 = s.cnt (ltuPage u) 0x088 + 1))

/-- Two nominal cycles without an accepted tick: once they are over, LOCKED and SLEWING end in FREE_RUN at the nominal frequency with
phase and count continuous, FREE_RUN_ENTER is raised and the entry counted; WAIT ends in FREE_RUN with the phase at 0 where the unit
is the active one or that is in WAIT too. Before the two cycles have passed nothing but the clock moves (R62, R68). -/
def Obligations.TwoSilentCyclesEnterFreeRun : Prop :=
  ∀ (s : State) (u : Hub) (t : Nat), Works s → Canonical s → (s.ltuOf u).failed = false →
    ((s.ltuOf u).st = .locked ∨ (s.ltuOf u).st = .slewing →
      ((s.ltuOf u).lastAcc.getD 0 + twoNom (s.ltuOf u) < max s.now t →
        ∃ s', exec (.lockLossFreeRun u t) s = .next s' ∧
          s'.ltuOf u = { s.ltuOf u with st := .freeRun, base := nomCycle (s.ltuOf u), corr := 0, ivals := [] } ∧
          (s'.blk (ltuPage u)).intStat.getLsbD 0 = true ∧
          ((s.blk (ltuPage u)).cntFreeze = false → s'.cnt (ltuPage u) 0x090 = s.cnt (ltuPage u) 0x090 + 1) ∧
          SameMemory s s' ∧ SameWork s s' ∧ SameStart s s') ∧
      (max s.now t < (s.ltuOf u).lastAcc.getD 0 + twoNom (s.ltuOf u) → exec (.lockLossFreeRun u t) s = .next (s.toTime t))) ∧
    ((s.ltuOf u).st = .wait →
      if (s.ltuOf u).since + twoNom (s.ltuOf u) ≤ max s.now t then
        ∃ s', exec (.waitNoTickFreeRun u t) s = .next s' ∧ (s'.ltuOf u).st = .freeRun ∧
          (s.activeHub = u ∨ s.ltu.st = .wait →
            (s'.ltuOf u).phase = 0 ∧ (s.boot.ready = true ∨ trainedFar s = [] → (s'.ltuOf u).cycle = 0)) ∧
          (s'.ltuOf u).base = nomCycle (s.ltuOf u) ∧
          (s'.blk (ltuPage u)).intStat.getLsbD 0 = true ∧
          ((s.blk (ltuPage u)).cntFreeze = false → s'.cnt (ltuPage u) 0x090 = s.cnt (ltuPage u) 0x090 + 1) ∧
          SameMemory s s' ∧ SameWork s s' ∧ SameStart s s'
      else exec (.waitNoTickFreeRun u t) s = .next (s.toTime t))

/-- The standby unit: a copy message that has been on its way for n LT gives H1 the counters it carries advanced by n, its state and its LT
length; with no such message on its way nothing happens; after 64 LT without one, or when H0 reports an internal error, H1 becomes the active unit and goes on from its own counters (R76, R77). Prostoza
writes DC_MODE: 1 puts the unit in FREE_RUN with both counters continuous, 0 makes the next candidate a reference only (R56, R72). -/
def Obligations.StandbyUnitAndDcMode : Prop :=
  (∀ s : State, Works s → s.hub1.ltu.active = false → s.hub1.ltu.failed = false → s.hub0.ltu.failed = false →
    (∀ n, let msg := s.hub0.ltu.copies.find? fun m => decide ((s.hub0.ltu.phase - m.phase).toNat = n)
      (∀ m, msg = some m → ∃ s', exec (.ltuCopyMessage n) s = .next s' ∧
        ltuNow s'.hub1.ltu = (m.phase.toNat + 65536 * m.cycle.toNat + n) % 2 ^ 64 ∧ s'.hub1.ltu.st = m.st ∧
        s'.hub1.ltu.base = m.base ∧ s'.hub1.ltu.corr = corrAfter n m.corr ∧ s'.hub1.ltu.silence = 0 ∧
        (∃ l, s'.hub0 = { s.hub0 with ltu := { s.hub0.ltu with copies := l } }) ∧ SameMemory s s' ∧ SameWork s s' ∧ SameStart s s') ∧
      (msg = none → exec (.ltuCopyMessage n) s = .next s)) ∧
    (64 ≤ s.hub1.ltu.silence →
      ∃ s', exec .ltuCopySilenceTimeout s = .next s' ∧ s'.hub1.ltu = { s.hub1.ltu with active := true, silence := 0 } ∧
        s'.hub0.ltu = { s.hub0.ltu with active := false } ∧ SameMemory s s' ∧ SameWork s s' ∧ SameStart s s') ∧
    (s.hub1.ltu.silence < 64 → exec .ltuCopySilenceTimeout s = .next s) ∧
    ((s.mgt.fatal = true → s.doff.done = false ∨ s.mgt.dumped = true) →
      ∃ s', exec (.ltuInternalError 0) s = .next s' ∧ s'.hub1.ltu = { s.hub1.ltu with active := true, silence := 0 } ∧
        s'.hub0.ltu = { s.hub0.ltu with failed := true, active := false } ∧ SameMemory s s' ∧ SameWork s s' ∧ SameStart s s') ∧
    ((s.mgt.fatal = true → s.doff.done = false ∨ s.mgt.dumped = true) →
      ∃ s', exec (.ltuInternalError 1) s = .next s' ∧ s'.hub1.ltu = { s.hub1.ltu with failed := true } ∧ s'.hub0 = s.hub0)) ∧
  (∀ (s : State) (u : Hub), Works s →
    (∃ s', exec (.dcModeWrite .prostoza u true) s = .next s' ∧ (s'.ltuOf u).dcMode = true ∧ (s'.ltuOf u).st = .freeRun ∧
      ((s.ltuOf u).st ≠ .wait → (s'.ltuOf u).phase = (s.ltuOf u).phase ∧ (s'.ltuOf u).cycle = (s.ltuOf u).cycle) ∧
      SameMemory s s' ∧ SameWork s s' ∧ SameStart s s') ∧
    ∃ s', exec (.dcModeWrite .prostoza u false) s = .next s' ∧
      s'.ltuOf u = { s.ltuOf u with dcMode := false, lastCand := none } ∧ SameMemory s s' ∧ SameWork s s' ∧ SameStart s s')

/-! ## The governor -/

/-- A governor update that is next in the order of the grid: the target of the next half-cycle follows from target, demand, floor and
ceiling, and rises by no more than the hank step (R86–R88); an emergency cut that no source asserts any more ends (R99); ballast runs
on exactly where FALL_EN is 1, no cut is in effect and running work lies below the new target less the hank step (R93, R98). A grid
event that the present LT does not make due has no effect (R60, R83). A clock and voltage change that is due restores
reduced clocks where no cut is in effect and no command runs under R91, and leaves them reduced otherwise (R95). A budget refresh that
is due: with no command deferred, each balance becomes min(BUDGET, REMAIN + BUDGET) (R492), held below 2^31 by its register's width
(the model's choice, log entry 53); deferred commands that it releases only lower a balance. Each of the three events that is due
completes in every working package, whatever runs in it. -/
def Obligations.GridEvents : Prop :=
  (∀ (s : State) (h : Hub) (bg : Nat) (rest : List GridEvent), Works s → s.due = .gov h :: rest →
    ∃ s', exec (.governorUpdate h bg) s = .next s' ∧
      (let g := (s.hub h).gov
       let g1 : Gov := { g with bg := bg, ballast := false, fcStep := g.fcNext.getD g.fcStep, fcNext := none
                                cutActive := g.cutActive && cutAsserted g }
       let d := demand (s.modGov h fun g => { g with bg := bg }) h
       (s'.hub h).gov.target = min (ceiling g1) (nextTarget g1 d) ∧ (s'.hub h).gov.target ≤ g.target + hankStep g1 ∧
         (s'.hub h).gov.cutActive = (g.cutActive && cutAsserted g)) ∧
      (let g := (s'.hub h).gov
       g.ballast = (g.fallEn && !g.cutActive && decide (runningPower s' h < g.target - hankStep g))) ∧
      s'.due = rest ∧ SameMemory s s' ∧ SameStart s s' ∧ s'.cores = s.cores ∧ s'.creels = s.creels) ∧
  (∀ (s : State) (h : Hub) (g : Fin 16) (bg : Nat), s.due = [] →
    exec (.governorUpdate h bg) s = .next s ∧ exec (.qosBudgetRefresh h) s = .next s ∧ exec (.dvfsChange h) s = .next s ∧
    exec .telemetrySnapshot s = .next s ∧ exec (.stepStart h g) s = .next s ∧ exec (.ledgerCheckpoint h) s = .next s ∧
    exec .scrubCredit s = .next s) ∧
  (∀ (s : State) (h : Hub) (rest : List GridEvent), Works s → s.due = .dvfs h :: rest →
    ∃ s', exec (.dvfsChange h) s = .next s' ∧
      (s'.hub h).gov.slowed = ((s.hub h).gov.slowed && ((s.hub h).gov.cutActive || (s.hub h).gov.slowCmd.isSome)) ∧
      (s'.hub h).gov.target = (s.hub h).gov.target ∧ s'.due = rest ∧ SameMemory s s' ∧ SameStart s s' ∧ s'.cores = s.cores ∧
      s'.creels = s.creels) ∧
  (∀ (s : State) (h : Hub) (rest : List GridEvent), Works s → s.due = .qos h :: rest → mwf 0 (s.hub h).qos.remain = true →
    ∃ s', exec (.qosBudgetRefresh h) s = .next s' ∧
      (let full (c : Nat) : Int := min 0x7FFFFFFF (min ((s.hub h).qos.budgetOf c : Int) ((s.hub h).qos.remainOf c + (s.hub h).qos.budgetOf c))
       (∀ c < 4, (s'.hub h).qos.remainOf c ≤ full c) ∧
       ((∀ p ∈ hubCmds s h, p.2.phase ≠ .deferred) → (∀ c < 4, (s'.hub h).qos.remainOf c = full c) ∧ SameWork s s')) ∧
      (s'.hub h).qos.budget = (s.hub h).qos.budget ∧ s'.due = rest ∧ SameMemory s s' ∧ SameStart s s')

/-- Frame-controller messages are answered: NOT_READY before step 4 of the start sequence ends, INVALID for a payload of another length, a
value outside its range or an unknown CMD, without any other effect (R615). A valid frame-controller message applies to both governors
of the package and is answered OK: GOV_SET_STEP from the next update, GOV_CUT at once with the target at or below its level,
GOV_RELEASE by withdrawing the source; LT_QUERY only answers (R97, R99, R101). Prostoza sets GOV_CTL.CUT and GOV_CUT_LEVEL: a set CUT
starts an emergency cut whose target is at or below the cut level; a level above 1,000 is not taken (R97). -/
def Obligations.FrameControllerMessages : Prop :=
  (∀ (s : State) (p : List Byte), Works s →
    (s.boot.mctp = false →
      exec (.govSetStep p) s = .next (respond s 1 2 []) ∧ exec (.govCut p) s = .next (respond s 2 2 []) ∧
      exec (.govRelease p) s = .next (respond s 3 2 []) ∧ exec (.ltQuery p) s = .next (respond s 4 2 [])) ∧
    (s.boot.mctp = true →
      (¬ (p.length = 1 ∧ 1 ≤ leNat p ∧ leNat p ≤ 40) → exec (.govSetStep p) s = .next (respond s 1 1 [])) ∧
      (¬ (p.length = 2 ∧ leNat p ≤ 1000) → exec (.govCut p) s = .next (respond s 2 1 [])) ∧
      (p ≠ [] → exec (.govRelease p) s = .next (respond s 3 1 []) ∧ exec (.ltQuery p) s = .next (respond s 4 1 [])) ∧
      ∀ c : Byte, (c = 0 ∨ 4 < c.toNat) →
        exec (.unknownCmdMessage ([0x7E, 0, 0, c] ++ p)) s = .next (respond s c.toNat 1 []))) ∧
  (∀ (s : State) (p : List Byte), Works s → s.boot.mctp = true →
    (p.length = 1 → 1 ≤ leNat p → leNat p ≤ 40 →
      ∃ s', exec (.govSetStep p) s = .next (respond s' 1 0 []) ∧ SameMemory s s' ∧ SameWork s s' ∧ SameStart s s' ∧
        ∀ h, s'.hub h = { s.hub h with gov := { (s.hub h).gov with fcNext := some (leNat p) } }) ∧
    (p.length = 2 → leNat p ≤ 1000 →
      ∃ s', exec (.govCut p) s = .next (respond s' 2 0 []) ∧ SameMemory s s' ∧ SameStart s s' ∧
        ∀ h, (s'.hub h).gov.cutFc = true ∧ (s'.hub h).gov.fcLevel = leNat p ∧ (s'.hub h).gov.cutActive = true ∧
          (s'.hub h).gov.target = min (s.hub h).gov.target (12 * min (s.hub h).gov.cutLevel (leNat p))) ∧
    (∃ s', exec (.govRelease []) s = .next (respond s' 3 0 []) ∧ SameMemory s s' ∧ SameStart s s' ∧
      ∀ h, (s'.hub h).gov.cutFc = false ∧ (s'.hub h).gov.cutActive =
        ((s.hub h).gov.cutActive || cutAsserted { (s.hub h).gov with cutFc := false })) ∧
    ∃ data, exec (.ltQuery []) s = .next (respond s 4 0 data) ∧ data.length = 24 ∧
      slice data 4 8 = leBytes 8 (ltuNow s.ltu)) ∧
  (∀ (s : State) (h : Hub), Works s →
    (∃ s', exec (.govCtlCutWrite .prostoza h true) s = .next s' ∧ (s'.hub h).gov.cutSw = true ∧
      (s'.hub h).gov.fallEn = (s.hub h).gov.fallEn ∧ (s'.hub h).gov.cutActive = true ∧
      (s'.hub h).gov.target = min (s.hub h).gov.target (cutDw (s.hub h).gov) ∧ SameMemory s s' ∧ SameStart s s') ∧
    (∃ s', exec (.govCtlCutWrite .prostoza h false) s = .next s' ∧ (s'.hub h).gov.cutSw = false ∧
      (s'.hub h).gov.fallEn = (s.hub h).gov.fallEn ∧ SameMemory s s' ∧ SameStart s s') ∧
    ∀ v : W32,
      (v.toNat % 1024 ≤ 1000 → ∃ s', exec (.govCutLevelWrite .prostoza h v) s = .next s' ∧
        (s'.hub h).gov.cutLevel = v.toNat % 1024 ∧ SameMemory s s' ∧ SameStart s s') ∧
      (1000 < v.toNat % 1024 → exec (.govCutLevelWrite .prostoza h v) s = .next s))

/-! ## The scheduling grid -/

/-- A telemetry snapshot that is due latches the counter window of every block page of the package (R84). -/
def Obligations.SnapshotLatchesEveryWindow : Prop :=
  ∀ (s : State) (rest : List GridEvent), Works s → mwf {} s.blks = true → s.due = .snapshot :: rest →
    ∃ s', exec .telemetrySnapshot s = .next s' ∧
      (∀ p ∈ allPages, (s'.blk p).snap = (s'.blk p).cnt ∧ (s'.blk p).snapValid = true) ∧
      s'.due = rest ∧ SameMemory s s' ∧ SameWork s s' ∧ SameStart s s'

/-- A step start that is due in an enabled group that awaits it completes whatever its queues hold: STEP increments, LAYER as well where
LAYER_INC is 1, and the step opens; with no queue to complete it, it ends at once (R183, R184). EN of a step group: written 1, counting starts at 0 and the group awaits its first step; written 0, the
group is idle (R187). -/
def Obligations.StepGroups : Prop :=
  (∀ (s : State) (h : Hub) (g : Fin 16) (rest : List GridEvent), Works s → Canonical s → s.due = .step h g :: rest →
    (s.grp h g).en = true → (s.grp h g).st = .awaiting → s.doff.stopped = false →
    (∀ c, (s.grp h g).chg = some c → c.1 ≠ s.now) →
    ∃ s', exec (.stepStart h g) s = .next s' ∧ (s'.grp h g).step = (s.grp h g).step + 1 ∧
      (s'.grp h g).layer = (if (s.grp h g).layerInc then (s.grp h g).layer + 1 else (s.grp h g).layer) ∧
      (grpQueues s h g = [] → (s'.grp h g).st = .awaiting) ∧ (s'.grp h g).st ≠ .idle ∧ (s'.grp h g).startLt = s.lts ∧
      ((s.blk (pgKey h.val ixSeq)).cntFreeze = false →
        s'.cnt (pgKey h.val ixSeq) 0x080 = s.cnt (pgKey h.val ixSeq) 0x080 + 1) ∧ s'.due = rest ∧ SameMemory s s' ∧ SameStart s s') ∧
  (∀ (s : State) (h : Hub) (g : Fin 16), Works s → Canonical s →
    ((s.grp h g).en = false → ∃ s', exec (.stepGroupEnable .prostoza h g) s = .next s' ∧
      s'.grp h g = { s.grp h g with en := true, step := 0, started := 0, st := .awaiting, startLt := 0 } ∧ SameMemory s s' ∧ SameStart s s') ∧
    ((s.grp h g).en = true → exec (.stepGroupEnable .prostoza h g) s = .next s ∧
      ∃ s', exec (.stepGroupDisable .prostoza h g) s = .next s' ∧ s'.grp h g = { s.grp h g with en := false, st := .idle } ∧
        SameMemory s s' ∧ SameStart s s'))

/-- A checkpoint that is due writes a copy with KIND = CHECKPOINT over the older one, except during a doff, before READY and while a view
of a DOFF copy is VALID; the counters and what runs stay (R527). Draining the journal writes each map byte it holds to its place, the
latest for a place last, and empties it (R524, R526). A pacing credit gives every scrubber CREDIT granules and what was not spent is
lost; a granule read spends one, a corrected one is counted, an uncorrectable one of HBM becomes poisoned (what is found comes as an
operand, log entry 28); refresh has no effect (R378, R388, R393, R394). -/
def Obligations.CheckpointsJournalAndScrub : Prop :=
  (∀ (s : State) (h : Hub) (rest : List GridEvent), Works s → s.due = .ckpt h :: rest →
    (s.boot.ready = true → s.doff.active = false → s.doff.done = false → doffViewed s h = false →
      ∃ s', exec (.ledgerCheckpoint h) s = .next s' ∧ s'.mem = (writeCopy { s with due := rest } h false).mem ∧ s'.due = rest) ∧
    (s.doff.active = true ∨ s.doff.done = true ∨ s.boot.ready = false ∨ doffViewed s h = true →
      exec (.ledgerCheckpoint h) s = .next { s with due := rest })) ∧
  (∀ (s : State) (h : Hub), Works s → CachesOk s →
    ∃ s', exec (.journalDrain h) s = .next s' ∧ (s'.hub h).led.journal = [] ∧
      (∀ o, coherentByte s' o =
        (((s.hub h).led.journal.reverse.find? fun e => e.1 = o).map (·.2)).getD (coherentByte s o)) ∧
      s'.queues = s.queues) ∧
  (∀ (s : State), Works s → Canonical s →
    (∀ rest, s.due = .scrub :: rest →
      ∃ s', exec .scrubCredit s = .next s' ∧ (∀ i < 12, (s'.scrub i).unspent = (s.scrub i).credit.toNat ∧ (s'.scrub i).pos = (s.scrub i).pos) ∧
        SameMemory s s' ∧ SameWork s s' ∧ SameStart s s') ∧
    (∀ (n : Tensor) (e : EccFinding), s.poison = [] → s.upsets = [] → (s.scrub n.val).en = true → 0 < (s.scrub n.val).unspent →
      (s.scrub n.val).pos + 1 < scrubGranules s n.val →
      ∃ s', exec (.scrubGranule (.smc n) e) s = .next s' ∧ (s'.scrub n.val).unspent = (s.scrub n.val).unspent - 1 ∧
        (s'.scrub n.val).pos = (s.scrub n.val).pos + 1 ∧ s'.mem = s.mem ∧ s'.caches = s.caches ∧ SameWork s s' ∧
        (∀ g, poisoned s' g = (decide (e = .uncorrectable) && decide (g = n.val * (hbmStack / 64) + (s.scrub n.val).pos)))) ∧
    exec .memoryRefresh s = .next s)

/-! ## Queues -/

/-- A doorbell write by a requester that the firewall lets in (R480) and that need not wait for a die link or for its own earlier accesses:
within the ring it becomes PROD, backwards it is counted and changes
nothing, beyond the ring it puts the queue into ERROR with OVERFLOW; the value of PROD itself and a queue in RESET change no queue,
and the end of a reset leaves PROD at 0 (R154, R157). -/
def Obligations.DoorbellWrite : Prop :=
  ∀ (s : State) (r : Requester) (q : QIdx) (v : W32), Works s → mwf {} s.queues = true → bellAllows s r q = true →
    mustWait s r false (bellOff q) = false →
    (let x := s.queue q
     let d := (v - x.prod).toNat
     (x.st ≠ .reset → d ≠ 0 → d ≤ 2 ^ 31 → (v - x.ack).toNat ≤ x.depth →
       exec (.doorbell r q v) s = .next (s.setQueue q { x with prod := v })) ∧
     (x.st ≠ .reset → 2 ^ 31 < d → exec (.doorbell r q v) s = .next (s.count (qmPage q) 0x080 1)) ∧
     (x.st ≠ .reset → d = 0 → exec (.doorbell r q v) s = .next s) ∧
     (x.st = .reset → exec (.doorbell r q v) s = .next (s.count (qmPage q) 0x0C8 1)) ∧
     (x.st ≠ .reset → d ≠ 0 → d ≤ 2 ^ 31 → x.depth < (v - x.ack).toNat →
       ∃ s', exec (.doorbell r q v) s = .next s' ∧ (s'.queue q).st = .error ∧ (s'.queue q).err = 1 ∧ (s'.queue q).prod = x.prod ∧
         (s'.queue q).cons = x.cons ∧ (s'.queue q).cmds = (x.leaveWait s.now).cmds ∧ (∀ p, p ≠ q → s'.queue p = s.queue p) ∧ SameMemory s s') ∧
     ((resetDone s q).queue q).prod = 0)

/-- The entry at CONS is admitted once the conditions of R147 hold and its bytes are read: CONS advances by one and the command joins the
queue with that sequence number, those bytes and the higher of its class and the queue's floor; an entry under SUSPEND, an exhausted
budget or a doff ends REFUSED (R147, R151, R159); where the conditions do not hold nothing but the clock moves. -/
def Obligations.EntryAdmission : Prop :=
  ∀ (s : State) (q : QIdx) (pwr t : Nat), Works s → Canonical s →
    (admits (s.toTime t) q = false → exec (.entryAdmit q pwr t) s = .next (s.toTime t)) ∧
    ∀ (bytes : List Byte) (s1 : State),
      (let x := s.queue q
       let hd := hdrOf x.dx2 bytes
       let cls := max hd.cls x.classFloor
       admits (s.toTime t) q = true → x.fetchFail = none → (∀ c ∈ x.cmds, c.seq ≠ x.cons) →
       qmRead (s.toTime t) q x.fetchData (x.ringBase.toNat + x.entryLen * (x.cons.toNat % x.depth)) x.entryLen = (.ok bytes false, s1) →
       ∃ s' c, exec (.entryAdmit q pwr t) s = .next s' ∧ (s'.queue q).cons = x.cons + 1 ∧ findCmd s' q x.cons = some c ∧
         c.entry = bytes ∧ c.cls = cls ∧ c.pwr = pwr ∧ c.admitT = max s.now t ∧
         (∀ why, refuseWhy s1 q cls = some why → c.phase = .ended ∧ c.status = .refused ∧ c.cause = why.2 ∧
           (s'.queue q).lastRefuse = why.1 ∧ (s'.queue q).lastRefSeq = x.cons))

/-- Written by a requester that the firewall lets in and that need not wait, ENABLE: written 1 in DISABLED it starts the queue where its configuration is legal and sets ERR = CONFIG where not; written 0 it lets
a queue that runs, stands halted or waits on a fault drain, which is DISABLED at once when nothing is outstanding (R144, R156, R157). RESUME takes an enabled queue from
HALTED to RUNNING; in FAULT_WAIT with RESUME_ACT = 0 the command goes on from the element that faulted; QSW_CLR clears the refusal
flags and nothing else (R152, R175, R176). A queue reset of a queue with nothing outstanding: the doorbell page returns to its reset
values, the queue to DISABLED, and the descriptor stays (R557). -/
def Obligations.QueueControl : Prop :=
  (∀ (s : State) (r : Requester) (q : QIdx), Works s → Canonical s → bellAllows s r q = true →
    mustWait s r false (bellOff q + 0x058) = false →
    ((s.queue q).st = .disabled →
      ∃ s', exec (.queueEnable r q) s = .next s' ∧ (s'.queue q).enable = true ∧
        (if enableOk s q then (s'.queue q).st = .running ∧ (s'.queue q).err = 0
          else (s'.queue q).st = .disabled ∧ (s'.queue q).err = 4) ∧
        (∀ p, p ≠ q → s'.queue p = s.queue p) ∧ SameMemory s s' ∧ SameStart s s' ∧ s'.cores = s.cores) ∧
    ((s.queue q).st = .running ∨ (s.queue q).st = .halted ∨ (s.queue q).st = .faultWait →
      ∃ s', exec (.queueDisable r q) s = .next s' ∧ (s'.queue q).enable = false ∧
        (s'.queue q).cmds = ((s.queue q).leaveWait s.now).cmds ∧
        (s'.queue q).st = (if (s.queue q).cmds = [] then .disabled else .draining) ∧
        (∀ p, p ≠ q → s'.queue p = s.queue p) ∧ SameMemory s s' ∧ SameStart s s' ∧ s'.cores = s.cores)) ∧
  (∀ (s : State) (r : Requester) (q : QIdx), Works s → Canonical s → bellAllows s r q = true → (s.queue q).enable = true →
    mustWait s r false (bellOff q + 0x058) = false →
    ((s.queue q).st = .halted → (∀ c ∈ (s.queue q).cmds, c.phase ≠ .faultWait) → ∃ s', exec (.queueResume r q) s = .next s' ∧ (s'.queue q).st = .running ∧
      (s'.queue q).cons = (s.queue q).cons ∧ (s'.queue q).done = (s.queue q).done ∧ SameMemory s s' ∧ SameStart s s') ∧
    (∀ (t : Nat) (c : Cmd), (s.queue q).st = .faultWait → ((s.queue q).cmds.find? fun c => decide (c.phase = .faultWait)) = some c →
      findCmd s q c.seq = some c →
      ∃ s' d, exec (.faultWaitRetry r q t) s = .next s' ∧ (s'.queue q).st = .running ∧ findCmd s' q c.seq = some d ∧
        d.phase = .running ∧ d.status = .ok ∧ d.prog = (if c.fidx = 0xFFFF then c.prog else c.fidx.toNat) ∧ d.body = c.body ∧ SameMemory s s' ∧ SameStart s s') ∧
    ((s.queue q).st ≠ .disabled →
      ∃ s', exec (.qswClr r q) s = .next s' ∧ s'.queue q = { s.queue q with refuseSeen := 0 } ∧
        (∀ p, p ≠ q → s'.queue p = s.queue p) ∧ SameMemory s s' ∧ SameStart s s' ∧ s'.cores = s.cores)) ∧
  (∀ (s : State) (q : QIdx) (t : Nat), Works s → Canonical s → (s.queue q).cmds = [] → (s.queue q).st ≠ .reset →
    s.doff.stopped = false → mget 0 s.qrstRun (qDie q) = 0 → mustWait s .prostoza false (pgOff (qmPage q) + 0x110) = false →
    ∃ s', exec (.qmQrst .prostoza q t) s = .next s' ∧ (s'.queue q).st = .disabled ∧ (s'.queue q).prod = 0 ∧
      (s'.queue q).cons = 0 ∧ (s'.queue q).done = 0 ∧ (s'.queue q).ack = 0 ∧ (s'.queue q).ringBase = 0 ∧
      (s'.queue q).cmplBase = 0 ∧ (s'.queue q).enable = false ∧ (s'.queue q).ctx = (s.queue q).ctx ∧
      (s'.queue q).bound = (s.queue q).bound ∧ (s'.queue q).part = (s.queue q).part ∧
      (s'.queue q).classFloor = (s.queue q).classFloor ∧ (s'.queue q).suspend = (s.queue q).suspend ∧
      (s'.queue q).stepGrp = (s.queue q).stepGrp ∧ (s'.queue q).stepEn = (s.queue q).stepEn ∧
      (∀ p, p ≠ q → s'.queue p = s.queue p) ∧ SameMemory s s')

/-- The oldest admitted command, once it has ended, receives its 32-byte completion record at its slot of the completion ring, every other
byte of memory stays, and DONE advances by one (R164, R165). In FAULT_WAIT with RESUME_ACT = 1 the command's record is written with
what FAULT_INFO holds, and the queue goes on (R176). -/
def Obligations.RecordsAreWritten : Prop :=
  (∀ (s : State) (q : QIdx) (t : Nat) (c : Cmd) (sp : Span), Works s → Canonical s → CachesOk s → NoPoison s → RecordReady (s.toTime t) q c sp →
    c.phase = .ended → resumable (s.queue q) c = false →
    ∃ s', exec (.commandCompletion q t) s = .next s' ∧ coherentBytes s' (offOf sp.pa) 32 = recordBytes (s.queue q) q c ∧
      (∀ x, (x < offOf sp.pa ∨ offOf sp.pa + 32 ≤ x) → coherentByte s' x = coherentByte s x) ∧
      ((s.queue q).st ≠ .reset → (s'.queue q).done = (s.queue q).done + 1)) ∧
  (∀ (s : State) (r : Requester) (q : QIdx) (t : Nat) (c : Cmd) (sp : Span), Works s → Canonical s → CachesOk s → NoPoison s →
    bellAllows s r q = true → mustWait s r false (bellOff q + 0x058) = false →
    (s.queue q).enable = true → (s.queue q).st = .faultWait → c.phase = .faultWait →
    (∀ d ∈ (s.queue q).cmds, d.seq = c.seq → d = c) → RecordReady (s.toTime t) q c sp → c.hdr.knot = false →
    c.status ≠ .ok →
    ∃ s', exec (.faultWaitAbandon r q t) s = .next s' ∧ (s'.queue q).st = .running ∧ (s'.queue q).done = (s.queue q).done + 1 ∧
      coherentBytes s' (offOf sp.pa) 8 =
        leBytes 4 c.seq.toNat ++ leBytes 1 c.status.code ++ leBytes 1 (recCause c) ++ leBytes 2 c.fidx.toNat)

/-- The timer of a running command: once it has expired the command ends TIMEOUT, or TIMEOUT_LINK where a transfer of it is on a link that
recovers; before its expiry nothing but the clock moves (R163, R573; in the cycle of its expiry what arrives wins, the model's choice,
log entry 121). A running command is paused at a boundary for a class-0 command
of its engine, and only for one; a command that late writes or an earlier command kept back becomes ready once they are over (R489,
R496, R575). -/
def Obligations.TimersOfCommands : Prop :=
  (∀ (s : State) (q : QIdx) (t e : Nat) (c : Cmd), Works s → Canonical s → findCmd s q c.seq = some c → c.phase = .running →
    expiry (s.queue q) c = some e → (s.queue q).st ≠ .faultWait → c.head = [] →
    (max s.now t ≤ e → exec (.commandTimeout q c.seq t) s = .next (s.toTime t)) ∧
    (e < max s.now t → updated c = false →
      ∃ s' d, exec (.commandTimeout q c.seq t) s = .next s' ∧ findCmd s' q c.seq = some d ∧ d.phase = .ended ∧
        d.status = (if onBadLink (s.toTime t) q c then .timeoutLink else .timeout) ∧
        d.cause = (if onBadLink (s.toTime t) q c then 0x4C else 0x4B) ∧
        d.unacked = [] ∧ SameMemory s s' ∧ SameStart s s')) ∧
  (∀ (s : State) (q : QIdx) (t : Nat) (c : Cmd), Works s → Canonical s → (s.queue q).target = some c → findCmd s q c.seq = some c →
    (c.phase = .running → c.paused = false → c.waiting = false → 0 < c.cls →
      if classZeroOn (s.toTime t) (qEng q) then
        ∃ s' d, exec (.commandPreempt q t) s = .next s' ∧ findCmd s' q c.seq = some d ∧ d.paused = true ∧ d.phase = .running ∧
          d.prog = c.prog ∧ (∀ p, p ≠ q → s'.queue p = s.queue p) ∧ SameMemory s s' ∧ SameStart s s'
      else exec (.commandPreempt q t) s = .next (s.toTime t)) ∧
    (c.phase = .ready → c.startT = none → c.readyT = none →
      if (s.queue q).lateUntil ≤ max s.now t then
        startHold (s.toTime t) q c = .no →
        ∃ s' d, exec (.lateWriteWindowEnd q t) s = .next s' ∧ findCmd s' q c.seq = some d ∧ d.readyT = some (max s.now t) ∧
          SameMemory s s' ∧ SameStart s s'
      else exec (.lateWriteWindowEnd q t) s = .next (s.toTime t)))

/-! ## Engine commands -/

/-- Every engine row: a command whose boundary is its last, with no write of it unacknowledged once what it keeps for its end is written,
ends OK and leaves memory as that left it; the row of another opcode leaves everything but the clock (R141, R164). A running
command that its engine does not accept ends FAILED with ILLEGAL_OP, whatever the row; one whose fields the checks refuse ends with
the status and cause of the first check it fails (R202). -/
def Obligations.EngineRowsComplete : Prop :=
  (∀ r ∈ engineRows, ∀ (s : State) (q : QIdx) (t : Nat) (c : Cmd), Works s → Canonical s → Runs (s.toTime t) q c →
    (r.mine c.hdr = false → exec (r.row q t) s = .next (s.toTime t)) ∧
    ∀ (s1 : State) (d : Cmd), r.mine c.hdr = true → r.body (takenUp (s.toTime t) q c) q { c with waiting := false } = .ok true s1 → mwf {} s1.queues = true →
      findCmd s1 q c.seq = some d → d.phase = .running →
      (let s2 := engClose (acquire s1 q { c with waiting := false }) q d
       (findCmd s2 q c.seq).map (·.unacked) = some [] →
       ∃ s', exec (r.row q t) s = .next s' ∧ EndedOk s' q c.seq ∧ SameMemory s2 s' ∧ SameStart s2 s')) ∧
  (∀ (s : State) (q : QIdx) (t : Nat) (c : Cmd), Works s → Canonical s → (s.queue q).target = some c →
    findCmd s q c.seq = some c → c.phase = .running → c.startT.isSome = true → c.paused = false → c.waiting = false →
    (∀ p ∈ engineTargets s (qEng q), isReady p.2 = false) → c.unacked = [] → c.head = [] → mget 0 s.upsets (cmdKey q c.seq) < 2 →
    ∀ r ∈ engineRows,
      (accepts (qEngId q) c.hdr.opcode = false →
        ∃ s' d, exec (r.row q t) s = .next s' ∧ findCmd s' q c.seq = some d ∧ d.phase = .ended ∧ d.status = .failed ∧
          d.cause = cIllegalOp ∧ SameMemory s s' ∧ SameStart s s') ∧
      ∀ st k, accepts (qEngId q) c.hdr.opcode = true → r.mine c.hdr = true → c.body.isSome = true →
        checkCmd (qEngId q) s.boot.feat c.dx2 false c.hdr (entryWords c.dx2 c.entry) c.words = some (st, k) →
        ∃ s' d, exec (r.row q t) s = .next s' ∧ findCmd s' q c.seq = some d ∧ d.phase = .ended ∧ d.status = st ∧ d.cause = k ∧
          SameMemory s s' ∧ SameStart s s')

/-- NOP ends OK at once; FENCE once its condition holds, and waits with FENCE_WAIT until then; STEP ends OK and, in a member queue of an
enabled group, sets LAYER where its operand asks for it: memory stays (R200, R213–R215). WAIT ends OK when its sync word meets its
condition, at its start or at a later look, and goes on waiting with WAIT_SIGNAL otherwise; memory stays (R210, R211). -/
def Obligations.PlainCommandsAndWait : Prop :=
  (∀ (s : State) (q : QIdx) (t : Nat) (c : Cmd), Works s → Canonical s → Runs (s.toTime t) q c → c.open_ = [] →
    (c.hdr.opcode = opNop → ∃ s', exec (.nop q t) s = .next s' ∧ EndedOk s' q c.seq ∧ SameMemory s s' ∧ SameStart s s' ∧
      s'.cores = s.cores ∧ ∀ p, p ≠ q → s'.queue p = s.queue p) ∧
    (c.hdr.opcode = opFence →
      ∃ s', exec (.fence q t) s = .next s' ∧ SameMemory s s' ∧ SameStart s s' ∧ s'.cores = s.cores ∧
        (∀ p, p ≠ q → s'.queue p = s.queue p) ∧
        if fenceHolds (s.toTime t) q c then EndedOk s' q c.seq
        else ∃ d, findCmd s' q c.seq = some d ∧ d.phase = .running ∧ d.waiting = true ∧
          ((c.stallNow = none ∨ (c.stallNow.map (·.1)) = some cFenceWait) → (d.stallNow.map (·.1)) = some cFenceWait)) ∧
    (c.hdr.opcode = opStep →
      ∃ s', exec (.step q t) s = .next s' ∧ EndedOk s' q c.seq ∧ SameMemory s s' ∧ SameStart s s' ∧ s'.cores = s.cores ∧
        (let g := (s.queue q).stepGrp
         bit (wd c.words 0) 16 = true → (s.queue q).stepEn = true → (s.grp (qHub q) g).en = true →
           (∀ x, (s.grp (qHub q) g).chg = some x → x.1 ≠ max s.now t) →
           (s'.grp (qHub q) g).layer = BitVec.ofNat 16 (bits (wd c.words 0) 0 16) ∧
           (s'.grp (qHub q) g).step = (s.grp (qHub q) g).step))) ∧
  (∀ (s : State) (q : QIdx) (t : Nat) (c : Cmd) (sp : Span), Works s → Canonical s → CachesOk s → NoPoison s →
    Runs (s.toTime t) q c → c.unacked = [] → c.hdr.opcode = opWait → ReadsHere (s.toTime t) q c (wd c.words 0) 8 sp →
    (let v := leNat (coherentBytes s (offOf sp.pa) 8)
     let x := wd c.words 1
     let met := (wd c.words 2 = 0 ∧ x ≤ v) ∨ (wd c.words 2 = 1 ∧ v = x) ∨ (wd c.words 2 = 2 ∧ v ≠ x)
     ∀ i ∈ [Instr.wait q t, Instr.waitPoll q t], ∃ s', exec i s = .next s' ∧
       (met → EndedOk s' q c.seq) ∧
       (¬ met → ∃ d, findCmd s' q c.seq = some d ∧ d.phase = .running ∧ d.waiting = true ∧
         ((c.stallNow = none ∨ (c.stallNow.map (·.1)) = some cWaitSignal) → (d.stallNow.map (·.1)) = some cWaitSignal)) ∧
       (∀ o, coherentByte s' o = coherentByte s o)))

/-- One piece of a FILL writes the pattern at its place, byte i of it being byte i mod 8 of the value; a SIGNAL that stores writes its
value; every other byte of memory stays (R212, R223). -/
def Obligations.FillAndSignalWrite : Prop :=
  ∀ (s : State) (q : QIdx) (t : Nat) (c : Cmd) (sp : Span), Works s → Canonical s → CachesOk s → Runs (s.toTime t) q c →
    c.unacked = [] →
    (∀ k n, c.hdr.opcode = opFill → c.prog = k → wd c.words 1 = n →
      (k = 0 → checkAll (s.toTime t) q c [] [(wd c.words 0, n)] = .ok () (s.toTime t)) →
      (let p := pieceAt (wd c.words 0) n k
       WritesHere (s.toTime t) q c (wd c.words 0 + p.1) p.2 sp →
       ∃ s', exec (.fill q 1 t) s = .next s' ∧ PassedTo s' q c.seq (decide (pieceCount (wd c.words 0) n ≤ k + 1)) (k + 1) ∧
         (∀ j < p.2, coherentByte s' (offOf sp.pa + j) = BitVec.ofNat 8 (wd c.words 2 >>> (8 * ((p.1 + j) % 8)))) ∧
         OnlyBytes s s' (offOf sp.pa) p.2)) ∧
    (c.hdr.opcode = opSignal → wd c.words 2 = 0 → WritesHere (s.toTime t) q c (wd c.words 0) 8 sp →
      ∃ s', exec (.signal q t) s = .next s' ∧ EndedOk s' q c.seq ∧
        coherentBytes s' (offOf sp.pa) 8 = leBytes 8 (wd c.words 1) ∧ OnlyBytes s s' (offOf sp.pa) 8)

/-- COPY, GATHER and SCATTER: a piece or element within one granule at each end carries the source's bytes to its destination and changes
no other byte; GATHER indexes the source, SCATTER the destination (R220–R222). -/
def Obligations.MovesCarryBytes : Prop :=
  ∀ (s : State) (q : QIdx) (t k : Nat) (c : Cmd) (a b i : Span), Works s → Canonical s → CachesOk s → NoPoison s →
    Runs (s.toTime t) q c → c.unacked = [] → (s.gc (qEng q)).en = false → c.prog = k →
    (∀ n, c.hdr.opcode = opCopy → c.hdr.subop = 0 → wd c.words 2 = n →
      (k = 0 → checkAll (s.toTime t) q c [(wd c.words 0, n)] [(wd c.words 1, n)] = .ok () (s.toTime t)) →
      (let p := pieceAt (wd c.words 1) n k
       ReadsHere (s.toTime t) q c (wd c.words 0 + p.1) p.2 a → WritesHere (s.toTime t) q c (wd c.words 1 + p.1) p.2 b →
       ∃ s', exec (.copy q 1 t) s = .next s' ∧ PassedTo s' q c.seq (decide (pieceCount (wd c.words 1) n ≤ k + 1)) (k + 1) ∧
         coherentBytes s' (offOf b.pa) p.2 = coherentBytes s (offOf a.pa) p.2 ∧ OnlyBytes s s' (offOf b.pa) p.2)) ∧
    (ReadsHere (s.toTime t) q c (wd c.words 1 + 4 * k) 4 i →
      (let n := bits (wd c.words 3) 0 16
       let e := bits (wd c.words 3) 16 20
       let x := leNat (coherentBytes s (offOf i.pa) 4)
       (c.hdr.opcode = opGather → ReadsHere (s.toTime t) q c (wd c.words 0 + x * e) e a →
         WritesHere (s.toTime t) q c (wd c.words 2 + k * e) e b →
         ∃ s', exec (.gather q 1 t) s = .next s' ∧ PassedTo s' q c.seq (decide (n ≤ k + 1)) (k + 1) ∧
           coherentBytes s' (offOf b.pa) e = coherentBytes s (offOf a.pa) e ∧ OnlyBytes s s' (offOf b.pa) e) ∧
       (c.hdr.opcode = opScatter → ReadsHere (s.toTime t) q c (wd c.words 0 + k * e) e a →
         WritesHere (s.toTime t) q c (wd c.words 2 + x * e) e b →
         ∃ s', exec (.scatter q 1 t) s = .next s' ∧ PassedTo s' q c.seq (decide (n ≤ k + 1)) (k + 1) ∧
           coherentBytes s' (offOf b.pa) e = coherentBytes s (offOf a.pa) e ∧ OnlyBytes s s' (offOf b.pa) e)))

/-- ATOMIC on memory of this package, and SIGNAL that adds: the target becomes the operation's result on its old value, that old value
goes to RET where there is one, the flags join the command's, no other byte changes (R224, R328–R334). -/
def Obligations.AtomicUpdatesTarget : Prop :=
  ∀ (s : State) (q : QIdx) (t : Nat) (c : Cmd) (x r : Span), Works s → Canonical s → CachesOk s → NoPoison s →
    Runs (s.toTime t) q c → c.unacked = [] → c.fl = [] → relBlocks (s.toTime t) q c = false →
    Ungated (s.toTime t) q c true [x] → sharedWait s [x] = none →
    (c.hdr.opcode = opAtomic →
      (let op := c.hdr.subop
       let n := atomicSize op
       let old := leNat (coherentBytes s (offOf x.pa) n)
       let v := atomicNew op c.hdr.rz old (wd c.words 1) (wd c.words 2)
       wd c.words 0 % n = 0 →
       atomicLook (s.toTime t) (qHub q) (s.queue q).ctx (.engine q) c.hdr.hint op n (wd c.words 0) = .ok x →
       (wd c.words 3 = 0 →
         ∃ s', exec (.atomic q t) s = .next s' ∧ EndedOk s' q c.seq ∧ coherentBytes s' (offOf x.pa) n = leBytes n v.1 ∧
           OnlyBytes s s' (offOf x.pa) n ∧ (findCmd s' q c.seq).map (·.flags) = some (BitVec.ofNat 8 v.2)) ∧
       (wd c.words 3 ≠ 0 → wd c.words 3 % 8 = 0 → WritesHere (s.toTime t) q c (wd c.words 3) 8 r → sharedWait s [x, r] = none →
         (offOf r.pa + 8 ≤ offOf x.pa ∨ offOf x.pa + n ≤ offOf r.pa) →
         ∃ s', exec (.atomic q t) s = .next s' ∧ EndedOk s' q c.seq ∧ coherentBytes s' (offOf x.pa) n = leBytes n v.1 ∧
           coherentBytes s' (offOf r.pa) 8 = leBytes 8 old))) ∧
    (c.hdr.opcode = opSignal → wd c.words 2 = 1 → wd c.words 0 % 8 = 0 →
      atomicLook (s.toTime t) (qHub q) (s.queue q).ctx (.engine q) c.hdr.hint 1 8 (wd c.words 0) = .ok x →
      ∃ s', exec (.signal q t) s = .next s' ∧ EndedOk s' q c.seq ∧
        coherentBytes s' (offOf x.pa) 8 = leBytes 8 ((leNat (coherentBytes s (offOf x.pa) 8) + wd c.words 1) % 2 ^ 64) ∧
        OnlyBytes s s' (offOf x.pa) 8)

/-! ## Engine commands on tiles, points and attention -/

/-- MATMUL and VEC: a boundary reads every source and keeps the rows of D, each with its flags, before any is written; the next ones write
them row by row, each of which adds the row's flags, and the last of which ends the command; a row changes no byte but its own (R164,
R216, R218). RB_MATMUL: the last rule reads
its input row, its weights and the output row, to which it adds its contribution; no other byte changes and the command ends OK (R462,
R463, R464). -/
def Obligations.MatrixCommands : Prop :=
  (∀ (s : State) (q : QIdx) (t : Nat) (c : Cmd), Works s → Canonical s → CachesOk s → NoPoison s → Runs (s.toTime t) q c →
    Fresh c →
    (let u := s.toTime t
     let ta := tileOf c.words 0
     let tb := tileOf c.words 2
     let td := tileOf c.words 4
     let drows := rowsOf td.va td.rows td.rowBytes td.stride
     let kept (o : Host.Outcome State Fault Refusal) (rows : List (List Byte × Nat)) : Prop :=
       ∃ s' d, o = .next s' ∧ findCmd s' q c.seq = some d ∧ d.phase = .running ∧ d.prog = c.prog ∧
         d.acc = (rows.flatMap fun r => r.1.map (·.toNat) ++ [r.2]) ∧ d.fl = c.fl ∧ ∀ o, coherentByte s' o = coherentByte s o
     (∀ a b d : TileData, c.acc = [] → c.hdr.opcode = opMatmul → ReadsTile u q c ta a → ReadsTile u q c tb b →
       (bit c.hdr.subop 0 = true → ReadsTile u q c td d) →
       checkAll u q c (ta.ranges ++ tb.ranges ++ (if bit c.hdr.subop 0 then drows else [])) drows = .ok () u →
       kept (exec (.matmul q 1 t) s) (matRows c.hdr c.words a b d)) ∧
     (∀ a b : TileData, c.acc = [] → c.hdr.opcode = opVec →
       (let two := decide (1 ≤ c.hdr.subop ∧ c.hdr.subop ≤ 4)
        ReadsTile u q c ta a → (if two then ReadsTile u q c tb b else b = { rows := [], scales := [] }) →
        checkAll u q c (ta.ranges ++ (if two then tb.ranges else [])) td.ranges = .ok () u →
        kept (exec (.vec q 1 t) s) ((List.range td.rows).map fun r => packRow c.hdr.rz c.hdr.ftz td.fmt
          (vecRow c.hdr ta.fmt tb.fmt td.fmt ta.cols (a.rows.getD r []) (b.rows.getD r []))))) ∧
     ∀ (k : Nat) (l : List Span) (i : Instr), c.prog = k → c.acc ≠ [] → (k + 1) * (td.rowBytes + 1) ≤ c.acc.length → 0 < td.rowBytes →
       (c.hdr.opcode = opMatmul ∧ i = .matmul q 1 t ∨ c.hdr.opcode = opVec ∧ i = .vec q 1 t) →
       WritesTo u q c (td.va + k * td.stride) td.rowBytes l → Lands u q c l →
       ∃ s', exec i s = .next s' ∧ PassedTo s' q c.seq (decide (td.rows ≤ k + 1)) (k + 1) ∧
         spanBytes s' l = (slice c.acc (k * (td.rowBytes + 1)) td.rowBytes).map (BitVec.ofNat 8) ∧ OnlySpans s s' l ∧
         (findCmd s' q c.seq).map (mget 0 ·.fl k) = some (orF (mget 0 c.fl k) (c.acc.getD (k * (td.rowBytes + 1) + td.rowBytes) 0)))) ∧
  (∀ (s : State) (q : QIdx) (t k : Nat) (c : Cmd) (rule x g y : List Byte) (l : List Span), Works s → Canonical s → CachesOk s →
    NoPoison s → Runs (s.toTime t) q c → Fresh c → (s.gc (qEng q)).en = false → c.hdr.opcode = opRb → c.prog = k →
    (let u := s.toTime t
     let w := c.words
     let fi := fmt4 (wd w 2)
     let fw := fmt4 (wd w 3)
     let fo := fmt4 (wd w 4)
     let cin := bits (wd w 1) 16 16
     let cout := bits (wd w 1) 32 16
     let blk := elemsBytes fw (cin * cout)
     let out := va48 (wd w 4) + leAt rule 4 4 * bits (wd w 5) 32 32
     let p := packRow c.hdr.rz false fo
       ((((List.range cout).map fun i => opd false fo (rawElem fo y i)).zip (ruleSums c.hdr.rz fi fw cin cout x g)).map fun z =>
         let r := add32 c.hdr.rz false z.1.1 z.2.1
         (r.1, orF z.1.2 (orF z.2.2 r.2)))
     bits (wd w 1) 0 16 = k + 1 → ReadsAs u q c (wd w 0 + 16 * k) 16 rule → leAt rule 8 1 ≤ 124 → leAt rule 9 7 = 0 →
     ReadsAs u q c (va48 (wd w 2) + leAt rule 0 4 * bits (wd w 5) 0 32) (elemsBytes fi cin) x →
     ReadsAs u q c (va48 (wd w 3) + leAt rule 8 1 * blk) blk g → ReadsAs u q c out (elemsBytes fo cout) y →
     0 < elemsBytes fo cout → p.1.length = elemsBytes fo cout → WritesTo u q c out (elemsBytes fo cout) l → Lands u q c l →
     ∃ s', exec (.rbMatmul q 1 t) s = .next s' ∧ EndedOk s' q c.seq ∧ spanBytes s' l = p.1 ∧ OnlySpans s s' l ∧
       (findCmd s' q c.seq).map (mget 0 ·.fl k) = some (orF (mget 0 c.fl k) p.2)))

/-- PT_INSERT and PT_LOOKUP of a point: off the grid it gets result 6; otherwise the slots from its home slot on are probed, up to 32 of
them; an insert counts in the slot that holds the key (1) or takes the empty one (0), or finds the table full (5); a lookup answers
the slot (2), or none (3, or 4 after 32 probes); the record is written and no other byte changes (R444, R447, R448, R449). PT_BALL and
PT_KNN of a query whose near voxels are found, or not, in their home slots: the record tells the kept candidates in scan order or in
order of distance, cut to K; a query off the grid has result 6 (R453, R454, R455, R456, R457). PT_RULEBOOK of a site, in the same way:
its rules, where there are any, and its entry in the index, where there is one, are written, and after the last site the header (R459,
R460, R461). No other byte changes. -/
def Obligations.PointCommands : Prop :=
  (∀ (s : State) (q : QIdx) (t k : Nat) (c : Cmd) (pt org : List Byte) (l m : List Span), Works s → Canonical s → CachesOk s →
    NoPoison s → Runs (s.toTime t) q c → Fresh c → (s.gc (qEng q)).en = false → c.prog = k →
    (let u := s.toTime t
     let w := c.words
     let last := decide (bits (wd w 3) 0 16 ≤ k + 1)
     let res (s' : State) (key slot : Option Nat) (code : Nat) : Prop :=
       PassedTo s' q c.seq last (k + 1) ∧ spanBytes s' l = pointResult pt key slot code
     ReadsAs u q c (wd w 2 + 16 * k) 16 pt → ReadsAs u q c (wd w 5) 16 org → WritesTo u q c (wd w 4 + 32 * k) 32 l → Lands u q c l →
     (∀ i, (c.hdr.opcode = opInsert ∧ i = Instr.ptInsert q 1 t ∨ c.hdr.opcode = opLookup ∧ i = .ptLookup q 1 t) →
       (pointKey pt org (bits (wd w 1) 32 32)).1 = none →
       ∃ s', exec i s = .next s' ∧ res s' none none 6 ∧ OnlySpans s s' l) ∧
     ∀ (key n : Nat) (b : Nat → List Byte), (pointKey pt org (bits (wd w 1) 32 32)).1 = some key → ProbesPast u q c key n b →
       (let slot := probeSlot w key n
        (n < 32 → ReadsAs u q c (wd w 0 + 16 * slot) 16 (b n) →
          (c.hdr.opcode = opLookup →
            (slotEmpty (b n) → ∃ s', exec (.ptLookup q 1 t) s = .next s' ∧ res s' (some key) none 3 ∧ OnlySpans s s' l) ∧
            (slotHolds (b n) key →
              ∃ s', exec (.ptLookup q 1 t) s = .next s' ∧ res s' (some key) (some slot) 2 ∧ OnlySpans s s' l)) ∧
          (c.hdr.opcode = opInsert → Lands u q c (m ++ l) →
            (slotEmpty (b n) → WritesTo u q c (wd w 0 + 16 * slot) 16 m →
              ∃ s', exec (.ptInsert q 1 t) s = .next s' ∧ res s' (some key) (some slot) 0 ∧
                spanBytes s' m = leBytes 8 (2 ^ 63 + key) ++ leBytes 8 1 ∧ OnlySpans s s' (m ++ l)) ∧
            (slotHolds (b n) key → WritesTo u q c (wd w 0 + 16 * slot + 8) 8 m →
              ∃ s', exec (.ptInsert q 1 t) s = .next s' ∧ res s' (some key) (some slot) 1 ∧
                (let v := leAt (b n) 8 8
                 spanBytes s' m = leBytes 8 (if v % 2 ^ 32 = 2 ^ 32 - 1 then v else v + 1)) ∧ OnlySpans s s' (m ++ l)))) ∧
        (n = 32 →
          (c.hdr.opcode = opLookup → ∃ s', exec (.ptLookup q 1 t) s = .next s' ∧ res s' (some key) none 4 ∧ OnlySpans s s' l) ∧
          (c.hdr.opcode = opInsert → ∃ s', exec (.ptInsert q 1 t) s = .next s' ∧ res s' (some key) none 5 ∧ OnlySpans s s' l))))) ∧
  (∀ (s : State) (q : QIdx) (t k : Nat) (c : Cmd), Works s → Canonical s → CachesOk s → NoPoison s → Runs (s.toTime t) q c →
    Fresh c → (s.gc (qEng q)).en = false → c.prog = k →
    (let u := s.toTime t
     let w := c.words
     let n := bits (wd w 3) 0 16
     let home (key : Nat) (v : Option Nat) : Prop := ∃ b, ReadsAs u q c (wd w 0 + 16 * probeSlot w key 0) 16 b ∧ (match v with
       | none => slotEmpty b
       | some v => slotHolds b key ∧ leAt b 8 8 = v)
     (∀ (i : Instr) (qy kb : List Byte) (val : Nat → Option Nat) (pts : Nat → List (List Byte)) (l : List Span),
       (c.hdr.opcode = opBall ∧ i = .ptBall q 1 t ∨ c.hdr.opcode = opKnn ∧ i = .ptKnn q 1 t) →
       ReadsAs u q c (wd w 2 + 32 * k) 12 qy → ReadsAs u q c (wd w 2 + 32 * k + 16) 8 kb →
       (let kk := bits (wd w 3) 16 8
        let rad := bits (wd w 5) 0 32
        let off := bit (leNat kb) 63
        let keys := if off then [] else nearKeys (leNat kb) (reach rad (bits (wd w 1) 32 32))
        let cands := keys.flatMap fun key => (pts key).map fun b => ({ id := leAt b 12 4, d2 := (dist2 b qy).1 } : Cand)
        let inside := cands.filter fun x => within x.d2 (mul32 false false rad rad).1
        let ball := decide (c.hdr.opcode = opBall)
        let rec_ := searchResult kk (if off then 6 else 0) (b2n (ball && decide (kk < inside.length))) cands.length
          ((if ball then inside else sortBy nearer inside).take kk)
        (∀ key ∈ keys, home key (val key) ∧ (match val key with
          | none => pts key = []
          | some v => (pts key).length = bits v 48 16 ∧
            ∀ j < bits v 48 16, ReadsAs u q c (bits v 0 48 + 16 * j) 16 ((pts key).getD j []))) →
        WritesTo u q c (wd w 4 + k * (8 + 8 * kk)) (8 + 8 * kk) l → Lands u q c l →
        ∃ s', exec i s = .next s' ∧ PassedTo s' q c.seq (decide (n ≤ k + 1)) (k + 1) ∧ spanBytes s' l = rec_ ∧ OnlySpans s s' l)) ∧
     ∀ (b : List Byte) (val : Nat → Option Nat) (la lb lc : List Span), c.hdr.opcode = opRulebook →
       ReadsAs u q c (wd w 2 + 16 * k) 16 b →
       (let keys := if bit (leAt b 0 8) 63 then [] else siteKeys (leAt b 0 8) (bits (wd w 1) 8 4) (bits (wd w 1) 12 4)
        let rules := keys.flatMap fun x => match val x.2 with
          | none => []
          | some v => leBytes 4 (v % 2 ^ 32) ++ slice b 8 4 ++ leBytes 1 x.1 ++ leBytes 7 0
        let m := rules.length / 16
        (∀ x ∈ keys, home x.2 (val x.2)) →
        (if m = 0 then la = [] else WritesTo u q c (wd w 4 + 64 + 16 * c.merged) rules.length la) →
        (if wd w 5 = 0 then lb = [] else WritesTo u q c (wd w 5 + 8 * k) 8 lb) → WritesTo u q c (wd w 4) 64 lc →
        Lands u q c (la ++ lb ++ lc) →
        let last := decide (n ≤ k + 1)
        ∃ s', exec (.ptRulebook q 1 t) s = .next s' ∧ PassedTo s' q c.seq last (k + 1) ∧
          (findCmd s' q c.seq).map (·.merged) = some (c.merged + m) ∧ spanBytes s' la = rules ∧
          (wd w 5 ≠ 0 → spanBytes s' lb = leBytes 4 c.merged ++ leBytes 4 m) ∧
          (last = true → spanBytes s' lc = leBytes 4 (c.merged + m) ++ leBytes 4 (k + 1) ++ leBytes 56 0) ∧
          OnlySpans s s' (la ++ lb ++ (if last then lc else [])))))

/-- ATTN with full output: the header, the queries, their positions where MASK asks for them, the page-table entries and the keys and
values of the tokens are read; each output row is the attention of its query over the tokens at or below its position; no other byte
changes and the command ends OK (R414, R415, R418, R419, R420, R421, R422). COMBINE: a group all of whose spans have arrived is
opened, its triples are read in the order of their spans and merged, the output rows are written and the command ends OK; while a span
has not arrived it waits, and a failed one ends it and leaves the group stale (R430, R431, R434, R435, R436). -/
def Obligations.AttentionAndCombine : Prop :=
  (∀ (s : State) (q : QIdx) (t : Nat) (c : Cmd) (hb qb pb : List Byte) (e kb vb : Nat → List Byte) (l : List Span), Works s →
    Canonical s → CachesOk s → NoPoison s → Runs (s.toTime t) q c → Fresh c → (s.gc (qEng q)).en = false → c.hdr.opcode = opAttn →
    bit c.hdr.subop 0 = false →
    (let u := s.toTime t
     let w := c.words
     let h := c.hdr
     let hd : KvHead := { fmt := leAt hb 0 1, base := leAt hb 8 4, ks := leAt hb 12 4, vs := leAt hb 16 4 }
     let rows := atRows w
     let dim := atDim w
     let fq := fmt4 (wd w 0)
     let qn := rows * dim * eBytes fq
     let first := bits (wd w 2) 0 32
     let n := bits (wd w 2) 32 32
     let row := dim * eBytes hd.fmt
     let p0 := (first - hd.base) / 256
     let p1 := (first + n - 1 - hd.base) / 256
     let blk (p : Nat) : KvBlock :=
       let lo := max first (hd.base + 256 * p)
       { first := lo, n := min (first + n) (hd.base + 256 * (p + 1)) - lo, k := kb p, v := vb p }
     let kv := (List.range (p1 + 1 - p0)).map fun i => blk (p0 + i)
     let limit (r : Nat) : Option Nat := if bit h.subop 1 then some (leAt pb 0 4 + r / leAt pb 4 2) else none
     let out := (List.range rows).flatMap fun r => (outRow h.rz h.ftz (fmt4 (wd w 3))
       (atRow h.rz h.ftz dim (opd h.ftz 0 (atScale w)) hd kv (rowElems fq dim qb r (opd h.ftz fq)) (limit r))).1
     0 < n → ReadsAs u q c (wd w 1) 64 hb → kvHeadOk w hb = true → ReadsAs u q c (va48 (wd w 0)) qn qb →
     (bit h.subop 1 = true → ReadsAs u q c (up64 (va48 (wd w 0) + qn)) 16 pb ∧ 1 ≤ leAt pb 4 2 ∧ leAt pb 4 2 ≤ 256 ∧ leAt pb 6 10 = 0) →
     (∀ p, p0 ≤ p → p ≤ p1 → ReadsAs u q c (wd w 1 + 64 + 8 * p) 8 (e p) ∧ bit (leNat (e p)) 63 = true ∧ bits (leNat (e p)) 48 15 = 0 ∧
       va48 (leNat (e p)) % 4096 = 0 ∧
       (let r := (blk p).first - hd.base - 256 * p
        ReadsAs u q c (va48 (leNat (e p)) + r * row) ((blk p).n * row) (kb p) ∧
        ReadsAs u q c (va48 (leNat (e p)) + (256 + r) * row) ((blk p).n * row) (vb p))) →
     WritesTo u q c (va48 (wd w 3)) out.length l → Lands u q c l →
     ∃ s', exec (.attn q t) s = .next s' ∧ EndedOk s' q c.seq ∧ spanBytes s' l = out ∧ OnlySpans s s' l)) ∧
  (∀ (s : State) (q : QIdx) (t : Nat) (c : Cmd), Works s → Canonical s → CachesOk s → NoPoison s → Runs (s.toTime t) q c →
    Fresh c → c.hdr.opcode = opCombine → c.marked = false →
    (let u := s.toTime t
     let w := c.words
     let g := bits (wd w 0) 0 16
     let spans := bits (wd w 0) 16 16
     let rows := bits (wd w 0) 32 16
     let dim := bits (wd w 0) 48 16
     let x := s.cbGrp (qHub q) g
     x.st ≠ .opened → x.st ≠ .stale → mwf false x.spans = true →
     (∀ j, x.fail = some j → j < spans → ∃ s' d, exec (.combine q t) s = .next s' ∧ findCmd s' q c.seq = some d ∧ d.phase = .ended ∧
       d.status = .depFailed ∧ d.cause = cFetchFailed ∧ (s'.cbGrp (qHub q) g).st = .stale ∧ SameMemory s s') ∧
     ((∀ j, x.fail = some j → spans ≤ j) →
       (mget false x.spans 0 = false → ∃ s' d, exec (.combine q t) s = .next s' ∧ findCmd s' q c.seq = some d ∧ d.phase = .running ∧
         d.waiting = true ∧ d.marked = true ∧ (s'.cbGrp (qHub q) g).st = .opened ∧ SameMemory s s') ∧
       ∀ (tri : Nat → List Byte) (l : Nat → List Span), (∀ k < spans, mget false x.spans k = true ∧
         leAt (tri k) 0 2 = k ∧ leAt (tri k) 2 2 = g ∧ leAt (tri k) 4 2 = rows ∧ leAt (tri k) 6 2 = dim ∧
         ∃ m, ReadsFrom u q c (wd w 1 + k * tripleBytes rows dim) (tripleBytes rows dim) m ∧ spanBytes u m = tri k ∧
           ∀ y ∈ m, destHub u y.pa = (u.boot.pos.val, (qHub q).val) ∧ tripleMem u y.pa = true) →
         (let merged := (List.range (spans - 1)).foldl
            (fun a k => (a.zip (tripleRows rows dim (tri (k + 1)))).map fun p => mergeRow c.hdr.rz p.1 p.2) (tripleRows rows dim (tri 0))
          let out (i : Nat) : List Byte := ((merged.map fun r => (outRow c.hdr.rz false (fmt4 (wd w 2)) r).1).getD i [])
          (∀ i < rows, WritesTo u q c (va48 (wd w 2) + i * wd w 3) (out i).length (l i)) →
          Lands u q c ((List.range rows).flatMap l) →
          ∃ s', exec (.combine q t) s = .next s' ∧ EndedOk s' q c.seq ∧ (∀ i < rows, spanBytes s' (l i) = out i) ∧
            OnlySpans s s' ((List.range rows).flatMap l)))))

/-! ## Transfers from other packages -/

/-- A write from another package that passes the receiving check is performed and acknowledged; one that fails it is not performed and is
answered with the reason, logged where the firewall stopped it; once the receiving hub die has begun its commit it is discarded (R259,
R477, R478, R511). A read from another package that passes the receiving check is answered with the coherent bytes; one that fails it
is answered with the reason and no data; one of a host function's ledger or dump window with what that window shows the function; no
byte changes (R324, R477, R605, R606). -/
def Obligations.RemoteTransfersArrive : Prop :=
  (∀ (s : State) (w : RemoteWrite), Works s → CachesOk s → reaches s w.src = true →
    (commitBegun s (homeHub s w.addr) = true → exec (.remoteWriteArrival w) s = .next s) ∧
    (commitBegun s (homeHub s w.addr) = false →
      (NoPoison s → farStop s w.part w.addr w.data.length = none → isReg (offOf w.addr) = false → memBusy s (offOf w.addr) = false →
        sharedBytes s (offOf w.addr) w.data.length = false → w.data ≠ [] → offOf w.addr % 64 + w.data.length ≤ 64 →
        ∃ t, exec (.remoteWriteArrival w) s = .next (t.send (.flkAck w.src w.issuer w.addr .ok)) ∧
          coherentBytes t (offOf w.addr) w.data.length = w.data ∧ OnlyBytes s t (offOf w.addr) w.data.length ∧
          t.queues = s.queues ∧ SameStart s t) ∧
      ∀ a h, farStop s w.part w.addr w.data.length = some (a, h) →
        ∃ t, exec (.remoteWriteArrival w) s = .next (t.send (.flkAck w.src w.issuer w.addr a)) ∧ SameMemory s t ∧ SameWork s t ∧
          SameStart s t ∧ (a = .firewall → (s.blk (pgKey h.val ixHub)).cntFreeze = false → mwf {} s.blks = true →
            mwf 0 (s.blk (pgKey h.val ixHub)).cnt = true →
            t.cnt (pgKey h.val ixHub) 0x088 = s.cnt (pgKey h.val ixHub) 0x088 + 1))) ∧
  (∀ (s : State) (r : RemoteRead) (v : FarView), Works s → reaches s r.src = true → r.view = some v →
    exec (.remoteReadRequest r) s = .next (s.send (.flkData r.src r.issuer r.addr .ok ((List.range r.len).map fun i =>
      match v with
      | .ledger h => ledgerByte s h ((r.attr.fn.map (·.val)).getD 0) (offOf r.addr + i)
      | .dump => dumpByte s ((r.attr.fn.map (·.val)).getD 0) (offOf r.addr + i))))) ∧
  (∀ (s : State) (r : RemoteRead), Works s → CachesOk s → NoPoison s → reaches s r.src = true → r.view = none →
    (farStop s r.part r.addr r.len = none → isReg (offOf r.addr) = false → memBusy s (offOf r.addr) = false →
      0 < r.len → offOf r.addr % 64 + r.len ≤ 64 →
      ∃ t, exec (.remoteReadRequest r) s =
          .next (t.send (.flkData r.src r.issuer r.addr .ok (coherentBytes s (offOf r.addr) r.len))) ∧
        (∀ o, coherentByte t o = coherentByte s o) ∧ t.queues = s.queues ∧ SameStart s t) ∧
    ∀ a h, farStop s r.part r.addr r.len = some (a, h) →
      ∃ t, exec (.remoteReadRequest r) s = .next (t.send (.flkData r.src r.issuer r.addr a [])) ∧ SameMemory s t ∧ SameWork s t ∧
        SameStart s t)

/-- Answers to a command's remote transfers: data for an open read is kept for it, the last acknowledgement ends a command whose accesses
are all performed, and an answer for a command that has ended, or for an earlier execution of it, is discarded and counted (R164,
R317, R324, R574). -/
def Obligations.RemoteAnswersReachTheirCommand : Prop :=
  ∀ (s : State) (q : QIdx) (seq : W32) (gen a t : Nat) (data : List Byte), Works s → Canonical s → 0 < gen →
    (∀ c p, findCmd s q seq = some c → c.phase = .running → c.gen = gen → c.need = [p] → p.1 = a → data.length = p.2 →
      ∃ s' d, exec (.remoteReadResponse (.cmd q seq gen) a .ok data t) s = .next s' ∧ findCmd s' q seq = some d ∧ d.need = [] ∧
        d.rdata = keepBytes c.rdata a data ∧ d.phase = .running ∧ SameMemory s s' ∧ SameStart s s') ∧
    (∀ c u, findCmd s q seq = some c → c.phase = .running → c.gen = gen → c.performed = true → c.unacked = [u] → u.1 = a →
      c.status = .ok → c.head = [] →
      ∃ s', exec (.remoteWriteAck (.cmd q seq gen) a .ok t) s = .next s' ∧ EndedOk s' q seq ∧ SameMemory s s' ∧ SameStart s s') ∧
    ((∀ c, findCmd s q seq = some c → c.phase ≠ .running ∨ c.gen ≠ gen) →
      exec (.remoteReadResponse (.cmd q seq gen) a .ok data t) s = .next (lateDiscard (s.toTime t) (qDie q)) ∧
      exec (.remoteWriteAck (.cmd q seq gen) a .ok t) s = .next (lateDiscard (s.toTime t) (qDie q)))

/-- A knot unit with no sequence open: a piece of position 0 opens its sequence, is performed and acknowledged; a piece of a later
position is held, and no byte changes. An end mark that counts the pieces seen lets NEXT go on, or frees the sequence past LAST (R315,
R316, R318); one that corrects an earlier mark finds nothing to correct in a member without a mark, and changes nothing. -/
def Obligations.KnotPiecesAreOrdered : Prop :=
  ∀ (s : State) (p : KnotPiece), Works s → CachesOk s → reaches s p.src = true → commitBegun s p.hub = false →
    (s.knot p.hub).waiting = [] →
    (let k := knotKey p.src p.knotId
     (farStop s p.part p.addr p.data.length = none → (s.knot p.hub).seqs = [] → isReg (offOf p.addr) = false →
      memBusy s (offOf p.addr) = false → sharedBytes s (offOf p.addr) p.data.length = false → p.data ≠ [] →
      offOf p.addr % 64 + p.data.length ≤ 64 →
      (knotPos p.knotSeq = 0 → ∃ s', exec (.knotWriteArrival p) s = .next s' ∧ (s'.seq p.hub k).isOpen = true ∧
        (s'.seq p.hub k).next = 0 ∧ (s'.seq p.hub k).held = [] ∧ (mget {} (s'.seq p.hub k).members 0).seen = 1 ∧
        s'.out = .flkAck p.src p.issuer p.addr .ok :: s.out ∧
        coherentBytes s' (offOf p.addr) p.data.length = p.data ∧ OnlyBytes s s' (offOf p.addr) p.data.length) ∧
      (1 ≤ knotPos p.knotSeq → knotPos p.knotSeq ≤ 2 ^ 30 → ∃ s', exec (.knotWriteArrival p) s = .next s' ∧
        (s'.seq p.hub k).held = [p] ∧ (s'.seq p.hub k).next = 0 ∧ s'.out = s.out ∧
        (s'.knot p.hub).heldCnt = (s.knot p.hub).heldCnt + 1 ∧ SameMemory s s')) ∧
     ∀ (m : EndMark) (x : KnotSeq) (y : KMember), m.src = p.src → m.hub = p.hub → m.knotId = p.knotId →
      farAllows s p.hub m.part = true → (m.again = true → y.mark = none → (s.seq p.hub k).members = [(x.next, y)] → x.next = knotPos m.knotSeq →
        exec (.knotEndMark m) s = .next s) ∧
      (m.again = false → m.ok = true → m.notice = none → (s.knot p.hub).seqs = [(k, x)] → x.isOpen = true →
      x.held = [] → x.next = knotPos m.knotSeq → x.members = [(x.next, y)] → y.mark = none → y.notice = none → y.last = knotLast m.knotSeq →
      y.seen = m.pieces → 0 < y.seen →
      ∃ s', exec (.knotEndMark m) s = .next s' ∧ SameMemory s s' ∧ SameWork s s' ∧
        (knotLast m.knotSeq = true → (s'.knot p.hub).seqs = []) ∧
        (knotLast m.knotSeq = false → (s'.seq p.hub k).next = (x.next + 1) % 2 ^ 31 ∧ (s'.seq p.hub k).isOpen = true)))

/-- A combine notice: a group that is not stale takes a span it has not had, an error with the lowest failed span; a repeated span and a
notice for a stale group are only counted. CLR returns the selected group to idle unless it is open; FLUSH frees every sequence of the
knot unit and discards what it holds, whereupon what waits on the link goes on (R318, R327, R428–R431). -/
def Obligations.CombineNoticesAndClears : Prop :=
  ∀ (s : State) (h : Hub), Works s → Canonical s →
    (∀ (g k : Nat) (ok : Bool), (g < 64 ∨ 3 ≤ s.boot.feat) →
      (let x := s.cbGrp h g
       (mwf false x.spans = true → (x.st = .idle ∨ x.st = .collecting) → mget false x.spans k = false →
         ∃ s', exec (.combineNotice h g k ok) s = .next s' ∧ (s'.cbGrp h g).st = .collecting ∧
           (∀ j, mget false (s'.cbGrp h g).spans j = (decide (j = k) || mget false x.spans j)) ∧
           (s'.cbGrp h g).fail = (if ok then x.fail else failSpan x.fail k) ∧
           (∀ j, j ≠ g → s'.cbGrp h j = s.cbGrp h j) ∧ SameMemory s s' ∧ SameWork s s' ∧ SameStart s s') ∧
       (x.st = .stale → exec (.combineNotice h g k ok) s = .next (s.count (cbPage h) 0x098 1)) ∧
       (x.st ≠ .stale → mget false x.spans k = true →
         exec (.combineNotice h g k ok) s = .next (s.count (cbPage h) 0x090 1)))) ∧
    (∃ s', exec (.cbGrpClr .prostoza h) s = .next s' ∧ SameMemory s s' ∧ SameWork s s' ∧ SameStart s s' ∧
      (let g := mget 0 (s.hub h).cbSel 0
       s'.cbGrp h g = (if (s.cbGrp h g).st = .opened then s.cbGrp h g else {}) ∧ ∀ j, j ≠ g → s'.cbGrp h j = s.cbGrp h j)) ∧
    ∃ s', exec (.knotCtlFlush .prostoza h) s = .next (knotRun s' h) ∧ (s'.knot h).seqs = [] ∧
      (s'.knot h).waiting = (s.knot h).waiting ∧
      (s'.knot h).discarded = (s.knot h).discarded + BitVec.ofNat 64 (s.knot h).heldList.length ∧
      ((s.knot h).waiting = [] → knotRun s' h = s') ∧
      s'.hub (1 - h) = s.hub (1 - h) ∧ SameMemory s s' ∧ SameWork s s' ∧ SameStart s s'

/-! ## Creels and storage -/

/-- CREEL ARM of a creel that is not armed: the table is read and, if it is in order, the creel is armed at the layer of its step group; a
table that is not fails the command with BAD_OPERAND. CREEL DISARM ends once no fetch is in flight, and waits until then (R400, R401,
R402, R403). A creel fetch from memory of the package: issued for the occurrence that is due, it is in flight; complete, its bytes are
in the slot, the slot is READY and no other byte has changed; once the cycle of its timeout has passed it fails with reason 6 (R405,
R408; that cycle itself left to an arrival: the model's choice, log entry 121). -/
def Obligations.Creels : Prop :=
  (∀ (s : State) (q : QIdx) (t : Nat) (c : Cmd), Works s → Canonical s → CachesOk s → NoPoison s → Runs (s.toTime t) q c →
    Fresh c → (s.gc (qEng q)).en = false → c.hdr.opcode = opCreel →
    (let u := s.toTime t
     let w := c.words
     let x := s.creel (cpOf q)
     let n := bits (wd w 1) 0 16
     let g : Fin 16 := Fin.ofNat 16 (bits (wd w 1) 16 4)
     (∀ tab : List Byte, c.hdr.subop = 0 → x.st = 0 → ReadsAs u q c (wd w 0) (512 + 32 * n) tab →
       (parseTable tab n = none → ∃ s' d, exec (.creelArm q t) s = .next s' ∧ findCmd s' q c.seq = some d ∧ d.phase = .ended ∧
         d.status = .failed ∧ d.cause = cBadOperand ∧ s'.creel (cpOf q) = x ∧ ∀ o, coherentByte s' o = coherentByte s o) ∧
       ∀ bufs ents, parseTable tab n = some (bufs, ents) →
         ∃ s', exec (.creelArm q t) s = .next s' ∧ EndedOk s' q c.seq ∧ (∀ o, coherentByte s' o = coherentByte s o) ∧
           (s'.creel (cpOf q)).st = 1 ∧ (s'.creel (cpOf q)).group = g ∧ (s'.creel (cpOf q)).bufs = bufs ∧
           (s'.creel (cpOf q)).ents = ents ∧ (s'.creel (cpOf q)).layers = leAt tab 2 2 ∧ (s'.creel (cpOf q)).queue = q ∧
           (s'.creel (cpOf q)).aArm = (s.grp (qHub q) g).layer.toNat % leAt tab 2 2 ∧
           (s'.creel (cpOf q)).aNow = (s'.creel (cpOf q)).aArm ∧ (s'.creel (cpOf q)).fetches = []) ∧
     (c.hdr.subop = 1 → mget false s.engRst (cpEng (cpOf q)) = false →
       (x.inFlight = false → (∀ e ∈ s.queues, ∀ d ∈ e.2.cmds, d.lateCp = none) → x.st ≤ 1 →
         ∃ s', exec (.creelDisarm q t) s = .next s' ∧ EndedOk s' q c.seq ∧ (s'.creel (cpOf q)).st = 0 ∧
           (∀ e, e ≠ cpOf q → s'.creel e = s.creel e) ∧ SameMemory s s') ∧
       (x.inFlight = true → x.st = 1 ∨ x.st = 2 →
         ∃ s' d, exec (.creelDisarm q t) s = .next s' ∧ findCmd s' q c.seq = some d ∧ d.phase = .running ∧ d.waiting = true ∧
           s'.creel (cpOf q) = { x with st := 2 } ∧ SameMemory s s')))) ∧
  (∀ (s : State) (e : Fin 16) (t : Nat), Works s → Canonical s → (s.creel e).st = 1 → mwf none (s.creel e).fetches = true →
    (∀ a b j ent l, s.doff.stopped = false → mget false s.stopped (engPage (cpEng e)) = false → creelYields s e = false →
      (s.creel e).next = some (a, b, j, ent) → ent.store = false → fetchCheck (s.toTime t) e ent ((s.creel e).slotVa b j) = .ok l →
      missing s [] l = [] →
      ∃ s', exec (.creelFetchIssue e t) s = .next s' ∧ SameMemory s s' ∧ s'.queues = s.queues ∧ SameStart s s' ∧
        (s'.creel e).fetchOf b j = some { occ := a, st := .filling, at0 := max s.now t, rdata := [], need := [], rfail := none } ∧
        ((s.blk (engPage (cpEng e))).cntFreeze = false →
          s'.cnt (engPage (cpEng e)) 0x080 = s.cnt (engPage (cpEng e)) 0x080 + 1)) ∧
    (∀ b j f ent, fillingAt s e b j = some f → f.rfail = none →
      ((s.creel e).entsOf b).find? (fun y => y.layer = f.occ % (s.creel e).layers) = some ent → ent.store = false →
      nvmeAwaited s (ssdHub ent.ssd) (.creel e b j) = false →
      ∀ (x y : Span), CachesOk s → NoPoison s → fetchCheck (s.toTime t) e ent ((s.creel e).slotVa b j) = .ok [x] →
        vaCheck (s.toTime t) (qHub (s.creel e).queue) (s.queue (s.creel e).queue).ctx (.engine (s.creel e).queue) false true ent.hint
          ((s.creel e).slotVa b j) ent.len = .ok [y] →
        isLocal s x.pa = true → isLocal s y.pa = true → x.n = ent.len → y.n = ent.len → 0 < ent.len →
        (∀ i < ent.len, isReg (offOf x.pa + i) = false ∧ isReg (offOf y.pa + i) = false) →
        spansBusy s [x, y] = false → sharedWait s [y] = none →
        ∃ s' g, exec (.creelFetchComplete e b j t) s = .next s' ∧ (s'.creel e).fetchOf b j = some g ∧ g.st = .ready ∧
          (∀ i < ent.len, coherentByte s' (offOf y.pa + i) = coherentByte s (offOf x.pa + i)) ∧ OnlyBytes s s' (offOf y.pa) ent.len) ∧
    ∀ b j f, fillingAt s e b j = some f → (s.creel e).timeout ≠ 0 →
      (max s.now t ≤ f.at0 + us (s.creel e).timeout → exec (.creelFetchTimeout e b j t) s = .next (s.toTime t)) ∧
      (f.at0 + us (s.creel e).timeout < max s.now t → ∃ s' g, exec (.creelFetchTimeout e b j t) s = .next s' ∧
        (s'.creel e).fetchOf b j = some g ∧ g.st = .failed 6 ∧ SameMemory s s' ∧ s'.queues = s.queues ∧ SameStart s s'))

/-- The storage ports: EN of the port releases the SSDs' reset and takes what enumeration finds, and gives all of it up again; an SSD that
drops takes its namespaces along; a completion no one awaits is discarded and counted; a failed one fails its STORE with FETCH_FAILED;
a successful one completes a STORE that writes (R384, R385, R612). STORE itself: with SUBOP 0 it asks its SSD for the blocks and
awaits them, and writes up to 64 bytes that have come and ends OK; with SUBOP 1 it reads its bytes, sends them and awaits the SSD's
success (R225, R385). -/
def Obligations.StoragePortServes : Prop :=
  (∀ (s : State) (h : Hub) (found : List NsFound), Works s → Canonical s →
    ((s.hub h).slk.en = false → ∃ s', exec (.storagePortEnable .prostoza h true found) s = .next s' ∧ (s'.hub h).slk.en = true ∧
      (s'.hub h).slk.nss = found ∧ (if h = 0 then s'.pins.perst0 else s'.pins.perst1) = .high ∧ SameMemory s s' ∧ SameWork s s') ∧
    ((s.hub h).slk.en = true → (s.hub h).slk.reqs = [] →
      ∃ s', exec (.storagePortEnable .prostoza h false found) s = .next s' ∧ (s'.hub h).slk.en = false ∧
        (s'.hub h).slk.nss = [] ∧ (if h = 0 then s'.pins.perst0 else s'.pins.perst1) = .low ∧ SameMemory s s' ∧ SameWork s s') ∧
    (∀ (n : Fin 8) (t : Nat), (∀ r ∈ (s.hub h).slk.reqs, r.ssd % 8 ≠ n.val) →
      ∃ s', exec (.ssdLinkDrop h n t) s = .next s' ∧ (s'.hub h).slk.nss = (s.hub h).slk.nss.filter (fun x => x.ssd.val ≠ n.val) ∧
        SameMemory s s' ∧ SameWork s s' ∧ SameStart s s') ∧
    ∀ (tag t : Nat) (status : W16) (data : List Byte),
      ((∀ r ∈ (s.hub h).slk.reqs, r.tag ≠ tag) →
        exec (.nvmeCompletion h tag status data t) s = .next (lateDiscard (s.toTime t) h.val)) ∧
      ∀ q c r, (s.hub h).slk.reqs = [r] → r.tag = tag → r.owner = .cmd q c.seq → Runs (s.toTime t) q c → c.hdr.opcode = opStore →
        (status ≠ 0 → ∃ s' d, exec (.nvmeCompletion h tag status data t) s = .next s' ∧ (s'.hub h).slk.reqs = [] ∧
          findCmd s' q c.seq = some d ∧ d.phase = .ended ∧ d.status = .failed ∧ d.cause = cFetchFailed ∧ SameMemory s s') ∧
        (status = 0 → c.hdr.subop = 1 → c.acc = [] → c.unacked = [] →
          (nsBlock s (bits (wd c.words 2) 48 4) (bits (wd c.words 2) 16 32)).isSome = true → h = ssdHub (bits (wd c.words 2) 48 4) →
          ∃ s', exec (.nvmeCompletion h tag status data t) s = .next s' ∧ (s'.hub h).slk.reqs = [] ∧ EndedOk s' q c.seq ∧
            SameMemory s s')) ∧
  ∀ (s : State) (q : QIdx) (t b : Nat) (c : Cmd), Works s → Canonical s → CachesOk s → NoPoison s → Runs (s.toTime t) q c → Fresh c →
    c.hdr.opcode = opStore →
    (let u := s.toTime t
     let va := wd c.words 0
     let n := bits (wd c.words 2) 0 16
     let nsid := bits (wd c.words 2) 16 32
     let ssd := bits (wd c.words 2) 48 4
     let h := ssdHub ssd
     let r : NvmeReq := { tag := (s.hub h).slk.nextTag, owner := .cmd q c.seq, ssd := ssd }
     let asked (s' : State) (wr : Bool) (data : List Byte) : Prop :=
       (s'.hub h).slk.reqs = (s.hub h).slk.reqs ++ [r] ∧ .nvme h r.tag ssd nsid (wd c.words 1) n wr data ∈ s'.out ∧
       (∃ d, findCmd s' q c.seq = some d ∧ d.phase = .running ∧ d.waiting = true) ∧ (∀ o, coherentByte s' o = coherentByte s o) ∧
       SameStart s s'
     nsBlock s ssd nsid = some b → nvmeAwaited s h r.owner = false →
     (c.acc = [] →
       (∀ l, c.hdr.subop = 0 → vaCheck u (qHub q) (s.queue q).ctx (.engine q) false true c.hdr.hint va (n * b) = .ok l →
         ∃ s', exec (.store q t) s = .next s' ∧ asked s' false []) ∧
       ∀ bs, c.hdr.subop = 1 → (s.gc (qEng q)).en = false → ReadsAs u q c va (n * b) bs →
         ∃ s', exec (.store q t) s = .next s' ∧ asked s' true bs) ∧
     ∀ l, c.hdr.subop = 0 → c.prog = 0 → 0 < c.acc.length → c.acc.length ≤ 64 → WritesTo u q c va c.acc.length l → Lands u q c l →
       ∃ s', exec (.store q t) s = .next s' ∧ EndedOk s' q c.seq ∧ spanBytes s' l = c.acc.map (BitVec.ofNat 8) ∧ OnlySpans s s' l)

/-! ## Cores -/

/-- A load of memory answers the coherent bytes, or those of the youngest buffered store that covers it; one that a store meets only in
part waits; LDRES of an aligned word of this package reserves it as well; no byte of memory changes, and a plain load leaves a
reservation as it was or loses it with its line (R262–R264, R272, R273, R276). -/
def Obligations.CoreLoadsAnswer : Prop :=
  ∀ (s : State) (c : CoreId) (a : CoreAccess) (t : Nat), Works s → Canonical s → CachesOk s → NoPoison s →
    mwf [] (s.core c).regs = true → CoreReaches s c a →
    (LoadsFreely s c a →
      (∃ s', exec (.coreLoad c a t) s = .next s' ∧
        (∀ r, mget [] (s'.core c).regs r = if r = a.dest then coherentBytes s (offOf a.addr) a.size else mget [] (s.core c).regs r) ∧
        (s'.core c).sb = (s.core c).sb ∧ ((s'.core c).resv = (s.core c).resv ∨ (s'.core c).resv = none) ∧
        (s'.core c).pendLoad = none ∧ OnlyCore s s' c ∧ SameBytes s s' ∧ s'.queues = s.queues ∧ SameStart s s') ∧
      ((a.size = 4 ∨ a.size = 8) → a.addr % a.size = 0 →
        ∃ s', exec (.ldres c a) s = .next s' ∧
          (∀ r, mget [] (s'.core c).regs r = if r = a.dest then coherentBytes s (offOf a.addr) a.size else mget [] (s.core c).regs r) ∧
          (s'.core c).resv = some (offOf a.addr, a.size) ∧ (s'.core c).sb = (s.core c).sb ∧ OnlyCore s s' c ∧ SameBytes s s' ∧
          s'.queues = s.queues ∧ SameStart s s')) ∧
    ((s.core c).fence = none → otherLoad (s.core c) a = false → (coreAcc s a).se = false →
      ∀ e, ((s.core c).sb.filter (overlaps a)).getLast? = some e →
        (∀ b, forwarded a e = some b →
          ∃ s', exec (.coreLoad c a t) s = .next s' ∧ mget [] (s'.core c).regs a.dest = b ∧ (s'.core c).sb = (s.core c).sb ∧
            SameMemory s s') ∧
        (forwarded a e = none →
          ∃ s', exec (.coreLoad c a t) s = .next s' ∧ (s'.core c).pendLoad.isSome = true ∧ (s'.core c).regs = (s.core c).regs ∧
            (s'.core c).sb = (s.core c).sb ∧ SameMemory s s'))

/-- A store that meets no precise condition enters the store buffer as its youngest entry and changes no memory; the next piece of an entry
of this package is performed when the order of its core allows it, which writes its bytes and no other, and frees the entry's place after
the last one (R259–R263, R267, R268, R271). -/
def Obligations.CoreStoresReachMemory : Prop :=
  ∀ (s : State) (c : CoreId), Works s → Canonical s → CachesOk s →
    (∀ (a : CoreAccess) (data : List Byte) (t : Nat), coreOnline s c = true → mayCommit (s.core c) = true → data.length = a.size →
      storeFault s c a = none → isLocal s a.addr = true → (∀ e ∈ (s.core c).sb, isLocal s e.acc.addr = true) →
      ∃ s', exec (.coreStore c a data t) s = .next s' ∧
        (s'.core c).sb = (s.core c).sb ++ [{ acc := a, data := data, issued := max s.now t, sent := false }] ∧
        (s'.core c).regs = (s.core c).regs ∧ (s'.core c).resv = (s.core c).resv ∧ OnlyCore s s' c ∧ SameMemory s s' ∧
        s'.queues = s.queues ∧ SameStart s s') ∧
    ∀ (i : Nat) (e : SbEnt) (p : Nat × Nat), (s.core c).sb[i]? = some e → (∀ x ∈ (s.core c).sb, isLocal s x.acc.addr = true) →
      e.data.length = e.acc.size → CoreReaches s c e.acc → sbMay s (s.core c) i e = true → (corePieces e.acc)[e.done]? = some p →
      sharedBytes s (offOf p.1) p.2 = false → NoPoison s →
      ∃ s', exec (.coreStorePerformed c i) s = .next s' ∧
        (s'.core c).sb = (if (corePieces e.acc).length ≤ e.done + 1 then (s.core c).sb.eraseIdx i
          else (s.core c).sb.set i { e with done := e.done + 1 }) ∧
        coherentBytes s' (offOf p.1) p.2 = slice e.data (p.1 - e.acc.addr) p.2 ∧ OnlyBytes s s' (offOf p.1) p.2 ∧
        s'.queues = s.queues ∧ SameStart s s'

/-- FENCE.SL waits for the stores before it where one of them is of this package, FENCE.REMOTE for all of them; a store that fails on its
way, or is not answered within 2 ms, leaves the buffer as a STORE_ERROR, or aborts where its destination finds it unmapped, and a load
whose data has not come 2 ms after it was asked for aborts with the link class (R269, R280, R281, R578). -/
def Obligations.FencesAndLostAccesses : Prop :=
  ∀ (s : State) (c : CoreId), Works s → Canonical s → (∀ e ∈ (s.core c).sb, e.sent = true) →
    (coreOnline s c = true →
      (∃ s', exec (.fenceSl c) s = .next s' ∧ SameMemory s s' ∧ OnlyCore s s' c ∧ s'.core c = { s.core c with
        fence := if ((s.core c).fence.any fun f => f.1) = true ∨ ∀ e ∈ (s.core c).sb, e.pos ≠ s.boot.pos.val then (s.core c).fence
          else some (false, (s.core c).sb.length) }) ∧
      ∃ s', exec (.fenceRemote c) s = .next s' ∧ SameMemory s s' ∧ OnlyCore s s' c ∧ s'.core c = { s.core c with
        fence := if (s.core c).sb = [] then none else some (true, (s.core c).sb.length) }) ∧
    (∀ (i t : Nat) (e : SbEnt) (k : Answer), (s.core c).sb[i]? = some e →
      (k ≠ .ok → ∃ s', exec (.storeError c i k) s = .next s' ∧ (s'.core c).sb = (s.core c).sb.eraseIdx i ∧
        (if k = .unmapped then (s'.core c).abort = some (cUnmapped, e.acc.addr)
         else (s'.core c).storeErr = some (answerClass k, e.acc.addr)) ∧
        (s'.core c).resv = none ∧ OnlyCore s s' c ∧ SameMemory s s') ∧
      (e.issued + ms 2 ≤ max s.now t → ∃ s', exec (.coreAccessLinkTimeout c (some i) t) s = .next s' ∧
        (s'.core c).sb = (s.core c).sb.eraseIdx i ∧ (s'.core c).storeErr = some (cLink, e.acc.addr) ∧ SameMemory s s') ∧
      (max s.now t < e.issued + ms 2 → exec (.coreAccessLinkTimeout c (some i) t) s = .next (s.toTime t))) ∧
    ∀ (a : CoreAccess) (t1 t0 t : Nat), (s.core c).pendLoad = some (a, t1) → isLocal s a.addr = false →
      (s.core c).ask.need ≠ [] → (s.core c).ask.at0 = t0 → (∀ b ∈ (s.core c).cmu, b.ask.need = []) →
      (t0 + ms 2 ≤ max s.now t → ∃ s', exec (.coreAccessLinkTimeout c none t) s = .next s' ∧ (s'.core c).pendLoad = none ∧
        (s'.core c).abort = some (cLink, a.addr) ∧ (s'.core c).resv = none ∧ (s'.core c).regs = (s.core c).regs ∧ SameMemory s s') ∧
      (max s.now t < t0 + ms 2 → exec (.coreAccessLinkTimeout c none t) s = .next (s.toTime t))

/-- STCOND of a reserved cacheable word: it writes its bytes and no other and reports 0, or, by chance, and in a simple loop at most three
times in a row, changes nothing and reports 1; without the reservation it reports 1, to another package 2, to memory that is not cacheable 3, and
changes nothing; the reservation is cleared each time (R274, R275, R277–R279; which of the two happens is a free value). -/
def Obligations.StoreConditional : Prop :=
  ∀ (s : State) (c : CoreId) (a : CoreAccess) (data : List Byte), Works s → Canonical s → CachesOk s → NoPoison s →
    mwf [] (s.core c).regs = true → coreOnline s c = true → mayCommit (s.core c) = true → (a.size = 4 ∨ a.size = 8) → data.length = a.size → a.addr % a.size = 0 →
    ¬ (a.attr.getLsbD 1 = true ∧ a.attr.getLsbD 2 = true) → a.addr < 8 * window →
    ∃ s' n, exec (.stcond c a data) s = .next s' ∧ s'.queues = s.queues ∧ SameStart s s' ∧
      ((isLocal s a.addr = true → storeFault s c a = none ∧ (∀ e ∈ (s.core c).sb, e.pos ≠ s.boot.pos.val) ∧
          sharedBytes s (offOf a.addr) a.size = false ∧ coreLook s c a = .ok) →
        (s'.core c).resv = none ∧ (s'.core c).stStatus = n ∧ mget [] (s'.core c).regs a.dest = leBytes 8 n ∧
        (isLocal s a.addr = false → n = 2 ∧ SameMemory s s') ∧
        (isLocal s a.addr = true → ((coreAcc s a).c = false ∨ (coreAcc s a).se = true) → n = 3 ∧ SameMemory s s') ∧
        (isLocal s a.addr = true → (coreAcc s a).c = true → (coreAcc s a).se = false →
          (s.core c).resv ≠ some (offOf a.addr, a.size) → n = 1 ∧ SameMemory s s') ∧
        (isLocal s a.addr = true → (coreAcc s a).c = true → (coreAcc s a).se = false →
          (s.core c).resv = some (offOf a.addr, a.size) →
          (n = 0 ∧ coherentBytes s' (offOf a.addr) a.size = data ∧ OnlyBytes s s' (offOf a.addr) a.size) ∨
          (n = 1 ∧ (a.simple = true → (s.core c).spurious < 3) ∧ SameMemory s s')))

/-- The matrix unit: begun before commit, an instruction reads its operand and changes no register; committed, it writes its registers,
joins its flags and puts its stores into the store buffer; squashed, it leaves nothing (R282, R283, R285). -/
def Obligations.MatrixUnitCommits : Prop :=
  ∀ (s : State) (c : CoreId), Works s → Canonical s → CachesOk s → NoPoison s → coreOnline s c = true →
    (∀ (i : CmuInstr) (a : CoreAccess) (old : Bool), begun s c i.id = none → i.loads = [a] → CoreReaches s c a → LoadsFreely s c a →
      (old = true ∧ noneBefore (s.core c) { instr := i, data := [], fault := none, no := (s.core c).nextNo } = true ∨
        (coreAcc s a).se = false) →
      ∃ s', exec (.cmuIssue c i old) s = .next s' ∧
        begun s' c i.id = some { instr := i, data := [coherentBytes s (offOf a.addr) a.size], fault := none, no := (s.core c).nextNo } ∧
        (s'.core c).regs = (s.core c).regs ∧ (s'.core c).sb = (s.core c).sb ∧ SameBytes s s' ∧ OnlyCore s s' c ∧ SameStart s s') ∧
    (∀ (i : CmuInstr) (old : Bool) (a : CoreAccess), begun s c i.id = none → i.loads = [a] → old = false → (coreAcc s a).se = true →
      ∃ s', exec (.cmuIssue c i old) s = .next s' ∧ begun s' c i.id = some { instr := i, data := [], fault := none, no := (s.core c).nextNo } ∧
        SameMemory s s') ∧
    (∀ (id t : Nat) (b : CmuBegun), begun s c id = some b → b.redo = false → executed b = true → b.fault = none →
      loadsBefore (s.core c) b.no = false → ((s.core c).fence.any fun f => f.1) = false → cmuStoreFault s c b.instr = none → (∀ e ∈ (s.core c).sb, isLocal s e.acc.addr = true) →
      (∀ p ∈ b.instr.stores, isLocal s p.1.addr = true) →
      ∃ s', exec (.cmuCommit c id t) s = .next s' ∧ begun s' c id = none ∧
        (s'.core c).regs = b.instr.regs.foldl (fun m r => mput [] r.1 r.2 m) (s.core c).regs ∧
        (s'.core c).cmuFlags = (s.core c).cmuFlags ||| b.instr.flags ∧
        (s'.core c).sb = (s.core c).sb ++ b.instr.stores.map (fun p => { acc := p.1, data := p.2, issued := max s.now t, sent := false }) ∧
        OnlyCore s s' c ∧ SameMemory s s' ∧ SameStart s s') ∧
    ∀ (id : Nat) (b : CmuBegun), begun s c id = some b →
      ∃ s', exec (.cmuSquash c id) s = .next s' ∧ begun s' c id = none ∧ (s'.core c).regs = (s.core c).regs ∧
        (s'.core c).sb = (s.core c).sb ∧ OnlyCore s s' c ∧ SameMemory s s' ∧ SameStart s s'

/-- Vector gather and scatter, element by element from GIDX: the element read is put into its lane, the element written enters the store
buffer, and GIDX names the next element, or is 0 after the last (R287–R290). -/
def Obligations.VectorElementsMove : Prop :=
  ∀ (s : State) (c : CoreId) (v : VecInstr) (a : CoreAccess) (t : Nat), Works s → Canonical s → coreOnline s c = true →
    mwf [] (s.core c).vregs = true → v.elems[(s.core c).gidx]? = some a → (s.core c).pendLoad = none →
    (let f := (s.core c).gidx
     (CachesOk s → NoPoison s → CoreReaches s c a → LoadsFreely s c a →
       ∃ s', exec (.vectorGather c v 1) s = .next s' ∧
         mget [] (s'.core c).vregs v.vreg =
           putLane (mget [] (s.core c).vregs v.vreg) (laneOff v f) (coherentBytes s (offOf a.addr) a.size) ∧
         (s'.core c).gidx = (if v.elems.length ≤ f + 1 then 0 else f + 1) ∧ (s'.core c).regs = (s.core c).regs ∧
         SameBytes s s' ∧ OnlyCore s s' c ∧ SameStart s s') ∧
     (mayCommit (s.core c) = true → storeFault s c a = none → isLocal s a.addr = true →
       (∀ e ∈ (s.core c).sb, isLocal s e.acc.addr = true) →
       ∃ s', exec (.vectorScatter c v 1 t) s = .next s' ∧
         (s'.core c).sb = (s.core c).sb ++ [{ acc := a, data := getLane (mget [] (s.core c).vregs v.vreg) (laneOff v f) a.size
                                              issued := max s.now t, sent := false }] ∧
         (s'.core c).gidx = (if v.elems.length ≤ f + 1 then 0 else f + 1) ∧ (s'.core c).vregs = (s.core c).vregs ∧
         SameMemory s s' ∧ OnlyCore s s' c ∧ SameStart s s'))

/-! ## Hosts -/

/-- Memory requests of a bound VF: a read is answered with the coherent bytes, a posted write changes the bytes it names and no other; a
request outside the aperture or of an unbound VF is answered UR, or discarded, and changes nothing (R484, R600, R605). AtomicOps of a
host: the operand becomes the sum, the swapped value, or where it compares equal the new value; the answer is its old value; no other
byte changes (R346). -/
def Obligations.HostAccesses : Prop :=
  (∀ (s : State) (p : Port) (vf : Fin 8) (off : Nat), Works s → Canonical s → CachesOk s → s.boot.ready = true →
    (s.hlk p).speed ≠ 0 →
    (∀ (f : Fin 32) (n tag t : Nat) (sp : Span), VfServes s p vf f → off + n ≤ 2 ^ (s.hlk p).apActive → NoPoison s →
      HostReaches (s.toTime t) p f true false off n sp →
      ∃ s', exec (.hostMemoryRead p vf off n tag t) s = .next (s'.send (.pcie p tag 0 (coherentBytes s (offOf sp.pa) n))) ∧
        SameBytes s s' ∧ s'.queues = s.queues ∧ SameStart s s') ∧
    (∀ (f : Fin 32) (data : List Byte) (sp : Span), VfServes s p vf f → off + data.length ≤ 2 ^ (s.hlk p).apActive →
      postedWait s p f = false → NoPoison s → HostReaches s p f false true off data.length sp →
      ∃ s', exec (.hostMemoryWrite p vf off data) s = .next s' ∧ coherentBytes s' (offOf sp.pa) data.length = data ∧
        OnlyBytes s s' (offOf sp.pa) data.length ∧ s'.queues = s.queues ∧ SameStart s s' ∧ s'.out = s.out) ∧
    ∀ (n tag t : Nat) (data : List Byte), boundFn s p (vfNum vf) = none ∨ 2 ^ (s.hlk p).apActive < off →
      (∃ s', exec (.hostMemoryRead p vf off n tag t) s = .next (s'.send (.pcie p tag 1 [])) ∧ SameMemory s s' ∧ SameWork s s') ∧
      ∃ s', exec (.hostMemoryWrite p vf off data) s = .next s' ∧ SameMemory s s' ∧ SameWork s s') ∧
  (∀ (s : State) (p : Port) (vf : Fin 8) (f : Fin 32) (off size tag : Nat) (op : HostAtomic) (v cmp : W64) (x : Span),
    Works s → Canonical s → CachesOk s → NoPoison s → VfServes s p vf f → off + size ≤ 2 ^ (s.hlk p).apActive →
    (size = 4 ∨ size = 8) → off % size = 0 →
    atomicLook s (portHub p) f.val (.function f) 0 (atomicCode op size) size off = .ok x →
    (let old := leNat (coherentBytes s (offOf x.pa) size)
     let m := 2 ^ (8 * size)
     let new := match op with
       | .fetchAdd => (old + v.toNat) % m
       | .swap => v.toNat % m
       | .cas => if old = cmp.toNat % m then v.toNat % m else old
     ∃ s', exec (.hostAtomicop p vf off op size v cmp tag) s =
         .next (s'.send (.pcie p tag 0 (coherentBytes s (offOf x.pa) size))) ∧
       coherentBytes s' (offOf x.pa) size = leBytes size new ∧ OnlyBytes s s' (offOf x.pa) size ∧ s'.queues = s.queues ∧
       SameStart s s'))

/-- A host port: trained, it takes speed, width and protocol; its configuration requests get Request Retry Status until READY and succeed
after it; a request that has waited for 2 ms is answered CA (R546, R578, R600, R609). A function level reset: the idle queues bound to
the VF's function return to DISABLED with empty doorbell pages, every other queue stays, the VF's pending vectors go, and the reset is
counted (R557, R608). -/
def Obligations.HostPorts : Prop :=
  (∀ (s : State) (p : Port), Works s → Canonical s →
    (∀ (speed : Fin 7) (width : Fin 17) (cxl : Fin 4), 3 ≤ s.boot.step → speed.val ≠ 0 → width ∈ [1, 2, 4, 8, 16] →
      ∃ s', exec (.hostLinkUp p speed width cxl) s = .next s' ∧ s'.hlk p = { s.hlk p with
        speed := speed.val, width := width.val
        proto := if (s.hlk p).cxlEn = true ∧ 2 ≤ cxl.val then (if 3 ≤ s.boot.feat ∧ cxl.val = 3 then 3 else 2) else 1 } ∧
        (∀ k, k ≠ p → s'.hlk k = s.hlk k) ∧ SameMemory s s' ∧ SameWork s s' ∧ SameStart s s') ∧
    (∀ (fn : Fin 9) (off tag : Nat) (w : Option W32), (s.hlk p).speed ≠ 0 → s.boot.ready = false →
      exec (.hostConfigRequest p fn off w tag) s = .next ((s.count (hlkPage p) 0x080 1).send (.pcie p tag 2 []))) ∧
    (∀ (fn : Fin 9) (off tag : Nat), (s.hlk p).speed ≠ 0 → s.boot.ready = true →
      exec (.hostConfigRequest p fn off none tag) s = .next ((s.count (hlkPage p) 0x080 1).send
        (.pcie p tag 0 ((List.range 4).map fun i => cfgByte s p fn.val (off + i)))) ∧
      ∀ w : W32, 0 < fn.val →
        ∃ s', exec (.hostConfigRequest p fn off (some w) tag) s = .next (s'.send (.pcie p tag 0 [])) ∧ SameMemory s s' ∧
          SameWork s s' ∧ SameStart s s') ∧
    ∀ (x : HostPend) (tag t : Nat), (s.hlk p).pend = [x] → x.tag = tag → x.cxl = none →
      (max s.now t < x.at0 + ms 2 → exec (.hostRequestTimeout p tag t) s = .next (s.toTime t)) ∧
      (x.at0 + ms 2 ≤ max s.now t → ∃ s', exec (.hostRequestTimeout p tag t) s = .next (s'.send (.pcie p tag 4 [])) ∧
        (s'.hlk p).pend = [] ∧ SameMemory s s' ∧ SameWork s s' ∧ SameStart s s')) ∧
  (∀ (s : State) (p : Port) (vf : Fin 8) (f : Fin 32) (t : Nat), Works s → Canonical s → vfFn s p (vfNum vf) = some f →
    s.doff.stopped = false →
    (∀ q, (s.queue q).bound = true → (s.queue q).ctx = f.val → (s.queue q).cmds = [] ∧ (s.queue q).st ≠ .reset) →
    ∃ s', exec (.functionLevelReset p (.flr vf) t) s = .next s' ∧
      (∀ q, (s.queue q).bound = true → (s.queue q).ctx = f.val → (s'.queue q).st = .disabled ∧ (s'.queue q).prod = 0 ∧
        (s'.queue q).cons = 0 ∧ (s'.queue q).done = 0 ∧ (s'.queue q).enable = false ∧ (s'.queue q).bound = true ∧
        (s'.queue q).ctx = f.val) ∧
      (∀ q, ¬ ((s.queue q).bound = true ∧ (s.queue q).ctx = f.val) → s'.queue q = s.queue q) ∧
      (∀ k < 32, mget false (s'.hlk p).pba (32 * vfNum vf + k) = false) ∧ SameMemory s s')

/-- CXL.mem: a read of the window answers the coherent bytes, a write changes the bytes it names and ends with a completion, an address
outside it is an error; every H2D snoop is answered that nothing is held; the answer of a back-invalidate snoop ends the sharing of
its line (R609–R611). -/
def Obligations.CxlRequests : Prop :=
  ∀ (s : State) (p : Port), Works s → Canonical s → CachesOk s → 2 ≤ (s.hlk p).proto →
    (∀ hpa, exec (.cxlH2dSnoop p hpa) s = .next (s.send (.cxl p 0 hpa []))) ∧
    (∀ line, mget none (s.hlk p).sharers line = some true → mwf none (s.hlk p).sharers = true →
      (∀ h, (s.knot h).seqs = [] ∧ (s.knot h).waiting = []) →
      ∃ s', exec (.cxlBisnpResponse p line) s = .next s' ∧
        (∀ l, mget none (s'.hlk p).sharers l = if l = line then none else mget none (s.hlk p).sharers l) ∧ SameMemory s s' ∧
        SameWork s s' ∧ SameStart s s') ∧
    (s.boot.ready = true → fatalState s = false → ∀ (hpa tag : Nat) (f : Fin 32) (va : Nat) (sp : Span),
      (∀ n, cxlTarget s p hpa n = some (f, va) → NoPoison s → (s.hlk p).proto = 2 → HostReaches s p f true false va n sp →
        ∃ s', exec (.cxlMemRequest p (.read hpa n) tag) s = .next (s'.send (.cxl p 1 hpa (coherentBytes s (offOf sp.pa) n))) ∧
          SameBytes s s' ∧ SameStart s s') ∧
      (∀ data, cxlTarget s p hpa data.length = some (f, va) → NoPoison s → HostReaches s p f false true va data.length sp →
        ∃ s', exec (.cxlMemRequest p (.write hpa data) tag) s = .next (s'.send (.cxl p 4 hpa [])) ∧
          coherentBytes s' (offOf sp.pa) data.length = data ∧ OnlyBytes s s' (offOf sp.pa) data.length ∧ SameStart s s') ∧
      ∀ rq n, (rq = .read hpa n ∨ ∃ d, rq = .write hpa d ∧ d.length = n) → cxlTarget s p hpa n = none →
        exec (.cxlMemRequest p rq tag) s = .next ((s.count (hlkPage p) 0x080 1).send (.cxl p 3 hpa [])))

/-- The windows: the port page is read through PF0, a bound VF reads its MSI-X table and writes FN_QVEC, an unbound one is answered UR
(R484, R604–R606). -/
def Obligations.WindowAccesses : Prop :=
  ∀ (s : State) (p : Port) (tag off n : Nat), Works s → Canonical s → s.boot.ready = true → (s.hlk p).speed ≠ 0 →
    fatalState s = false →
    (off + n ≤ 4096 → exec (.functionWindowAccess p (.pf0Read off n) tag) s = .next ((s.count (hlkPage p) 0x080 1).send
      (.pcie p tag 0 ((List.range n).map fun i => portPage s p (off + i))))) ∧
    (4096 < off + n → ∃ s', exec (.functionWindowAccess p (.pf0Read off n) tag) s = .next (s'.send (.pcie p tag 1 [])) ∧
      SameMemory s s' ∧ SameWork s s' ∧ SameStart s s') ∧
    ∀ (vf : Fin 8),
      (boundFn s p (vfNum vf) = none →
        ∃ s', exec (.functionWindowAccess p (.vfRead vf off n) tag) s = .next (s'.send (.pcie p tag 1 [])) ∧ SameMemory s s' ∧
          SameWork s s' ∧ SameStart s s') ∧
      ∀ f, boundFn s p (vfNum vf) = some f →
        (off + n ≤ 0x200 → exec (.functionWindowAccess p (.vfRead vf off n) tag) s = .next ((s.count (hlkPage p) 0x080 1).send
          (.pcie p tag 0 ((List.range n).map fun i => msixByte (s.hlk p) (vfNum vf) (off + i))))) ∧
        ∀ (b : Byte) (k : Nat), k < 0x2000 → off = 0x100000 + k → mwf 1 (s.hlk p).qvec = true →
          ∃ s', exec (.functionWindowAccess p (.vfWrite vf off [b]) tag) s = .next s' ∧
            (∀ j, mget 1 (s'.hlk p).qvec j = if j = 8192 * vfNum vf + k then b else mget 1 (s.hlk p).qvec j) ∧
            SameMemory s s' ∧ SameWork s s' ∧ SameStart s s'

/-! ## Management -/

/-- The management endpoint: the boot status block is answered whenever power is good, PLDM from step 4 on; DUMP_INFO answers the summary,
DUMP_READ up to 1,024 bytes of the dump, DUMP_RELEASE clears both, and NO_DUMP is answered where none is present; a firmware update
writes the slot that does not run; the TAP and the I3C address work whenever power is good (PLDM's own completion codes are presumed,
log entry 30; R547, R595, R613, R614, R616, R617). -/
def Obligations.ManagementAnswers : Prop :=
  ∀ (s : State) (req image : List Byte) (x : SensorId) (v : W32) (off n : Nat), s.boot.power = true →
    exec .bootStatusRead s = .next (s.send (.mgmt (bootBlock s))) ∧ (bootBlock s).length = 16 ∧
    (∀ a, exec (.i3cDynamicAddress a) s = .next { s with mgt := { s.mgt with i3cAddr := some a } }) ∧
    (∀ i, ∃ s', exec (.jtagInstruction i) s = .next s' ∧ s'.mgt = { s.mgt with jtag := i } ∧
      (i = .idcode → s'.out = .value (BitVec.ofNat 64 (idcode s)) :: s.out) ∧ SameMemory s s' ∧ SameWork s s') ∧
    (Works s → s.boot.mctp = true →
      exec (.pldmBaseDiscovery req) s = .next (s.send (.mgmt (Config.pldmBase req))) ∧
      exec (.pldmSensorRead x v) s = .next (s.send (.mgmt (0 :: leBytes 4 (sensorValue s x v.toNat)))) ∧
      (s.doff.active = false → s.doff.done = false → s.mgt.fatal = false → 16 ≤ image.length → image.length ≤ 0x1000000 →
        ∃ s', exec (.pldmFirmwareUpdate image) s = .next (s'.send (.mgmt [0])) ∧
          s'.mgt = { s.mgt with flash := mput [] (b2n (!(s.boot.runSlot.getD true))) image s.mgt.flash } ∧ SameMemory s s' ∧
          SameWork s s') ∧
      (∃ d, exec .dumpInfo s = .next (s.send (.mgmt (0 :: d))) ∧ d.length = 4096) ∧
      (dumpPresent s = false → exec (.dumpRead off n) s = .next (s.send (.mgmt [0x80])) ∧
        exec .dumpRelease s = .next (s.send (.mgmt [0x80])) ∧ exec (.dumpRel .prostoza) s = .next s) ∧
      (dumpPresent s = true → 1 ≤ n → n ≤ 1024 →
        (let k := min n (dumpLength s - off)
         exec (.dumpRead off n) s = .next (s.send (.mgmt (0 :: leBytes 2 k ++ coherentBytes s (dumpBase s + off) k)))) ∧
        (∃ s', exec .dumpRelease s = .next (s'.send (.mgmt [0])) ∧ s' = Sys2Proof.Machine.dumpRelease s) ∧
        exec (.dumpRel .prostoza) s = .next (Sys2Proof.Machine.dumpRelease s)))

/-! ## Caches, scratchpads, links of memory -/

/-- EN of a cache: enabled only when CLEAN, which it uses up; disabled, it drains, which stops a preload, and at the end of draining it
holds nothing and memory reads as before, byte for byte, at every address (R357, R359, R360, R366). -/
def Obligations.CacheEnableAndDrain : Prop :=
  ∀ (s : State) (c : CacheId), Works s → Canonical s →
    (let i := cacheIx c
     let reg := mustWait s .prostoza false (pgOff (cachePage i) + 0x100) = false
     (reg → (s.cache i).st = .disabled → (s.cache i).clean = true →
       ∃ s', exec (.cacheEnable .prostoza c) s = .next s' ∧ s'.cache i = { s.cache i with st := .enabled, clean := false } ∧
         s'.mem = s.mem ∧ s'.poison = s.poison ∧ SameWork s s' ∧ SameStart s s') ∧
     (reg → (s.cache i).st = .disabled → (s.cache i).clean = false →
       ∃ s', exec (.cacheEnable .prostoza c) s = .next s' ∧ s'.cache i = { s.cache i with seqWhy := 1 } ∧
         (s'.blk (cachePage i)).intStat.getLsbD 3 = true ∧ s'.mem = s.mem ∧ SameWork s s' ∧ SameStart s s') ∧
     (reg → (s.cache i).st = .enabled → (s.cache i).plBusy = false →
       ∃ s', exec (.cacheDisable .prostoza c) s = .next s' ∧ s'.cache i = { s.cache i with st := .draining } ∧
         s'.mem = s.mem ∧ s'.poison = s.poison ∧ SameWork s s' ∧ SameStart s s') ∧
     (reg → (s.cache i).st = .enabled → (s.cache i).plBusy = true → CachesOk s → NoPoison s →
       (s.cache i).plRun.1 + (s.cache i).plRun.2.1 ≤ (if i < 8 then hbmStack else 0x8000000000) →
       ∃ s', exec (.cacheDisable .prostoza c) s = .next s' ∧ (s'.cache i).st = .draining ∧ (s'.cache i).plBusy = false ∧
         CachesOk s' ∧ SameBytes s s' ∧ SameWork s s' ∧ SameStart s s') ∧
     ((s.cache i).st = .draining → CachesOk s → NoPoison s →
       ∃ s', exec (.cacheDrainDone c) s = .next s' ∧ (s'.cache i).st = .disabled ∧ (s'.cache i).lines = [] ∧ CachesOk s' ∧
         SameBytes s s' ∧ SameWork s s' ∧ SameStart s s'))

/-- Maintenance of a cache: started where nothing else runs, its end writes back every dirty sector, and all but write-back leave no line
valid; memory reads as before unless lines of a cache that is not enabled are dropped unwritten (R361). Carving and preloading: UNITS
is taken in DISABLED with CLEAN, and at the end of the change that many units are mapped; a legal preload runs and at its end memory
reads as before (R363, R364). -/
def Obligations.CacheMaintenanceAndCarving : Prop :=
  (∀ (s : State) (c : CacheId), Works s → Canonical s →
    (let i := cacheIx c
     (mustWait s .prostoza false (pgOff (cachePage i) + 0x110) = false → (s.cache i).st ≠ .draining → (s.cache i).st ≠ .carving →
       (s.cache i).maint = none → (s.cache i).plBusy = false →
       ∀ p ∈ [(Instr.cacheMaintWb .prostoza c, 0), (.cacheMaintInv .prostoza c, 1), (.cacheMaintWbinv .prostoza c, 2)],
         ∃ s', exec p.1 s = .next s' ∧ (s'.cache i).maint = some (p.2, decide ((s.cache i).st = .disabled)) ∧
           (s'.cache i).lock = (if p.2 = 0 then (s.cache i).lock else 0) ∧ (s'.cache i).lines = (s.cache i).lines ∧
           s'.mem = s.mem ∧ s'.poison = s.poison ∧ SameWork s s' ∧ SameStart s s') ∧
     ∀ op dis, (s.cache i).maint = some (op, dis) → CachesOk s → NoPoison s → ¬ (dis = true ∧ op = 1) →
       ∃ s', exec (.cacheMaintDone c) s = .next s' ∧ (s'.cache i).maint = none ∧ CachesOk s' ∧ SameBytes s s' ∧
         (op ≠ 0 → (s'.cache i).lines = [] ∧ (dis = true → (s'.cache i).clean = true)) ∧
         (∀ l ∈ (s'.cache i).lines, ∀ k < 8, l.has k = true → l.isDirty k = false) ∧ (s'.blk (cachePage i)).intStat.getLsbD 0 = true ∧ SameWork s s' ∧ SameStart s s')) ∧
  (∀ (s : State) (c : CacheId), Works s → Canonical s →
    (let i := cacheIx c
     (∀ u : Fin 16, mustWait s .prostoza false (pgOff (cachePage i) + 0x114) = false → u.val ≤ maxUnits i → (s.cache i).st = .disabled → (s.cache i).clean = true →
       ∃ s', exec (.cacheCarve .prostoza c u) s = .next s' ∧ (s'.cache i).st = .carving ∧ (s'.cache i).units = u.val ∧
         (s'.cache i).cur = min (s.cache i).cur u.val ∧ s'.queues = s.queues ∧ SameStart s s') ∧
     ((s.cache i).st = .carving → ∃ s', exec (.carveDone c) s = .next s' ∧ (s'.cache i).st = .disabled ∧
       (s'.cache i).cur = (s.cache i).units ∧ (s'.blk (cachePage i)).intStat.getLsbD 1 = true ∧ s'.queues = s.queues ∧ SameStart s s') ∧
     (∀ w : BitVec 24, mustWait s .prostoza false (pgOff (cachePage i) + 0x130) = false → (s.cache i).st = .enabled → (s.cache i).plBusy = false → (s.cache i).maint = none →
       (s.cache i).plBase.toNat % 256 = 0 → (s.cache i).plLen.toNat % 256 = 0 → 256 ≤ (s.cache i).plLen.toNat →
       (s.cache i).plBase.toNat + (s.cache i).plLen.toNat ≤ cacheRange s i → wayList s i w ≠ [] →
       ∃ s', exec (.cachePreload .prostoza c w) s = .next s' ∧ s'.cache i = { s.cache i with
           plWays := w, plBusy := true, plRun := ((s.cache i).plBase.toNat, (s.cache i).plLen.toNat, w) } ∧
         s'.mem = s.mem ∧ SameWork s s' ∧ SameStart s s') ∧
     ((s.cache i).plBusy = true → CachesOk s → NoPoison s →
       (s.cache i).plRun.1 + (s.cache i).plRun.2.1 ≤ (if i < 8 then hbmStack else 0x8000000000) →
       ∃ s', exec (.preloadDone c) s = .next s' ∧ (s'.cache i).plBusy = false ∧ CachesOk s' ∧ SameBytes s s' ∧
         (s'.blk (cachePage i)).intStat.getLsbD 2 = true ∧ SameWork s s' ∧ SameStart s s')))

/-- Gather caches: enabled only when CLEAN, which it uses up; disabled or invalidated they hold nothing and are CLEAN. A scratchpad set to
zero reads zero from end to end when that is done, with every other byte as before. A GDDR transfer that fails its check for the fifth
time in a row poisons its granule, but not that of a package with GDDR6 (R371, R375, R390, R572; which of the last two rules holds for
GDDR6: the model's choice, log entry 29). -/
def Obligations.GatherCachesAndScratchpads : Prop :=
  ∀ s : State, Works s → Canonical s →
    (∀ e : EngineId, mustWait s .prostoza false (pgOff (engPage (engIx e)) + 0x300) = false →
      (let i := engIx e
       ((s.gc i).clean = true → (s.gc i).en = false →
         ∃ s', exec (.gcEnable .prostoza e false) s = .next s' ∧ s'.gc i = { s.gc i with en := true, clean := false } ∧
           SameMemory s s' ∧ s'.queues = s.queues ∧ SameStart s s') ∧
       ((s.gc i).en = true → ∃ s', exec (.gcDisable .prostoza e) s = .next s' ∧
         s'.gc i = { s.gc i with en := false, ents := [], clean := true } ∧ SameMemory s s' ∧ s'.queues = s.queues ∧ SameStart s s') ∧
       ((s.gc i).en = false → ∃ s', exec (.gcInv .prostoza e) s = .next s' ∧ s'.gc i = { s.gc i with ents := [], clean := true } ∧
         SameMemory s s' ∧ s'.queues = s.queues ∧ SameStart s s'))) ∧
    (∀ n : Tensor,
      (mustWait s .prostoza false (pgOff (pgKey (tDie n.val) ixScr) + 0x100) = false →
        ∃ s', exec (.scrZero .prostoza n) s = .next s' ∧ s' = { s with scrZero := mput false n.val true s.scrZero }) ∧
      (mget false s.scrZero n.val = true → (∀ h, (s.knot h).seqs = [] ∧ (s.knot h).waiting = []) →
        ∃ s', exec (.scrZeroDone n) s = .next s' ∧ mget false s'.scrZero n.val = false ∧
          (∀ o, rawByte s' o = if scrBase n ≤ o ∧ o < scrBase n + 0x8000000 then 0 else rawByte s o) ∧
          (∀ o, o < 0x8000000 → poisoned s' (granule (scrBase n + o)) = false) ∧ s'.caches = s.caches ∧ s'.queues = s.queues ∧
          SameStart s s')) ∧
    ∀ (h : Hub) (o : Nat) (wr : Bool), o < gddrSize s →
      (mget (0, 0, 0) s.gddrTry h.val = (0, 0, 0) →
        ∃ s', exec (.gddrTransferRetry h o wr) s = .next s' ∧ SameMemory s s' ∧ SameWork s s' ∧ SameStart s s' ∧
          mget (0, 0, 0) s'.gddrTry h.val = (granule (gddrBase h + o) + 1, 1, s.now) ∧
          ((s.blk (pgKey h.val ixGmc)).cntFreeze = false → s'.cnt (pgKey h.val ixGmc) 0x0B8 = s.cnt (pgKey h.val ixGmc) 0x0B8 + 1)) ∧
      (∀ t0, mget (0, 0, 0) s.gddrTry h.val = (granule (gddrBase h + o) + 1, 4, t0) → s.now ≤ t0 + us 2 → poisonUsed s h = 0 →
        ∃ s', exec (.gddrTransferRetry h o wr) s = .next s' ∧
          poisoned s' (granule (gddrBase h + o)) = (s.boot.memtype || poisoned s (granule (gddrBase h + o))) ∧ s'.mem = s.mem ∧
          mget (0, 0, 0) s'.gddrTry h.val = (0, 0, 0))

/-! ## Hanks, doffing -/

/-- ASSIGN moves an UNASSIGNED hank that is ZEROED to OWNED with its owner and uses up ZEROED; in any other state, or with ZEROED = 0, it
leaves the hank as it is (R487). -/
def Obligations.HankAssignment : Prop :=
  ∀ (s : State) (h : Hub) (n : Fin 16), Works s → Canonical s →
    ((s.hub h).part.hank = .unassigned → (s.hub h).part.zeroed = true →
      ∃ s', exec (.hankAssign .prostoza h n) s = .next s' ∧ (s'.hub h).part.hank = .owned ∧ (s'.hub h).part.owner.toNat = n.val ∧
        (s'.hub h).part.zeroed = false ∧ s'.hub (1 - h) = s.hub (1 - h) ∧ SameMemory s s' ∧ SameWork s s' ∧ SameStart s s') ∧
    ((s.hub h).part.hank ≠ .unassigned ∨ (s.hub h).part.zeroed = false →
      ∃ s', exec (.hankAssign .prostoza h n) s = .next s' ∧ (s'.hub h).part.hank = (s.hub h).part.hank ∧
        (s'.hub h).part.owner = (s.hub h).part.owner ∧ (s'.hub h).part.zeroed = (s.hub h).part.zeroed ∧
        s'.hub (1 - h) = s.hub (1 - h) ∧ SameMemory s s' ∧ SameWork s s' ∧ SameStart s s')

/-- RELEASE of an owned hank suspends its queues and makes it RELEASING, or ZEROING once they have drained; queues that have not drained
within 10 ms are reset; at the end of zeroing its memory reads zero from end to end, its queues and cores are at their reset values
and it is UNASSIGNED (the whole range is filled, log entry 46; R486). A partition reset of the partition that owns the hank: its idle
queues are DISABLED with empty doorbell pages, the cores are reset, the combine groups idle, the knot unit empty, and no block stands
stopped; for another partition nothing runs differently. A partition error stops the block that reports it and is logged in the class
PARTITION (R556, R583). -/
def Obligations.HanksAndPartitions : Prop :=
  (∀ (s : State) (h : Hub) (t : Nat), Works s → Canonical s →
    ((s.hub h).part.hank = .owned →
      ∃ s', exec (.hankRelease .prostoza h t) s = .next s' ∧ (s'.hub h).part.releaseAt = max s.now t ∧
        (∀ q, qHub q = h → (s'.queue q).suspend = true ∧ (s'.queue q).enable = false ∧
          (s'.queue q).cmds = ((s.queue q).leaveWait (max s.now t)).cmds) ∧
        (∀ q, qHub q ≠ h → s'.queue q = s.queue q) ∧
        ((∀ q, qHub q = h → (s.queue q).cmds = []) → (s'.hub h).part.hank = .zeroing) ∧
        ((∃ q, qHub q = h ∧ (s.queue q).cmds ≠ []) → (s'.hub h).part.hank = .releasing) ∧ SameMemory s s' ∧ SameStart s s') ∧
    ((s.hub h).part.hank = .releasing →
      (max s.now t < (s.hub h).part.releaseAt + ms 10 → exec (.hankDrainTimeout h t) s = .next (s.toTime t)) ∧
      ((s.hub h).part.releaseAt + ms 10 ≤ max s.now t → s.doff.stopped = false →
        ∃ s', exec (.hankDrainTimeout h t) s = .next s' ∧
          ∀ q, qHub q = h → (s.queue q).cmds ≠ [] → (s'.queue q).st = .reset ∨ ((s'.queue q).st = .disabled ∧ (s'.queue q).cmds = []))) ∧
    ((s.hub h).part.hank = .zeroing → s.doff.active = false → s.doff.done = false →
      ∃ s', exec (.hankZeroingDone h) s = .next s' ∧ (s'.hub h).part.hank = .unassigned ∧ (s'.hub h).part.zeroed = true ∧
        (∀ o, (4 * h.val * hbmStack ≤ o ∧ o < 4 * h.val * hbmStack + 4 * hbmStack) ∨
          (gddrBase h ≤ o ∧ o < gddrBase h + 0x1000000000) ∨ (mramBase h ≤ o ∧ o < mramBase h + ledgerLen) →
          coherentByte s' o = 0 ∧ poisoned s' (granule o) = false) ∧
        (∀ q, qHub q = h → s'.queue q = {}) ∧ (∀ q, qHub q ≠ h → s'.queue q = s.queue q) ∧
        (∀ c : CoreId, coreHub c = h → s'.core c = {}) ∧ (s'.knot h).seqs = [])) ∧
  (∀ (s : State) (h : Hub) (n : Fin 16) (t : Nat), Works s → Canonical s →
    (hankOwner s h = some n.val → s.doff.stopped = false → (s.hub h).part.rstBusy = false →
      (∀ q, qHub q = h → (s.queue q).cmds = [] ∧ (s.queue q).st ≠ .reset) → (∀ e : Fin 16, tensorHub (e.val / 2) = h → (s.creel e).st = 0) →
      ∃ s', exec (.partRst .prostoza h n t) s = .next s' ∧ (s'.hub h).part.rstBusy = false ∧
        (∀ q, qHub q = h → (s.queue q).part.toNat = n.val → (s'.queue q).st = .disabled ∧ (s'.queue q).prod = 0 ∧
          (s'.queue q).done = 0 ∧ (s'.queue q).enable = false ∧ (s'.queue q).bound = (s.queue q).bound) ∧
        (∀ q, qHub q ≠ h → s'.queue q = s.queue q) ∧ (∀ c : CoreId, coreHub c = h → s'.core c = {}) ∧
        (∀ c : CoreId, coreHub c ≠ h → s'.core c = s.core c) ∧ (∀ g, s'.cbGrp h g = {}) ∧ (s'.knot h).seqs = [] ∧
        (∀ p, dieHub (p / 4096) = h → mget false s'.stopped p = false) ∧ SameMemory s s' ∧ SameStart s s') ∧
    (hankOwner s h ≠ some n.val → ∃ s', exec (.partRst .prostoza h n t) s = .next s' ∧ SameMemory s s' ∧ SameWork s s' ∧
      SameStart s s') ∧
    ∀ (d : DieId) (page : Nat) (k : Fin 4), page < 4096 →
      ((match pageAt d.val page with
        | .qm _ => k.val = 1
        | .xlt _ => k.val = 2
        | .eng _ _ | .cb _ | .cph _ => k.val = 3
        | _ => False) →
        ∃ s', exec (.partitionError d page k) s = .next s' ∧ mget false s'.stopped (pgKey d.val page) = true ∧
          (s'.blk (pgKey d.val page)).intStat.getLsbD 31 = true ∧ SameMemory s s' ∧ SameWork s s') ∧
      (k.val = 0 → exec (.partitionError d page k) s = .next s))

/-- PWR_WARN starts both emergency cuts, and after READY the doff, each hub die with its own deadline; at admission stop every running
queue is in DOFF, and what had not started ends DOFF (R97, R502, R503, R505, R506, R518). At a hub die's doff deadline every command of
its queues has ended, those that ran with DOFF; a hub die then commits: its copy is written, every context has its view, and once both
have committed the package is DOFFED and asserts DOFF_DONE; a clear of PWR_WARN before the first commit returns to normal operation,
its queues to work, and with no doff it withdraws the cuts alone; VIEW_REL takes a context's view back (R99, R507, R511, R515–R520,
R532). -/
def Obligations.Doffing : Prop :=
  (∀ (s : State) (t : Nat), Works s → Canonical s →
    (s.boot.ready = false →
      ∃ s', exec (.pwrWarnAssert t) s = .next s' ∧ s'.doff = s.doff ∧ SameMemory s s' ∧
        ∀ h, (s'.hub h).gov.cutPwr = true ∧ (s'.hub h).gov.cutActive = true) ∧
    (s.boot.ready = true → s.doff.active = false → s.doff.done = false →
      ∃ s', exec (.pwrWarnAssert t) s = .next s' ∧ s'.doff.active = true ∧ s'.doff.stopped = false ∧ s'.doff.tW = max s.now t ∧
        SameMemory s s' ∧
        ∀ h, s'.doff.tD h = max s.now t + us (s.hub h).led.deadline ∧ (s'.hub h).led.st = .stopping ∧ (s'.hub h).gov.cutPwr = true ∧
          (s'.hub h).gov.cutActive = true) ∧
    (s.boot.ready = true → s.doff.done = true → s.doff.warned = false →
      ∃ s', exec (.pwrWarnAssert t) s = .next s' ∧ s'.pins.doffDone = .high ∧ SameMemory s s' ∧ SameWork s s') ∧
    (s.doff.active = false → exec (.admissionStop t) s = .next (s.toTime t)) ∧
    (s.doff.active = true → s.doff.stopped = false → (∀ q, ∀ c ∈ (s.queue q).cmds, c.head = []) →
      ∃ s', exec (.admissionStop t) s = .next s' ∧ s'.doff.stopped = true ∧ SameMemory s s' ∧
        (∀ h, (s'.hub h).led.tStop = max s.now t - s.doff.tW) ∧
        (∀ q, (s.queue q).st = .running ∨ (s.queue q).st = .halted ∨ (s.queue q).st = .faultWait →
          (s'.queue q).st = .doff ∧ (s'.queue q).preDoff = (s.queue q).st) ∧
        ∀ q c, (s.queue q).cmds = [c] → c.startT = none → c.phase ≠ .ended → updated c = false →
          ∃ d, (s'.queue q).cmds = [d] ∧ d.seq = c.seq ∧ d.phase = .ended ∧ d.status = .doff)) ∧
  (∀ (s : State) (h : Hub) (t : Nat), Works s → Canonical s →
    (s.doff.stopped = true → s.doff.done = false → s.doff.tD h ≤ max s.now t → (∀ q, ∀ c ∈ (s.queue q).cmds, c.head = []) →
      ∃ s', exec (.doffDeadline t) s = .next s' ∧ (∀ q, qHub q = h → ∀ c ∈ (s'.queue q).cmds, c.phase = .ended) ∧
        (∀ q c, qHub q = h → (s.queue q).cmds = [c] → c.phase ≠ .ended → updated c = false →
          ∃ d, (s'.queue q).cmds = [d] ∧ d.status = .doff) ∧ SameMemory s s') ∧
    (max s.now t < s.doff.tD 0 → max s.now t < s.doff.tD 1 → exec (.doffDeadline t) s = .next (s.toTime t)) ∧
    (s.doff.stopped = true → s.doff.done = false → s.mgt.fatal = false → s.poison = [] → s.caches = [] → s.upsets = [] →
      commitBegun s h = false →
      (∀ q, qHub q = h → (s.queue q).cmds = []) →
      ∃ s', exec (.ledgerCommit h t) s = .next s' ∧ (s'.hub h).led.committed = true ∧ (s'.hub h).led.views = allCtx ∧
        (s'.hub h).led.journal = [] ∧ (s'.knot h).seqs = [] ∧ (s'.blk (ledPage h)).intStat.getLsbD 1 = true ∧
        ((s.hub (1 - h)).led.committed = false → (s'.hub h).led.st = .committing ∧ s'.doff.done = false) ∧
        ((s.hub (1 - h)).led.committed = true → (s'.hub h).led.st = .doffed ∧ (s'.hub (1 - h)).led.st = .doffed ∧ s'.doff.done = true ∧
          (s.doff.warned = true → s'.pins.doffDone = .high))) ∧
    (s.doff.stopped = false → s.mgt.fatal = false → (s.hub h).led.committed = false →
      exec (.ledgerCommit h t) s = .next (s.toTime t)) ∧
    (s.doff.active = true → s.doff.fatal = false → s.mgt.fatal = false → commitBegun s 0 = false → commitBegun s 1 = false →
      s.hub0.led.clearAct = false →
      ∃ s', exec (.pwrWarnClear t) s = .next s' ∧ s'.doff = {} ∧ (∀ k, (s'.hub k).led.st = .normal ∧ (s'.hub k).gov.cutPwr = false) ∧
        (∀ q, (s.queue q).st = .doff → (s'.queue q).st ≠ .doff) ∧ (∀ q, (s.queue q).st ≠ .doff → (s'.queue q).st = (s.queue q).st) ∧
        SameMemory s s') ∧
    (s.doff.active = false → s.doff.done = false →
      ∃ s', exec (.pwrWarnClear t) s = .next s' ∧ (∀ k, (s'.hub k).gov.cutPwr = false) ∧ s'.doff = s.doff ∧ SameMemory s s' ∧
        SameWork s s') ∧
    (s.doff.active = false → s.doff.done = true → exec (.pwrWarnClear t) s = .next (s.toTime t)) ∧
    ∃ s', exec (.ledViewRel .prostoza h) s = .next s' ∧
      (s'.hub h).led.views = (s.hub h).led.views.filter (fun c => c ≠ mget 0 (s.hub h).led.viewSel 0) ∧ SameMemory s s' ∧ SameWork s s')

/-! ## Resets and the start -/

/-- A package reset by loss of power, a reset pin or Prostoza: everything but MRAM, after a loss of power, or but memory, otherwise,
returns to its reset values, with RST_CAUSE telling why; a pulse of less than a microsecond does nothing (R530, R553–R555, R621). -/
def Obligations.PackageResets : Prop :=
  ∀ s : State,
    (s.boot.power = true → ∀ i ∈ [Instr.powerGoodLoss, .refclkLoss],
      ∃ s', exec i s = .next s' ∧ s'.boot.power = false ∧ s'.boot.cause = 1 ∧ s'.boot.step = 0 ∧ s'.boot.ready = false ∧
        s'.queues = [] ∧ s'.cores = [] ∧ s'.caches = [] ∧ s'.pins = {} ∧ s'.doff = {} ∧
        ∀ o, rawByte s' o = if isMram o then rawByte s o else 0) ∧
    (∀ (frame : Bool) (w : Nat),
      (let i := if frame then Instr.frameResetPin w else .pkgResetPin w
       (1000 ≤ w → s.boot.power = true →
         ∃ s', exec i s = .next s' ∧ s'.boot.cause = (if frame then 3 else 2) ∧ s'.boot.step = 0 ∧ s'.boot.ready = false ∧
           s'.alive = false ∧ s'.queues = [] ∧ s'.cores = [] ∧ s'.caches = [] ∧ s'.doff = {} ∧ s'.mem = s.mem ∧ s'.poison = s.poison ∧
           (if frame then s'.boot.frmHeld else s'.boot.rstHeld) = true) ∧
       (w < 100 → exec i s = .next s))) ∧
    (Works s → ∃ s', exec (.softPkgReset .prostoza) s = .next s' ∧ s'.boot.cause = 4 ∧ s'.boot.step = 0 ∧ s'.boot.ready = false ∧
      s'.queues = [] ∧ s'.cores = [] ∧ s'.caches = [] ∧ s'.doff = {} ∧ s'.mem = s.mem ∧ s'.poison = s.poison)

/-- Power-good and the release of a reset pin sample the straps and drive READY low; the start sequence begins with step 1, each step ends
when both hub dies have completed it, and step 5 with SET_READY, which drives READY high (R21, R535–R537, R541, R546). A failing step
is recorded with its reason and tried again min(2^(n−1), 1,000) ms later from its own beginning, or from step 1 after a die link
fails; at the end of that wait ATTEMPTS increments (R536, R543–R545). -/
def Obligations.StartSequence : Prop :=
  (∀ (s : State) (posId : BitVec 3) (mt : Bool) (t : Nat),
    (s.boot.power = false → s.boot.rstHeld = false → s.boot.frmHeld = false →
      ∃ s', exec (.powerGood posId mt t) s = .next s' ∧ s'.boot = { s.boot with power := true, posId := posId, pos := posId.toFin, memtype := mt } ∧
        s'.pins.ready = .low ∧ SameMemory s s' ∧ SameWork s s') ∧
    (∀ frame, (if frame then s.boot.frmHeld else s.boot.rstHeld) = true →
      ∃ s', exec (.resetDeassert frame posId mt) s = .next s' ∧ (if frame then s'.boot.frmHeld else s'.boot.rstHeld) = false ∧
        s'.boot.posId = posId ∧ s'.boot.pos = posId.toFin ∧ s'.boot.memtype = mt ∧ SameMemory s s' ∧ SameWork s s') ∧
    (Works s → s.boot.step = 0 →
      ∃ s', exec (.startSequenceBegin t) s = .next s' ∧
        s'.boot = { s.boot with step := 1, stepAt := max s.now t, done0 := false, done1 := false } ∧ SameMemory s s' ∧ SameWork s s') ∧
    (starting s = true → ∀ (h : Hub) (f : StepFindings), s.boot.step ≠ 5 → max s.now t ≤ s.boot.stepAt + stepLimit s.boot.step →
      ((if h = 0 then s.boot.done1 else s.boot.done0) = false →
        ∃ s', exec (.startStepDone h f t) s = .next s' ∧ s'.boot = (if h = 0 then { s.boot with done0 := true } else { s.boot with done1 := true }) ∧
          SameMemory s s' ∧ SameWork s s') ∧
      ((if h = 0 then s.boot.done1 else s.boot.done0) = true → stepFault s f = none →
        ∃ s', exec (.startStepDone h f t) s = .next s' ∧ s'.boot.step = s.boot.step + 1 ∧ s'.boot.stepAt = max s.now t ∧
          s'.boot.done0 = false ∧ s'.boot.done1 = false ∧ s'.boot.backoff = false ∧ s'.queues = s.queues ∧
          (s.boot.step ≠ 3 → s'.mem = s.mem) ∧
          (s.boot.step = 3 → s'.caches = [] ∧ ∀ o, startKeeps s (dumpPresent s && decide (s.boot.cause ≠ 1)) o = false → rawByte s' o = 0))) ∧
    (starting s = true → s.boot.step = 5 →
      ∃ s', exec (.setReady .prostoza) s = .next s' ∧ s'.boot.ready = true ∧ s'.boot.step = 7 ∧ s'.pins.ready = .high ∧ SameMemory s s' ∧
        SameWork s s')) ∧
  (∀ (s : State) (t : Nat), starting s = true →
    (let failsWith (s' : State) (r die : Nat) (back : Nat) (now : Nat) : Prop :=
       s'.boot.backoff = true ∧ s'.boot.bfReason = BitVec.ofNat 8 r ∧ s'.boot.bfDie = BitVec.ofNat 4 die ∧
       s'.boot.bfStep = BitVec.ofNat 3 s.boot.step ∧ s'.boot.retryTo = back ∧ s'.boot.n = s.boot.n + 1 ∧
       s'.boot.retryAt = now + ms (min (2 ^ s.boot.n) 1000) ∧ SameMemory s s' ∧ SameWork s s'
     (∀ (r : Fin 12) (d : DieId) (x : BitVec 12), reasonFits r.val s.boot.step = true →
       ∃ s', exec (.startStepFail r d x t) s = .next s' ∧ failsWith s' r.val d.val (if r.val = 3 then 1 else s.boot.step) (max s.now t)) ∧
     (s.boot.stepAt + stepLimit s.boot.step ≤ max s.now t →
       ∃ s', exec (.startStepTimeout t) s = .next s' ∧ failsWith s' 11 0 s.boot.step (max s.now t)) ∧
     (max s.now t < s.boot.stepAt + stepLimit s.boot.step → exec (.startStepTimeout t) s = .next (s.toTime t)) ∧
     (s.boot.step = 5 → ∃ s', exec (.fwFail .prostoza t) s = .next s' ∧ failsWith s' 10 0 5 (max s.now t))) ∧
    ∀ u : State, Works u → u.boot.backoff = true →
      (u.boot.retryAt ≤ max u.now t → ∃ s', exec (.retryBackoffExpiry t) u = .next s' ∧ s'.boot.backoff = false ∧
        s'.boot.step = u.boot.retryTo ∧ s'.boot.attempts = u.boot.attempts + 1 ∧ s'.boot.stepAt = max u.now t ∧ SameMemory u s' ∧
        SameWork u s') ∧
      (max u.now t < u.boot.retryAt → exec (.retryBackoffExpiry t) u = .next (u.toTime t)))

/-- An engine reset by Prostoza or the management function: refused, with the refused bit set, while a queue of the engine lives; else the
engine's counters, interrupts and errors are cleared, a creel's too, and a combiner's groups; memory and queues stay (R559). -/
def Obligations.EngineResets : Prop :=
  ∀ (s : State), Works s → Canonical s →
    (∀ (n : Tensor) (e : Fin 8),
      (let i := 8 * n.val + e.val
       mget false s.engRst i = false → mustWait s .prostoza false (pgOff (pgKey (tDie n.val) ixTdc) + 0x100) = false →
       ((∃ q, qEng q = i ∧ (s.queue q).live = true) →
         ∃ s', exec (.engRst .prostoza n (1#8 <<< e.val)) s = .next s' ∧ mget false s'.engRef n.val = true ∧ SameMemory s s' ∧ SameWork s s' ∧
           s'.blks = s.blks) ∧
       ((∀ q, qEng q = i → (s.queue q).live = false) → (e.val < 6 ∨ (s.creel (Fin.ofNat 16 (2 * n.val + e.val - 6))).st = 0) →
         ∃ s', exec (.engRst .prostoza n (1#8 <<< e.val)) s = .next s' ∧ mget false s'.engRef n.val = false ∧
           (s'.blk (engPage i)).intStat = 0 ∧ (s'.blk (engPage i)).errCount = 0 ∧ mget false s'.stopped (engPage i) = false ∧
           SameMemory s s' ∧ s'.queues = s.queues ∧ s'.cores = s.cores ∧ SameStart s s'))) ∧
    ∀ h : Hub,
      ((∃ q, qEng q = 64 + h.val ∧ (s.queue q).live = true) →
        ∃ s', exec (.hubEngRst .prostoza h true false) s = .next s' ∧ (s'.hub h).part.engRefused = true ∧ SameMemory s s' ∧ SameWork s s') ∧
      ((∀ q, qEng q = 64 + h.val → (s.queue q).live = false) →
        ∃ s', exec (.hubEngRst .prostoza h true false) s = .next s' ∧ (s'.hub h).part.engRefused = false ∧ (∀ g, s'.cbGrp h g = {}) ∧
          (s'.blk (engPage (64 + h.val))).intStat = 0 ∧ SameMemory s s' ∧ SameWork s s' ∧ SameStart s s')

/-! ## Links -/

/-- Recovery of a link: an error begins a replay episode or makes one more of at most eight attempts; it succeeds within 12 µs or is
exhausted, which begins a retrain; a retrain brings the link up within 100 µs (a die link) or 500 µs (a half-link) or is tried three
times; a die link that fails all three is FAILED and, after READY, fatal (R568, R569, R571). -/
def Obligations.LinkRecovery : Prop :=
  ∀ (s : State) (l k : LinkId) (t : Nat), Works s → Canonical s → theLink l = some k →
    (let x := lnkOf s k
     let now := max s.now t
     (x.st = .up → ∃ s', exec (.linkTransferError l t) s = .next s' ∧
       lnkOf s' k = { x with st := .replay, attempts := 1, since := now } ∧ SameMemory s s' ∧ SameStart s s') ∧
     (x.st = .replay → x.attempts < 8 → ∃ s', exec (.linkTransferError l t) s = .next s' ∧
       lnkOf s' k = { x with attempts := x.attempts + 1 } ∧ SameMemory s s' ∧ SameWork s s' ∧ SameStart s s') ∧
     (∀ n : Fin 9, x.st = .replay → 1 ≤ n.val → n.val ≤ 8 → now ≤ x.since + us 12 →
       ∃ s', exec (.replayEpisodeSuccess l n t) s = .next s' ∧
         lnkOf s' k = { x with st := .up, attempts := n.val, duration := now - x.since } ∧ SameMemory s s' ∧ SameStart s s') ∧
     (x.st = .replay → ∃ s', exec (.replayExhausted l t) s = .next s' ∧
       lnkOf s' k = { x with st := .retrain, attempts := 8, duration := now - x.since, since := now, fails := 0 } ∧ SameMemory s s' ∧
       SameWork s s' ∧ SameStart s s') ∧
     (x.st = .retrain →
       (now ≤ x.since + (match k with | .dlk _ _ => us 100 | .flk _ _ => us 500) →
         ∃ s', exec (.linkRetrainDone l true 0 t) s = .next s' ∧ (lnkOf s' k).st = .up ∧ (lnkOf s' k).fails = 0 ∧ SameMemory s s' ∧
           SameStart s s') ∧
       (∀ ok, ok = false ∨ x.since + (match k with | .dlk _ _ => us 100 | .flk _ _ => us 500) < now → x.fails + 1 < 3 →
         ∃ s', exec (.linkRetrainDone l ok 0 t) s = .next s' ∧
           lnkOf s' k = { x with fails := x.fails + 1, since := now } ∧ SameMemory s s' ∧ SameWork s s' ∧ SameStart s s') ∧
       ∀ a b, k = .dlk a b → 2 ≤ x.fails → s.boot.ready = true → s.mgt.fatal = false → s.doff.done = false →
         ∃ s', exec (.linkRetrainDone l false 0 t) s = .next s' ∧ (lnkOf s' k).st = .failed ∧ s'.mgt.fatal = true ∧ s'.mgt.code = 2 ∧
           s'.pins.fatalN = .low ∧ SameMemory s s'))

/-- A half-link: a port that is not up attempts training from step 3 on; it comes up towards the position it expects with the width its
lanes leave; towards any other position it stays down, and so does the port's other half-link; with the other half up, a position whose half-link is lost stays present, without it the
position is DOWN (R23, R25, R43, R44, R549). -/
def Obligations.HalfLinkTraining : Prop :=
  ∀ (s : State) (h : Hub) (j : FPort) (t : Nat), Works s → Canonical s →
    (linkUp s h j = true → exec (.frameLinkTrainAttempt h j t) s = .next (s.toTime t)) ∧
    (mayTrain s = true → linkUp s h j = false →
      ((s.fport h j).lnk.st ≠ .training →
        ∃ s', exec (.frameLinkTrainAttempt h j t) s = .next s' ∧ (s'.fport h j).lnk.st = .training ∧
          (s'.fport h j).lnk.since = max s.now t ∧ SameMemory s s' ∧ SameWork s s' ∧ SameStart s s' ∧
          ((s.blk (flkPage h)).cntFreeze = false → s'.cnt (flkPage h) 0x0C0 = s.cnt (flkPage h) 0x0C0 + 1)) ∧
      (∀ (failed : BitVec 9) (r : Bool) (c : BitVec 48), widthOf failed ≠ 0 → (s.fport (1 - h) j).mismatch = false →
        ∃ s', exec (.frameLinkTrained h j (farOf s.boot.pos j) failed r c) s = .next s' ∧ linkUp s' h j = true ∧
          (s'.fport h j).width = widthOf failed ∧ (s'.fport h j).mismatch = false ∧ (s'.fport h j).lnk.st = .up ∧
          posState s' (farOf s.boot.pos j) = .present ∧ SameMemory s s' ∧ SameWork s s' ∧ SameStart s s') ∧
      ∀ (far : Pos) (failed : BitVec 9) (r : Bool) (c : BitVec 48), far ≠ farOf s.boot.pos j →
        ∃ s', exec (.frameLinkTrained h j far failed r c) s = .next s' ∧ linkUp s' h j = false ∧ linkUp s' (1 - h) j = false ∧
          (s'.fport h j).mismatch = true ∧
          (linkUp s (1 - h) j = false → SameMemory s s' ∧ SameWork s s' ∧ SameStart s s')) ∧
    (linkUp s h j = true →
      (linkUp s (1 - h) j = true → openOn s h (farOf s.boot.pos j) = 0 →
        ∃ s', exec (.frameLinkLost h j t) s = .next s' ∧ (s'.fport h j).width = 0 ∧ posState s' (farOf s.boot.pos j) = .present ∧
          SameMemory s s' ∧ SameStart s s') ∧
      (linkUp s (1 - h) j = false → (s.fport h j).trained = true → s.queues = [] → s.creels = [] → s.cores = [] → s.hlks = [] →
        (∀ k, (s.knot k).seqs = [] ∧ (s.knot k).waiting = []) →
        ∃ s', exec (.frameLinkLost h j t) s = .next s' ∧ (s'.fport h j).width = 0 ∧ posState s' (farOf s.boot.pos j) = .down ∧
          SameMemory s s' ∧ SameStart s s')) ∧
    (linkUp s h j = false → exec (.frameLinkLost h j t) s = .next (s.toTime t))

/-! ## Errors -/

/-- A fatal error after READY asserts FATAL_N, records its code and source and starts the fatal stop with a deadline 1,000 µs later; so do
an expired watchdog and Prostoza's declaration; the watchdog is armed once and moved on by a kick, and does not expire before a second
has passed (R584, R585, R596, R649). -/
def Obligations.FatalStopBegins : Prop :=
  ∀ (s : State) (t : Nat), Works s → Canonical s → s.boot.ready = true → s.mgt.fatal = false → s.doff.active = false → s.doff.done = false →
    (let begun (s' : State) (code : Nat) (p : Nat) : Prop :=
       s'.mgt.fatal = true ∧ s'.mgt.code = code ∧ s'.mgt.srcDie.val = p / 4096 ∧ s'.mgt.srcPage = p % 4096 ∧ s'.pins.fatalN = .low ∧
       s'.doff.active = true ∧ s'.doff.fatal = true ∧ s'.doff.tW = max s.now t ∧ (∀ h, s'.doff.tD h = max s.now t + us 1000) ∧
       SameMemory s s' ∧ SameWork s s'
     (∀ (c : Fin 9) (d : DieId) (page : Nat), page < 4096 → c.val ≠ 0 → pageAt d.val page ≠ .none →
       ∃ s', exec (.fatalError c d page t) s = .next s' ∧ begun s' c.val (pgKey d.val page)) ∧
     (∀ (d : DieId) (page : Nat), exec (.fatalError 0 d page t) s = .next (s.toTime t)) ∧
     (s.mgt.wdogEn = true → s.mgt.kickAt + ms 1000 ≤ max s.now t →
       ∃ s', exec (.watchdogExpiry t) s = .next s' ∧ begun s' 5 (pgKey 0 ixMgt)) ∧
     (max s.now t < s.mgt.kickAt + ms 1000 → exec (.watchdogExpiry t) s = .next (s.toTime t)) ∧
     (∃ s', exec (.mgtFatalDeclare .prostoza t) s = .next s' ∧ begun s' fcDeclared (pgKey 0 ixMgt))) ∧
    (s.mgt.wdogEn = false → ∃ s', exec (.watchdogArm .prostoza t) s = .next s' ∧
      s'.mgt = { s.mgt with wdogEn := true, kickAt := max s.now t } ∧ SameMemory s s' ∧ SameWork s s') ∧
    (∃ s', exec (.watchdogKick .prostoza t) s = .next s' ∧ s'.mgt = { s.mgt with kickAt := max s.now t } ∧ SameMemory s s' ∧ SameWork s s')

/-- Registers of every page and of the error collectors: ERR_LOG_ACK empties a die's log, a read of ERR_COUNT answers it and clears it,
CNT_CLEAR zeroes a page's counters, INT_FORCE sets those interrupt bits that the block defines, and no other page of the package changes
(R13, R565, R632, R638, R645). -/
def Obligations.ErrorRegisters : Prop :=
  ∀ (s : State) (d : DieId) (page : Nat), Works s → Canonical s → page < 4096 → pageAt d.val page ≠ .none →
    (let p := pgKey d.val page
     let free (rd : Bool) (o : Nat) : Prop := mustWait s .prostoza rd o = false
     (free false (pgOff (pgKey d.val ixErr) + 0x104) → ∃ s', exec (.errLogAck .prostoza d) s = .next s' ∧
       mget {} s'.errs d.val = { (mget {} s.errs d.val) with unread := 0, overflow := false } ∧
       (∀ e : DieId, e ≠ d → mget {} s'.errs e.val = mget {} s.errs e.val) ∧ SameMemory s s' ∧ SameWork s s' ∧ SameStart s s') ∧
     (free true (pgOff p + 0x040) → ∃ s', exec (.errCountRead .prostoza d page) s = .next s' ∧ s'.out = .value (BitVec.ofNat 64 (s.blk p).errCount.toNat) :: s.out ∧
       (s'.blk p).errCount = 0 ∧ (∀ k, k ≠ p → s'.blk k = s.blk k) ∧ SameMemory s s' ∧ SameWork s s' ∧ SameStart s s') ∧
     (free false (pgOff p + 0x010) → ∃ s', exec (.cntClear .prostoza d page) s = .next s' ∧ (s'.blk p).cnt = [] ∧ (s'.blk p).cntFreeze = (s.blk p).cntFreeze ∧
       (s'.blk p).errCount = (s.blk p).errCount ∧ (∀ k, k ≠ p → s'.blk k = s.blk k) ∧ SameMemory s s' ∧ SameWork s s' ∧ SameStart s s') ∧
     ∀ v : W32, free false (pgOff p + 0x020) → ∃ s', exec (.intForce .prostoza d page v) s = .next s' ∧
       (s'.blk p).intStat = (s.blk p).intStat ||| (v &&& BitVec.ofNat 32 (intBits (pageAt d.val page))) ∧
       SameMemory s s' ∧ SameWork s s' ∧ SameStart s s')

/-! ## Translation and registers -/

/-- Translation contexts: the selected context is enabled with its root and disabled again, which ends with XLT_DISABLE_DONE and leaves no
translation of it held; an invalidation runs until it is done, which its interrupt tells; neither ends while an access that used a
translation of the context is still to be performed (R139, R140, R652, R653). -/
def Obligations.TranslationContexts : Prop :=
  ∀ (s : State) (h : Hub), Works s → Canonical s → mwf {} (s.hub h).xlt.ctxs = true →
    (let c := mget 0 (s.hub h).xlt.csel 0
     let ctx (u : State) (k : Nat) : Ctx := mget {} (u.hub h).xlt.ctxs k
     (∀ root, (ctx s c).en = false → (ctx s c).disabling = false →
       ∃ s', exec (.xltContextEnable .prostoza h root) s = .next s' ∧ (ctx s' c).en = true ∧ (ctx s' c).root = root ∧
         (∀ k, k ≠ c → ctx s' k = ctx s k) ∧ SameMemory s s' ∧ SameWork s s' ∧ SameStart s s') ∧
     ((ctx s c).en = true →
       ∃ s', exec (.xltContextDisable .prostoza h) s = .next s' ∧ ctx s' c = { ctx s c with en := false, disabling := true } ∧
         (∀ k, k ≠ c → ctx s' k = ctx s k) ∧ SameMemory s s' ∧ SameWork s s' ∧ SameStart s s') ∧
     (∀ k : Fin 48, (ctx s k.val).disabling = true → ctxBusy s h k.val = false →
       ∃ s', exec (.xltDisableDone h k) s = .next s' ∧ ctx s' k.val = { ctx s k.val with disabling := false } ∧
       (∀ e ∈ (s'.hub h).xlt.held, e.ctx ≠ k.val) ∧ SameMemory s s' ∧ SameWork s s' ∧ SameStart s s') ∧
     (∀ k : Fin 64, (s.hub h).xlt.inv = none →
       ∃ s', exec (.xltInvalidate .prostoza h k true) s = .next s' ∧
         (s'.hub h).xlt.inv = some (k.val, true, (s.hub h).xlt.invVa.toNat, (s.hub h).xlt.invLen.toNat) ∧ SameMemory s s' ∧
         SameWork s s' ∧ SameStart s s') ∧
     (∀ k : Fin 48, (ctx s k.val).disabling = false ∨ ctxBusy s h k.val = true → exec (.xltDisableDone h k) s = .next s) ∧
     (∀ k all va n, (s.hub h).xlt.inv = some (k, all, va, n) → ctxBusy s h k = true → exec (.xltInvalidateDone h) s = .next s) ∧
     (∀ k all va n, (s.hub h).xlt.inv = some (k, all, va, n) → ctxBusy s h k = false →
       ∃ s', exec (.xltInvalidateDone h) s = .next s' ∧ (s'.hub h).xlt.inv = none ∧ (s'.blk (xltPage h)).intStat.getLsbD 0 = true ∧
         (s'.hub h).xlt.ctxs = (s.hub h).xlt.ctxs ∧ SameMemory s s' ∧ SameWork s s' ∧ SameStart s s'))

/-- A register write: by a permitted writer it takes effect, an out-of-range value leaving the register as it was; by another requester
that would change the field it is refused and logged as a violation of kind 4, with nothing changed; an offset that is no register
changes nothing (R12, R478, R639, R665). -/
def Obligations.RegisterWrites : Prop :=
  ∀ (s : State) (h : Hub) (t : Nat) (v : W64), Works s → Canonical s →
    (let off := pgOff (ledPage h) + 0x104
     (∃ s', exec (.registerWrite .prostoza off 4 v t) s = .next s' ∧
       (s'.hub h).led.deadline = (let n := v.toNat % 65536; if 1000 ≤ n ∧ n ≤ 16000 then n else (s.hub h).led.deadline) ∧ SameMemory s s' ∧
       SameWork s s' ∧ SameStart s s') ∧
     (∀ r : Requester, r ≠ .prostoza → mustWait (s.toTime t) r false off = false → physCheck s r (paOf s off) 4 = .ok →
       (s.hub h).led.deadline < 65536 →
       v.toNat % 65536 ≠ (s.hub h).led.deadline →
       exec (.registerWrite r off 4 v t) s =
         .next (fwViolation (s.toTime t) h fwRwl (reqTag (s.toTime t) h r) (paOf s off))) ∧
     ∀ (r : Requester) (o n : Nat), isReg o = false → exec (.registerWrite r o n v t) s = .next (s.toTime t))

/-! ## Numbers -/

/-- Every encoding of a format that is not a NaN denotes a number that rounds to itself without a flag, in both rounding modes; rounding
is to the encoding's own value, so no format loses a bit of what it holds (R234, R235, R248, R249). -/
def Obligations.FormatsHoldTheirNumbers : Prop :=
  ∀ f ∈ [f32, f16, bf16, e5m2, e4m3], ∀ (rz : Bool) (w : Nat), w < 2 ^ (1 + f.eb + f.mb) → (f.decode w).1.isNan = false →
    f.put rz false (f.decode w).1 = (w, 0)
end

