-- ==== Sys2Proof/Laws/SMap.lean ====
section
/-! SUPPORT. Sparse maps: what a read gives after a write, and that every operation keeps the canonical form. -/

namespace Sys2Proof.Machine

variable {β : Type}

@[simp] theorem mget_nil (d : β) (a : Nat) : mget d [] a = d := rfl

section
variable [DecidableEq β]

@[simp] theorem mwf_nil (d : β) : mwf d ([] : SMap β) = true := rfl

/-- The canonical form of a map with a first entry. -/
theorem mwf_cons (d : β) (k : Nat) (v : β) (m : SMap β) :
    mwf d ((k, v) :: m) = true ↔ v ≠ d ∧ (∀ e ∈ m.head?, k < e.1) ∧ mwf d m = true := by
  cases m with
  | nil => simp [mwf]
  | cons e m => obtain ⟨k', v'⟩ := e; simp [mwf, and_assoc]

/-- Every key of a canonical map lies above the first. -/
theorem mwf_lt {d : β} {k : Nat} {v : β} {m : SMap β} (h : mwf d ((k, v) :: m) = true) : ∀ e ∈ m, k < e.1 := by
  induction m generalizing k v with
  | nil => simp
  | cons e m ih =>
    obtain ⟨k', v'⟩ := e
    have h1 := (mwf_cons d k v _).1 h
    have h2 : k < k' := h1.2.1 (k', v') (by simp)
    intro e he
    rcases List.mem_cons.1 he with rfl | he
    · exact h2
    · exact lt_trans h2 (ih h1.2.2 e he)

/-- A canonical map is an entry above which the rest lies. -/
theorem mwf_cons' (d : β) (k : Nat) (v : β) (m : SMap β) :
    mwf d ((k, v) :: m) = true ↔ v ≠ d ∧ (∀ e ∈ m, k < e.1) ∧ mwf d m = true := by
  constructor
  · intro h; have h1 := (mwf_cons d k v m).1 h; exact ⟨h1.1, mwf_lt h, h1.2.2⟩
  · rintro ⟨h1, h2, h3⟩
    refine (mwf_cons d k v m).2 ⟨h1, fun e he => h2 e ?_, h3⟩
    cases m with
    | nil => simp at he
    | cons x m => simp at he; subst he; simp

omit [DecidableEq β] in
/-- A key that a map does not list reads as the default. -/
theorem mget_of_lt {d : β} {a : Nat} {m : SMap β} (h : ∀ e ∈ m, a < e.1) : mget d m a = d := by
  induction m with
  | nil => rfl
  | cons e m ih =>
    obtain ⟨k, v⟩ := e
    have hk : a < k := h (k, v) (by simp)
    have hne : k ≠ a := by omega
    simp only [mget, if_neg hne]
    exact ih fun e he => h e (by simp [he])

/-- A write leaves every other key as it was. -/
theorem mget_mput_ne (d : β) {a b : Nat} (v : β) (m : SMap β) (h : a ≠ b) : mget d (mput d a v m) b = mget d m b := by
  induction m with
  | nil => by_cases hv : v = d <;> simp [mput, mget, hv, h]
  | cons e m ih =>
    obtain ⟨k, w⟩ := e
    by_cases h1 : a < k
    · by_cases hv : v = d <;> simp [mput, mget, h1, hv, h]
    · by_cases h2 : a = k
      · subst h2
        by_cases hv : v = d <;> simp [mput, mget, hv, h]
      · simp only [mput, if_neg h1, if_neg h2, mget, ih]

/-- A write to a canonical map is read back. -/
theorem mget_mput_self {d : β} {m : SMap β} (a : Nat) (v : β) (h : mwf d m = true) : mget d (mput d a v m) a = v := by
  induction m with
  | nil => by_cases hv : v = d <;> simp [mput, mget, hv]
  | cons e m ih =>
    obtain ⟨k, w⟩ := e
    have hw := (mwf_cons' d k w m).1 h
    by_cases h1 : a < k
    · by_cases hv : v = d
      · have hne : k ≠ a := by omega
        subst hv
        simp only [mput, if_pos h1, if_true, mget, if_neg hne]
        exact mget_of_lt fun e he => lt_trans h1 (hw.2.1 e he)
      · simp [mput, mget, h1, hv]
    · by_cases h2 : a = k
      · subst h2
        by_cases hv : v = d
        · subst hv
          simp only [mput, lt_irrefl, if_false, if_true]
          exact mget_of_lt hw.2.1
        · simp [mput, mget, hv]
      · have hne : k ≠ a := fun e => h2 e.symm
        simp only [mput, if_neg h1, if_neg h2, mget, if_neg hne]
        exact ih hw.2.2

/-- What a read gives after a write. -/
theorem mget_mput {d : β} {m : SMap β} (a b : Nat) (v : β) (h : mwf d m = true) :
    mget d (mput d a v m) b = if a = b then v else mget d m b := by
  by_cases e : a = b
  · subst e; simp [mget_mput_self a v h]
  · simp [e, mget_mput_ne d v m e]

/-- A write lists no key but its own anew. -/
theorem mem_mput {d : β} {a : Nat} {v : β} {m : SMap β} {e : Nat × β} (h : e ∈ mput d a v m) : e = (a, v) ∨ e ∈ m := by
  induction m with
  | nil => by_cases hv : v = d <;> simp [mput, hv] at h; exact .inl h
  | cons x m ih =>
    obtain ⟨k, w⟩ := x
    simp only [mput] at h
    split at h
    · split at h
      · exact .inr h
      · rcases List.mem_cons.1 h with h | h
        · exact .inl h
        · exact .inr h
    · split at h
      · split at h
        · exact .inr (by simp [h])
        · rcases List.mem_cons.1 h with h | h
          · exact .inl h
          · exact .inr (by simp [h])
      · rcases List.mem_cons.1 h with h | h
        · exact .inr (by simp [h])
        · rcases ih h with h | h
          · exact .inl h
          · exact .inr (by simp [h])

/-- A write keeps the canonical form. -/
theorem mput_wf {d : β} {m : SMap β} (a : Nat) (v : β) (h : mwf d m = true) : mwf d (mput d a v m) = true := by
  induction m with
  | nil => by_cases hv : v = d <;> simp [mput, hv, mwf_cons]
  | cons x m ih =>
    obtain ⟨k, w⟩ := x
    have hw := (mwf_cons' d k w m).1 h
    simp only [mput]
    split
    · rename_i h1
      split
      · exact h
      · rename_i hv
        exact (mwf_cons d a v _).2 ⟨hv, by simpa using h1, h⟩
    · rename_i h1
      split
      · rename_i h2
        subst h2
        split
        · exact hw.2.2
        · rename_i hv
          exact (mwf_cons' d a v m).2 ⟨hv, hw.2.1, hw.2.2⟩
      · rename_i h2
        refine (mwf_cons' d k w _).2 ⟨hw.1, fun e he => ?_, ih hw.2.2⟩
        rcases mem_mput he with rfl | he
        · simp only; omega
        · exact hw.2.1 e he

/-- Leaving entries out keeps the canonical form. -/
theorem filter_wf {d : β} {m : SMap β} (p : Nat × β → Bool) (h : mwf d m = true) : mwf d (m.filter p) = true := by
  induction m with
  | nil => rfl
  | cons x m ih =>
    obtain ⟨k, w⟩ := x
    have hw := (mwf_cons' d k w m).1 h
    by_cases hp : p (k, w) = true
    · rw [List.filter_cons_of_pos hp]
      exact (mwf_cons' d k w _).2 ⟨hw.1, fun e he => hw.2.1 e (List.mem_filter.1 he).1, ih hw.2.2⟩
    · rw [List.filter_cons_of_neg hp]; exact ih hw.2.2

end

/-- Clearing a range is leaving its entries out. -/
theorem mclear_eq (lo n : Nat) (m : SMap β) : mclear lo n m = m.filter fun e => !decide (lo ≤ e.1 ∧ e.1 < lo + n) := by
  induction m with
  | nil => rfl
  | cons x m ih =>
    obtain ⟨k, w⟩ := x
    by_cases h : lo ≤ k ∧ k < lo + n
    · rw [mclear, if_pos h, ih, List.filter_cons_of_neg]; simpa using h
    · rw [mclear, if_neg h, ih, List.filter_cons_of_pos]
      simp only [Bool.not_eq_true', decide_eq_false_iff_not]; exact h

/-- A cleared range reads as the default, every other key as before. -/
theorem mget_mclear (d : β) (lo n a : Nat) (m : SMap β) :
    mget d (mclear lo n m) a = if lo ≤ a ∧ a < lo + n then d else mget d m a := by
  induction m with
  | nil => simp [mclear]
  | cons x m ih =>
    obtain ⟨k, w⟩ := x
    simp only [mclear]
    by_cases hk : k = a
    · subst hk
      by_cases h : lo ≤ k ∧ k < lo + n <;> simp [h, ih, mget]
    · by_cases h : lo ≤ k ∧ k < lo + n <;> simp [h, ih, mget, hk]

/-- Clearing a range keeps the canonical form. -/
theorem mclear_wf [DecidableEq β] {d : β} {m : SMap β} (lo n : Nat) (h : mwf d m = true) : mwf d (mclear lo n m) = true := by
  rw [mclear_eq]; exact filter_wf _ h

/-- A change of every value keeps the canonical form. -/
theorem mmap_wf [DecidableEq β] {d : β} (f : Nat → β → β) {m : SMap β} (h : mwf d m = true) : mwf d (mmap d f m) = true := by
  induction m with
  | nil => rfl
  | cons x m ih =>
    obtain ⟨k, w⟩ := x
    have hw := (mwf_cons' d k w m).1 h
    have i := ih hw.2.2
    unfold mmap at i ⊢
    simp only [List.map_cons, List.filter_cons]
    split
    · rename_i hv
      refine (mwf_cons' d k _ _).2 ⟨by simpa using hv, fun e he => ?_, i⟩
      obtain ⟨y, hy, rfl⟩ := List.mem_map.1 (List.mem_filter.1 he).1
      exact hw.2.1 y hy
    · exact i

/-- A change of every value that keeps the default is that change of what each key reads. -/
theorem mget_mmap [DecidableEq β] {d : β} (f : Nat → β → β) (hf : ∀ k, f k d = d) {m : SMap β} (h : mwf d m = true) (a : Nat) :
    mget d (mmap d f m) a = f a (mget d m a) := by
  induction m with
  | nil => simp [mmap, hf]
  | cons x m ih =>
    obtain ⟨k, w⟩ := x
    have hw := (mwf_cons' d k w m).1 h
    have i := ih hw.2.2
    have g : ∀ b, (∀ e ∈ m, b < e.1) → mget d (mmap d f m) b = d := fun b hb => by
      apply mget_of_lt
      intro e he
      obtain ⟨y, hy, rfl⟩ := List.mem_map.1 (List.mem_filter.1 he).1
      exact hb y hy
    by_cases hk : k = a
    · subst hk
      by_cases hv : f k w = d
      · have : mmap d f ((k, w) :: m) = mmap d f m := by simp [mmap, hv]
        rw [this, g k hw.2.1]; simp [mget, hv]
      · have : mmap d f ((k, w) :: m) = (k, f k w) :: mmap d f m := by simp [mmap, hv]
        rw [this]; simp [mget]
    · have e : mget d (mmap d f ((k, w) :: m)) a = mget d (mmap d f m) a := by
        by_cases hv : f k w = d
        · have : mmap d f ((k, w) :: m) = mmap d f m := by simp [mmap, hv]
          rw [this]
        · have : mmap d f ((k, w) :: m) = (k, f k w) :: mmap d f m := by simp [mmap, hv]
          rw [this]; simp [mget, hk]
      rw [e, i]; simp [mget, hk]

end Sys2Proof.Machine
end

