-- ==== Sys2Proof/Laws/State.lean ====
section
/-! SUPPORT. What each update of the state leaves as it was, one lemma per field and update, and what it writes. -/

namespace Sys2Proof.Machine

/-! ## Fields that an update leaves as they were -/

@[simp] theorem State.setHub_now (s : State) (h : Hub) (x : HubSt) : (s.setHub h x).now = s.now := by unfold State.setHub; split <;> rfl
@[simp] theorem State.setHub_boot (s : State) (h : Hub) (x : HubSt) : (s.setHub h x).boot = s.boot := by unfold State.setHub; split <;> rfl
@[simp] theorem State.setHub_pins (s : State) (h : Hub) (x : HubSt) : (s.setHub h x).pins = s.pins := by unfold State.setHub; split <;> rfl
@[simp] theorem State.setHub_due (s : State) (h : Hub) (x : HubSt) : (s.setHub h x).due = s.due := by unfold State.setHub; split <;> rfl
@[simp] theorem State.setHub_queues (s : State) (h : Hub) (x : HubSt) : (s.setHub h x).queues = s.queues := by unfold State.setHub; split <;> rfl
@[simp] theorem State.setHub_blks (s : State) (h : Hub) (x : HubSt) : (s.setHub h x).blks = s.blks := by unfold State.setHub; split <;> rfl
@[simp] theorem State.setHub_mem (s : State) (h : Hub) (x : HubSt) : (s.setHub h x).mem = s.mem := by unfold State.setHub; split <;> rfl
@[simp] theorem State.setHub_poison (s : State) (h : Hub) (x : HubSt) : (s.setHub h x).poison = s.poison := by unfold State.setHub; split <;> rfl
@[simp] theorem State.setHub_caches (s : State) (h : Hub) (x : HubSt) : (s.setHub h x).caches = s.caches := by unfold State.setHub; split <;> rfl
@[simp] theorem State.setHub_gcs (s : State) (h : Hub) (x : HubSt) : (s.setHub h x).gcs = s.gcs := by unfold State.setHub; split <;> rfl
@[simp] theorem State.setHub_creels (s : State) (h : Hub) (x : HubSt) : (s.setHub h x).creels = s.creels := by unfold State.setHub; split <;> rfl
@[simp] theorem State.setHub_cores (s : State) (h : Hub) (x : HubSt) : (s.setHub h x).cores = s.cores := by unfold State.setHub; split <;> rfl
@[simp] theorem State.setHub_online (s : State) (h : Hub) (x : HubSt) : (s.setHub h x).online = s.online := by unfold State.setHub; split <;> rfl
@[simp] theorem State.setHub_scrubs (s : State) (h : Hub) (x : HubSt) : (s.setHub h x).scrubs = s.scrubs := by unfold State.setHub; split <;> rfl
@[simp] theorem State.setHub_scrZero (s : State) (h : Hub) (x : HubSt) : (s.setHub h x).scrZero = s.scrZero := by unfold State.setHub; split <;> rfl
@[simp] theorem State.setHub_gddrTry (s : State) (h : Hub) (x : HubSt) : (s.setHub h x).gddrTry = s.gddrTry := by unfold State.setHub; split <;> rfl
@[simp] theorem State.setHub_qrst (s : State) (h : Hub) (x : HubSt) : (s.setHub h x).qrst = s.qrst := by unfold State.setHub; split <;> rfl
@[simp] theorem State.setHub_stopped (s : State) (h : Hub) (x : HubSt) : (s.setHub h x).stopped = s.stopped := by unfold State.setHub; split <;> rfl
@[simp] theorem State.setHub_engRef (s : State) (h : Hub) (x : HubSt) : (s.setHub h x).engRef = s.engRef := by unfold State.setHub; split <;> rfl
@[simp] theorem State.setHub_engRst (s : State) (h : Hub) (x : HubSt) : (s.setHub h x).engRst = s.engRst := by unfold State.setHub; split <;> rfl
@[simp] theorem State.setHub_c0End (s : State) (h : Hub) (x : HubSt) : (s.setHub h x).c0End = s.c0End := by unfold State.setHub; split <;> rfl
@[simp] theorem State.setHub_qrstRun (s : State) (h : Hub) (x : HubSt) : (s.setHub h x).qrstRun = s.qrstRun := by unfold State.setHub; split <;> rfl
@[simp] theorem State.setHub_arbs (s : State) (h : Hub) (x : HubSt) : (s.setHub h x).arbs = s.arbs := by unfold State.setHub; split <;> rfl
@[simp] theorem State.setHub_lts (s : State) (h : Hub) (x : HubSt) : (s.setHub h x).lts = s.lts := by unfold State.setHub; split <;> rfl
@[simp] theorem State.setHub_lastAt (s : State) (h : Hub) (x : HubSt) : (s.setHub h x).lastAt = s.lastAt := by unfold State.setHub; split <;> rfl
@[simp] theorem State.setHub_upsets (s : State) (h : Hub) (x : HubSt) : (s.setHub h x).upsets = s.upsets := by unfold State.setHub; split <;> rfl
@[simp] theorem State.setHub_qsel (s : State) (h : Hub) (x : HubSt) : (s.setHub h x).qsel = s.qsel := by unfold State.setHub; split <;> rfl
@[simp] theorem State.setHub_dlks (s : State) (h : Hub) (x : HubSt) : (s.setHub h x).dlks = s.dlks := by unfold State.setHub; split <;> rfl
@[simp] theorem State.setHub_hlks (s : State) (h : Hub) (x : HubSt) : (s.setHub h x).hlks = s.hlks := by unfold State.setHub; split <;> rfl
@[simp] theorem State.setHub_errs (s : State) (h : Hub) (x : HubSt) : (s.setHub h x).errs = s.errs := by unfold State.setHub; split <;> rfl
@[simp] theorem State.setHub_doff (s : State) (h : Hub) (x : HubSt) : (s.setHub h x).doff = s.doff := by unfold State.setHub; split <;> rfl
@[simp] theorem State.setHub_mgt (s : State) (h : Hub) (x : HubSt) : (s.setHub h x).mgt = s.mgt := by unfold State.setHub; split <;> rfl
@[simp] theorem State.setHub_stamp (s : State) (h : Hub) (x : HubSt) : (s.setHub h x).stamp = s.stamp := by unfold State.setHub; split <;> rfl
@[simp] theorem State.setHub_fresh (s : State) (h : Hub) (x : HubSt) : (s.setHub h x).fresh = s.fresh := by unfold State.setHub; split <;> rfl
@[simp] theorem State.setHub_out (s : State) (h : Hub) (x : HubSt) : (s.setHub h x).out = s.out := by unfold State.setHub; split <;> rfl
@[simp] theorem State.setHub_pending (s : State) (h : Hub) (x : HubSt) : (s.setHub h x).pending = s.pending := by unfold State.setHub; split <;> rfl

@[simp] theorem State.modHub_now (s : State) (h : Hub) (f : HubSt → HubSt) : (s.modHub h f).now = s.now := State.setHub_now s h _
@[simp] theorem State.modHub_boot (s : State) (h : Hub) (f : HubSt → HubSt) : (s.modHub h f).boot = s.boot := State.setHub_boot s h _
@[simp] theorem State.modHub_pins (s : State) (h : Hub) (f : HubSt → HubSt) : (s.modHub h f).pins = s.pins := State.setHub_pins s h _
@[simp] theorem State.modHub_due (s : State) (h : Hub) (f : HubSt → HubSt) : (s.modHub h f).due = s.due := State.setHub_due s h _
@[simp] theorem State.modHub_queues (s : State) (h : Hub) (f : HubSt → HubSt) : (s.modHub h f).queues = s.queues := State.setHub_queues s h _
@[simp] theorem State.modHub_blks (s : State) (h : Hub) (f : HubSt → HubSt) : (s.modHub h f).blks = s.blks := State.setHub_blks s h _
@[simp] theorem State.modHub_mem (s : State) (h : Hub) (f : HubSt → HubSt) : (s.modHub h f).mem = s.mem := State.setHub_mem s h _
@[simp] theorem State.modHub_poison (s : State) (h : Hub) (f : HubSt → HubSt) : (s.modHub h f).poison = s.poison := State.setHub_poison s h _
@[simp] theorem State.modHub_caches (s : State) (h : Hub) (f : HubSt → HubSt) : (s.modHub h f).caches = s.caches := State.setHub_caches s h _
@[simp] theorem State.modHub_gcs (s : State) (h : Hub) (f : HubSt → HubSt) : (s.modHub h f).gcs = s.gcs := State.setHub_gcs s h _
@[simp] theorem State.modHub_creels (s : State) (h : Hub) (f : HubSt → HubSt) : (s.modHub h f).creels = s.creels := State.setHub_creels s h _
@[simp] theorem State.modHub_cores (s : State) (h : Hub) (f : HubSt → HubSt) : (s.modHub h f).cores = s.cores := State.setHub_cores s h _
@[simp] theorem State.modHub_online (s : State) (h : Hub) (f : HubSt → HubSt) : (s.modHub h f).online = s.online := State.setHub_online s h _
@[simp] theorem State.modHub_scrubs (s : State) (h : Hub) (f : HubSt → HubSt) : (s.modHub h f).scrubs = s.scrubs := State.setHub_scrubs s h _
@[simp] theorem State.modHub_scrZero (s : State) (h : Hub) (f : HubSt → HubSt) : (s.modHub h f).scrZero = s.scrZero := State.setHub_scrZero s h _
@[simp] theorem State.modHub_gddrTry (s : State) (h : Hub) (f : HubSt → HubSt) : (s.modHub h f).gddrTry = s.gddrTry := State.setHub_gddrTry s h _
@[simp] theorem State.modHub_qrst (s : State) (h : Hub) (f : HubSt → HubSt) : (s.modHub h f).qrst = s.qrst := State.setHub_qrst s h _
@[simp] theorem State.modHub_stopped (s : State) (h : Hub) (f : HubSt → HubSt) : (s.modHub h f).stopped = s.stopped := State.setHub_stopped s h _
@[simp] theorem State.modHub_engRef (s : State) (h : Hub) (f : HubSt → HubSt) : (s.modHub h f).engRef = s.engRef := State.setHub_engRef s h _
@[simp] theorem State.modHub_engRst (s : State) (h : Hub) (f : HubSt → HubSt) : (s.modHub h f).engRst = s.engRst := State.setHub_engRst s h _
@[simp] theorem State.modHub_c0End (s : State) (h : Hub) (f : HubSt → HubSt) : (s.modHub h f).c0End = s.c0End := State.setHub_c0End s h _
@[simp] theorem State.modHub_qrstRun (s : State) (h : Hub) (f : HubSt → HubSt) : (s.modHub h f).qrstRun = s.qrstRun := State.setHub_qrstRun s h _
@[simp] theorem State.modHub_arbs (s : State) (h : Hub) (f : HubSt → HubSt) : (s.modHub h f).arbs = s.arbs := State.setHub_arbs s h _
@[simp] theorem State.modHub_lts (s : State) (h : Hub) (f : HubSt → HubSt) : (s.modHub h f).lts = s.lts := State.setHub_lts s h _
@[simp] theorem State.modHub_lastAt (s : State) (h : Hub) (f : HubSt → HubSt) : (s.modHub h f).lastAt = s.lastAt := State.setHub_lastAt s h _
@[simp] theorem State.modHub_upsets (s : State) (h : Hub) (f : HubSt → HubSt) : (s.modHub h f).upsets = s.upsets := State.setHub_upsets s h _
@[simp] theorem State.modHub_qsel (s : State) (h : Hub) (f : HubSt → HubSt) : (s.modHub h f).qsel = s.qsel := State.setHub_qsel s h _
@[simp] theorem State.modHub_dlks (s : State) (h : Hub) (f : HubSt → HubSt) : (s.modHub h f).dlks = s.dlks := State.setHub_dlks s h _
@[simp] theorem State.modHub_hlks (s : State) (h : Hub) (f : HubSt → HubSt) : (s.modHub h f).hlks = s.hlks := State.setHub_hlks s h _
@[simp] theorem State.modHub_errs (s : State) (h : Hub) (f : HubSt → HubSt) : (s.modHub h f).errs = s.errs := State.setHub_errs s h _
@[simp] theorem State.modHub_doff (s : State) (h : Hub) (f : HubSt → HubSt) : (s.modHub h f).doff = s.doff := State.setHub_doff s h _
@[simp] theorem State.modHub_mgt (s : State) (h : Hub) (f : HubSt → HubSt) : (s.modHub h f).mgt = s.mgt := State.setHub_mgt s h _
@[simp] theorem State.modHub_stamp (s : State) (h : Hub) (f : HubSt → HubSt) : (s.modHub h f).stamp = s.stamp := State.setHub_stamp s h _
@[simp] theorem State.modHub_fresh (s : State) (h : Hub) (f : HubSt → HubSt) : (s.modHub h f).fresh = s.fresh := State.setHub_fresh s h _
@[simp] theorem State.modHub_out (s : State) (h : Hub) (f : HubSt → HubSt) : (s.modHub h f).out = s.out := State.setHub_out s h _
@[simp] theorem State.modHub_pending (s : State) (h : Hub) (f : HubSt → HubSt) : (s.modHub h f).pending = s.pending := State.setHub_pending s h _

@[simp] theorem State.setQueue_now (s : State) (q : QIdx) (x : Queue) : (s.setQueue q x).now = s.now := rfl
@[simp] theorem State.setQueue_boot (s : State) (q : QIdx) (x : Queue) : (s.setQueue q x).boot = s.boot := rfl
@[simp] theorem State.setQueue_pins (s : State) (q : QIdx) (x : Queue) : (s.setQueue q x).pins = s.pins := rfl
@[simp] theorem State.setQueue_hub0 (s : State) (q : QIdx) (x : Queue) : (s.setQueue q x).hub0 = s.hub0 := rfl
@[simp] theorem State.setQueue_hub1 (s : State) (q : QIdx) (x : Queue) : (s.setQueue q x).hub1 = s.hub1 := rfl
@[simp] theorem State.setQueue_due (s : State) (q : QIdx) (x : Queue) : (s.setQueue q x).due = s.due := rfl
@[simp] theorem State.setQueue_blks (s : State) (q : QIdx) (x : Queue) : (s.setQueue q x).blks = s.blks := rfl
@[simp] theorem State.setQueue_mem (s : State) (q : QIdx) (x : Queue) : (s.setQueue q x).mem = s.mem := rfl
@[simp] theorem State.setQueue_poison (s : State) (q : QIdx) (x : Queue) : (s.setQueue q x).poison = s.poison := rfl
@[simp] theorem State.setQueue_caches (s : State) (q : QIdx) (x : Queue) : (s.setQueue q x).caches = s.caches := rfl
@[simp] theorem State.setQueue_gcs (s : State) (q : QIdx) (x : Queue) : (s.setQueue q x).gcs = s.gcs := rfl
@[simp] theorem State.setQueue_creels (s : State) (q : QIdx) (x : Queue) : (s.setQueue q x).creels = s.creels := rfl
@[simp] theorem State.setQueue_cores (s : State) (q : QIdx) (x : Queue) : (s.setQueue q x).cores = s.cores := rfl
@[simp] theorem State.setQueue_online (s : State) (q : QIdx) (x : Queue) : (s.setQueue q x).online = s.online := rfl
@[simp] theorem State.setQueue_scrubs (s : State) (q : QIdx) (x : Queue) : (s.setQueue q x).scrubs = s.scrubs := rfl
@[simp] theorem State.setQueue_scrZero (s : State) (q : QIdx) (x : Queue) : (s.setQueue q x).scrZero = s.scrZero := rfl
@[simp] theorem State.setQueue_gddrTry (s : State) (q : QIdx) (x : Queue) : (s.setQueue q x).gddrTry = s.gddrTry := rfl
@[simp] theorem State.setQueue_qrst (s : State) (q : QIdx) (x : Queue) : (s.setQueue q x).qrst = s.qrst := rfl
@[simp] theorem State.setQueue_stopped (s : State) (q : QIdx) (x : Queue) : (s.setQueue q x).stopped = s.stopped := rfl
@[simp] theorem State.setQueue_engRef (s : State) (q : QIdx) (x : Queue) : (s.setQueue q x).engRef = s.engRef := rfl
@[simp] theorem State.setQueue_engRst (s : State) (q : QIdx) (x : Queue) : (s.setQueue q x).engRst = s.engRst := rfl
@[simp] theorem State.setQueue_c0End (s : State) (q : QIdx) (x : Queue) : (s.setQueue q x).c0End = s.c0End := rfl
@[simp] theorem State.setQueue_qrstRun (s : State) (q : QIdx) (x : Queue) : (s.setQueue q x).qrstRun = s.qrstRun := rfl
@[simp] theorem State.setQueue_arbs (s : State) (q : QIdx) (x : Queue) : (s.setQueue q x).arbs = s.arbs := rfl
@[simp] theorem State.setQueue_lts (s : State) (q : QIdx) (x : Queue) : (s.setQueue q x).lts = s.lts := rfl
@[simp] theorem State.setQueue_lastAt (s : State) (q : QIdx) (x : Queue) : (s.setQueue q x).lastAt = s.lastAt := rfl
@[simp] theorem State.setQueue_upsets (s : State) (q : QIdx) (x : Queue) : (s.setQueue q x).upsets = s.upsets := rfl
@[simp] theorem State.setQueue_qsel (s : State) (q : QIdx) (x : Queue) : (s.setQueue q x).qsel = s.qsel := rfl
@[simp] theorem State.setQueue_dlks (s : State) (q : QIdx) (x : Queue) : (s.setQueue q x).dlks = s.dlks := rfl
@[simp] theorem State.setQueue_hlks (s : State) (q : QIdx) (x : Queue) : (s.setQueue q x).hlks = s.hlks := rfl
@[simp] theorem State.setQueue_errs (s : State) (q : QIdx) (x : Queue) : (s.setQueue q x).errs = s.errs := rfl
@[simp] theorem State.setQueue_doff (s : State) (q : QIdx) (x : Queue) : (s.setQueue q x).doff = s.doff := rfl
@[simp] theorem State.setQueue_mgt (s : State) (q : QIdx) (x : Queue) : (s.setQueue q x).mgt = s.mgt := rfl
@[simp] theorem State.setQueue_stamp (s : State) (q : QIdx) (x : Queue) : (s.setQueue q x).stamp = s.stamp := rfl
@[simp] theorem State.setQueue_fresh (s : State) (q : QIdx) (x : Queue) : (s.setQueue q x).fresh = s.fresh := rfl
@[simp] theorem State.setQueue_out (s : State) (q : QIdx) (x : Queue) : (s.setQueue q x).out = s.out := rfl
@[simp] theorem State.setQueue_pending (s : State) (q : QIdx) (x : Queue) : (s.setQueue q x).pending = s.pending := rfl

@[simp] theorem State.modQueue_now (s : State) (q : QIdx) (f : Queue → Queue) : (s.modQueue q f).now = s.now := rfl
@[simp] theorem State.modQueue_boot (s : State) (q : QIdx) (f : Queue → Queue) : (s.modQueue q f).boot = s.boot := rfl
@[simp] theorem State.modQueue_pins (s : State) (q : QIdx) (f : Queue → Queue) : (s.modQueue q f).pins = s.pins := rfl
@[simp] theorem State.modQueue_hub0 (s : State) (q : QIdx) (f : Queue → Queue) : (s.modQueue q f).hub0 = s.hub0 := rfl
@[simp] theorem State.modQueue_hub1 (s : State) (q : QIdx) (f : Queue → Queue) : (s.modQueue q f).hub1 = s.hub1 := rfl
@[simp] theorem State.modQueue_due (s : State) (q : QIdx) (f : Queue → Queue) : (s.modQueue q f).due = s.due := rfl
@[simp] theorem State.modQueue_blks (s : State) (q : QIdx) (f : Queue → Queue) : (s.modQueue q f).blks = s.blks := rfl
@[simp] theorem State.modQueue_mem (s : State) (q : QIdx) (f : Queue → Queue) : (s.modQueue q f).mem = s.mem := rfl
@[simp] theorem State.modQueue_poison (s : State) (q : QIdx) (f : Queue → Queue) : (s.modQueue q f).poison = s.poison := rfl
@[simp] theorem State.modQueue_caches (s : State) (q : QIdx) (f : Queue → Queue) : (s.modQueue q f).caches = s.caches := rfl
@[simp] theorem State.modQueue_gcs (s : State) (q : QIdx) (f : Queue → Queue) : (s.modQueue q f).gcs = s.gcs := rfl
@[simp] theorem State.modQueue_creels (s : State) (q : QIdx) (f : Queue → Queue) : (s.modQueue q f).creels = s.creels := rfl
@[simp] theorem State.modQueue_cores (s : State) (q : QIdx) (f : Queue → Queue) : (s.modQueue q f).cores = s.cores := rfl
@[simp] theorem State.modQueue_online (s : State) (q : QIdx) (f : Queue → Queue) : (s.modQueue q f).online = s.online := rfl
@[simp] theorem State.modQueue_scrubs (s : State) (q : QIdx) (f : Queue → Queue) : (s.modQueue q f).scrubs = s.scrubs := rfl
@[simp] theorem State.modQueue_scrZero (s : State) (q : QIdx) (f : Queue → Queue) : (s.modQueue q f).scrZero = s.scrZero := rfl
@[simp] theorem State.modQueue_gddrTry (s : State) (q : QIdx) (f : Queue → Queue) : (s.modQueue q f).gddrTry = s.gddrTry := rfl
@[simp] theorem State.modQueue_qrst (s : State) (q : QIdx) (f : Queue → Queue) : (s.modQueue q f).qrst = s.qrst := rfl
@[simp] theorem State.modQueue_stopped (s : State) (q : QIdx) (f : Queue → Queue) : (s.modQueue q f).stopped = s.stopped := rfl
@[simp] theorem State.modQueue_engRef (s : State) (q : QIdx) (f : Queue → Queue) : (s.modQueue q f).engRef = s.engRef := rfl
@[simp] theorem State.modQueue_engRst (s : State) (q : QIdx) (f : Queue → Queue) : (s.modQueue q f).engRst = s.engRst := rfl
@[simp] theorem State.modQueue_c0End (s : State) (q : QIdx) (f : Queue → Queue) : (s.modQueue q f).c0End = s.c0End := rfl
@[simp] theorem State.modQueue_qrstRun (s : State) (q : QIdx) (f : Queue → Queue) : (s.modQueue q f).qrstRun = s.qrstRun := rfl
@[simp] theorem State.modQueue_arbs (s : State) (q : QIdx) (f : Queue → Queue) : (s.modQueue q f).arbs = s.arbs := rfl
@[simp] theorem State.modQueue_lts (s : State) (q : QIdx) (f : Queue → Queue) : (s.modQueue q f).lts = s.lts := rfl
@[simp] theorem State.modQueue_lastAt (s : State) (q : QIdx) (f : Queue → Queue) : (s.modQueue q f).lastAt = s.lastAt := rfl
@[simp] theorem State.modQueue_upsets (s : State) (q : QIdx) (f : Queue → Queue) : (s.modQueue q f).upsets = s.upsets := rfl
@[simp] theorem State.modQueue_qsel (s : State) (q : QIdx) (f : Queue → Queue) : (s.modQueue q f).qsel = s.qsel := rfl
@[simp] theorem State.modQueue_dlks (s : State) (q : QIdx) (f : Queue → Queue) : (s.modQueue q f).dlks = s.dlks := rfl
@[simp] theorem State.modQueue_hlks (s : State) (q : QIdx) (f : Queue → Queue) : (s.modQueue q f).hlks = s.hlks := rfl
@[simp] theorem State.modQueue_errs (s : State) (q : QIdx) (f : Queue → Queue) : (s.modQueue q f).errs = s.errs := rfl
@[simp] theorem State.modQueue_doff (s : State) (q : QIdx) (f : Queue → Queue) : (s.modQueue q f).doff = s.doff := rfl
@[simp] theorem State.modQueue_mgt (s : State) (q : QIdx) (f : Queue → Queue) : (s.modQueue q f).mgt = s.mgt := rfl
@[simp] theorem State.modQueue_stamp (s : State) (q : QIdx) (f : Queue → Queue) : (s.modQueue q f).stamp = s.stamp := rfl
@[simp] theorem State.modQueue_fresh (s : State) (q : QIdx) (f : Queue → Queue) : (s.modQueue q f).fresh = s.fresh := rfl
@[simp] theorem State.modQueue_out (s : State) (q : QIdx) (f : Queue → Queue) : (s.modQueue q f).out = s.out := rfl
@[simp] theorem State.modQueue_pending (s : State) (q : QIdx) (f : Queue → Queue) : (s.modQueue q f).pending = s.pending := rfl

@[simp] theorem State.setBlk_now (s : State) (p : Nat) (b : Blk) : (s.setBlk p b).now = s.now := rfl
@[simp] theorem State.setBlk_boot (s : State) (p : Nat) (b : Blk) : (s.setBlk p b).boot = s.boot := rfl
@[simp] theorem State.setBlk_pins (s : State) (p : Nat) (b : Blk) : (s.setBlk p b).pins = s.pins := rfl
@[simp] theorem State.setBlk_hub0 (s : State) (p : Nat) (b : Blk) : (s.setBlk p b).hub0 = s.hub0 := rfl
@[simp] theorem State.setBlk_hub1 (s : State) (p : Nat) (b : Blk) : (s.setBlk p b).hub1 = s.hub1 := rfl
@[simp] theorem State.setBlk_due (s : State) (p : Nat) (b : Blk) : (s.setBlk p b).due = s.due := rfl
@[simp] theorem State.setBlk_queues (s : State) (p : Nat) (b : Blk) : (s.setBlk p b).queues = s.queues := rfl
@[simp] theorem State.setBlk_mem (s : State) (p : Nat) (b : Blk) : (s.setBlk p b).mem = s.mem := rfl
@[simp] theorem State.setBlk_poison (s : State) (p : Nat) (b : Blk) : (s.setBlk p b).poison = s.poison := rfl
@[simp] theorem State.setBlk_caches (s : State) (p : Nat) (b : Blk) : (s.setBlk p b).caches = s.caches := rfl
@[simp] theorem State.setBlk_gcs (s : State) (p : Nat) (b : Blk) : (s.setBlk p b).gcs = s.gcs := rfl
@[simp] theorem State.setBlk_creels (s : State) (p : Nat) (b : Blk) : (s.setBlk p b).creels = s.creels := rfl
@[simp] theorem State.setBlk_cores (s : State) (p : Nat) (b : Blk) : (s.setBlk p b).cores = s.cores := rfl
@[simp] theorem State.setBlk_online (s : State) (p : Nat) (b : Blk) : (s.setBlk p b).online = s.online := rfl
@[simp] theorem State.setBlk_scrubs (s : State) (p : Nat) (b : Blk) : (s.setBlk p b).scrubs = s.scrubs := rfl
@[simp] theorem State.setBlk_scrZero (s : State) (p : Nat) (b : Blk) : (s.setBlk p b).scrZero = s.scrZero := rfl
@[simp] theorem State.setBlk_gddrTry (s : State) (p : Nat) (b : Blk) : (s.setBlk p b).gddrTry = s.gddrTry := rfl
@[simp] theorem State.setBlk_qrst (s : State) (p : Nat) (b : Blk) : (s.setBlk p b).qrst = s.qrst := rfl
@[simp] theorem State.setBlk_stopped (s : State) (p : Nat) (b : Blk) : (s.setBlk p b).stopped = s.stopped := rfl
@[simp] theorem State.setBlk_engRef (s : State) (p : Nat) (b : Blk) : (s.setBlk p b).engRef = s.engRef := rfl
@[simp] theorem State.setBlk_engRst (s : State) (p : Nat) (b : Blk) : (s.setBlk p b).engRst = s.engRst := rfl
@[simp] theorem State.setBlk_c0End (s : State) (p : Nat) (b : Blk) : (s.setBlk p b).c0End = s.c0End := rfl
@[simp] theorem State.setBlk_qrstRun (s : State) (p : Nat) (b : Blk) : (s.setBlk p b).qrstRun = s.qrstRun := rfl
@[simp] theorem State.setBlk_arbs (s : State) (p : Nat) (b : Blk) : (s.setBlk p b).arbs = s.arbs := rfl
@[simp] theorem State.setBlk_lts (s : State) (p : Nat) (b : Blk) : (s.setBlk p b).lts = s.lts := rfl
@[simp] theorem State.setBlk_lastAt (s : State) (p : Nat) (b : Blk) : (s.setBlk p b).lastAt = s.lastAt := rfl
@[simp] theorem State.setBlk_upsets (s : State) (p : Nat) (b : Blk) : (s.setBlk p b).upsets = s.upsets := rfl
@[simp] theorem State.setBlk_qsel (s : State) (p : Nat) (b : Blk) : (s.setBlk p b).qsel = s.qsel := rfl
@[simp] theorem State.setBlk_dlks (s : State) (p : Nat) (b : Blk) : (s.setBlk p b).dlks = s.dlks := rfl
@[simp] theorem State.setBlk_hlks (s : State) (p : Nat) (b : Blk) : (s.setBlk p b).hlks = s.hlks := rfl
@[simp] theorem State.setBlk_errs (s : State) (p : Nat) (b : Blk) : (s.setBlk p b).errs = s.errs := rfl
@[simp] theorem State.setBlk_doff (s : State) (p : Nat) (b : Blk) : (s.setBlk p b).doff = s.doff := rfl
@[simp] theorem State.setBlk_mgt (s : State) (p : Nat) (b : Blk) : (s.setBlk p b).mgt = s.mgt := rfl
@[simp] theorem State.setBlk_stamp (s : State) (p : Nat) (b : Blk) : (s.setBlk p b).stamp = s.stamp := rfl
@[simp] theorem State.setBlk_fresh (s : State) (p : Nat) (b : Blk) : (s.setBlk p b).fresh = s.fresh := rfl
@[simp] theorem State.setBlk_out (s : State) (p : Nat) (b : Blk) : (s.setBlk p b).out = s.out := rfl
@[simp] theorem State.setBlk_pending (s : State) (p : Nat) (b : Blk) : (s.setBlk p b).pending = s.pending := rfl

@[simp] theorem State.modBlk_now (s : State) (p : Nat) (f : Blk → Blk) : (s.modBlk p f).now = s.now := rfl
@[simp] theorem State.modBlk_boot (s : State) (p : Nat) (f : Blk → Blk) : (s.modBlk p f).boot = s.boot := rfl
@[simp] theorem State.modBlk_pins (s : State) (p : Nat) (f : Blk → Blk) : (s.modBlk p f).pins = s.pins := rfl
@[simp] theorem State.modBlk_hub0 (s : State) (p : Nat) (f : Blk → Blk) : (s.modBlk p f).hub0 = s.hub0 := rfl
@[simp] theorem State.modBlk_hub1 (s : State) (p : Nat) (f : Blk → Blk) : (s.modBlk p f).hub1 = s.hub1 := rfl
@[simp] theorem State.modBlk_due (s : State) (p : Nat) (f : Blk → Blk) : (s.modBlk p f).due = s.due := rfl
@[simp] theorem State.modBlk_queues (s : State) (p : Nat) (f : Blk → Blk) : (s.modBlk p f).queues = s.queues := rfl
@[simp] theorem State.modBlk_mem (s : State) (p : Nat) (f : Blk → Blk) : (s.modBlk p f).mem = s.mem := rfl
@[simp] theorem State.modBlk_poison (s : State) (p : Nat) (f : Blk → Blk) : (s.modBlk p f).poison = s.poison := rfl
@[simp] theorem State.modBlk_caches (s : State) (p : Nat) (f : Blk → Blk) : (s.modBlk p f).caches = s.caches := rfl
@[simp] theorem State.modBlk_gcs (s : State) (p : Nat) (f : Blk → Blk) : (s.modBlk p f).gcs = s.gcs := rfl
@[simp] theorem State.modBlk_creels (s : State) (p : Nat) (f : Blk → Blk) : (s.modBlk p f).creels = s.creels := rfl
@[simp] theorem State.modBlk_cores (s : State) (p : Nat) (f : Blk → Blk) : (s.modBlk p f).cores = s.cores := rfl
@[simp] theorem State.modBlk_online (s : State) (p : Nat) (f : Blk → Blk) : (s.modBlk p f).online = s.online := rfl
@[simp] theorem State.modBlk_scrubs (s : State) (p : Nat) (f : Blk → Blk) : (s.modBlk p f).scrubs = s.scrubs := rfl
@[simp] theorem State.modBlk_scrZero (s : State) (p : Nat) (f : Blk → Blk) : (s.modBlk p f).scrZero = s.scrZero := rfl
@[simp] theorem State.modBlk_gddrTry (s : State) (p : Nat) (f : Blk → Blk) : (s.modBlk p f).gddrTry = s.gddrTry := rfl
@[simp] theorem State.modBlk_qrst (s : State) (p : Nat) (f : Blk → Blk) : (s.modBlk p f).qrst = s.qrst := rfl
@[simp] theorem State.modBlk_stopped (s : State) (p : Nat) (f : Blk → Blk) : (s.modBlk p f).stopped = s.stopped := rfl
@[simp] theorem State.modBlk_engRef (s : State) (p : Nat) (f : Blk → Blk) : (s.modBlk p f).engRef = s.engRef := rfl
@[simp] theorem State.modBlk_engRst (s : State) (p : Nat) (f : Blk → Blk) : (s.modBlk p f).engRst = s.engRst := rfl
@[simp] theorem State.modBlk_c0End (s : State) (p : Nat) (f : Blk → Blk) : (s.modBlk p f).c0End = s.c0End := rfl
@[simp] theorem State.modBlk_qrstRun (s : State) (p : Nat) (f : Blk → Blk) : (s.modBlk p f).qrstRun = s.qrstRun := rfl
@[simp] theorem State.modBlk_arbs (s : State) (p : Nat) (f : Blk → Blk) : (s.modBlk p f).arbs = s.arbs := rfl
@[simp] theorem State.modBlk_lts (s : State) (p : Nat) (f : Blk → Blk) : (s.modBlk p f).lts = s.lts := rfl
@[simp] theorem State.modBlk_lastAt (s : State) (p : Nat) (f : Blk → Blk) : (s.modBlk p f).lastAt = s.lastAt := rfl
@[simp] theorem State.modBlk_upsets (s : State) (p : Nat) (f : Blk → Blk) : (s.modBlk p f).upsets = s.upsets := rfl
@[simp] theorem State.modBlk_qsel (s : State) (p : Nat) (f : Blk → Blk) : (s.modBlk p f).qsel = s.qsel := rfl
@[simp] theorem State.modBlk_dlks (s : State) (p : Nat) (f : Blk → Blk) : (s.modBlk p f).dlks = s.dlks := rfl
@[simp] theorem State.modBlk_hlks (s : State) (p : Nat) (f : Blk → Blk) : (s.modBlk p f).hlks = s.hlks := rfl
@[simp] theorem State.modBlk_errs (s : State) (p : Nat) (f : Blk → Blk) : (s.modBlk p f).errs = s.errs := rfl
@[simp] theorem State.modBlk_doff (s : State) (p : Nat) (f : Blk → Blk) : (s.modBlk p f).doff = s.doff := rfl
@[simp] theorem State.modBlk_mgt (s : State) (p : Nat) (f : Blk → Blk) : (s.modBlk p f).mgt = s.mgt := rfl
@[simp] theorem State.modBlk_stamp (s : State) (p : Nat) (f : Blk → Blk) : (s.modBlk p f).stamp = s.stamp := rfl
@[simp] theorem State.modBlk_fresh (s : State) (p : Nat) (f : Blk → Blk) : (s.modBlk p f).fresh = s.fresh := rfl
@[simp] theorem State.modBlk_out (s : State) (p : Nat) (f : Blk → Blk) : (s.modBlk p f).out = s.out := rfl
@[simp] theorem State.modBlk_pending (s : State) (p : Nat) (f : Blk → Blk) : (s.modBlk p f).pending = s.pending := rfl

@[simp] theorem State.count_now (s : State) (p off n : Nat) : (s.count p off n).now = s.now := rfl
@[simp] theorem State.count_boot (s : State) (p off n : Nat) : (s.count p off n).boot = s.boot := rfl
@[simp] theorem State.count_pins (s : State) (p off n : Nat) : (s.count p off n).pins = s.pins := rfl
@[simp] theorem State.count_hub0 (s : State) (p off n : Nat) : (s.count p off n).hub0 = s.hub0 := rfl
@[simp] theorem State.count_hub1 (s : State) (p off n : Nat) : (s.count p off n).hub1 = s.hub1 := rfl
@[simp] theorem State.count_due (s : State) (p off n : Nat) : (s.count p off n).due = s.due := rfl
@[simp] theorem State.count_queues (s : State) (p off n : Nat) : (s.count p off n).queues = s.queues := rfl
@[simp] theorem State.count_mem (s : State) (p off n : Nat) : (s.count p off n).mem = s.mem := rfl
@[simp] theorem State.count_poison (s : State) (p off n : Nat) : (s.count p off n).poison = s.poison := rfl
@[simp] theorem State.count_caches (s : State) (p off n : Nat) : (s.count p off n).caches = s.caches := rfl
@[simp] theorem State.count_gcs (s : State) (p off n : Nat) : (s.count p off n).gcs = s.gcs := rfl
@[simp] theorem State.count_creels (s : State) (p off n : Nat) : (s.count p off n).creels = s.creels := rfl
@[simp] theorem State.count_cores (s : State) (p off n : Nat) : (s.count p off n).cores = s.cores := rfl
@[simp] theorem State.count_online (s : State) (p off n : Nat) : (s.count p off n).online = s.online := rfl
@[simp] theorem State.count_scrubs (s : State) (p off n : Nat) : (s.count p off n).scrubs = s.scrubs := rfl
@[simp] theorem State.count_scrZero (s : State) (p off n : Nat) : (s.count p off n).scrZero = s.scrZero := rfl
@[simp] theorem State.count_gddrTry (s : State) (p off n : Nat) : (s.count p off n).gddrTry = s.gddrTry := rfl
@[simp] theorem State.count_qrst (s : State) (p off n : Nat) : (s.count p off n).qrst = s.qrst := rfl
@[simp] theorem State.count_stopped (s : State) (p off n : Nat) : (s.count p off n).stopped = s.stopped := rfl
@[simp] theorem State.count_engRef (s : State) (p off n : Nat) : (s.count p off n).engRef = s.engRef := rfl
@[simp] theorem State.count_engRst (s : State) (p off n : Nat) : (s.count p off n).engRst = s.engRst := rfl
@[simp] theorem State.count_c0End (s : State) (p off n : Nat) : (s.count p off n).c0End = s.c0End := rfl
@[simp] theorem State.count_qrstRun (s : State) (p off n : Nat) : (s.count p off n).qrstRun = s.qrstRun := rfl
@[simp] theorem State.count_arbs (s : State) (p off n : Nat) : (s.count p off n).arbs = s.arbs := rfl
@[simp] theorem State.count_lts (s : State) (p off n : Nat) : (s.count p off n).lts = s.lts := rfl
@[simp] theorem State.count_lastAt (s : State) (p off n : Nat) : (s.count p off n).lastAt = s.lastAt := rfl
@[simp] theorem State.count_upsets (s : State) (p off n : Nat) : (s.count p off n).upsets = s.upsets := rfl
@[simp] theorem State.count_qsel (s : State) (p off n : Nat) : (s.count p off n).qsel = s.qsel := rfl
@[simp] theorem State.count_dlks (s : State) (p off n : Nat) : (s.count p off n).dlks = s.dlks := rfl
@[simp] theorem State.count_hlks (s : State) (p off n : Nat) : (s.count p off n).hlks = s.hlks := rfl
@[simp] theorem State.count_errs (s : State) (p off n : Nat) : (s.count p off n).errs = s.errs := rfl
@[simp] theorem State.count_doff (s : State) (p off n : Nat) : (s.count p off n).doff = s.doff := rfl
@[simp] theorem State.count_mgt (s : State) (p off n : Nat) : (s.count p off n).mgt = s.mgt := rfl
@[simp] theorem State.count_stamp (s : State) (p off n : Nat) : (s.count p off n).stamp = s.stamp := rfl
@[simp] theorem State.count_fresh (s : State) (p off n : Nat) : (s.count p off n).fresh = s.fresh := rfl
@[simp] theorem State.count_out (s : State) (p off n : Nat) : (s.count p off n).out = s.out := rfl
@[simp] theorem State.count_pending (s : State) (p off n : Nat) : (s.count p off n).pending = s.pending := rfl

@[simp] theorem State.setCore_now (s : State) (c : CoreId) (x : Core) : (s.setCore c x).now = s.now := rfl
@[simp] theorem State.setCore_boot (s : State) (c : CoreId) (x : Core) : (s.setCore c x).boot = s.boot := rfl
@[simp] theorem State.setCore_pins (s : State) (c : CoreId) (x : Core) : (s.setCore c x).pins = s.pins := rfl
@[simp] theorem State.setCore_hub0 (s : State) (c : CoreId) (x : Core) : (s.setCore c x).hub0 = s.hub0 := rfl
@[simp] theorem State.setCore_hub1 (s : State) (c : CoreId) (x : Core) : (s.setCore c x).hub1 = s.hub1 := rfl
@[simp] theorem State.setCore_due (s : State) (c : CoreId) (x : Core) : (s.setCore c x).due = s.due := rfl
@[simp] theorem State.setCore_queues (s : State) (c : CoreId) (x : Core) : (s.setCore c x).queues = s.queues := rfl
@[simp] theorem State.setCore_blks (s : State) (c : CoreId) (x : Core) : (s.setCore c x).blks = s.blks := rfl
@[simp] theorem State.setCore_mem (s : State) (c : CoreId) (x : Core) : (s.setCore c x).mem = s.mem := rfl
@[simp] theorem State.setCore_poison (s : State) (c : CoreId) (x : Core) : (s.setCore c x).poison = s.poison := rfl
@[simp] theorem State.setCore_caches (s : State) (c : CoreId) (x : Core) : (s.setCore c x).caches = s.caches := rfl
@[simp] theorem State.setCore_gcs (s : State) (c : CoreId) (x : Core) : (s.setCore c x).gcs = s.gcs := rfl
@[simp] theorem State.setCore_creels (s : State) (c : CoreId) (x : Core) : (s.setCore c x).creels = s.creels := rfl
@[simp] theorem State.setCore_online (s : State) (c : CoreId) (x : Core) : (s.setCore c x).online = s.online := rfl
@[simp] theorem State.setCore_scrubs (s : State) (c : CoreId) (x : Core) : (s.setCore c x).scrubs = s.scrubs := rfl
@[simp] theorem State.setCore_scrZero (s : State) (c : CoreId) (x : Core) : (s.setCore c x).scrZero = s.scrZero := rfl
@[simp] theorem State.setCore_gddrTry (s : State) (c : CoreId) (x : Core) : (s.setCore c x).gddrTry = s.gddrTry := rfl
@[simp] theorem State.setCore_qrst (s : State) (c : CoreId) (x : Core) : (s.setCore c x).qrst = s.qrst := rfl
@[simp] theorem State.setCore_stopped (s : State) (c : CoreId) (x : Core) : (s.setCore c x).stopped = s.stopped := rfl
@[simp] theorem State.setCore_engRef (s : State) (c : CoreId) (x : Core) : (s.setCore c x).engRef = s.engRef := rfl
@[simp] theorem State.setCore_engRst (s : State) (c : CoreId) (x : Core) : (s.setCore c x).engRst = s.engRst := rfl
@[simp] theorem State.setCore_c0End (s : State) (c : CoreId) (x : Core) : (s.setCore c x).c0End = s.c0End := rfl
@[simp] theorem State.setCore_qrstRun (s : State) (c : CoreId) (x : Core) : (s.setCore c x).qrstRun = s.qrstRun := rfl
@[simp] theorem State.setCore_arbs (s : State) (c : CoreId) (x : Core) : (s.setCore c x).arbs = s.arbs := rfl
@[simp] theorem State.setCore_lts (s : State) (c : CoreId) (x : Core) : (s.setCore c x).lts = s.lts := rfl
@[simp] theorem State.setCore_lastAt (s : State) (c : CoreId) (x : Core) : (s.setCore c x).lastAt = s.lastAt := rfl
@[simp] theorem State.setCore_upsets (s : State) (c : CoreId) (x : Core) : (s.setCore c x).upsets = s.upsets := rfl
@[simp] theorem State.setCore_qsel (s : State) (c : CoreId) (x : Core) : (s.setCore c x).qsel = s.qsel := rfl
@[simp] theorem State.setCore_dlks (s : State) (c : CoreId) (x : Core) : (s.setCore c x).dlks = s.dlks := rfl
@[simp] theorem State.setCore_hlks (s : State) (c : CoreId) (x : Core) : (s.setCore c x).hlks = s.hlks := rfl
@[simp] theorem State.setCore_errs (s : State) (c : CoreId) (x : Core) : (s.setCore c x).errs = s.errs := rfl
@[simp] theorem State.setCore_doff (s : State) (c : CoreId) (x : Core) : (s.setCore c x).doff = s.doff := rfl
@[simp] theorem State.setCore_mgt (s : State) (c : CoreId) (x : Core) : (s.setCore c x).mgt = s.mgt := rfl
@[simp] theorem State.setCore_stamp (s : State) (c : CoreId) (x : Core) : (s.setCore c x).stamp = s.stamp := rfl
@[simp] theorem State.setCore_fresh (s : State) (c : CoreId) (x : Core) : (s.setCore c x).fresh = s.fresh := rfl
@[simp] theorem State.setCore_out (s : State) (c : CoreId) (x : Core) : (s.setCore c x).out = s.out := rfl
@[simp] theorem State.setCore_pending (s : State) (c : CoreId) (x : Core) : (s.setCore c x).pending = s.pending := rfl

@[simp] theorem State.modCore_now (s : State) (c : CoreId) (f : Core → Core) : (s.modCore c f).now = s.now := rfl
@[simp] theorem State.modCore_boot (s : State) (c : CoreId) (f : Core → Core) : (s.modCore c f).boot = s.boot := rfl
@[simp] theorem State.modCore_pins (s : State) (c : CoreId) (f : Core → Core) : (s.modCore c f).pins = s.pins := rfl
@[simp] theorem State.modCore_hub0 (s : State) (c : CoreId) (f : Core → Core) : (s.modCore c f).hub0 = s.hub0 := rfl
@[simp] theorem State.modCore_hub1 (s : State) (c : CoreId) (f : Core → Core) : (s.modCore c f).hub1 = s.hub1 := rfl
@[simp] theorem State.modCore_due (s : State) (c : CoreId) (f : Core → Core) : (s.modCore c f).due = s.due := rfl
@[simp] theorem State.modCore_queues (s : State) (c : CoreId) (f : Core → Core) : (s.modCore c f).queues = s.queues := rfl
@[simp] theorem State.modCore_blks (s : State) (c : CoreId) (f : Core → Core) : (s.modCore c f).blks = s.blks := rfl
@[simp] theorem State.modCore_mem (s : State) (c : CoreId) (f : Core → Core) : (s.modCore c f).mem = s.mem := rfl
@[simp] theorem State.modCore_poison (s : State) (c : CoreId) (f : Core → Core) : (s.modCore c f).poison = s.poison := rfl
@[simp] theorem State.modCore_caches (s : State) (c : CoreId) (f : Core → Core) : (s.modCore c f).caches = s.caches := rfl
@[simp] theorem State.modCore_gcs (s : State) (c : CoreId) (f : Core → Core) : (s.modCore c f).gcs = s.gcs := rfl
@[simp] theorem State.modCore_creels (s : State) (c : CoreId) (f : Core → Core) : (s.modCore c f).creels = s.creels := rfl
@[simp] theorem State.modCore_online (s : State) (c : CoreId) (f : Core → Core) : (s.modCore c f).online = s.online := rfl
@[simp] theorem State.modCore_scrubs (s : State) (c : CoreId) (f : Core → Core) : (s.modCore c f).scrubs = s.scrubs := rfl
@[simp] theorem State.modCore_scrZero (s : State) (c : CoreId) (f : Core → Core) : (s.modCore c f).scrZero = s.scrZero := rfl
@[simp] theorem State.modCore_gddrTry (s : State) (c : CoreId) (f : Core → Core) : (s.modCore c f).gddrTry = s.gddrTry := rfl
@[simp] theorem State.modCore_qrst (s : State) (c : CoreId) (f : Core → Core) : (s.modCore c f).qrst = s.qrst := rfl
@[simp] theorem State.modCore_stopped (s : State) (c : CoreId) (f : Core → Core) : (s.modCore c f).stopped = s.stopped := rfl
@[simp] theorem State.modCore_engRef (s : State) (c : CoreId) (f : Core → Core) : (s.modCore c f).engRef = s.engRef := rfl
@[simp] theorem State.modCore_engRst (s : State) (c : CoreId) (f : Core → Core) : (s.modCore c f).engRst = s.engRst := rfl
@[simp] theorem State.modCore_c0End (s : State) (c : CoreId) (f : Core → Core) : (s.modCore c f).c0End = s.c0End := rfl
@[simp] theorem State.modCore_qrstRun (s : State) (c : CoreId) (f : Core → Core) : (s.modCore c f).qrstRun = s.qrstRun := rfl
@[simp] theorem State.modCore_arbs (s : State) (c : CoreId) (f : Core → Core) : (s.modCore c f).arbs = s.arbs := rfl
@[simp] theorem State.modCore_lts (s : State) (c : CoreId) (f : Core → Core) : (s.modCore c f).lts = s.lts := rfl
@[simp] theorem State.modCore_lastAt (s : State) (c : CoreId) (f : Core → Core) : (s.modCore c f).lastAt = s.lastAt := rfl
@[simp] theorem State.modCore_upsets (s : State) (c : CoreId) (f : Core → Core) : (s.modCore c f).upsets = s.upsets := rfl
@[simp] theorem State.modCore_qsel (s : State) (c : CoreId) (f : Core → Core) : (s.modCore c f).qsel = s.qsel := rfl
@[simp] theorem State.modCore_dlks (s : State) (c : CoreId) (f : Core → Core) : (s.modCore c f).dlks = s.dlks := rfl
@[simp] theorem State.modCore_hlks (s : State) (c : CoreId) (f : Core → Core) : (s.modCore c f).hlks = s.hlks := rfl
@[simp] theorem State.modCore_errs (s : State) (c : CoreId) (f : Core → Core) : (s.modCore c f).errs = s.errs := rfl
@[simp] theorem State.modCore_doff (s : State) (c : CoreId) (f : Core → Core) : (s.modCore c f).doff = s.doff := rfl
@[simp] theorem State.modCore_mgt (s : State) (c : CoreId) (f : Core → Core) : (s.modCore c f).mgt = s.mgt := rfl
@[simp] theorem State.modCore_stamp (s : State) (c : CoreId) (f : Core → Core) : (s.modCore c f).stamp = s.stamp := rfl
@[simp] theorem State.modCore_fresh (s : State) (c : CoreId) (f : Core → Core) : (s.modCore c f).fresh = s.fresh := rfl
@[simp] theorem State.modCore_out (s : State) (c : CoreId) (f : Core → Core) : (s.modCore c f).out = s.out := rfl
@[simp] theorem State.modCore_pending (s : State) (c : CoreId) (f : Core → Core) : (s.modCore c f).pending = s.pending := rfl

@[simp] theorem State.modHlk_now (s : State) (p : Port) (f : Hlk → Hlk) : (s.modHlk p f).now = s.now := rfl
@[simp] theorem State.modHlk_boot (s : State) (p : Port) (f : Hlk → Hlk) : (s.modHlk p f).boot = s.boot := rfl
@[simp] theorem State.modHlk_pins (s : State) (p : Port) (f : Hlk → Hlk) : (s.modHlk p f).pins = s.pins := rfl
@[simp] theorem State.modHlk_hub0 (s : State) (p : Port) (f : Hlk → Hlk) : (s.modHlk p f).hub0 = s.hub0 := rfl
@[simp] theorem State.modHlk_hub1 (s : State) (p : Port) (f : Hlk → Hlk) : (s.modHlk p f).hub1 = s.hub1 := rfl
@[simp] theorem State.modHlk_due (s : State) (p : Port) (f : Hlk → Hlk) : (s.modHlk p f).due = s.due := rfl
@[simp] theorem State.modHlk_queues (s : State) (p : Port) (f : Hlk → Hlk) : (s.modHlk p f).queues = s.queues := rfl
@[simp] theorem State.modHlk_blks (s : State) (p : Port) (f : Hlk → Hlk) : (s.modHlk p f).blks = s.blks := rfl
@[simp] theorem State.modHlk_mem (s : State) (p : Port) (f : Hlk → Hlk) : (s.modHlk p f).mem = s.mem := rfl
@[simp] theorem State.modHlk_poison (s : State) (p : Port) (f : Hlk → Hlk) : (s.modHlk p f).poison = s.poison := rfl
@[simp] theorem State.modHlk_caches (s : State) (p : Port) (f : Hlk → Hlk) : (s.modHlk p f).caches = s.caches := rfl
@[simp] theorem State.modHlk_gcs (s : State) (p : Port) (f : Hlk → Hlk) : (s.modHlk p f).gcs = s.gcs := rfl
@[simp] theorem State.modHlk_creels (s : State) (p : Port) (f : Hlk → Hlk) : (s.modHlk p f).creels = s.creels := rfl
@[simp] theorem State.modHlk_cores (s : State) (p : Port) (f : Hlk → Hlk) : (s.modHlk p f).cores = s.cores := rfl
@[simp] theorem State.modHlk_online (s : State) (p : Port) (f : Hlk → Hlk) : (s.modHlk p f).online = s.online := rfl
@[simp] theorem State.modHlk_scrubs (s : State) (p : Port) (f : Hlk → Hlk) : (s.modHlk p f).scrubs = s.scrubs := rfl
@[simp] theorem State.modHlk_scrZero (s : State) (p : Port) (f : Hlk → Hlk) : (s.modHlk p f).scrZero = s.scrZero := rfl
@[simp] theorem State.modHlk_gddrTry (s : State) (p : Port) (f : Hlk → Hlk) : (s.modHlk p f).gddrTry = s.gddrTry := rfl
@[simp] theorem State.modHlk_qrst (s : State) (p : Port) (f : Hlk → Hlk) : (s.modHlk p f).qrst = s.qrst := rfl
@[simp] theorem State.modHlk_stopped (s : State) (p : Port) (f : Hlk → Hlk) : (s.modHlk p f).stopped = s.stopped := rfl
@[simp] theorem State.modHlk_engRef (s : State) (p : Port) (f : Hlk → Hlk) : (s.modHlk p f).engRef = s.engRef := rfl
@[simp] theorem State.modHlk_engRst (s : State) (p : Port) (f : Hlk → Hlk) : (s.modHlk p f).engRst = s.engRst := rfl
@[simp] theorem State.modHlk_c0End (s : State) (p : Port) (f : Hlk → Hlk) : (s.modHlk p f).c0End = s.c0End := rfl
@[simp] theorem State.modHlk_qrstRun (s : State) (p : Port) (f : Hlk → Hlk) : (s.modHlk p f).qrstRun = s.qrstRun := rfl
@[simp] theorem State.modHlk_arbs (s : State) (p : Port) (f : Hlk → Hlk) : (s.modHlk p f).arbs = s.arbs := rfl
@[simp] theorem State.modHlk_lts (s : State) (p : Port) (f : Hlk → Hlk) : (s.modHlk p f).lts = s.lts := rfl
@[simp] theorem State.modHlk_lastAt (s : State) (p : Port) (f : Hlk → Hlk) : (s.modHlk p f).lastAt = s.lastAt := rfl
@[simp] theorem State.modHlk_upsets (s : State) (p : Port) (f : Hlk → Hlk) : (s.modHlk p f).upsets = s.upsets := rfl
@[simp] theorem State.modHlk_qsel (s : State) (p : Port) (f : Hlk → Hlk) : (s.modHlk p f).qsel = s.qsel := rfl
@[simp] theorem State.modHlk_dlks (s : State) (p : Port) (f : Hlk → Hlk) : (s.modHlk p f).dlks = s.dlks := rfl
@[simp] theorem State.modHlk_errs (s : State) (p : Port) (f : Hlk → Hlk) : (s.modHlk p f).errs = s.errs := rfl
@[simp] theorem State.modHlk_doff (s : State) (p : Port) (f : Hlk → Hlk) : (s.modHlk p f).doff = s.doff := rfl
@[simp] theorem State.modHlk_mgt (s : State) (p : Port) (f : Hlk → Hlk) : (s.modHlk p f).mgt = s.mgt := rfl
@[simp] theorem State.modHlk_stamp (s : State) (p : Port) (f : Hlk → Hlk) : (s.modHlk p f).stamp = s.stamp := rfl
@[simp] theorem State.modHlk_fresh (s : State) (p : Port) (f : Hlk → Hlk) : (s.modHlk p f).fresh = s.fresh := rfl
@[simp] theorem State.modHlk_out (s : State) (p : Port) (f : Hlk → Hlk) : (s.modHlk p f).out = s.out := rfl
@[simp] theorem State.modHlk_pending (s : State) (p : Port) (f : Hlk → Hlk) : (s.modHlk p f).pending = s.pending := rfl

@[simp] theorem State.setCache_now (s : State) (i : Nat) (c : Cache) : (s.setCache i c).now = s.now := rfl
@[simp] theorem State.setCache_boot (s : State) (i : Nat) (c : Cache) : (s.setCache i c).boot = s.boot := rfl
@[simp] theorem State.setCache_pins (s : State) (i : Nat) (c : Cache) : (s.setCache i c).pins = s.pins := rfl
@[simp] theorem State.setCache_hub0 (s : State) (i : Nat) (c : Cache) : (s.setCache i c).hub0 = s.hub0 := rfl
@[simp] theorem State.setCache_hub1 (s : State) (i : Nat) (c : Cache) : (s.setCache i c).hub1 = s.hub1 := rfl
@[simp] theorem State.setCache_due (s : State) (i : Nat) (c : Cache) : (s.setCache i c).due = s.due := rfl
@[simp] theorem State.setCache_queues (s : State) (i : Nat) (c : Cache) : (s.setCache i c).queues = s.queues := rfl
@[simp] theorem State.setCache_blks (s : State) (i : Nat) (c : Cache) : (s.setCache i c).blks = s.blks := rfl
@[simp] theorem State.setCache_mem (s : State) (i : Nat) (c : Cache) : (s.setCache i c).mem = s.mem := rfl
@[simp] theorem State.setCache_poison (s : State) (i : Nat) (c : Cache) : (s.setCache i c).poison = s.poison := rfl
@[simp] theorem State.setCache_gcs (s : State) (i : Nat) (c : Cache) : (s.setCache i c).gcs = s.gcs := rfl
@[simp] theorem State.setCache_creels (s : State) (i : Nat) (c : Cache) : (s.setCache i c).creels = s.creels := rfl
@[simp] theorem State.setCache_cores (s : State) (i : Nat) (c : Cache) : (s.setCache i c).cores = s.cores := rfl
@[simp] theorem State.setCache_online (s : State) (i : Nat) (c : Cache) : (s.setCache i c).online = s.online := rfl
@[simp] theorem State.setCache_scrubs (s : State) (i : Nat) (c : Cache) : (s.setCache i c).scrubs = s.scrubs := rfl
@[simp] theorem State.setCache_scrZero (s : State) (i : Nat) (c : Cache) : (s.setCache i c).scrZero = s.scrZero := rfl
@[simp] theorem State.setCache_gddrTry (s : State) (i : Nat) (c : Cache) : (s.setCache i c).gddrTry = s.gddrTry := rfl
@[simp] theorem State.setCache_qrst (s : State) (i : Nat) (c : Cache) : (s.setCache i c).qrst = s.qrst := rfl
@[simp] theorem State.setCache_stopped (s : State) (i : Nat) (c : Cache) : (s.setCache i c).stopped = s.stopped := rfl
@[simp] theorem State.setCache_engRef (s : State) (i : Nat) (c : Cache) : (s.setCache i c).engRef = s.engRef := rfl
@[simp] theorem State.setCache_engRst (s : State) (i : Nat) (c : Cache) : (s.setCache i c).engRst = s.engRst := rfl
@[simp] theorem State.setCache_c0End (s : State) (i : Nat) (c : Cache) : (s.setCache i c).c0End = s.c0End := rfl
@[simp] theorem State.setCache_qrstRun (s : State) (i : Nat) (c : Cache) : (s.setCache i c).qrstRun = s.qrstRun := rfl
@[simp] theorem State.setCache_arbs (s : State) (i : Nat) (c : Cache) : (s.setCache i c).arbs = s.arbs := rfl
@[simp] theorem State.setCache_lts (s : State) (i : Nat) (c : Cache) : (s.setCache i c).lts = s.lts := rfl
@[simp] theorem State.setCache_lastAt (s : State) (i : Nat) (c : Cache) : (s.setCache i c).lastAt = s.lastAt := rfl
@[simp] theorem State.setCache_upsets (s : State) (i : Nat) (c : Cache) : (s.setCache i c).upsets = s.upsets := rfl
@[simp] theorem State.setCache_qsel (s : State) (i : Nat) (c : Cache) : (s.setCache i c).qsel = s.qsel := rfl
@[simp] theorem State.setCache_dlks (s : State) (i : Nat) (c : Cache) : (s.setCache i c).dlks = s.dlks := rfl
@[simp] theorem State.setCache_hlks (s : State) (i : Nat) (c : Cache) : (s.setCache i c).hlks = s.hlks := rfl
@[simp] theorem State.setCache_errs (s : State) (i : Nat) (c : Cache) : (s.setCache i c).errs = s.errs := rfl
@[simp] theorem State.setCache_doff (s : State) (i : Nat) (c : Cache) : (s.setCache i c).doff = s.doff := rfl
@[simp] theorem State.setCache_mgt (s : State) (i : Nat) (c : Cache) : (s.setCache i c).mgt = s.mgt := rfl
@[simp] theorem State.setCache_stamp (s : State) (i : Nat) (c : Cache) : (s.setCache i c).stamp = s.stamp := rfl
@[simp] theorem State.setCache_fresh (s : State) (i : Nat) (c : Cache) : (s.setCache i c).fresh = s.fresh := rfl
@[simp] theorem State.setCache_out (s : State) (i : Nat) (c : Cache) : (s.setCache i c).out = s.out := rfl
@[simp] theorem State.setCache_pending (s : State) (i : Nat) (c : Cache) : (s.setCache i c).pending = s.pending := rfl

@[simp] theorem State.modCache_now (s : State) (i : Nat) (f : Cache → Cache) : (s.modCache i f).now = s.now := rfl
@[simp] theorem State.modCache_boot (s : State) (i : Nat) (f : Cache → Cache) : (s.modCache i f).boot = s.boot := rfl
@[simp] theorem State.modCache_pins (s : State) (i : Nat) (f : Cache → Cache) : (s.modCache i f).pins = s.pins := rfl
@[simp] theorem State.modCache_hub0 (s : State) (i : Nat) (f : Cache → Cache) : (s.modCache i f).hub0 = s.hub0 := rfl
@[simp] theorem State.modCache_hub1 (s : State) (i : Nat) (f : Cache → Cache) : (s.modCache i f).hub1 = s.hub1 := rfl
@[simp] theorem State.modCache_due (s : State) (i : Nat) (f : Cache → Cache) : (s.modCache i f).due = s.due := rfl
@[simp] theorem State.modCache_queues (s : State) (i : Nat) (f : Cache → Cache) : (s.modCache i f).queues = s.queues := rfl
@[simp] theorem State.modCache_blks (s : State) (i : Nat) (f : Cache → Cache) : (s.modCache i f).blks = s.blks := rfl
@[simp] theorem State.modCache_mem (s : State) (i : Nat) (f : Cache → Cache) : (s.modCache i f).mem = s.mem := rfl
@[simp] theorem State.modCache_poison (s : State) (i : Nat) (f : Cache → Cache) : (s.modCache i f).poison = s.poison := rfl
@[simp] theorem State.modCache_gcs (s : State) (i : Nat) (f : Cache → Cache) : (s.modCache i f).gcs = s.gcs := rfl
@[simp] theorem State.modCache_creels (s : State) (i : Nat) (f : Cache → Cache) : (s.modCache i f).creels = s.creels := rfl
@[simp] theorem State.modCache_cores (s : State) (i : Nat) (f : Cache → Cache) : (s.modCache i f).cores = s.cores := rfl
@[simp] theorem State.modCache_online (s : State) (i : Nat) (f : Cache → Cache) : (s.modCache i f).online = s.online := rfl
@[simp] theorem State.modCache_scrubs (s : State) (i : Nat) (f : Cache → Cache) : (s.modCache i f).scrubs = s.scrubs := rfl
@[simp] theorem State.modCache_scrZero (s : State) (i : Nat) (f : Cache → Cache) : (s.modCache i f).scrZero = s.scrZero := rfl
@[simp] theorem State.modCache_gddrTry (s : State) (i : Nat) (f : Cache → Cache) : (s.modCache i f).gddrTry = s.gddrTry := rfl
@[simp] theorem State.modCache_qrst (s : State) (i : Nat) (f : Cache → Cache) : (s.modCache i f).qrst = s.qrst := rfl
@[simp] theorem State.modCache_stopped (s : State) (i : Nat) (f : Cache → Cache) : (s.modCache i f).stopped = s.stopped := rfl
@[simp] theorem State.modCache_engRef (s : State) (i : Nat) (f : Cache → Cache) : (s.modCache i f).engRef = s.engRef := rfl
@[simp] theorem State.modCache_engRst (s : State) (i : Nat) (f : Cache → Cache) : (s.modCache i f).engRst = s.engRst := rfl
@[simp] theorem State.modCache_c0End (s : State) (i : Nat) (f : Cache → Cache) : (s.modCache i f).c0End = s.c0End := rfl
@[simp] theorem State.modCache_qrstRun (s : State) (i : Nat) (f : Cache → Cache) : (s.modCache i f).qrstRun = s.qrstRun := rfl
@[simp] theorem State.modCache_arbs (s : State) (i : Nat) (f : Cache → Cache) : (s.modCache i f).arbs = s.arbs := rfl
@[simp] theorem State.modCache_lts (s : State) (i : Nat) (f : Cache → Cache) : (s.modCache i f).lts = s.lts := rfl
@[simp] theorem State.modCache_lastAt (s : State) (i : Nat) (f : Cache → Cache) : (s.modCache i f).lastAt = s.lastAt := rfl
@[simp] theorem State.modCache_upsets (s : State) (i : Nat) (f : Cache → Cache) : (s.modCache i f).upsets = s.upsets := rfl
@[simp] theorem State.modCache_qsel (s : State) (i : Nat) (f : Cache → Cache) : (s.modCache i f).qsel = s.qsel := rfl
@[simp] theorem State.modCache_dlks (s : State) (i : Nat) (f : Cache → Cache) : (s.modCache i f).dlks = s.dlks := rfl
@[simp] theorem State.modCache_hlks (s : State) (i : Nat) (f : Cache → Cache) : (s.modCache i f).hlks = s.hlks := rfl
@[simp] theorem State.modCache_errs (s : State) (i : Nat) (f : Cache → Cache) : (s.modCache i f).errs = s.errs := rfl
@[simp] theorem State.modCache_doff (s : State) (i : Nat) (f : Cache → Cache) : (s.modCache i f).doff = s.doff := rfl
@[simp] theorem State.modCache_mgt (s : State) (i : Nat) (f : Cache → Cache) : (s.modCache i f).mgt = s.mgt := rfl
@[simp] theorem State.modCache_stamp (s : State) (i : Nat) (f : Cache → Cache) : (s.modCache i f).stamp = s.stamp := rfl
@[simp] theorem State.modCache_fresh (s : State) (i : Nat) (f : Cache → Cache) : (s.modCache i f).fresh = s.fresh := rfl
@[simp] theorem State.modCache_out (s : State) (i : Nat) (f : Cache → Cache) : (s.modCache i f).out = s.out := rfl
@[simp] theorem State.modCache_pending (s : State) (i : Nat) (f : Cache → Cache) : (s.modCache i f).pending = s.pending := rfl

@[simp] theorem State.modGc_now (s : State) (i : Nat) (f : Gc → Gc) : (s.modGc i f).now = s.now := rfl
@[simp] theorem State.modGc_boot (s : State) (i : Nat) (f : Gc → Gc) : (s.modGc i f).boot = s.boot := rfl
@[simp] theorem State.modGc_pins (s : State) (i : Nat) (f : Gc → Gc) : (s.modGc i f).pins = s.pins := rfl
@[simp] theorem State.modGc_hub0 (s : State) (i : Nat) (f : Gc → Gc) : (s.modGc i f).hub0 = s.hub0 := rfl
@[simp] theorem State.modGc_hub1 (s : State) (i : Nat) (f : Gc → Gc) : (s.modGc i f).hub1 = s.hub1 := rfl
@[simp] theorem State.modGc_due (s : State) (i : Nat) (f : Gc → Gc) : (s.modGc i f).due = s.due := rfl
@[simp] theorem State.modGc_queues (s : State) (i : Nat) (f : Gc → Gc) : (s.modGc i f).queues = s.queues := rfl
@[simp] theorem State.modGc_blks (s : State) (i : Nat) (f : Gc → Gc) : (s.modGc i f).blks = s.blks := rfl
@[simp] theorem State.modGc_mem (s : State) (i : Nat) (f : Gc → Gc) : (s.modGc i f).mem = s.mem := rfl
@[simp] theorem State.modGc_poison (s : State) (i : Nat) (f : Gc → Gc) : (s.modGc i f).poison = s.poison := rfl
@[simp] theorem State.modGc_caches (s : State) (i : Nat) (f : Gc → Gc) : (s.modGc i f).caches = s.caches := rfl
@[simp] theorem State.modGc_creels (s : State) (i : Nat) (f : Gc → Gc) : (s.modGc i f).creels = s.creels := rfl
@[simp] theorem State.modGc_cores (s : State) (i : Nat) (f : Gc → Gc) : (s.modGc i f).cores = s.cores := rfl
@[simp] theorem State.modGc_online (s : State) (i : Nat) (f : Gc → Gc) : (s.modGc i f).online = s.online := rfl
@[simp] theorem State.modGc_scrubs (s : State) (i : Nat) (f : Gc → Gc) : (s.modGc i f).scrubs = s.scrubs := rfl
@[simp] theorem State.modGc_scrZero (s : State) (i : Nat) (f : Gc → Gc) : (s.modGc i f).scrZero = s.scrZero := rfl
@[simp] theorem State.modGc_gddrTry (s : State) (i : Nat) (f : Gc → Gc) : (s.modGc i f).gddrTry = s.gddrTry := rfl
@[simp] theorem State.modGc_qrst (s : State) (i : Nat) (f : Gc → Gc) : (s.modGc i f).qrst = s.qrst := rfl
@[simp] theorem State.modGc_stopped (s : State) (i : Nat) (f : Gc → Gc) : (s.modGc i f).stopped = s.stopped := rfl
@[simp] theorem State.modGc_engRef (s : State) (i : Nat) (f : Gc → Gc) : (s.modGc i f).engRef = s.engRef := rfl
@[simp] theorem State.modGc_engRst (s : State) (i : Nat) (f : Gc → Gc) : (s.modGc i f).engRst = s.engRst := rfl
@[simp] theorem State.modGc_c0End (s : State) (i : Nat) (f : Gc → Gc) : (s.modGc i f).c0End = s.c0End := rfl
@[simp] theorem State.modGc_qrstRun (s : State) (i : Nat) (f : Gc → Gc) : (s.modGc i f).qrstRun = s.qrstRun := rfl
@[simp] theorem State.modGc_arbs (s : State) (i : Nat) (f : Gc → Gc) : (s.modGc i f).arbs = s.arbs := rfl
@[simp] theorem State.modGc_lts (s : State) (i : Nat) (f : Gc → Gc) : (s.modGc i f).lts = s.lts := rfl
@[simp] theorem State.modGc_lastAt (s : State) (i : Nat) (f : Gc → Gc) : (s.modGc i f).lastAt = s.lastAt := rfl
@[simp] theorem State.modGc_upsets (s : State) (i : Nat) (f : Gc → Gc) : (s.modGc i f).upsets = s.upsets := rfl
@[simp] theorem State.modGc_qsel (s : State) (i : Nat) (f : Gc → Gc) : (s.modGc i f).qsel = s.qsel := rfl
@[simp] theorem State.modGc_dlks (s : State) (i : Nat) (f : Gc → Gc) : (s.modGc i f).dlks = s.dlks := rfl
@[simp] theorem State.modGc_hlks (s : State) (i : Nat) (f : Gc → Gc) : (s.modGc i f).hlks = s.hlks := rfl
@[simp] theorem State.modGc_errs (s : State) (i : Nat) (f : Gc → Gc) : (s.modGc i f).errs = s.errs := rfl
@[simp] theorem State.modGc_doff (s : State) (i : Nat) (f : Gc → Gc) : (s.modGc i f).doff = s.doff := rfl
@[simp] theorem State.modGc_mgt (s : State) (i : Nat) (f : Gc → Gc) : (s.modGc i f).mgt = s.mgt := rfl
@[simp] theorem State.modGc_stamp (s : State) (i : Nat) (f : Gc → Gc) : (s.modGc i f).stamp = s.stamp := rfl
@[simp] theorem State.modGc_fresh (s : State) (i : Nat) (f : Gc → Gc) : (s.modGc i f).fresh = s.fresh := rfl
@[simp] theorem State.modGc_out (s : State) (i : Nat) (f : Gc → Gc) : (s.modGc i f).out = s.out := rfl
@[simp] theorem State.modGc_pending (s : State) (i : Nat) (f : Gc → Gc) : (s.modGc i f).pending = s.pending := rfl

@[simp] theorem State.modCreel_now (s : State) (e : Fin 16) (f : Creel → Creel) : (s.modCreel e f).now = s.now := rfl
@[simp] theorem State.modCreel_boot (s : State) (e : Fin 16) (f : Creel → Creel) : (s.modCreel e f).boot = s.boot := rfl
@[simp] theorem State.modCreel_pins (s : State) (e : Fin 16) (f : Creel → Creel) : (s.modCreel e f).pins = s.pins := rfl
@[simp] theorem State.modCreel_hub0 (s : State) (e : Fin 16) (f : Creel → Creel) : (s.modCreel e f).hub0 = s.hub0 := rfl
@[simp] theorem State.modCreel_hub1 (s : State) (e : Fin 16) (f : Creel → Creel) : (s.modCreel e f).hub1 = s.hub1 := rfl
@[simp] theorem State.modCreel_due (s : State) (e : Fin 16) (f : Creel → Creel) : (s.modCreel e f).due = s.due := rfl
@[simp] theorem State.modCreel_queues (s : State) (e : Fin 16) (f : Creel → Creel) : (s.modCreel e f).queues = s.queues := rfl
@[simp] theorem State.modCreel_blks (s : State) (e : Fin 16) (f : Creel → Creel) : (s.modCreel e f).blks = s.blks := rfl
@[simp] theorem State.modCreel_mem (s : State) (e : Fin 16) (f : Creel → Creel) : (s.modCreel e f).mem = s.mem := rfl
@[simp] theorem State.modCreel_poison (s : State) (e : Fin 16) (f : Creel → Creel) : (s.modCreel e f).poison = s.poison := rfl
@[simp] theorem State.modCreel_caches (s : State) (e : Fin 16) (f : Creel → Creel) : (s.modCreel e f).caches = s.caches := rfl
@[simp] theorem State.modCreel_gcs (s : State) (e : Fin 16) (f : Creel → Creel) : (s.modCreel e f).gcs = s.gcs := rfl
@[simp] theorem State.modCreel_cores (s : State) (e : Fin 16) (f : Creel → Creel) : (s.modCreel e f).cores = s.cores := rfl
@[simp] theorem State.modCreel_online (s : State) (e : Fin 16) (f : Creel → Creel) : (s.modCreel e f).online = s.online := rfl
@[simp] theorem State.modCreel_scrubs (s : State) (e : Fin 16) (f : Creel → Creel) : (s.modCreel e f).scrubs = s.scrubs := rfl
@[simp] theorem State.modCreel_scrZero (s : State) (e : Fin 16) (f : Creel → Creel) : (s.modCreel e f).scrZero = s.scrZero := rfl
@[simp] theorem State.modCreel_gddrTry (s : State) (e : Fin 16) (f : Creel → Creel) : (s.modCreel e f).gddrTry = s.gddrTry := rfl
@[simp] theorem State.modCreel_qrst (s : State) (e : Fin 16) (f : Creel → Creel) : (s.modCreel e f).qrst = s.qrst := rfl
@[simp] theorem State.modCreel_stopped (s : State) (e : Fin 16) (f : Creel → Creel) : (s.modCreel e f).stopped = s.stopped := rfl
@[simp] theorem State.modCreel_engRef (s : State) (e : Fin 16) (f : Creel → Creel) : (s.modCreel e f).engRef = s.engRef := rfl
@[simp] theorem State.modCreel_engRst (s : State) (e : Fin 16) (f : Creel → Creel) : (s.modCreel e f).engRst = s.engRst := rfl
@[simp] theorem State.modCreel_c0End (s : State) (e : Fin 16) (f : Creel → Creel) : (s.modCreel e f).c0End = s.c0End := rfl
@[simp] theorem State.modCreel_qrstRun (s : State) (e : Fin 16) (f : Creel → Creel) : (s.modCreel e f).qrstRun = s.qrstRun := rfl
@[simp] theorem State.modCreel_arbs (s : State) (e : Fin 16) (f : Creel → Creel) : (s.modCreel e f).arbs = s.arbs := rfl
@[simp] theorem State.modCreel_lts (s : State) (e : Fin 16) (f : Creel → Creel) : (s.modCreel e f).lts = s.lts := rfl
@[simp] theorem State.modCreel_lastAt (s : State) (e : Fin 16) (f : Creel → Creel) : (s.modCreel e f).lastAt = s.lastAt := rfl
@[simp] theorem State.modCreel_upsets (s : State) (e : Fin 16) (f : Creel → Creel) : (s.modCreel e f).upsets = s.upsets := rfl
@[simp] theorem State.modCreel_qsel (s : State) (e : Fin 16) (f : Creel → Creel) : (s.modCreel e f).qsel = s.qsel := rfl
@[simp] theorem State.modCreel_dlks (s : State) (e : Fin 16) (f : Creel → Creel) : (s.modCreel e f).dlks = s.dlks := rfl
@[simp] theorem State.modCreel_hlks (s : State) (e : Fin 16) (f : Creel → Creel) : (s.modCreel e f).hlks = s.hlks := rfl
@[simp] theorem State.modCreel_errs (s : State) (e : Fin 16) (f : Creel → Creel) : (s.modCreel e f).errs = s.errs := rfl
@[simp] theorem State.modCreel_doff (s : State) (e : Fin 16) (f : Creel → Creel) : (s.modCreel e f).doff = s.doff := rfl
@[simp] theorem State.modCreel_mgt (s : State) (e : Fin 16) (f : Creel → Creel) : (s.modCreel e f).mgt = s.mgt := rfl
@[simp] theorem State.modCreel_stamp (s : State) (e : Fin 16) (f : Creel → Creel) : (s.modCreel e f).stamp = s.stamp := rfl
@[simp] theorem State.modCreel_fresh (s : State) (e : Fin 16) (f : Creel → Creel) : (s.modCreel e f).fresh = s.fresh := rfl
@[simp] theorem State.modCreel_out (s : State) (e : Fin 16) (f : Creel → Creel) : (s.modCreel e f).out = s.out := rfl
@[simp] theorem State.modCreel_pending (s : State) (e : Fin 16) (f : Creel → Creel) : (s.modCreel e f).pending = s.pending := rfl

@[simp] theorem State.modGrp_now (s : State) (h : Hub) (g : Fin 16) (f : StepGrp → StepGrp) : (s.modGrp h g f).now = s.now := State.modHub_now s h _
@[simp] theorem State.modGrp_boot (s : State) (h : Hub) (g : Fin 16) (f : StepGrp → StepGrp) : (s.modGrp h g f).boot = s.boot := State.modHub_boot s h _
@[simp] theorem State.modGrp_pins (s : State) (h : Hub) (g : Fin 16) (f : StepGrp → StepGrp) : (s.modGrp h g f).pins = s.pins := State.modHub_pins s h _
@[simp] theorem State.modGrp_due (s : State) (h : Hub) (g : Fin 16) (f : StepGrp → StepGrp) : (s.modGrp h g f).due = s.due := State.modHub_due s h _
@[simp] theorem State.modGrp_queues (s : State) (h : Hub) (g : Fin 16) (f : StepGrp → StepGrp) : (s.modGrp h g f).queues = s.queues := State.modHub_queues s h _
@[simp] theorem State.modGrp_blks (s : State) (h : Hub) (g : Fin 16) (f : StepGrp → StepGrp) : (s.modGrp h g f).blks = s.blks := State.modHub_blks s h _
@[simp] theorem State.modGrp_mem (s : State) (h : Hub) (g : Fin 16) (f : StepGrp → StepGrp) : (s.modGrp h g f).mem = s.mem := State.modHub_mem s h _
@[simp] theorem State.modGrp_poison (s : State) (h : Hub) (g : Fin 16) (f : StepGrp → StepGrp) : (s.modGrp h g f).poison = s.poison := State.modHub_poison s h _
@[simp] theorem State.modGrp_caches (s : State) (h : Hub) (g : Fin 16) (f : StepGrp → StepGrp) : (s.modGrp h g f).caches = s.caches := State.modHub_caches s h _
@[simp] theorem State.modGrp_gcs (s : State) (h : Hub) (g : Fin 16) (f : StepGrp → StepGrp) : (s.modGrp h g f).gcs = s.gcs := State.modHub_gcs s h _
@[simp] theorem State.modGrp_creels (s : State) (h : Hub) (g : Fin 16) (f : StepGrp → StepGrp) : (s.modGrp h g f).creels = s.creels := State.modHub_creels s h _
@[simp] theorem State.modGrp_cores (s : State) (h : Hub) (g : Fin 16) (f : StepGrp → StepGrp) : (s.modGrp h g f).cores = s.cores := State.modHub_cores s h _
@[simp] theorem State.modGrp_online (s : State) (h : Hub) (g : Fin 16) (f : StepGrp → StepGrp) : (s.modGrp h g f).online = s.online := State.modHub_online s h _
@[simp] theorem State.modGrp_scrubs (s : State) (h : Hub) (g : Fin 16) (f : StepGrp → StepGrp) : (s.modGrp h g f).scrubs = s.scrubs := State.modHub_scrubs s h _
@[simp] theorem State.modGrp_scrZero (s : State) (h : Hub) (g : Fin 16) (f : StepGrp → StepGrp) : (s.modGrp h g f).scrZero = s.scrZero := State.modHub_scrZero s h _
@[simp] theorem State.modGrp_gddrTry (s : State) (h : Hub) (g : Fin 16) (f : StepGrp → StepGrp) : (s.modGrp h g f).gddrTry = s.gddrTry := State.modHub_gddrTry s h _
@[simp] theorem State.modGrp_qrst (s : State) (h : Hub) (g : Fin 16) (f : StepGrp → StepGrp) : (s.modGrp h g f).qrst = s.qrst := State.modHub_qrst s h _
@[simp] theorem State.modGrp_stopped (s : State) (h : Hub) (g : Fin 16) (f : StepGrp → StepGrp) : (s.modGrp h g f).stopped = s.stopped := State.modHub_stopped s h _
@[simp] theorem State.modGrp_engRef (s : State) (h : Hub) (g : Fin 16) (f : StepGrp → StepGrp) : (s.modGrp h g f).engRef = s.engRef := State.modHub_engRef s h _
@[simp] theorem State.modGrp_engRst (s : State) (h : Hub) (g : Fin 16) (f : StepGrp → StepGrp) : (s.modGrp h g f).engRst = s.engRst := State.modHub_engRst s h _
@[simp] theorem State.modGrp_c0End (s : State) (h : Hub) (g : Fin 16) (f : StepGrp → StepGrp) : (s.modGrp h g f).c0End = s.c0End := State.modHub_c0End s h _
@[simp] theorem State.modGrp_qrstRun (s : State) (h : Hub) (g : Fin 16) (f : StepGrp → StepGrp) : (s.modGrp h g f).qrstRun = s.qrstRun := State.modHub_qrstRun s h _
@[simp] theorem State.modGrp_arbs (s : State) (h : Hub) (g : Fin 16) (f : StepGrp → StepGrp) : (s.modGrp h g f).arbs = s.arbs := State.modHub_arbs s h _
@[simp] theorem State.modGrp_lts (s : State) (h : Hub) (g : Fin 16) (f : StepGrp → StepGrp) : (s.modGrp h g f).lts = s.lts := State.modHub_lts s h _
@[simp] theorem State.modGrp_lastAt (s : State) (h : Hub) (g : Fin 16) (f : StepGrp → StepGrp) : (s.modGrp h g f).lastAt = s.lastAt := State.modHub_lastAt s h _
@[simp] theorem State.modGrp_upsets (s : State) (h : Hub) (g : Fin 16) (f : StepGrp → StepGrp) : (s.modGrp h g f).upsets = s.upsets := State.modHub_upsets s h _
@[simp] theorem State.modGrp_qsel (s : State) (h : Hub) (g : Fin 16) (f : StepGrp → StepGrp) : (s.modGrp h g f).qsel = s.qsel := State.modHub_qsel s h _
@[simp] theorem State.modGrp_dlks (s : State) (h : Hub) (g : Fin 16) (f : StepGrp → StepGrp) : (s.modGrp h g f).dlks = s.dlks := State.modHub_dlks s h _
@[simp] theorem State.modGrp_hlks (s : State) (h : Hub) (g : Fin 16) (f : StepGrp → StepGrp) : (s.modGrp h g f).hlks = s.hlks := State.modHub_hlks s h _
@[simp] theorem State.modGrp_errs (s : State) (h : Hub) (g : Fin 16) (f : StepGrp → StepGrp) : (s.modGrp h g f).errs = s.errs := State.modHub_errs s h _
@[simp] theorem State.modGrp_doff (s : State) (h : Hub) (g : Fin 16) (f : StepGrp → StepGrp) : (s.modGrp h g f).doff = s.doff := State.modHub_doff s h _
@[simp] theorem State.modGrp_mgt (s : State) (h : Hub) (g : Fin 16) (f : StepGrp → StepGrp) : (s.modGrp h g f).mgt = s.mgt := State.modHub_mgt s h _
@[simp] theorem State.modGrp_stamp (s : State) (h : Hub) (g : Fin 16) (f : StepGrp → StepGrp) : (s.modGrp h g f).stamp = s.stamp := State.modHub_stamp s h _
@[simp] theorem State.modGrp_fresh (s : State) (h : Hub) (g : Fin 16) (f : StepGrp → StepGrp) : (s.modGrp h g f).fresh = s.fresh := State.modHub_fresh s h _
@[simp] theorem State.modGrp_out (s : State) (h : Hub) (g : Fin 16) (f : StepGrp → StepGrp) : (s.modGrp h g f).out = s.out := State.modHub_out s h _
@[simp] theorem State.modGrp_pending (s : State) (h : Hub) (g : Fin 16) (f : StepGrp → StepGrp) : (s.modGrp h g f).pending = s.pending := State.modHub_pending s h _

@[simp] theorem State.modFport_now (s : State) (h : Hub) (j : FPort) (f : FlkPort → FlkPort) : (s.modFport h j f).now = s.now := State.modHub_now s h _
@[simp] theorem State.modFport_boot (s : State) (h : Hub) (j : FPort) (f : FlkPort → FlkPort) : (s.modFport h j f).boot = s.boot := State.modHub_boot s h _
@[simp] theorem State.modFport_pins (s : State) (h : Hub) (j : FPort) (f : FlkPort → FlkPort) : (s.modFport h j f).pins = s.pins := State.modHub_pins s h _
@[simp] theorem State.modFport_due (s : State) (h : Hub) (j : FPort) (f : FlkPort → FlkPort) : (s.modFport h j f).due = s.due := State.modHub_due s h _
@[simp] theorem State.modFport_queues (s : State) (h : Hub) (j : FPort) (f : FlkPort → FlkPort) : (s.modFport h j f).queues = s.queues := State.modHub_queues s h _
@[simp] theorem State.modFport_blks (s : State) (h : Hub) (j : FPort) (f : FlkPort → FlkPort) : (s.modFport h j f).blks = s.blks := State.modHub_blks s h _
@[simp] theorem State.modFport_mem (s : State) (h : Hub) (j : FPort) (f : FlkPort → FlkPort) : (s.modFport h j f).mem = s.mem := State.modHub_mem s h _
@[simp] theorem State.modFport_poison (s : State) (h : Hub) (j : FPort) (f : FlkPort → FlkPort) : (s.modFport h j f).poison = s.poison := State.modHub_poison s h _
@[simp] theorem State.modFport_caches (s : State) (h : Hub) (j : FPort) (f : FlkPort → FlkPort) : (s.modFport h j f).caches = s.caches := State.modHub_caches s h _
@[simp] theorem State.modFport_gcs (s : State) (h : Hub) (j : FPort) (f : FlkPort → FlkPort) : (s.modFport h j f).gcs = s.gcs := State.modHub_gcs s h _
@[simp] theorem State.modFport_creels (s : State) (h : Hub) (j : FPort) (f : FlkPort → FlkPort) : (s.modFport h j f).creels = s.creels := State.modHub_creels s h _
@[simp] theorem State.modFport_cores (s : State) (h : Hub) (j : FPort) (f : FlkPort → FlkPort) : (s.modFport h j f).cores = s.cores := State.modHub_cores s h _
@[simp] theorem State.modFport_online (s : State) (h : Hub) (j : FPort) (f : FlkPort → FlkPort) : (s.modFport h j f).online = s.online := State.modHub_online s h _
@[simp] theorem State.modFport_scrubs (s : State) (h : Hub) (j : FPort) (f : FlkPort → FlkPort) : (s.modFport h j f).scrubs = s.scrubs := State.modHub_scrubs s h _
@[simp] theorem State.modFport_scrZero (s : State) (h : Hub) (j : FPort) (f : FlkPort → FlkPort) : (s.modFport h j f).scrZero = s.scrZero := State.modHub_scrZero s h _
@[simp] theorem State.modFport_gddrTry (s : State) (h : Hub) (j : FPort) (f : FlkPort → FlkPort) : (s.modFport h j f).gddrTry = s.gddrTry := State.modHub_gddrTry s h _
@[simp] theorem State.modFport_qrst (s : State) (h : Hub) (j : FPort) (f : FlkPort → FlkPort) : (s.modFport h j f).qrst = s.qrst := State.modHub_qrst s h _
@[simp] theorem State.modFport_stopped (s : State) (h : Hub) (j : FPort) (f : FlkPort → FlkPort) : (s.modFport h j f).stopped = s.stopped := State.modHub_stopped s h _
@[simp] theorem State.modFport_engRef (s : State) (h : Hub) (j : FPort) (f : FlkPort → FlkPort) : (s.modFport h j f).engRef = s.engRef := State.modHub_engRef s h _
@[simp] theorem State.modFport_engRst (s : State) (h : Hub) (j : FPort) (f : FlkPort → FlkPort) : (s.modFport h j f).engRst = s.engRst := State.modHub_engRst s h _
@[simp] theorem State.modFport_c0End (s : State) (h : Hub) (j : FPort) (f : FlkPort → FlkPort) : (s.modFport h j f).c0End = s.c0End := State.modHub_c0End s h _
@[simp] theorem State.modFport_qrstRun (s : State) (h : Hub) (j : FPort) (f : FlkPort → FlkPort) : (s.modFport h j f).qrstRun = s.qrstRun := State.modHub_qrstRun s h _
@[simp] theorem State.modFport_arbs (s : State) (h : Hub) (j : FPort) (f : FlkPort → FlkPort) : (s.modFport h j f).arbs = s.arbs := State.modHub_arbs s h _
@[simp] theorem State.modFport_lts (s : State) (h : Hub) (j : FPort) (f : FlkPort → FlkPort) : (s.modFport h j f).lts = s.lts := State.modHub_lts s h _
@[simp] theorem State.modFport_lastAt (s : State) (h : Hub) (j : FPort) (f : FlkPort → FlkPort) : (s.modFport h j f).lastAt = s.lastAt := State.modHub_lastAt s h _
@[simp] theorem State.modFport_upsets (s : State) (h : Hub) (j : FPort) (f : FlkPort → FlkPort) : (s.modFport h j f).upsets = s.upsets := State.modHub_upsets s h _
@[simp] theorem State.modFport_qsel (s : State) (h : Hub) (j : FPort) (f : FlkPort → FlkPort) : (s.modFport h j f).qsel = s.qsel := State.modHub_qsel s h _
@[simp] theorem State.modFport_dlks (s : State) (h : Hub) (j : FPort) (f : FlkPort → FlkPort) : (s.modFport h j f).dlks = s.dlks := State.modHub_dlks s h _
@[simp] theorem State.modFport_hlks (s : State) (h : Hub) (j : FPort) (f : FlkPort → FlkPort) : (s.modFport h j f).hlks = s.hlks := State.modHub_hlks s h _
@[simp] theorem State.modFport_errs (s : State) (h : Hub) (j : FPort) (f : FlkPort → FlkPort) : (s.modFport h j f).errs = s.errs := State.modHub_errs s h _
@[simp] theorem State.modFport_doff (s : State) (h : Hub) (j : FPort) (f : FlkPort → FlkPort) : (s.modFport h j f).doff = s.doff := State.modHub_doff s h _
@[simp] theorem State.modFport_mgt (s : State) (h : Hub) (j : FPort) (f : FlkPort → FlkPort) : (s.modFport h j f).mgt = s.mgt := State.modHub_mgt s h _
@[simp] theorem State.modFport_stamp (s : State) (h : Hub) (j : FPort) (f : FlkPort → FlkPort) : (s.modFport h j f).stamp = s.stamp := State.modHub_stamp s h _
@[simp] theorem State.modFport_fresh (s : State) (h : Hub) (j : FPort) (f : FlkPort → FlkPort) : (s.modFport h j f).fresh = s.fresh := State.modHub_fresh s h _
@[simp] theorem State.modFport_out (s : State) (h : Hub) (j : FPort) (f : FlkPort → FlkPort) : (s.modFport h j f).out = s.out := State.modHub_out s h _
@[simp] theorem State.modFport_pending (s : State) (h : Hub) (j : FPort) (f : FlkPort → FlkPort) : (s.modFport h j f).pending = s.pending := State.modHub_pending s h _

@[simp] theorem State.modDlk_now (s : State) (d far : DieId) (f : DlkEnd → DlkEnd) : (s.modDlk d far f).now = s.now := rfl
@[simp] theorem State.modDlk_boot (s : State) (d far : DieId) (f : DlkEnd → DlkEnd) : (s.modDlk d far f).boot = s.boot := rfl
@[simp] theorem State.modDlk_pins (s : State) (d far : DieId) (f : DlkEnd → DlkEnd) : (s.modDlk d far f).pins = s.pins := rfl
@[simp] theorem State.modDlk_hub0 (s : State) (d far : DieId) (f : DlkEnd → DlkEnd) : (s.modDlk d far f).hub0 = s.hub0 := rfl
@[simp] theorem State.modDlk_hub1 (s : State) (d far : DieId) (f : DlkEnd → DlkEnd) : (s.modDlk d far f).hub1 = s.hub1 := rfl
@[simp] theorem State.modDlk_due (s : State) (d far : DieId) (f : DlkEnd → DlkEnd) : (s.modDlk d far f).due = s.due := rfl
@[simp] theorem State.modDlk_queues (s : State) (d far : DieId) (f : DlkEnd → DlkEnd) : (s.modDlk d far f).queues = s.queues := rfl
@[simp] theorem State.modDlk_blks (s : State) (d far : DieId) (f : DlkEnd → DlkEnd) : (s.modDlk d far f).blks = s.blks := rfl
@[simp] theorem State.modDlk_mem (s : State) (d far : DieId) (f : DlkEnd → DlkEnd) : (s.modDlk d far f).mem = s.mem := rfl
@[simp] theorem State.modDlk_poison (s : State) (d far : DieId) (f : DlkEnd → DlkEnd) : (s.modDlk d far f).poison = s.poison := rfl
@[simp] theorem State.modDlk_caches (s : State) (d far : DieId) (f : DlkEnd → DlkEnd) : (s.modDlk d far f).caches = s.caches := rfl
@[simp] theorem State.modDlk_gcs (s : State) (d far : DieId) (f : DlkEnd → DlkEnd) : (s.modDlk d far f).gcs = s.gcs := rfl
@[simp] theorem State.modDlk_creels (s : State) (d far : DieId) (f : DlkEnd → DlkEnd) : (s.modDlk d far f).creels = s.creels := rfl
@[simp] theorem State.modDlk_cores (s : State) (d far : DieId) (f : DlkEnd → DlkEnd) : (s.modDlk d far f).cores = s.cores := rfl
@[simp] theorem State.modDlk_online (s : State) (d far : DieId) (f : DlkEnd → DlkEnd) : (s.modDlk d far f).online = s.online := rfl
@[simp] theorem State.modDlk_scrubs (s : State) (d far : DieId) (f : DlkEnd → DlkEnd) : (s.modDlk d far f).scrubs = s.scrubs := rfl
@[simp] theorem State.modDlk_scrZero (s : State) (d far : DieId) (f : DlkEnd → DlkEnd) : (s.modDlk d far f).scrZero = s.scrZero := rfl
@[simp] theorem State.modDlk_gddrTry (s : State) (d far : DieId) (f : DlkEnd → DlkEnd) : (s.modDlk d far f).gddrTry = s.gddrTry := rfl
@[simp] theorem State.modDlk_qrst (s : State) (d far : DieId) (f : DlkEnd → DlkEnd) : (s.modDlk d far f).qrst = s.qrst := rfl
@[simp] theorem State.modDlk_stopped (s : State) (d far : DieId) (f : DlkEnd → DlkEnd) : (s.modDlk d far f).stopped = s.stopped := rfl
@[simp] theorem State.modDlk_engRef (s : State) (d far : DieId) (f : DlkEnd → DlkEnd) : (s.modDlk d far f).engRef = s.engRef := rfl
@[simp] theorem State.modDlk_engRst (s : State) (d far : DieId) (f : DlkEnd → DlkEnd) : (s.modDlk d far f).engRst = s.engRst := rfl
@[simp] theorem State.modDlk_c0End (s : State) (d far : DieId) (f : DlkEnd → DlkEnd) : (s.modDlk d far f).c0End = s.c0End := rfl
@[simp] theorem State.modDlk_qrstRun (s : State) (d far : DieId) (f : DlkEnd → DlkEnd) : (s.modDlk d far f).qrstRun = s.qrstRun := rfl
@[simp] theorem State.modDlk_arbs (s : State) (d far : DieId) (f : DlkEnd → DlkEnd) : (s.modDlk d far f).arbs = s.arbs := rfl
@[simp] theorem State.modDlk_lts (s : State) (d far : DieId) (f : DlkEnd → DlkEnd) : (s.modDlk d far f).lts = s.lts := rfl
@[simp] theorem State.modDlk_lastAt (s : State) (d far : DieId) (f : DlkEnd → DlkEnd) : (s.modDlk d far f).lastAt = s.lastAt := rfl
@[simp] theorem State.modDlk_upsets (s : State) (d far : DieId) (f : DlkEnd → DlkEnd) : (s.modDlk d far f).upsets = s.upsets := rfl
@[simp] theorem State.modDlk_qsel (s : State) (d far : DieId) (f : DlkEnd → DlkEnd) : (s.modDlk d far f).qsel = s.qsel := rfl
@[simp] theorem State.modDlk_hlks (s : State) (d far : DieId) (f : DlkEnd → DlkEnd) : (s.modDlk d far f).hlks = s.hlks := rfl
@[simp] theorem State.modDlk_errs (s : State) (d far : DieId) (f : DlkEnd → DlkEnd) : (s.modDlk d far f).errs = s.errs := rfl
@[simp] theorem State.modDlk_doff (s : State) (d far : DieId) (f : DlkEnd → DlkEnd) : (s.modDlk d far f).doff = s.doff := rfl
@[simp] theorem State.modDlk_mgt (s : State) (d far : DieId) (f : DlkEnd → DlkEnd) : (s.modDlk d far f).mgt = s.mgt := rfl
@[simp] theorem State.modDlk_stamp (s : State) (d far : DieId) (f : DlkEnd → DlkEnd) : (s.modDlk d far f).stamp = s.stamp := rfl
@[simp] theorem State.modDlk_fresh (s : State) (d far : DieId) (f : DlkEnd → DlkEnd) : (s.modDlk d far f).fresh = s.fresh := rfl
@[simp] theorem State.modDlk_out (s : State) (d far : DieId) (f : DlkEnd → DlkEnd) : (s.modDlk d far f).out = s.out := rfl
@[simp] theorem State.modDlk_pending (s : State) (d far : DieId) (f : DlkEnd → DlkEnd) : (s.modDlk d far f).pending = s.pending := rfl

@[simp] theorem State.toTime_boot (s : State) (t : Nat) : (s.toTime t).boot = s.boot := rfl
@[simp] theorem State.toTime_pins (s : State) (t : Nat) : (s.toTime t).pins = s.pins := rfl
@[simp] theorem State.toTime_hub0 (s : State) (t : Nat) : (s.toTime t).hub0 = s.hub0 := rfl
@[simp] theorem State.toTime_hub1 (s : State) (t : Nat) : (s.toTime t).hub1 = s.hub1 := rfl
@[simp] theorem State.toTime_due (s : State) (t : Nat) : (s.toTime t).due = s.due := rfl
@[simp] theorem State.toTime_queues (s : State) (t : Nat) : (s.toTime t).queues = s.queues := rfl
@[simp] theorem State.toTime_blks (s : State) (t : Nat) : (s.toTime t).blks = s.blks := rfl
@[simp] theorem State.toTime_mem (s : State) (t : Nat) : (s.toTime t).mem = s.mem := rfl
@[simp] theorem State.toTime_poison (s : State) (t : Nat) : (s.toTime t).poison = s.poison := rfl
@[simp] theorem State.toTime_caches (s : State) (t : Nat) : (s.toTime t).caches = s.caches := rfl
@[simp] theorem State.toTime_gcs (s : State) (t : Nat) : (s.toTime t).gcs = s.gcs := rfl
@[simp] theorem State.toTime_creels (s : State) (t : Nat) : (s.toTime t).creels = s.creels := rfl
@[simp] theorem State.toTime_cores (s : State) (t : Nat) : (s.toTime t).cores = s.cores := rfl
@[simp] theorem State.toTime_online (s : State) (t : Nat) : (s.toTime t).online = s.online := rfl
@[simp] theorem State.toTime_scrubs (s : State) (t : Nat) : (s.toTime t).scrubs = s.scrubs := rfl
@[simp] theorem State.toTime_scrZero (s : State) (t : Nat) : (s.toTime t).scrZero = s.scrZero := rfl
@[simp] theorem State.toTime_gddrTry (s : State) (t : Nat) : (s.toTime t).gddrTry = s.gddrTry := rfl
@[simp] theorem State.toTime_qrst (s : State) (t : Nat) : (s.toTime t).qrst = s.qrst := rfl
@[simp] theorem State.toTime_stopped (s : State) (t : Nat) : (s.toTime t).stopped = s.stopped := rfl
@[simp] theorem State.toTime_engRef (s : State) (t : Nat) : (s.toTime t).engRef = s.engRef := rfl
@[simp] theorem State.toTime_engRst (s : State) (t : Nat) : (s.toTime t).engRst = s.engRst := rfl
@[simp] theorem State.toTime_c0End (s : State) (t : Nat) : (s.toTime t).c0End = s.c0End := rfl
@[simp] theorem State.toTime_qrstRun (s : State) (t : Nat) : (s.toTime t).qrstRun = s.qrstRun := rfl
@[simp] theorem State.toTime_arbs (s : State) (t : Nat) : (s.toTime t).arbs = s.arbs := rfl
@[simp] theorem State.toTime_lts (s : State) (t : Nat) : (s.toTime t).lts = s.lts := rfl
@[simp] theorem State.toTime_lastAt (s : State) (t : Nat) : (s.toTime t).lastAt = s.lastAt := rfl
@[simp] theorem State.toTime_upsets (s : State) (t : Nat) : (s.toTime t).upsets = s.upsets := rfl
@[simp] theorem State.toTime_qsel (s : State) (t : Nat) : (s.toTime t).qsel = s.qsel := rfl
@[simp] theorem State.toTime_dlks (s : State) (t : Nat) : (s.toTime t).dlks = s.dlks := rfl
@[simp] theorem State.toTime_hlks (s : State) (t : Nat) : (s.toTime t).hlks = s.hlks := rfl
@[simp] theorem State.toTime_errs (s : State) (t : Nat) : (s.toTime t).errs = s.errs := rfl
@[simp] theorem State.toTime_doff (s : State) (t : Nat) : (s.toTime t).doff = s.doff := rfl
@[simp] theorem State.toTime_mgt (s : State) (t : Nat) : (s.toTime t).mgt = s.mgt := rfl
@[simp] theorem State.toTime_stamp (s : State) (t : Nat) : (s.toTime t).stamp = s.stamp := rfl
@[simp] theorem State.toTime_fresh (s : State) (t : Nat) : (s.toTime t).fresh = s.fresh := rfl
@[simp] theorem State.toTime_out (s : State) (t : Nat) : (s.toTime t).out = s.out := rfl
@[simp] theorem State.toTime_pending (s : State) (t : Nat) : (s.toTime t).pending = s.pending := rfl

@[simp] theorem State.send_now (s : State) (o : Out) : (s.send o).now = s.now := rfl
@[simp] theorem State.send_boot (s : State) (o : Out) : (s.send o).boot = s.boot := rfl
@[simp] theorem State.send_pins (s : State) (o : Out) : (s.send o).pins = s.pins := rfl
@[simp] theorem State.send_hub0 (s : State) (o : Out) : (s.send o).hub0 = s.hub0 := rfl
@[simp] theorem State.send_hub1 (s : State) (o : Out) : (s.send o).hub1 = s.hub1 := rfl
@[simp] theorem State.send_due (s : State) (o : Out) : (s.send o).due = s.due := rfl
@[simp] theorem State.send_queues (s : State) (o : Out) : (s.send o).queues = s.queues := rfl
@[simp] theorem State.send_blks (s : State) (o : Out) : (s.send o).blks = s.blks := rfl
@[simp] theorem State.send_mem (s : State) (o : Out) : (s.send o).mem = s.mem := rfl
@[simp] theorem State.send_poison (s : State) (o : Out) : (s.send o).poison = s.poison := rfl
@[simp] theorem State.send_caches (s : State) (o : Out) : (s.send o).caches = s.caches := rfl
@[simp] theorem State.send_gcs (s : State) (o : Out) : (s.send o).gcs = s.gcs := rfl
@[simp] theorem State.send_creels (s : State) (o : Out) : (s.send o).creels = s.creels := rfl
@[simp] theorem State.send_cores (s : State) (o : Out) : (s.send o).cores = s.cores := rfl
@[simp] theorem State.send_online (s : State) (o : Out) : (s.send o).online = s.online := rfl
@[simp] theorem State.send_scrubs (s : State) (o : Out) : (s.send o).scrubs = s.scrubs := rfl
@[simp] theorem State.send_scrZero (s : State) (o : Out) : (s.send o).scrZero = s.scrZero := rfl
@[simp] theorem State.send_gddrTry (s : State) (o : Out) : (s.send o).gddrTry = s.gddrTry := rfl
@[simp] theorem State.send_qrst (s : State) (o : Out) : (s.send o).qrst = s.qrst := rfl
@[simp] theorem State.send_stopped (s : State) (o : Out) : (s.send o).stopped = s.stopped := rfl
@[simp] theorem State.send_engRef (s : State) (o : Out) : (s.send o).engRef = s.engRef := rfl
@[simp] theorem State.send_engRst (s : State) (o : Out) : (s.send o).engRst = s.engRst := rfl
@[simp] theorem State.send_c0End (s : State) (o : Out) : (s.send o).c0End = s.c0End := rfl
@[simp] theorem State.send_qrstRun (s : State) (o : Out) : (s.send o).qrstRun = s.qrstRun := rfl
@[simp] theorem State.send_arbs (s : State) (o : Out) : (s.send o).arbs = s.arbs := rfl
@[simp] theorem State.send_lts (s : State) (o : Out) : (s.send o).lts = s.lts := rfl
@[simp] theorem State.send_lastAt (s : State) (o : Out) : (s.send o).lastAt = s.lastAt := rfl
@[simp] theorem State.send_upsets (s : State) (o : Out) : (s.send o).upsets = s.upsets := rfl
@[simp] theorem State.send_qsel (s : State) (o : Out) : (s.send o).qsel = s.qsel := rfl
@[simp] theorem State.send_dlks (s : State) (o : Out) : (s.send o).dlks = s.dlks := rfl
@[simp] theorem State.send_hlks (s : State) (o : Out) : (s.send o).hlks = s.hlks := rfl
@[simp] theorem State.send_errs (s : State) (o : Out) : (s.send o).errs = s.errs := rfl
@[simp] theorem State.send_doff (s : State) (o : Out) : (s.send o).doff = s.doff := rfl
@[simp] theorem State.send_mgt (s : State) (o : Out) : (s.send o).mgt = s.mgt := rfl
@[simp] theorem State.send_stamp (s : State) (o : Out) : (s.send o).stamp = s.stamp := rfl
@[simp] theorem State.send_fresh (s : State) (o : Out) : (s.send o).fresh = s.fresh := rfl
@[simp] theorem State.send_pending (s : State) (o : Out) : (s.send o).pending = s.pending := rfl

@[simp] theorem State.store_now (s : State) (o : Nat) (bs : List Byte) : (s.store o bs).now = s.now := rfl
@[simp] theorem State.store_boot (s : State) (o : Nat) (bs : List Byte) : (s.store o bs).boot = s.boot := rfl
@[simp] theorem State.store_pins (s : State) (o : Nat) (bs : List Byte) : (s.store o bs).pins = s.pins := rfl
@[simp] theorem State.store_hub0 (s : State) (o : Nat) (bs : List Byte) : (s.store o bs).hub0 = s.hub0 := rfl
@[simp] theorem State.store_hub1 (s : State) (o : Nat) (bs : List Byte) : (s.store o bs).hub1 = s.hub1 := rfl
@[simp] theorem State.store_due (s : State) (o : Nat) (bs : List Byte) : (s.store o bs).due = s.due := rfl
@[simp] theorem State.store_queues (s : State) (o : Nat) (bs : List Byte) : (s.store o bs).queues = s.queues := rfl
@[simp] theorem State.store_blks (s : State) (o : Nat) (bs : List Byte) : (s.store o bs).blks = s.blks := rfl
@[simp] theorem State.store_poison (s : State) (o : Nat) (bs : List Byte) : (s.store o bs).poison = s.poison := rfl
@[simp] theorem State.store_caches (s : State) (o : Nat) (bs : List Byte) : (s.store o bs).caches = s.caches := rfl
@[simp] theorem State.store_gcs (s : State) (o : Nat) (bs : List Byte) : (s.store o bs).gcs = s.gcs := rfl
@[simp] theorem State.store_creels (s : State) (o : Nat) (bs : List Byte) : (s.store o bs).creels = s.creels := rfl
@[simp] theorem State.store_cores (s : State) (o : Nat) (bs : List Byte) : (s.store o bs).cores = s.cores := rfl
@[simp] theorem State.store_online (s : State) (o : Nat) (bs : List Byte) : (s.store o bs).online = s.online := rfl
@[simp] theorem State.store_scrubs (s : State) (o : Nat) (bs : List Byte) : (s.store o bs).scrubs = s.scrubs := rfl
@[simp] theorem State.store_scrZero (s : State) (o : Nat) (bs : List Byte) : (s.store o bs).scrZero = s.scrZero := rfl
@[simp] theorem State.store_gddrTry (s : State) (o : Nat) (bs : List Byte) : (s.store o bs).gddrTry = s.gddrTry := rfl
@[simp] theorem State.store_qrst (s : State) (o : Nat) (bs : List Byte) : (s.store o bs).qrst = s.qrst := rfl
@[simp] theorem State.store_stopped (s : State) (o : Nat) (bs : List Byte) : (s.store o bs).stopped = s.stopped := rfl
@[simp] theorem State.store_engRef (s : State) (o : Nat) (bs : List Byte) : (s.store o bs).engRef = s.engRef := rfl
@[simp] theorem State.store_engRst (s : State) (o : Nat) (bs : List Byte) : (s.store o bs).engRst = s.engRst := rfl
@[simp] theorem State.store_c0End (s : State) (o : Nat) (bs : List Byte) : (s.store o bs).c0End = s.c0End := rfl
@[simp] theorem State.store_qrstRun (s : State) (o : Nat) (bs : List Byte) : (s.store o bs).qrstRun = s.qrstRun := rfl
@[simp] theorem State.store_arbs (s : State) (o : Nat) (bs : List Byte) : (s.store o bs).arbs = s.arbs := rfl
@[simp] theorem State.store_lts (s : State) (o : Nat) (bs : List Byte) : (s.store o bs).lts = s.lts := rfl
@[simp] theorem State.store_lastAt (s : State) (o : Nat) (bs : List Byte) : (s.store o bs).lastAt = s.lastAt := rfl
@[simp] theorem State.store_upsets (s : State) (o : Nat) (bs : List Byte) : (s.store o bs).upsets = s.upsets := rfl
@[simp] theorem State.store_qsel (s : State) (o : Nat) (bs : List Byte) : (s.store o bs).qsel = s.qsel := rfl
@[simp] theorem State.store_dlks (s : State) (o : Nat) (bs : List Byte) : (s.store o bs).dlks = s.dlks := rfl
@[simp] theorem State.store_hlks (s : State) (o : Nat) (bs : List Byte) : (s.store o bs).hlks = s.hlks := rfl
@[simp] theorem State.store_errs (s : State) (o : Nat) (bs : List Byte) : (s.store o bs).errs = s.errs := rfl
@[simp] theorem State.store_doff (s : State) (o : Nat) (bs : List Byte) : (s.store o bs).doff = s.doff := rfl
@[simp] theorem State.store_mgt (s : State) (o : Nat) (bs : List Byte) : (s.store o bs).mgt = s.mgt := rfl
@[simp] theorem State.store_stamp (s : State) (o : Nat) (bs : List Byte) : (s.store o bs).stamp = s.stamp := rfl
@[simp] theorem State.store_fresh (s : State) (o : Nat) (bs : List Byte) : (s.store o bs).fresh = s.fresh := rfl
@[simp] theorem State.store_out (s : State) (o : Nat) (bs : List Byte) : (s.store o bs).out = s.out := rfl
@[simp] theorem State.store_pending (s : State) (o : Nat) (bs : List Byte) : (s.store o bs).pending = s.pending := rfl

/-! ## Parts that an update writes, and parts beside them -/

@[simp] theorem State.setHub_hub (s : State) (h g : Hub) (x : HubSt) : (s.setHub h x).hub g = if g = h then x else s.hub g := by
  fin_cases h <;> fin_cases g <;> simp [State.setHub, State.hub]
@[simp] theorem State.modHub_hub (s : State) (h g : Hub) (f : HubSt → HubSt) :
    (s.modHub h f).hub g = if g = h then f (s.hub h) else s.hub g := by simp [State.modHub]
theorem State.modQueue_queue_ne (s : State) (q r : QIdx) (f : Queue → Queue) (h : q ≠ r) : (s.modQueue q f).queue r = s.queue r :=
  by show mget _ (mput _ _ _ _) _ = mget _ _ _; exact mget_mput_ne _ _ _ fun e => h (Fin.ext e)
theorem State.modQueue_queue (s : State) (q : QIdx) (f : Queue → Queue) (w : mwf {} s.queues = true) :
    (s.modQueue q f).queue q = f (s.queue q) := mget_mput_self _ _ w
theorem State.setQueue_queue_ne (s : State) (q r : QIdx) (x : Queue) (h : q ≠ r) : (s.setQueue q x).queue r = s.queue r :=
  by show mget _ (mput _ _ _ _) _ = mget _ _ _; exact mget_mput_ne _ _ _ fun e => h (Fin.ext e)
theorem State.setQueue_queue (s : State) (q : QIdx) (x : Queue) (w : mwf {} s.queues = true) :
    (s.setQueue q x).queue q = x := mget_mput_self _ _ w
theorem State.modCore_core_ne (s : State) (c d : CoreId) (f : Core → Core) (h : c ≠ d) : (s.modCore c f).core d = s.core d :=
  by show mget _ (mput _ _ _ _) _ = mget _ _ _; exact mget_mput_ne _ _ _ fun e => h (Fin.ext e)
theorem State.modCore_core (s : State) (c : CoreId) (f : Core → Core) (w : mwf {} s.cores = true) :
    (s.modCore c f).core c = f (s.core c) := mget_mput_self _ _ w
theorem State.modBlk_blk_ne (s : State) (p r : Nat) (f : Blk → Blk) (h : p ≠ r) : (s.modBlk p f).blk r = s.blk r :=
  by show mget _ (mput _ _ _ _) _ = mget _ _ _; exact mget_mput_ne _ _ _ h
theorem State.modBlk_blk (s : State) (p : Nat) (f : Blk → Blk) (w : mwf {} s.blks = true) : (s.modBlk p f).blk p = f (s.blk p) :=
  mget_mput_self _ _ w
theorem State.modCache_cache_ne (s : State) (i j : Nat) (f : Cache → Cache) (h : i ≠ j) : (s.modCache i f).cache j = s.cache j :=
  by show mget _ (mput _ _ _ _) _ = mget _ _ _; exact mget_mput_ne _ _ _ h
theorem State.modCache_cache (s : State) (i : Nat) (f : Cache → Cache) (w : mwf {} s.caches = true) :
    (s.modCache i f).cache i = f (s.cache i) := mget_mput_self _ _ w
theorem State.modHlk_hlk (s : State) (p : Port) (f : Hlk → Hlk) (w : mwf {} s.hlks = true) : (s.modHlk p f).hlk p = f (s.hlk p) :=
  mget_mput_self _ _ w
theorem State.modCreel_creel (s : State) (e : Fin 16) (f : Creel → Creel) (w : mwf {} s.creels = true) :
    (s.modCreel e f).creel e = f (s.creel e) := mget_mput_self _ _ w
theorem State.toTime_now (s : State) (t : Nat) : (s.toTime t).now = max s.now t := rfl
theorem State.send_out (s : State) (o : Out) : (s.send o).out = o :: s.out := rfl
theorem State.store_mem (s : State) (o : Nat) (bs : List Byte) : (s.store o bs).mem = memPut s.mem o bs := rfl

/-! ## Counters -/

/-- A counter that is not frozen grows by n (R637). -/
theorem State.count_cnt (s : State) (p off n : Nat) (w : mwf {} s.blks = true) (v : mwf 0 (s.blk p).cnt = true)
    (h : (s.blk p).cntFreeze = false) : (s.count p off n).cnt p off = s.cnt p off + BitVec.ofNat 64 n := by
  simp only [State.cnt, State.count, State.modBlk_blk s p _ w, h]
  exact mget_mput_self _ _ v
/-- A frozen counter keeps its value (R638). -/
theorem State.count_frozen (s : State) (p off n r : Nat) (w : mwf {} s.blks = true)
    (h : (s.blk p).cntFreeze = true) : (s.count p off n).cnt p r = s.cnt p r := by
  simp [State.cnt, State.count, State.modBlk_blk s p _ w, h]

end Sys2Proof.Machine
end

