-- ==== Sys2Proof/Laws/Notices.lean ====
section
/-! SUPPORT. What events, interrupts and error reports can do (R481, R565–R567, R632–R636): they write block pages, the state of host
ports, the collectors and what is sent, and nothing else. -/

namespace Sys2Proof.Machine

/-- t is s but for block pages, host ports, collectors and what was sent. -/
def Notices (s t : State) : Prop := t = { s with blks := t.blks, hlks := t.hlks, errs := t.errs, out := t.out }

namespace Notices
theorem refl (s : State) : Notices s s := rfl
theorem trans {s t u : State} (h : Notices s t) (k : Notices t u) : Notices s u := by
  unfold Notices at *; rw [k]; rw [h]
theorem of_foldl {α : Type} (f : State → α → State) (hf : ∀ s a, Notices s (f s a)) (l : List α) (s : State) :
    Notices s (l.foldl f s) := by
  induction l generalizing s with
  | nil => exact refl s
  | cons a l ih => exact (hf s a).trans (ih _)
theorem now {s t : State} (h : Notices s t) : t.now = s.now := by rw [h]
theorem boot {s t : State} (h : Notices s t) : t.boot = s.boot := by rw [h]
theorem pins {s t : State} (h : Notices s t) : t.pins = s.pins := by rw [h]
theorem hub0 {s t : State} (h : Notices s t) : t.hub0 = s.hub0 := by rw [h]
theorem hub1 {s t : State} (h : Notices s t) : t.hub1 = s.hub1 := by rw [h]
theorem due {s t : State} (h : Notices s t) : t.due = s.due := by rw [h]
theorem queues {s t : State} (h : Notices s t) : t.queues = s.queues := by rw [h]
theorem mem {s t : State} (h : Notices s t) : t.mem = s.mem := by rw [h]
theorem poison {s t : State} (h : Notices s t) : t.poison = s.poison := by rw [h]
theorem caches {s t : State} (h : Notices s t) : t.caches = s.caches := by rw [h]
theorem gcs {s t : State} (h : Notices s t) : t.gcs = s.gcs := by rw [h]
theorem creels {s t : State} (h : Notices s t) : t.creels = s.creels := by rw [h]
theorem cores {s t : State} (h : Notices s t) : t.cores = s.cores := by rw [h]
theorem online {s t : State} (h : Notices s t) : t.online = s.online := by rw [h]
theorem scrubs {s t : State} (h : Notices s t) : t.scrubs = s.scrubs := by rw [h]
theorem scrZero {s t : State} (h : Notices s t) : t.scrZero = s.scrZero := by rw [h]
theorem gddrTry {s t : State} (h : Notices s t) : t.gddrTry = s.gddrTry := by rw [h]
theorem qrst {s t : State} (h : Notices s t) : t.qrst = s.qrst := by rw [h]
theorem stopped {s t : State} (h : Notices s t) : t.stopped = s.stopped := by rw [h]
theorem engRef {s t : State} (h : Notices s t) : t.engRef = s.engRef := by rw [h]
theorem engRst {s t : State} (h : Notices s t) : t.engRst = s.engRst := by rw [h]
theorem c0End {s t : State} (h : Notices s t) : t.c0End = s.c0End := by rw [h]
theorem qsel {s t : State} (h : Notices s t) : t.qsel = s.qsel := by rw [h]
theorem dlks {s t : State} (h : Notices s t) : t.dlks = s.dlks := by rw [h]
theorem doff {s t : State} (h : Notices s t) : t.doff = s.doff := by rw [h]
theorem mgt {s t : State} (h : Notices s t) : t.mgt = s.mgt := by rw [h]
theorem upsets {s t : State} (h : Notices s t) : t.upsets = s.upsets := by rw [h]
theorem qrstRun {s t : State} (h : Notices s t) : t.qrstRun = s.qrstRun := by rw [h]
theorem arbs {s t : State} (h : Notices s t) : t.arbs = s.arbs := by rw [h]
theorem lts {s t : State} (h : Notices s t) : t.lts = s.lts := by rw [h]
theorem lastAt {s t : State} (h : Notices s t) : t.lastAt = s.lastAt := by rw [h]
theorem stamp {s t : State} (h : Notices s t) : t.stamp = s.stamp := by rw [h]
theorem fresh {s t : State} (h : Notices s t) : t.fresh = s.fresh := by rw [h]
theorem pending {s t : State} (h : Notices s t) : t.pending = s.pending := by rw [h]
theorem hub {s t : State} (h : Notices s t) (u : Hub) : t.hub u = s.hub u := by rw [State.hub, State.hub, h.hub0, h.hub1]
theorem queue {s t : State} (h : Notices s t) (q : QIdx) : t.queue q = s.queue q := by rw [State.queue, State.queue, h.queues]
theorem core {s t : State} (h : Notices s t) (c : CoreId) : t.core c = s.core c := by rw [State.core, State.core, h.cores]
theorem cache {s t : State} (h : Notices s t) (i : Nat) : t.cache i = s.cache i := by rw [State.cache, State.cache, h.caches]
end Notices

/-! ## Each notice -/

theorem send_notices (s : State) (o : Out) : Notices s (s.send o) := rfl
theorem modBlk_notices (s : State) (p : Nat) (f : Blk → Blk) : Notices s (s.modBlk p f) := rfl
theorem modHlk_notices (s : State) (p : Port) (f : Hlk → Hlk) : Notices s (s.modHlk p f) := rfl
theorem setErrs_notices (s : State) (e : SMap ErrLog) : Notices s { s with errs := e } := rfl
theorem count_notices (s : State) (p off n : Nat) : Notices s (s.count p off n) := rfl

theorem raiseMsixVf_notices (s : State) (p : Port) (v f vec : Nat) : Notices s (raiseMsixVf s p v f vec) := by
  unfold raiseMsixVf; split <;> rfl
theorem raiseMsix_notices (s : State) (f : Nat) (vec : Hlk → Nat → Nat) : Notices s (raiseMsix s f vec) :=
  Notices.of_foldl _ (fun s (p, v) => raiseMsixVf_notices s p v f _) _ _
theorem mgmtIrq_notices (s : State) (h : Hub) (n : Nat) : Notices s (mgmtIrq s h n) := by
  unfold mgmtIrq; split
  · exact raiseMsix_notices _ _ _
  · rfl

theorem withIrq_notices (s : State) (p : Nat) (f : Blk → Blk) : Notices s (s.withIrq p f) := by
  unfold State.withIrq
  simp only []
  split
  · split
    · exact ((modBlk_notices s p f).trans (send_notices _ _)).trans (mgmtIrq_notices _ _ _)
    · exact (modBlk_notices s p f).trans (send_notices _ _)
  · exact modBlk_notices s p f

theorem withFatalIrq_notices (s : State) (p : Nat) (f : Blk → Blk) : Notices s (s.withFatalIrq p f) := by
  unfold State.withFatalIrq
  simp only []
  split
  · exact (modBlk_notices s p f).trans (send_notices _ _)
  · exact modBlk_notices s p f

theorem event_notices (s : State) (p i : Nat) : Notices s (s.event p i) := withIrq_notices _ _ _

theorem corrected_notices (s : State) (d : Nat) : Notices s (corrected s d) := by
  unfold corrected; simp only []; split
  · exact (count_notices _ _ _ _).trans (event_notices _ _ _)
  · exact count_notices _ _ _ _

/-- An error report (R564–R567, R635). -/
theorem report_notices (s : State) (p cls code detail : Nat) (t : ReqTag) (e a : Nat) :
    Notices s (report s p cls code detail t e a) := by
  unfold report
  split
  · exact (withFatalIrq_notices s p _).trans ((setErrs_notices _ _).trans ((count_notices _ _ _ _).trans (event_notices _ _ _)))
  · exact (withIrq_notices s p _).trans ((setErrs_notices _ _).trans ((count_notices _ _ _ _).trans (event_notices _ _ _)))

/-- The firewall log of a hub die is the only other thing that a violation writes (R478). -/
theorem fwViolation_notices (s : State) (h : Hub) (kind : Nat) (t : ReqTag) (addr : Nat) :
    Notices (s.modHub h fun x => { x with part := { x.part with
      fwPart := BitVec.ofNat 4 (t.part.getD 0), fwNone := t.part.isNone, fwKind := BitVec.ofNat 3 kind,
      fwReqId := BitVec.ofNat 16 t.id, fwAddr := BitVec.ofNat 64 addr } }) (fwViolation s h kind t addr) := by
  unfold fwViolation
  simp only []
  split
  · exact (((count_notices _ _ _ _).trans (event_notices _ _ _)).trans (send_notices _ _)).trans (mgmtIrq_notices _ _ _)
  · exact ((count_notices _ _ _ _).trans (event_notices _ _ _)).trans (send_notices _ _)

end Sys2Proof.Machine
end

