-- ==== Sys2Proof/Laws/Memory.lean ====
section
/-! SUPPORT. Memory (R104, R130, R131): every operation keeps its canonical form, and what is stored is what is read. -/

namespace Sys2Proof.Machine

/-! ## Stored bytes -/

theorem memPut_wf {m : List Host.Cell} (o : Nat) (bs : List Byte) (h : Memory.wf m = true) : Memory.wf (memPut m o bs) = true := by
  induction bs generalizing m o with
  | nil => exact h
  | cons b bs ih => exact ih (o + 1) (mput_wf o b h)

/-- A byte outside the bytes stored reads as before. -/
theorem mget_memPut_ne (m : List Host.Cell) (o x : Nat) (bs : List Byte) (h : x < o ∨ o + bs.length ≤ x) :
    mget 0 (memPut m o bs) x = mget 0 m x := by
  induction bs generalizing m o with
  | nil => rfl
  | cons b bs ih =>
    simp only [List.length_cons] at h
    rw [memPut, ih _ _ (by omega), mget_mput_ne _ _ _ (by omega)]

/-- A byte stored reads as it was stored. -/
theorem mget_memPut {m : List Host.Cell} (o j : Nat) (bs : List Byte) (h : Memory.wf m = true) (hj : j < bs.length) :
    mget 0 (memPut m o bs) (o + j) = bs[j] := by
  induction bs generalizing m o j with
  | nil => simp at hj
  | cons b bs ih =>
    cases j with
    | zero => rw [memPut, mget_memPut_ne _ _ _ _ (by omega)]; exact mget_mput_self o b h
    | succ j =>
      have e : o + (j + 1) = o + 1 + j := by omega
      rw [memPut, e, ih (o + 1) j (mput_wf o b h) (by simpa using hj)]; rfl

theorem store_wf (s : State) (o : Nat) (bs : List Byte) (h : Memory.wf s.mem = true) : Memory.wf (s.store o bs).mem = true :=
  memPut_wf o bs h

/-- A byte of memory after a store (R295). -/
theorem rawByte_store (s : State) (o x : Nat) (bs : List Byte) (h : Memory.wf s.mem = true) :
    rawByte (s.store o bs) x = if hx : o ≤ x ∧ x - o < bs.length then bs[x - o] else rawByte s x := by
  split
  · rename_i hx
    have := mget_memPut (m := s.mem) o (x - o) bs h hx.2
    rwa [Nat.add_sub_cancel' hx.1] at this
  · exact mget_memPut_ne _ _ _ _ (by omega)

/-- Memory after reset is in canonical form. -/
theorem reset_mem_wf : Memory.wf State.reset.mem = true := rfl

/-! ## Operations that leave memory alone -/

@[simp] theorem stepFail_mem (s : State) (r die d back : Nat) : (stepFail s r die d back).mem = s.mem := rfl
theorem raiseFatal_mem (s : State) (k p : Nat) : (raiseFatal s k p).mem = s.mem := by
  have h := (report_notices s p 4 k 0 {} 0 0).mem
  unfold raiseFatal
  dsimp only
  repeat' split
  all_goals first | rfl | exact h
@[simp] theorem setPoison_mem (s : State) (g : Nat) : (setPoison s g).mem = s.mem := by
  unfold setPoison
  repeat' split
  all_goals first | rfl | exact raiseFatal_mem ..
@[simp] theorem clearPoison_mem (s : State) (g : Nat) : (clearPoison s g).mem = s.mem := rfl
@[simp] theorem ctlCount_mem (s : State) (r : Region) (off n : Nat) : (ctlCount s r off n).mem = s.mem := by
  unfold ctlCount; split <;> rfl
@[simp] theorem loseResv_mem (s : State) (w : Option CoreId) (g : Nat) : (loseResv s w g).mem = s.mem := rfl
@[simp] theorem State.tick_mem (s : State) : s.tick.2.mem = s.mem := rfl
@[simp] theorem corrected_mem (s : State) (d : Nat) : (corrected s d).mem = s.mem := (corrected_notices s d).mem
@[simp] theorem event_mem (s : State) (p i : Nat) : (s.event p i).mem = s.mem := (event_notices s p i).mem
@[simp] theorem report_mem (s : State) (p cls code detail : Nat) (t : ReqTag) (e a : Nat) : (report s p cls code detail t e a).mem = s.mem :=
  (report_notices ..).mem
@[simp] theorem eccUe_mem (s : State) (o : Nat) : (eccUe s o).mem = s.mem := by
  unfold eccUe
  rw [report_mem]
  cases eccCounters s (regionOf s o) with
  | some c => exact setPoison_mem ..
  | none => rfl
@[simp] theorem clearUpset_mem (s : State) (k : Nat) : (clearUpset s k).mem = s.mem := by unfold clearUpset; split <;> rfl
@[simp] theorem eccRead_mem (s : State) (o : Nat) : (eccRead s o).mem = s.mem := by
  unfold eccRead
  dsimp only
  split
  · rfl
  · cases eccCounters s (regionOf s o) with
    | none => exact clearUpset_mem ..
    | some c =>
      dsimp only
      repeat' split
      · exact clearUpset_mem ..
      · rw [corrected_mem]; exact clearUpset_mem ..
      · rw [eccUe_mem]; exact clearUpset_mem ..

/-! ## Errors met in cache arrays (R354): memory does not change -/

@[simp] theorem lineErrors_mem (s : State) (i : Nat) (l : Line) (k : Nat) : (lineErrors s i l k).1.mem = s.mem := by
  unfold lineErrors
  dsimp only
  split
  · rfl
  · rw [corrected_mem, State.count_mem, clearUpset_mem]
  · split
    · rw [report_mem, event_mem, State.count_mem, clearUpset_mem]
    · exact clearUpset_mem ..
@[simp] theorem findErrors_mem (s : State) (i o : Nat) : (findErrors s i o).mem = s.mem := by
  unfold findErrors
  split
  · rfl
  · dsimp only
    repeat' split
    all_goals simp only [eccRead_mem, clearUpset_mem, State.modCache_mem, lineErrors_mem]
@[simp] theorem writeErrors_mem (s : State) (i : Nat) (a : Acc) (o n : Nat) : (writeErrors s i a o n).mem = s.mem := by
  unfold writeErrors
  dsimp only
  repeat' split
  all_goals simp only [eccRead_mem, clearUpset_mem, findErrors_mem]
@[simp] theorem mergeErrors_mem (s : State) (a : Acc) (o n : Nat) : (mergeErrors s a o n).mem = s.mem := by
  have f (i : Nat) (cs : List (Nat × Nat)) (t : State) : (cs.foldl (fun s c => writeErrors s i a c.1 c.2) t).mem = t.mem := by
    induction cs generalizing t with
    | nil => rfl
    | cons c cs ih => exact (ih _).trans (writeErrors_mem ..)
  unfold mergeErrors
  repeat' split
  all_goals first | rfl | exact f .. | simp only [eccRead_mem, clearUpset_mem]

/-! ## Operations that store, and keep the canonical form -/

theorem writeBack_wf (s : State) (i : Nat) (l : Line) (k : Nat) (h : Memory.wf s.mem = true) : Memory.wf (writeBack s i l k).1.mem = true := by
  unfold writeBack
  split
  · have k (t : State) (o : Nat) (bs : List Byte) (e : t.mem = s.mem) : Memory.wf (t.store o bs).mem = true := store_wf t o bs (e ▸ h)
    dsimp only
    rw [State.count_mem]
    split
    · rw [setPoison_mem]; exact k _ _ _ (by simp only [eccRead_mem, lineErrors_mem])
    · exact k _ _ _ (by simp only [eccRead_mem, lineErrors_mem])
  · exact h
theorem writeBackLine_wf (s : State) (i : Nat) (l : Line) (h : Memory.wf s.mem = true) : Memory.wf (writeBackLine s i l).1.mem = true := by
  have f (ks : List Nat) (p : State × Line) (hp : Memory.wf p.1.mem = true) :
      Memory.wf (ks.foldl (fun p k => writeBack p.1 i p.2 k) p).1.mem = true := by
    induction ks generalizing p with
    | nil => exact hp
    | cons k ks ih => exact ih _ (writeBack_wf _ _ _ _ hp)
  exact f _ (s, l) h
theorem evict_wf (s : State) (i : Nat) (l : Line) (h : Memory.wf s.mem = true) : Memory.wf (evict s i l).mem = true :=
  writeBackLine_wf s i l h
theorem allocLine_wf {s s' : State} {i num prio : Nat} {l : Line} (e : allocLine s i num prio = some (s', l))
    (h : Memory.wf s.mem = true) : Memory.wf s'.mem = true := by
  unfold allocLine at e
  cases hv : victim s i (setOf i num) with
  | none => simp [hv] at e
  | some w =>
    simp only [hv, Option.map_some, Option.some.injEq, Prod.mk.injEq] at e
    rw [← e.1]
    cases lineAt (s.cache i) i (setOf i num) w with
    | none => exact h
    | some old => exact evict_wf s i old h
theorem rdSector_wf (s : State) (i : Nat) (a : Acc) (o n : Nat) (h : Memory.wf s.mem = true) :
    Memory.wf (rdSector s i a o n).2.2.mem = true := by
  unfold rdSector
  dsimp only
  repeat' split
  all_goals first
    | exact h
    | exact writeBack_wf _ _ _ _ h
    | (rename_i e; have k := allocLine_wf e h; exact k)
theorem wrThrough_wf (s : State) (i o : Nat) (bs : List Byte) (h : Memory.wf s.mem = true) : Memory.wf (wrThrough s i o bs).mem = true := by
  unfold wrThrough
  dsimp only
  repeat' split
  all_goals exact store_wf s _ _ h
theorem wrSector_wf (s : State) (i : Nat) (a : Acc) (o : Nat) (bs : List Byte) (h : Memory.wf s.mem = true) :
    Memory.wf (wrSector s i a o bs).mem = true := by
  unfold wrSector
  dsimp only
  repeat' split
  all_goals first
    | exact h
    | exact wrThrough_wf _ _ _ _ h
    | exact store_wf _ _ _ (writeBack_wf _ _ _ _ h)
    | (have k := allocLine_wf (s := s.count (cachePage i) 0x088 1) (by assumption) h; exact k)
theorem rdPiece_wf (s : State) (a : Acc) (o n : Nat) (h : Memory.wf s.mem = true) : Memory.wf (rdPiece s a o n).2.2.mem = true := by
  have f (i : Nat) (cs : List (Nat × Nat)) (p : List Byte × Bool × State) (hp : Memory.wf p.2.2.mem = true) :
      Memory.wf (cs.foldl (fun (acc : List Byte × Bool × State) c =>
        (acc.1 ++ (rdSector (findErrors acc.2.2 i c.1) i a c.1 c.2).1, acc.2.1 || (rdSector (findErrors acc.2.2 i c.1) i a c.1 c.2).2.1,
          (rdSector (findErrors acc.2.2 i c.1) i a c.1 c.2).2.2)) p).2.2.mem = true := by
    induction cs generalizing p with
    | nil => exact hp
    | cons c cs ih => exact ih _ (rdSector_wf _ _ _ _ _ (by rw [findErrors_mem]; exact hp))
  unfold rdPiece
  dsimp only
  split
  · split
    · rw [ctlCount_mem]; exact f _ _ _ h
    · exact f _ _ _ h
  · repeat' split
    all_goals (simp only [ctlCount_mem, eccRead_mem, State.count_mem]; exact h)
theorem poisonOnWrite_mem (s : State) (o n : Nat) : (poisonOnWrite s o n).mem = s.mem := by
  unfold poisonOnWrite
  dsimp only
  repeat' split
  all_goals first | rfl | exact ctlCount_mem ..
theorem wrPiece_wf (s : State) (w : Option CoreId) (a : Acc) (o : Nat) (bs : List Byte) (h : Memory.wf s.mem = true) :
    Memory.wf (wrPiece s w a o bs).mem = true := by
  have f (i ro : Nat) (cs : List (Nat × Nat)) (p : State) (hp : Memory.wf p.mem = true) :
      Memory.wf (cs.foldl (fun s c => wrSector s i a c.1 (slice bs (c.1 - ro) c.2)) p).mem = true := by
    induction cs generalizing p with
    | nil => exact hp
    | cons c cs ih => exact ih _ (wrSector_wf _ _ _ _ _ hp)
  have h0 : Memory.wf (poisonOnWrite (mergeErrors (loseResv s w (granule o)) a o bs.length) o bs.length).mem = true := by
    rw [poisonOnWrite_mem, mergeErrors_mem]; exact h
  unfold wrPiece
  dsimp only
  split
  · exact f _ _ _ _ h0
  · repeat' split
    all_goals exact store_wf _ _ _ h0
theorem zeroRange_wf (s : State) (o n : Nat) (h : Memory.wf s.mem = true) : Memory.wf (zeroRange s o n).mem = true := mclear_wf o n h

end Sys2Proof.Machine
end

