-- ==== Sys2Proof/WellFormed.lean ====
section
/-! DEFINITION. Well-formed commands: the occurrences of a row that its rule allows at all, and the frame addresses a command
names. -/

namespace Sys2Proof

/-- One package's window (R104). -/
def packageWindow : Nat := 2 ^ 46
/-- The frame's address space: eight windows (R104). -/
def frameSize : Nat := 8 * packageWindow
/-- The most GDDR bytes of a hub die. -/
def gddrMost : Nat := 2 ^ 39

/-- At least one byte, and all of them in the frame. -/
def frameBytes (a n : Nat) : Bool := decide (1 ≤ n) && decide (a + n ≤ frameSize)

/-- A core access of 1 to 64 bytes in the frame (R265–R267). -/
def CoreAccess.ok (a : CoreAccess) : Bool := frameBytes a.addr a.size && decide (a.size ≤ 64)
/-- The sizes of a reserved pair (R272). -/
def CoreAccess.pair (a : CoreAccess) : Bool := decide (a.size = 4 ∨ a.size = 8)
/-- The accesses of a matrix-unit instruction. -/
def CmuInstr.ok (i : CmuInstr) : Bool := (i.loads.all fun a => a.ok) && i.stores.all fun p => p.1.ok && decide (p.2.length = p.1.size)
/-- A combine group and a span (R425). -/
def noticeOk (g x : Nat) : Bool := decide (g < 256) && decide (x < 256)
/-- A creel buffer and one of its slots (R398). -/
def slotOk (b j : Nat) : Bool := decide (b < 16) && decide (j < 256)
/-- A link that exists (R27): a die link joins two dies in one order. -/
def LinkId.ok : LinkId → Bool
  | .dlk a b => decide (a < b)
  | .flk _ _ => true
/-- An access that moves at least one byte. -/
def WinAccess.ok : WinAccess → Bool
  | .pf0Read _ n => decide (1 ≤ n)
  | .pf0Write _ d => !d.isEmpty
  | .vfRead _ _ n => decide (1 ≤ n)
  | .vfWrite _ _ d => !d.isEmpty
/-- A usable namespace has blocks of 512 or 4,096 bytes (R384). -/
def NsFound.ok (x : NsFound) : Bool := decide (x.block = 512 ∨ x.block = 4096)
/-- Feature levels offered by the hub dies number three at most (R46). -/
def StepFindings.ok (f : StepFindings) : Bool := f.offers.all (fun x => decide (x.2 ≤ 3)) && rateOk f.gddr7 f.gddrRate

/-- The commands that can occur. -/
def Instr.wellFormed : Instr → Bool
  | .remoteWriteArrival w => frameBytes w.addr w.data.length
  | .remoteReadRequest rd => frameBytes rd.addr rd.len
  | .remoteReadResponse _ addr a data _ => decide (addr < frameSize) && (decide (a ≠ .ok) || !data.isEmpty)
  | .remoteWriteAck _ addr _ _ => decide (addr < frameSize)
  | .knotWriteArrival p => frameBytes p.addr p.data.length
  | .knotEndMark m => m.notice.all fun y => noticeOk y.1 y.2
  | .combineNotice _ g x _ => noticeOk g x
  | .creelFetchComplete _ b j _ => slotOk b j
  | .creelFetchTimeout _ b j _ => slotOk b j
  | .nvmeCompletion _ _ st data _ => decide (st = 0) || data.isEmpty
  | .coreLoad _ a _ => a.ok
  | .coreStore _ a data _ => a.ok && decide (data.length = a.size)
  | .storeError _ _ cls => decide (cls ≠ .ok)
  | .ldres _ a => a.ok && a.pair
  | .stcond _ a data => a.ok && a.pair && decide (data.length = a.size)
  | .cmuIssue _ i _ => i.ok
  | .vectorGather _ v _ => v.elems.all fun a => a.ok
  | .vectorScatter _ v _ _ => v.elems.all fun a => a.ok
  | .hostMemoryRead _ _ _ len _ _ => decide (1 ≤ len)
  | .hostMemoryWrite _ _ _ data => !data.isEmpty
  | .hostConfigRequest _ _ off _ _ => decide (off < 4096 ∧ off % 4 = 0)
  | .cxlMemRequest _ rq _ => match rq with | .read _ n => decide (1 ≤ n) | .write _ data => !data.isEmpty
  | .cxlBisnpResponse _ line => decide (line < packageWindow / 64)
  | .storagePortEnable _ _ _ found => found.all fun x => x.ok
  | .gddrTransferRetry _ off _ => decide (off < gddrMost)
  | .partitionError _ page code => decide (page < 4096) && decide (code ≠ 0)
  | .startStepDone _ f _ => f.ok
  | .startStepFail r _ _ _ => decide (r ≠ 0)
  | .linkTransferError l _ => l.ok
  | .replayExhausted l _ => l.ok
  | .linkRetrainDone l _ _ _ => l.ok
  | .fatalError code _ page _ => decide (code ≠ 0) && decide (page < 4096)
  | .errCountRead _ _ page => decide (page < 4096)
  | .cntClear _ _ page => decide (page < 4096)
  | .intForce _ _ page _ => decide (page < 4096)
  | .registerWrite _ off size _ _ => decide (off < packageWindow) && decide (size = 4 ∨ size = 8)
  | .hostLinkUp _ sp _ x => decide (sp ≠ 0) && decide (x ≠ 1)
  | .replayEpisodeSuccess l n _ => l.ok && decide (n ≠ 0)
  | .functionWindowAccess _ a _ => a.ok
  | .lineTickQualify _ | .ltAdvance _ | .waitNoTickFreeRun _ _ | .lockLossFreeRun _ _ | .dcModeWrite _ _ _ | .ltuCopyMessage _
  | .ltuCopySilenceTimeout | .ltuInternalError _ | .governorUpdate _ _ | .qosBudgetRefresh _ | .dvfsChange _ | .telemetrySnapshot
  | .stepStart _ _ | .ledgerCheckpoint _ | .scrubCredit | .scrubGranule _ _ | .memoryRefresh | .govSetStep _ | .govCut _
  | .govRelease _ | .ltQuery _ | .govCtlCutWrite _ _ _ | .govCutLevelWrite _ _ _ | .doorbell _ _ _ | .entryAdmit _ _ _
  | .queueEnable _ _ | .queueDisable _ _ | .queueResume _ _ | .faultWaitRetry _ _ _ | .faultWaitAbandon _ _ _ | .qswClr _ _
  | .qmQrst _ _ _ | .stepGroupEnable _ _ _ | .stepGroupDisable _ _ _ | .nop _ _ | .wait _ _ | .waitPoll _ _ | .signal _ _
  | .fence _ _ | .step _ _ | .matmul _ _ _ | .rbMatmul _ _ _ | .vec _ _ _ | .copy _ _ _ | .gather _ _ _ | .scatter _ _ _
  | .fill _ _ _ | .atomic _ _ | .store _ _ | .creelArm _ _ | .creelDisarm _ _ | .combine _ _ | .attn _ _ | .ptInsert _ _ _
  | .ptLookup _ _ _ | .ptBall _ _ _ | .ptKnn _ _ _ | .ptRulebook _ _ _ | .commandPreempt _ _ | .commandTimeout _ _ _
  | .commandCompletion _ _ | .knotCtlFlush _ _
  | .cbGrpClr _ _ | .creelFetchIssue _ _ | .coreStorePerformed _ _ | .fenceSl _ | .fenceRemote _ | .coreAccessLinkTimeout _ _ _
  | .cmuCommit _ _ _ | .cmuSquash _ _ | .hostAtomicop _ _ _ _ _ _ _ _ | .hostRequestTimeout _ _ _ | .functionLevelReset _ _ _
  | .cxlH2dSnoop _ _ | .bootStatusRead | .pldmBaseDiscovery _ | .pldmSensorRead _ _ | .pldmFirmwareUpdate _ | .dumpInfo
  | .dumpRead _ _ | .dumpRelease | .dumpRel _ | .jtagInstruction _ | .ssdLinkDrop _ _ _ | .cacheEnable _ _ | .cacheDisable _ _
  | .cacheDrainDone _ | .cacheMaintWb _ _ | .cacheMaintInv _ _ | .cacheMaintWbinv _ _ | .cacheMaintDone _ | .cacheCarve _ _ _
  | .carveDone _ | .cachePreload _ _ _ | .preloadDone _ | .gcEnable _ _ _ | .gcDisable _ _ | .gcInv _ _ | .scrZero _ _
  | .scrZeroDone _ | .hankRelease _ _ _ | .hankDrainTimeout _ _ | .hankZeroingDone _ | .hankAssign _ _ _ | .partRst _ _ _ _
  | .pwrWarnAssert _ | .admissionStop _ | .doffDeadline _ | .ledgerCommit _ _ | .pwrWarnClear _ | .ledViewRel _ _ | .powerGoodLoss
  | .refclkLoss | .pkgResetPin _ | .frameResetPin _ | .softPkgReset _ | .resetDeassert _ _ _ | .startSequenceBegin _
  | .startStepTimeout _ | .retryBackoffExpiry _ | .setReady _ | .fwFail _ _ | .engRst _ _ _ | .hubEngRst _ _ _ _
  | .frameLinkTrainAttempt _ _ _ | .frameLinkTrained _ _ _ _ _ _ | .frameLinkLost _ _ _ | .watchdogExpiry _ | .watchdogKick _ _
  | .watchdogArm _ _ | .mgtFatalDeclare _ _ | .errLogAck _ _ | .xltInvalidate _ _ _ _ | .xltInvalidateDone _
  | .xltContextEnable _ _ _ | .xltContextDisable _ _ | .xltDisableDone _ _ | .powerGood _ _ _ | .lateWriteWindowEnd _ _
  | .journalDrain _ | .i3cDynamicAddress _ | .unknownCmdMessage _ => true

/-- The addresses that a command names: frame addresses, or the package offset of a register. -/
def Instr.addresses : Instr → List Nat
  | .remoteWriteArrival w => [w.addr]
  | .remoteReadRequest rd => [rd.addr]
  | .remoteReadResponse _ addr _ _ _ => [addr]
  | .remoteWriteAck _ addr _ _ => [addr]
  | .knotWriteArrival p => [p.addr]
  | .coreLoad _ a _ => [a.addr]
  | .coreStore _ a _ _ => [a.addr]
  | .ldres _ a => [a.addr]
  | .stcond _ a _ => [a.addr]
  | .cmuIssue _ i _ => i.loads.map (·.addr) ++ i.stores.map (·.1.addr)
  | .vectorGather _ v _ => v.elems.map (·.addr)
  | .vectorScatter _ v _ _ => v.elems.map (·.addr)
  | .registerWrite _ off _ _ _ => [off]
  | .lineTickQualify _ | .ltAdvance _ | .waitNoTickFreeRun _ _ | .lockLossFreeRun _ _ | .dcModeWrite _ _ _ | .ltuCopyMessage _
  | .ltuCopySilenceTimeout | .ltuInternalError _ | .governorUpdate _ _ | .qosBudgetRefresh _ | .dvfsChange _ | .telemetrySnapshot
  | .stepStart _ _ | .ledgerCheckpoint _ | .scrubCredit | .scrubGranule _ _ | .memoryRefresh | .govSetStep _ | .govCut _
  | .govRelease _ | .ltQuery _ | .govCtlCutWrite _ _ _ | .govCutLevelWrite _ _ _ | .doorbell _ _ _ | .entryAdmit _ _ _
  | .queueEnable _ _ | .queueDisable _ _ | .queueResume _ _ | .faultWaitRetry _ _ _ | .faultWaitAbandon _ _ _ | .qswClr _ _
  | .qmQrst _ _ _ | .stepGroupEnable _ _ _ | .stepGroupDisable _ _ _ | .nop _ _ | .wait _ _ | .waitPoll _ _ | .signal _ _
  | .fence _ _ | .step _ _ | .matmul _ _ _ | .rbMatmul _ _ _ | .vec _ _ _ | .copy _ _ _ | .gather _ _ _ | .scatter _ _ _
  | .fill _ _ _ | .atomic _ _ | .store _ _ | .creelArm _ _ | .creelDisarm _ _ | .combine _ _ | .attn _ _ | .ptInsert _ _ _
  | .ptLookup _ _ _ | .ptBall _ _ _ | .ptKnn _ _ _ | .ptRulebook _ _ _ | .commandPreempt _ _ | .commandTimeout _ _ _
  | .commandCompletion _ _ | .knotEndMark _ | .knotCtlFlush _ _ | .combineNotice _ _ _ _ | .cbGrpClr _ _ | .creelFetchIssue _ _
  | .creelFetchComplete _ _ _ _ | .creelFetchTimeout _ _ _ _ | .nvmeCompletion _ _ _ _ _ | .coreStorePerformed _ _
  | .storeError _ _ _ | .fenceSl _ | .fenceRemote _ | .coreAccessLinkTimeout _ _ _ | .cmuCommit _ _ _ | .cmuSquash _ _
  | .hostMemoryRead _ _ _ _ _ _ | .hostMemoryWrite _ _ _ _ | .hostAtomicop _ _ _ _ _ _ _ _ | .hostRequestTimeout _ _ _
  | .hostConfigRequest _ _ _ _ _ | .functionLevelReset _ _ _ | .cxlMemRequest _ _ _ | .cxlH2dSnoop _ _ | .cxlBisnpResponse _ _
  | .bootStatusRead | .pldmBaseDiscovery _ | .pldmSensorRead _ _ | .pldmFirmwareUpdate _ | .dumpInfo | .dumpRead _ _ | .dumpRelease
  | .dumpRel _ | .jtagInstruction _ | .ssdLinkDrop _ _ _ | .storagePortEnable _ _ _ _ | .cacheEnable _ _ | .cacheDisable _ _
  | .cacheDrainDone _ | .cacheMaintWb _ _ | .cacheMaintInv _ _ | .cacheMaintWbinv _ _ | .cacheMaintDone _ | .cacheCarve _ _ _
  | .carveDone _ | .cachePreload _ _ _ | .preloadDone _ | .gcEnable _ _ _ | .gcDisable _ _ | .gcInv _ _ | .scrZero _ _
  | .scrZeroDone _ | .gddrTransferRetry _ _ _ | .hankRelease _ _ _ | .hankDrainTimeout _ _ | .hankZeroingDone _ | .hankAssign _ _ _
  | .partRst _ _ _ _ | .partitionError _ _ _ | .pwrWarnAssert _ | .admissionStop _ | .doffDeadline _ | .ledgerCommit _ _
  | .pwrWarnClear _ | .ledViewRel _ _ | .powerGoodLoss | .refclkLoss | .pkgResetPin _ | .frameResetPin _ | .softPkgReset _
  | .resetDeassert _ _ _ | .startSequenceBegin _ | .startStepDone _ _ _ | .startStepFail _ _ _ _ | .startStepTimeout _
  | .retryBackoffExpiry _ | .setReady _ | .fwFail _ _ | .engRst _ _ _ | .hubEngRst _ _ _ _ | .frameLinkTrainAttempt _ _ _
  | .frameLinkTrained _ _ _ _ _ _ | .frameLinkLost _ _ _ | .linkTransferError _ _ | .replayExhausted _ _ | .linkRetrainDone _ _ _ _
  | .fatalError _ _ _ _ | .watchdogExpiry _ | .watchdogKick _ _ | .watchdogArm _ _ | .mgtFatalDeclare _ _ | .errLogAck _ _
  | .errCountRead _ _ _ | .cntClear _ _ _ | .intForce _ _ _ _ | .xltInvalidate _ _ _ _ | .xltInvalidateDone _
  | .xltContextEnable _ _ _ | .xltContextDisable _ _ | .xltDisableDone _ _ | .powerGood _ _ _ | .hostLinkUp _ _ _ _
  | .replayEpisodeSuccess _ _ _ | .lateWriteWindowEnd _ _ | .journalDrain _ | .i3cDynamicAddress _ | .unknownCmdMessage _
  | .functionWindowAccess _ _ _ => []

end Sys2Proof
end

