-- ==== Sys2Proof/Laws/PerInstr.lean ====
section
/-! SUPPORT. Statements made for each command by itself: the addresses of a well-formed command lie in the frame. -/

namespace Sys2Proof.Laws.InFrame

/-- Every address that a well-formed command names lies in the frame (R104). -/
def Statement (i : Instr) : Prop := i.wellFormed = true → ∀ a ∈ i.addresses, a < frameSize

/-- Bytes that lie in the frame begin in it. -/
theorem lt_of_frameBytes {a n : Nat} (h : frameBytes a n = true) : a < frameSize := by
  simp only [frameBytes, Bool.and_eq_true, decide_eq_true_eq] at h; omega
theorem one {x n : Nat} (h : x < n) : ∀ a ∈ [x], a < n := by simpa using h
theorem lt_of_ok {a : CoreAccess} (h : a.ok = true) : a.addr < frameSize := by
  simp only [CoreAccess.ok, Bool.and_eq_true] at h; exact lt_of_frameBytes h.1

theorem lineTickQualify (t : Nat) : Statement (.lineTickQualify t) := fun _ _ m => absurd m List.not_mem_nil
theorem ltAdvance (t : Nat) : Statement (.ltAdvance t) := fun _ _ m => absurd m List.not_mem_nil
theorem waitNoTickFreeRun (u : Hub) (t : Nat) : Statement (.waitNoTickFreeRun u t) := fun _ _ m => absurd m List.not_mem_nil
theorem lockLossFreeRun (u : Hub) (t : Nat) : Statement (.lockLossFreeRun u t) := fun _ _ m => absurd m List.not_mem_nil
theorem dcModeWrite (r : Requester) (u : Hub) (v : Bool) : Statement (.dcModeWrite r u v) := fun _ _ m => absurd m List.not_mem_nil
theorem ltuCopyMessage (transit : Nat) : Statement (.ltuCopyMessage transit) := fun _ _ m => absurd m List.not_mem_nil
theorem ltuCopySilenceTimeout : Statement (.ltuCopySilenceTimeout) := fun _ _ m => absurd m List.not_mem_nil
theorem ltuInternalError (u : Hub) : Statement (.ltuInternalError u) := fun _ _ m => absurd m List.not_mem_nil
theorem governorUpdate (hub : Hub) (bg : Nat) : Statement (.governorUpdate hub bg) := fun _ _ m => absurd m List.not_mem_nil
theorem qosBudgetRefresh (hub : Hub) : Statement (.qosBudgetRefresh hub) := fun _ _ m => absurd m List.not_mem_nil
theorem dvfsChange (hub : Hub) : Statement (.dvfsChange hub) := fun _ _ m => absurd m List.not_mem_nil
theorem telemetrySnapshot : Statement (.telemetrySnapshot) := fun _ _ m => absurd m List.not_mem_nil
theorem stepStart (hub : Hub) (g : Fin 16) : Statement (.stepStart hub g) := fun _ _ m => absurd m List.not_mem_nil
theorem ledgerCheckpoint (hub : Hub) : Statement (.ledgerCheckpoint hub) := fun _ _ m => absurd m List.not_mem_nil
theorem scrubCredit : Statement (.scrubCredit) := fun _ _ m => absurd m List.not_mem_nil
theorem scrubGranule (sc : Scrubber) (e : EccFinding) : Statement (.scrubGranule sc e) := fun _ _ m => absurd m List.not_mem_nil
theorem memoryRefresh : Statement (.memoryRefresh) := fun _ _ m => absurd m List.not_mem_nil
theorem govSetStep (payload : List Byte) : Statement (.govSetStep payload) := fun _ _ m => absurd m List.not_mem_nil
theorem govCut (payload : List Byte) : Statement (.govCut payload) := fun _ _ m => absurd m List.not_mem_nil
theorem govRelease (payload : List Byte) : Statement (.govRelease payload) := fun _ _ m => absurd m List.not_mem_nil
theorem ltQuery (payload : List Byte) : Statement (.ltQuery payload) := fun _ _ m => absurd m List.not_mem_nil
theorem govCtlCutWrite (r : Requester) (hub : Hub) (v : Bool) : Statement (.govCtlCutWrite r hub v) := fun _ _ m => absurd m List.not_mem_nil
theorem govCutLevelWrite (r : Requester) (hub : Hub) (v : W32) : Statement (.govCutLevelWrite r hub v) := fun _ _ m => absurd m List.not_mem_nil
theorem doorbell (r : Requester) (q : QIdx) (v : W32) : Statement (.doorbell r q v) := fun _ _ m => absurd m List.not_mem_nil
theorem entryAdmit (q : QIdx) (pwr : Nat) (t : Nat) : Statement (.entryAdmit q pwr t) := fun _ _ m => absurd m List.not_mem_nil
theorem queueEnable (r : Requester) (q : QIdx) : Statement (.queueEnable r q) := fun _ _ m => absurd m List.not_mem_nil
theorem queueDisable (r : Requester) (q : QIdx) : Statement (.queueDisable r q) := fun _ _ m => absurd m List.not_mem_nil
theorem queueResume (r : Requester) (q : QIdx) : Statement (.queueResume r q) := fun _ _ m => absurd m List.not_mem_nil
theorem faultWaitRetry (r : Requester) (q : QIdx) (t : Nat) : Statement (.faultWaitRetry r q t) := fun _ _ m => absurd m List.not_mem_nil
theorem faultWaitAbandon (r : Requester) (q : QIdx) (t : Nat) : Statement (.faultWaitAbandon r q t) := fun _ _ m => absurd m List.not_mem_nil
theorem qswClr (r : Requester) (q : QIdx) : Statement (.qswClr r q) := fun _ _ m => absurd m List.not_mem_nil
theorem qmQrst (r : Requester) (q : QIdx) (t : Nat) : Statement (.qmQrst r q t) := fun _ _ m => absurd m List.not_mem_nil
theorem stepGroupEnable (r : Requester) (hub : Hub) (g : Fin 16) : Statement (.stepGroupEnable r hub g) := fun _ _ m => absurd m List.not_mem_nil
theorem stepGroupDisable (r : Requester) (hub : Hub) (g : Fin 16) : Statement (.stepGroupDisable r hub g) := fun _ _ m => absurd m List.not_mem_nil
theorem nop (q : QIdx) (t : Nat) : Statement (.nop q t) := fun _ _ m => absurd m List.not_mem_nil
theorem wait (q : QIdx) (t : Nat) : Statement (.wait q t) := fun _ _ m => absurd m List.not_mem_nil
theorem waitPoll (q : QIdx) (t : Nat) : Statement (.waitPoll q t) := fun _ _ m => absurd m List.not_mem_nil
theorem signal (q : QIdx) (t : Nat) : Statement (.signal q t) := fun _ _ m => absurd m List.not_mem_nil
theorem fence (q : QIdx) (t : Nat) : Statement (.fence q t) := fun _ _ m => absurd m List.not_mem_nil
theorem step (q : QIdx) (t : Nat) : Statement (.step q t) := fun _ _ m => absurd m List.not_mem_nil
theorem matmul (q : QIdx) (n t : Nat) : Statement (.matmul q n t) := fun _ _ m => absurd m List.not_mem_nil
theorem rbMatmul (q : QIdx) (n t : Nat) : Statement (.rbMatmul q n t) := fun _ _ m => absurd m List.not_mem_nil
theorem vec (q : QIdx) (n t : Nat) : Statement (.vec q n t) := fun _ _ m => absurd m List.not_mem_nil
theorem copy (q : QIdx) (n t : Nat) : Statement (.copy q n t) := fun _ _ m => absurd m List.not_mem_nil
theorem gather (q : QIdx) (n t : Nat) : Statement (.gather q n t) := fun _ _ m => absurd m List.not_mem_nil
theorem scatter (q : QIdx) (n t : Nat) : Statement (.scatter q n t) := fun _ _ m => absurd m List.not_mem_nil
theorem fill (q : QIdx) (n t : Nat) : Statement (.fill q n t) := fun _ _ m => absurd m List.not_mem_nil
theorem atomic (q : QIdx) (t : Nat) : Statement (.atomic q t) := fun _ _ m => absurd m List.not_mem_nil
theorem store (q : QIdx) (t : Nat) : Statement (.store q t) := fun _ _ m => absurd m List.not_mem_nil
theorem creelArm (q : QIdx) (t : Nat) : Statement (.creelArm q t) := fun _ _ m => absurd m List.not_mem_nil
theorem creelDisarm (q : QIdx) (t : Nat) : Statement (.creelDisarm q t) := fun _ _ m => absurd m List.not_mem_nil
theorem combine (q : QIdx) (t : Nat) : Statement (.combine q t) := fun _ _ m => absurd m List.not_mem_nil
theorem attn (q : QIdx) (t : Nat) : Statement (.attn q t) := fun _ _ m => absurd m List.not_mem_nil
theorem ptInsert (q : QIdx) (n t : Nat) : Statement (.ptInsert q n t) := fun _ _ m => absurd m List.not_mem_nil
theorem ptLookup (q : QIdx) (n t : Nat) : Statement (.ptLookup q n t) := fun _ _ m => absurd m List.not_mem_nil
theorem ptBall (q : QIdx) (n t : Nat) : Statement (.ptBall q n t) := fun _ _ m => absurd m List.not_mem_nil
theorem ptKnn (q : QIdx) (n t : Nat) : Statement (.ptKnn q n t) := fun _ _ m => absurd m List.not_mem_nil
theorem ptRulebook (q : QIdx) (n t : Nat) : Statement (.ptRulebook q n t) := fun _ _ m => absurd m List.not_mem_nil
theorem commandPreempt (q : QIdx) (t : Nat) : Statement (.commandPreempt q t) := fun _ _ m => absurd m List.not_mem_nil
theorem commandTimeout (q : QIdx) (seq : W32) (t : Nat) : Statement (.commandTimeout q seq t) := fun _ _ m => absurd m List.not_mem_nil
theorem commandCompletion (q : QIdx) (t : Nat) : Statement (.commandCompletion q t) := fun _ _ m => absurd m List.not_mem_nil
theorem remoteWriteArrival (w : RemoteWrite) : Statement (.remoteWriteArrival w) := by
  intro h
  exact one (lt_of_frameBytes h)
theorem remoteReadRequest (rd : RemoteRead) : Statement (.remoteReadRequest rd) := by
  intro h
  exact one (lt_of_frameBytes h)
theorem remoteReadResponse (i : Issuer) (addr : Nat) (x : Answer) (data : List Byte) (t : Nat) : Statement (.remoteReadResponse i addr x data t) := by
  intro h
  simp only [Instr.wellFormed, Bool.and_eq_true, decide_eq_true_eq] at h; exact one (h.1)
theorem remoteWriteAck (i : Issuer) (addr : Nat) (x : Answer) (t : Nat) : Statement (.remoteWriteAck i addr x t) := by
  intro h
  simp only [Instr.wellFormed, decide_eq_true_eq] at h; exact one (h)
theorem knotWriteArrival (p : KnotPiece) : Statement (.knotWriteArrival p) := by
  intro h
  exact one (lt_of_frameBytes h)
theorem knotEndMark (m : EndMark) : Statement (.knotEndMark m) := fun _ _ m => absurd m List.not_mem_nil
theorem knotCtlFlush (r : Requester) (hub : Hub) : Statement (.knotCtlFlush r hub) := fun _ _ m => absurd m List.not_mem_nil
theorem combineNotice (hub : Hub) (group span : Nat) (ok : Bool) : Statement (.combineNotice hub group span ok) := fun _ _ m => absurd m List.not_mem_nil
theorem cbGrpClr (r : Requester) (hub : Hub) : Statement (.cbGrpClr r hub) := fun _ _ m => absurd m List.not_mem_nil
theorem creelFetchIssue (e : Fin 16) (t : Nat) : Statement (.creelFetchIssue e t) := fun _ _ m => absurd m List.not_mem_nil
theorem creelFetchComplete (e : Fin 16) (buf slot : Nat) (t : Nat) : Statement (.creelFetchComplete e buf slot t) := fun _ _ m => absurd m List.not_mem_nil
theorem creelFetchTimeout (e : Fin 16) (buf slot : Nat) (t : Nat) : Statement (.creelFetchTimeout e buf slot t) := fun _ _ m => absurd m List.not_mem_nil
theorem nvmeCompletion (hub : Hub) (tag : Nat) (status : W16) (data : List Byte) (t : Nat) : Statement (.nvmeCompletion hub tag status data t) := fun _ _ m => absurd m List.not_mem_nil
theorem coreLoad (c : CoreId) (x : CoreAccess) (t : Nat) : Statement (.coreLoad c x t) := by
  intro h
  exact one (lt_of_ok h)
theorem coreStore (c : CoreId) (x : CoreAccess) (data : List Byte) (t : Nat) : Statement (.coreStore c x data t) := by
  intro h
  simp only [Instr.wellFormed, Bool.and_eq_true] at h; exact one (lt_of_ok h.1)
theorem coreStorePerformed (c : CoreId) (i : Nat) : Statement (.coreStorePerformed c i) := fun _ _ m => absurd m List.not_mem_nil
theorem storeError (c : CoreId) (i : Nat) (cls : Answer) : Statement (.storeError c i cls) := fun _ _ m => absurd m List.not_mem_nil
theorem fenceSl (c : CoreId) : Statement (.fenceSl c) := fun _ _ m => absurd m List.not_mem_nil
theorem fenceRemote (c : CoreId) : Statement (.fenceRemote c) := fun _ _ m => absurd m List.not_mem_nil
theorem ldres (c : CoreId) (x : CoreAccess) : Statement (.ldres c x) := by
  intro h
  simp only [Instr.wellFormed, Bool.and_eq_true] at h; exact one (lt_of_ok h.1)
theorem stcond (c : CoreId) (x : CoreAccess) (data : List Byte) : Statement (.stcond c x data) := by
  intro h
  simp only [Instr.wellFormed, Bool.and_eq_true] at h; exact one (lt_of_ok h.1.1)
theorem coreAccessLinkTimeout (c : CoreId) (i : Option Nat) (t : Nat) : Statement (.coreAccessLinkTimeout c i t) := fun _ _ m => absurd m List.not_mem_nil
theorem cmuIssue (c : CoreId) (i : CmuInstr) (oldest : Bool) : Statement (.cmuIssue c i oldest) := by
  intro h
  simp only [Instr.wellFormed, CmuInstr.ok, Bool.and_eq_true, List.all_eq_true] at h
  intro a m
  rcases List.mem_append.1 m with m | m
  · obtain ⟨x, hx, rfl⟩ := List.mem_map.1 m; exact lt_of_ok (h.1 x hx)
  · obtain ⟨x, hx, rfl⟩ := List.mem_map.1 m; exact lt_of_ok (h.2 x hx).1
theorem cmuCommit (c : CoreId) (id : Nat) (t : Nat) : Statement (.cmuCommit c id t) := fun _ _ m => absurd m List.not_mem_nil
theorem cmuSquash (c : CoreId) (id : Nat) : Statement (.cmuSquash c id) := fun _ _ m => absurd m List.not_mem_nil
theorem vectorGather (c : CoreId) (v : VecInstr) (n : Nat) : Statement (.vectorGather c v n) := by
  intro h
  simp only [Instr.wellFormed, List.all_eq_true] at h; intro a m; obtain ⟨x, hx, rfl⟩ := List.mem_map.1 m; exact lt_of_ok (h x hx)
theorem vectorScatter (c : CoreId) (v : VecInstr) (n : Nat) (t : Nat) : Statement (.vectorScatter c v n t) := by
  intro h
  simp only [Instr.wellFormed, List.all_eq_true] at h; intro a m; obtain ⟨x, hx, rfl⟩ := List.mem_map.1 m; exact lt_of_ok (h x hx)
theorem hostMemoryRead (p : Port) (vf : Fin 8) (off len tag t : Nat) : Statement (.hostMemoryRead p vf off len tag t) := fun _ _ m => absurd m List.not_mem_nil
theorem hostMemoryWrite (p : Port) (vf : Fin 8) (off : Nat) (data : List Byte) : Statement (.hostMemoryWrite p vf off data) := fun _ _ m => absurd m List.not_mem_nil
theorem hostAtomicop (p : Port) (vf : Fin 8) (off : Nat) (op : HostAtomic) (size : Nat) (operand compare : W64) (tag : Nat) : Statement (.hostAtomicop p vf off op size operand compare tag) := fun _ _ m => absurd m List.not_mem_nil
theorem hostRequestTimeout (p : Port) (tag : Nat) (t : Nat) : Statement (.hostRequestTimeout p tag t) := fun _ _ m => absurd m List.not_mem_nil
theorem hostConfigRequest (p : Port) (fn : Fin 9) (off : Nat) (w : Option W32) (tag : Nat) : Statement (.hostConfigRequest p fn off w tag) := fun _ _ m => absurd m List.not_mem_nil
theorem functionLevelReset (p : Port) (k : FlrKind) (t : Nat) : Statement (.functionLevelReset p k t) := fun _ _ m => absurd m List.not_mem_nil
theorem cxlMemRequest (p : Port) (rq : CxlReq) (tag : Nat) : Statement (.cxlMemRequest p rq tag) := fun _ _ m => absurd m List.not_mem_nil
theorem cxlH2dSnoop (p : Port) (hpa : Nat) : Statement (.cxlH2dSnoop p hpa) := fun _ _ m => absurd m List.not_mem_nil
theorem cxlBisnpResponse (p : Port) (line : Nat) : Statement (.cxlBisnpResponse p line) := fun _ _ m => absurd m List.not_mem_nil
theorem bootStatusRead : Statement (.bootStatusRead) := fun _ _ m => absurd m List.not_mem_nil
theorem pldmBaseDiscovery (req : List Byte) : Statement (.pldmBaseDiscovery req) := fun _ _ m => absurd m List.not_mem_nil
theorem pldmSensorRead (sensor : SensorId) (reading : W32) : Statement (.pldmSensorRead sensor reading) := fun _ _ m => absurd m List.not_mem_nil
theorem pldmFirmwareUpdate (image : List Byte) : Statement (.pldmFirmwareUpdate image) := fun _ _ m => absurd m List.not_mem_nil
theorem dumpInfo : Statement (.dumpInfo) := fun _ _ m => absurd m List.not_mem_nil
theorem dumpRead (off len : Nat) : Statement (.dumpRead off len) := fun _ _ m => absurd m List.not_mem_nil
theorem dumpRelease : Statement (.dumpRelease) := fun _ _ m => absurd m List.not_mem_nil
theorem dumpRel (r : Requester) : Statement (.dumpRel r) := fun _ _ m => absurd m List.not_mem_nil
theorem jtagInstruction (i : JtagInstr) : Statement (.jtagInstruction i) := fun _ _ m => absurd m List.not_mem_nil
theorem ssdLinkDrop (hub : Hub) (ssd : Fin 8) (t : Nat) : Statement (.ssdLinkDrop hub ssd t) := fun _ _ m => absurd m List.not_mem_nil
theorem storagePortEnable (r : Requester) (hub : Hub) (v : Bool) (found : List NsFound) : Statement (.storagePortEnable r hub v found) := fun _ _ m => absurd m List.not_mem_nil
theorem cacheEnable (r : Requester) (c : CacheId) : Statement (.cacheEnable r c) := fun _ _ m => absurd m List.not_mem_nil
theorem cacheDisable (r : Requester) (c : CacheId) : Statement (.cacheDisable r c) := fun _ _ m => absurd m List.not_mem_nil
theorem cacheDrainDone (c : CacheId) : Statement (.cacheDrainDone c) := fun _ _ m => absurd m List.not_mem_nil
theorem cacheMaintWb (r : Requester) (c : CacheId) : Statement (.cacheMaintWb r c) := fun _ _ m => absurd m List.not_mem_nil
theorem cacheMaintInv (r : Requester) (c : CacheId) : Statement (.cacheMaintInv r c) := fun _ _ m => absurd m List.not_mem_nil
theorem cacheMaintWbinv (r : Requester) (c : CacheId) : Statement (.cacheMaintWbinv r c) := fun _ _ m => absurd m List.not_mem_nil
theorem cacheMaintDone (c : CacheId) : Statement (.cacheMaintDone c) := fun _ _ m => absurd m List.not_mem_nil
theorem cacheCarve (r : Requester) (c : CacheId) (units : Fin 16) : Statement (.cacheCarve r c units) := fun _ _ m => absurd m List.not_mem_nil
theorem carveDone (c : CacheId) : Statement (.carveDone c) := fun _ _ m => absurd m List.not_mem_nil
theorem cachePreload (r : Requester) (c : CacheId) (ways : BitVec 24) : Statement (.cachePreload r c ways) := fun _ _ m => absurd m List.not_mem_nil
theorem preloadDone (c : CacheId) : Statement (.preloadDone c) := fun _ _ m => absurd m List.not_mem_nil
theorem gcEnable (r : Requester) (e : EngineId) (inv : Bool) : Statement (.gcEnable r e inv) := fun _ _ m => absurd m List.not_mem_nil
theorem gcDisable (r : Requester) (e : EngineId) : Statement (.gcDisable r e) := fun _ _ m => absurd m List.not_mem_nil
theorem gcInv (r : Requester) (e : EngineId) : Statement (.gcInv r e) := fun _ _ m => absurd m List.not_mem_nil
theorem scrZero (r : Requester) (n : Tensor) : Statement (.scrZero r n) := fun _ _ m => absurd m List.not_mem_nil
theorem scrZeroDone (n : Tensor) : Statement (.scrZeroDone n) := fun _ _ m => absurd m List.not_mem_nil
theorem gddrTransferRetry (hub : Hub) (off : Nat) (wr : Bool) : Statement (.gddrTransferRetry hub off wr) := fun _ _ m => absurd m List.not_mem_nil
theorem hankRelease (r : Requester) (hub : Hub) (t : Nat) : Statement (.hankRelease r hub t) := fun _ _ m => absurd m List.not_mem_nil
theorem hankDrainTimeout (hub : Hub) (t : Nat) : Statement (.hankDrainTimeout hub t) := fun _ _ m => absurd m List.not_mem_nil
theorem hankZeroingDone (hub : Hub) : Statement (.hankZeroingDone hub) := fun _ _ m => absurd m List.not_mem_nil
theorem hankAssign (r : Requester) (hub : Hub) (part : Fin 16) : Statement (.hankAssign r hub part) := fun _ _ m => absurd m List.not_mem_nil
theorem partRst (r : Requester) (hub : Hub) (part : Fin 16) (t : Nat) : Statement (.partRst r hub part t) := fun _ _ m => absurd m List.not_mem_nil
theorem partitionError (d : DieId) (page : Nat) (code : Fin 4) : Statement (.partitionError d page code) := fun _ _ m => absurd m List.not_mem_nil
theorem pwrWarnAssert (t : Nat) : Statement (.pwrWarnAssert t) := fun _ _ m => absurd m List.not_mem_nil
theorem admissionStop (t : Nat) : Statement (.admissionStop t) := fun _ _ m => absurd m List.not_mem_nil
theorem doffDeadline (t : Nat) : Statement (.doffDeadline t) := fun _ _ m => absurd m List.not_mem_nil
theorem ledgerCommit (hub : Hub) (t : Nat) : Statement (.ledgerCommit hub t) := fun _ _ m => absurd m List.not_mem_nil
theorem pwrWarnClear (t : Nat) : Statement (.pwrWarnClear t) := fun _ _ m => absurd m List.not_mem_nil
theorem ledViewRel (r : Requester) (hub : Hub) : Statement (.ledViewRel r hub) := fun _ _ m => absurd m List.not_mem_nil
theorem powerGoodLoss : Statement (.powerGoodLoss) := fun _ _ m => absurd m List.not_mem_nil
theorem refclkLoss : Statement (.refclkLoss) := fun _ _ m => absurd m List.not_mem_nil
theorem pkgResetPin (width : Nat) : Statement (.pkgResetPin width) := fun _ _ m => absurd m List.not_mem_nil
theorem frameResetPin (width : Nat) : Statement (.frameResetPin width) := fun _ _ m => absurd m List.not_mem_nil
theorem softPkgReset (r : Requester) : Statement (.softPkgReset r) := fun _ _ m => absurd m List.not_mem_nil
theorem resetDeassert (frame : Bool) (posId : BitVec 3) (memtype : Bool) : Statement (.resetDeassert frame posId memtype) := fun _ _ m => absurd m List.not_mem_nil
theorem startSequenceBegin (t : Nat) : Statement (.startSequenceBegin t) := fun _ _ m => absurd m List.not_mem_nil
theorem startStepDone (hub : Hub) (f : StepFindings) (t : Nat) : Statement (.startStepDone hub f t) := fun _ _ m => absurd m List.not_mem_nil
theorem startStepFail (reason : Fin 12) (die : DieId) (detail : BitVec 12) (t : Nat) : Statement (.startStepFail reason die detail t) := fun _ _ m => absurd m List.not_mem_nil
theorem startStepTimeout (t : Nat) : Statement (.startStepTimeout t) := fun _ _ m => absurd m List.not_mem_nil
theorem retryBackoffExpiry (t : Nat) : Statement (.retryBackoffExpiry t) := fun _ _ m => absurd m List.not_mem_nil
theorem setReady (r : Requester) : Statement (.setReady r) := fun _ _ m => absurd m List.not_mem_nil
theorem fwFail (r : Requester) (t : Nat) : Statement (.fwFail r t) := fun _ _ m => absurd m List.not_mem_nil
theorem engRst (r : Requester) (n : Tensor) (bits : BitVec 8) : Statement (.engRst r n bits) := fun _ _ m => absurd m List.not_mem_nil
theorem hubEngRst (r : Requester) (hub : Hub) (cb cph : Bool) : Statement (.hubEngRst r hub cb cph) := fun _ _ m => absurd m List.not_mem_nil
theorem frameLinkTrainAttempt (hub : Hub) (j : FPort) (t : Nat) : Statement (.frameLinkTrainAttempt hub j t) := fun _ _ m => absurd m List.not_mem_nil
theorem frameLinkTrained (hub : Hub) (j : FPort) (farPos : Pos) (failed : BitVec 9) (farReady : Bool) (farCycle : BitVec 48) : Statement (.frameLinkTrained hub j farPos failed farReady farCycle) := fun _ _ m => absurd m List.not_mem_nil
theorem frameLinkLost (hub : Hub) (j : FPort) (t : Nat) : Statement (.frameLinkLost hub j t) := fun _ _ m => absurd m List.not_mem_nil
theorem linkTransferError (l : LinkId) (t : Nat) : Statement (.linkTransferError l t) := fun _ _ m => absurd m List.not_mem_nil
theorem replayExhausted (l : LinkId) (t : Nat) : Statement (.replayExhausted l t) := fun _ _ m => absurd m List.not_mem_nil
theorem linkRetrainDone (l : LinkId) (ok : Bool) (failed : BitVec 9) (t : Nat) : Statement (.linkRetrainDone l ok failed t) := fun _ _ m => absurd m List.not_mem_nil
theorem fatalError (code : Fin 9) (d : DieId) (page : Nat) (t : Nat) : Statement (.fatalError code d page t) := fun _ _ m => absurd m List.not_mem_nil
theorem watchdogExpiry (t : Nat) : Statement (.watchdogExpiry t) := fun _ _ m => absurd m List.not_mem_nil
theorem watchdogKick (r : Requester) (t : Nat) : Statement (.watchdogKick r t) := fun _ _ m => absurd m List.not_mem_nil
theorem watchdogArm (r : Requester) (t : Nat) : Statement (.watchdogArm r t) := fun _ _ m => absurd m List.not_mem_nil
theorem mgtFatalDeclare (r : Requester) (t : Nat) : Statement (.mgtFatalDeclare r t) := fun _ _ m => absurd m List.not_mem_nil
theorem errLogAck (r : Requester) (d : DieId) : Statement (.errLogAck r d) := fun _ _ m => absurd m List.not_mem_nil
theorem errCountRead (r : Requester) (d : DieId) (page : Nat) : Statement (.errCountRead r d page) := fun _ _ m => absurd m List.not_mem_nil
theorem cntClear (r : Requester) (d : DieId) (page : Nat) : Statement (.cntClear r d page) := fun _ _ m => absurd m List.not_mem_nil
theorem intForce (r : Requester) (d : DieId) (page : Nat) (v : W32) : Statement (.intForce r d page v) := fun _ _ m => absurd m List.not_mem_nil
theorem xltInvalidate (r : Requester) (hub : Hub) (ctx : Fin 64) (all : Bool) : Statement (.xltInvalidate r hub ctx all) := fun _ _ m => absurd m List.not_mem_nil
theorem xltInvalidateDone (hub : Hub) : Statement (.xltInvalidateDone hub) := fun _ _ m => absurd m List.not_mem_nil
theorem xltContextEnable (r : Requester) (hub : Hub) (root : BitVec 40) : Statement (.xltContextEnable r hub root) := fun _ _ m => absurd m List.not_mem_nil
theorem xltContextDisable (r : Requester) (hub : Hub) : Statement (.xltContextDisable r hub) := fun _ _ m => absurd m List.not_mem_nil
theorem xltDisableDone (hub : Hub) (ctx : Fin 48) : Statement (.xltDisableDone hub ctx) := fun _ _ m => absurd m List.not_mem_nil
theorem registerWrite (r : Requester) (off : Nat) (size : Nat) (v : W64) (t : Nat) : Statement (.registerWrite r off size v t) := by
  intro h
  simp only [Instr.wellFormed, Bool.and_eq_true, decide_eq_true_eq] at h; exact one (by unfold frameSize; omega)
theorem powerGood (posId : BitVec 3) (memtype : Bool) (t : Nat) : Statement (.powerGood posId memtype t) := fun _ _ m => absurd m List.not_mem_nil
theorem hostLinkUp (p : Port) (speed : Fin 7) (width : Fin 17) (cxl : Fin 4) : Statement (.hostLinkUp p speed width cxl) := fun _ _ m => absurd m List.not_mem_nil
theorem replayEpisodeSuccess (l : LinkId) (attempts : Fin 9) (t : Nat) : Statement (.replayEpisodeSuccess l attempts t) := fun _ _ m => absurd m List.not_mem_nil
theorem lateWriteWindowEnd (q : QIdx) (t : Nat) : Statement (.lateWriteWindowEnd q t) := fun _ _ m => absurd m List.not_mem_nil
theorem journalDrain (hub : Hub) : Statement (.journalDrain hub) := fun _ _ m => absurd m List.not_mem_nil
theorem i3cDynamicAddress (x : BitVec 7) : Statement (.i3cDynamicAddress x) := fun _ _ m => absurd m List.not_mem_nil
theorem unknownCmdMessage (msg : List Byte) : Statement (.unknownCmdMessage msg) := fun _ _ m => absurd m List.not_mem_nil
theorem functionWindowAccess (p : Port) (x : WinAccess) (tag : Nat) : Statement (.functionWindowAccess p x tag) := fun _ _ m => absurd m List.not_mem_nil

end Sys2Proof.Laws.InFrame
end

