-- ==== Sys2Proof/Laws/RegWrite.lean ====
section
/-! SUPPORT. Register writes by Prostoza: no check stops them, and every field of the register takes effect (R471, R639, R665). -/

namespace Sys2Proof.Machine

/-! ## The frame map -/

/-- The region of a block page's register. -/
theorem regionOf_page (s : State) (e : DieId) (i o : Nat) (hi : i < 4096) (ho : o < 4096) :
    regionOf s (pgOff (pgKey e.val i) + o) = .reg e (i * 4096 + o) := by
  have hd : e.val < 12 := e.isLt
  have f : Fin.ofNat 12 e.val = e := Fin.ext (Nat.mod_eq_of_lt hd)
  revert f hd
  generalize hde : e.val = d
  intro hd f
  have e : pgOff (pgKey d i) + o = regBase + d * 0x1000000 + (i * 4096 + o) := by
    simp only [pgOff, pgKey]; omega
  rw [e]
  have h0 : regBase = 0x30000000000 := rfl
  have h1 : (regBase + d * 0x1000000 + (i * 4096 + o) - regBase) / 0x1000000 = d := by omega
  have h2 : (regBase + d * 0x1000000 + (i * 4096 + o) - regBase) % 0x1000000 = i * 4096 + o := by omega
  unfold regionOf
  rw [if_neg (by omega), if_neg (by omega), if_neg (by omega), if_neg (by omega), if_neg (by omega), if_pos (by omega), h1, h2, f]

theorem isReg_page (d : DieId) (i o : Nat) (hi : i < 4096) (ho : o < 4096) : isReg (pgOff (pgKey d.val i) + o) = true := by
  have : regBase ≤ pgOff (pgKey d.val i) + o ∧ pgOff (pgKey d.val i) + o < regBase + 0xC000000 := by
    have := d.isLt; simp only [pgOff, pgKey]; omega
  simp [isReg, this]

/-- An aligned register access of 4 or 8 bytes has the size that R118 asks for. -/
theorem regSizeOk_of (o n : Nat) (h : n = 4 ∧ o % 4 = 0 ∨ n = 8 ∧ o % 8 = 0) : regSizeOk o n = true := by
  rcases h with ⟨rfl, h⟩ | ⟨rfl, h⟩ <;> simp [regSizeOk, h]

theorem offOf_paOf (s : State) (o : Nat) (h : o < window) : offOf (paOf s o) = o := by
  simp only [offOf, paOf, window] at *; omega
theorem posOf_paOf (s : State) (o : Nat) (h : o < window) : posOf (paOf s o) = s.boot.pos.val := by
  simp only [posOf, paOf, window] at *; omega
theorem paOf_lt (s : State) (o : Nat) (h : o < window) : ¬ 8 * window ≤ paOf s o := by
  have := s.boot.pos.isLt; simp only [paOf, window] at *; omega

/-- Prostoza's register accesses pass every check. -/
theorem physCheck_prostoza (s : State) (d : DieId) (i o n : Nat) (hi : i < 4096) (ho : o < 4096)
    (h : n = 4 ∧ o % 4 = 0 ∨ n = 8 ∧ o % 8 = 0) : physCheck s .prostoza (paOf s (pgOff (pgKey d.val i) + o)) n = .ok := by
  have w : pgOff (pgKey d.val i) + o < window := by have := d.isLt; simp only [pgOff, pgKey, window, regBase]; omega
  have a : pgOff (pgKey d.val i) % 8 = 0 := by simp only [pgOff, pgKey, regBase]; omega
  have z : regSizeOk (pgOff (pgKey d.val i) + o) n = true := regSizeOk_of _ _ (by omega)
  have p : posOf (paOf s (pgOff (pgKey d.val i) + o)) = s.boot.pos.val := posOf_paOf s _ w
  have q : offOf (paOf s (pgOff (pgKey d.val i) + o)) = pgOff (pgKey d.val i) + o := offOf_paOf s _ w
  have l : ¬ 8 * window ≤ paOf s (pgOff (pgKey d.val i) + o) := paOf_lt s _ w
  generalize paOf s (pgOff (pgKey d.val i) + o) = pa at p q l
  unfold physCheck
  rw [if_neg l]
  simp only [p, q, if_true, regionOf_page s d i o hi ho, isReg_page d i o hi ho, z, Bool.not_true, Bool.and_false,
    Bool.false_eq_true, if_false, regionHub, fwStopLocal]

/-- The region of a queue's doorbell page (R115). -/
theorem regionOf_bell (s : State) (q : QIdx) (o : Nat) (ho : o < 4096) : regionOf s (bellOff q + o) = .bell q o := by
  have hq : q.val < 1024 := q.isLt
  have f : Fin.ofNat 1024 q.val = q := Fin.ext (Nat.mod_eq_of_lt hq)
  revert f hq
  simp only [bellOff]
  generalize q.val = n
  intro hq f
  have h0 : bellBase = 0x38000000000 := rfl
  have h1 : regBase = 0x30000000000 := rfl
  have h2 : (bellBase + n * 0x1000 + o - bellBase) / 0x1000 = n := by omega
  have h3 : (bellBase + n * 0x1000 + o - bellBase) % 0x1000 = o := by omega
  unfold regionOf
  rw [if_neg (by omega), if_neg (by omega), if_neg (by omega), if_neg (by omega), if_neg (by omega), if_neg (by omega),
    if_pos (by omega), h2, h3, f]

theorem isReg_bell (q : QIdx) (o : Nat) (ho : o < 4096) : isReg (bellOff q + o) = true := by
  have : bellBase ≤ bellOff q + o ∧ bellOff q + o < bellBase + 0x400000 := by
    have := q.isLt; simp only [bellOff]; omega
  simp [isReg, this]

/-- A requester that the doorbell firewall lets in reaches a doorbell page (R480). -/
theorem physCheck_bell (s : State) (r : Requester) (q : QIdx) (o n : Nat) (ho : o < 4096)
    (h : n = 4 ∧ o % 4 = 0 ∨ n = 8 ∧ o % 8 = 0) (ha : bellAllows s r q = true) :
    physCheck s r (paOf s (bellOff q + o)) n = .ok := by
  have w : bellOff q + o < window := by have := q.isLt; simp only [bellOff, window, bellBase]; omega
  have a : bellOff q % 8 = 0 := by simp only [bellOff, bellBase]; omega
  have z : regSizeOk (bellOff q + o) n = true := regSizeOk_of _ _ (by omega)
  have p : posOf (paOf s (bellOff q + o)) = s.boot.pos.val := posOf_paOf s _ w
  have e : offOf (paOf s (bellOff q + o)) = bellOff q + o := offOf_paOf s _ w
  have l : ¬ 8 * window ≤ paOf s (bellOff q + o) := paOf_lt s _ w
  have rf : regionFor s (bellOff q + o) = .bell q o := by simp [regionFor, regionOf_bell s q o ho, inDumpRegion]
  generalize paOf s (bellOff q + o) = pa at p e l
  unfold physCheck
  rw [if_neg l]
  simp only [p, e, if_true, rf, regionOf_bell s q o ho, isReg_bell q o ho, z, Bool.not_true, Bool.and_false, Bool.false_eq_true,
    if_false]
  split <;> simp_all

/-! ## Fields -/

/-- Prostoza may write every kind of field. -/
theorem mayWrite_prostoza (s : State) (h : Hub) : mayWrite s h (.self .prostoza) = fun _ => true := by
  funext w; cases w <;> simp [mayWrite, RegWho.isMgmt, RegWho.isProstoza, isMgmt]

/-- A writer that may write every field is refused none. -/
theorem mergeFields_refused (cur written v : Nat) (l : List Field) : (mergeFields (fun _ => true) cur written v l).2.2 = false := by
  induction l with
  | nil => rfl
  | cons f l ih => cases h : f.act <;> simp [mergeFields, h, ih]

/-- What a write of a block page's register comes to (R639, R665): the fold of `regWrite` over the registers it meets. -/
theorem regWrite_reg (s : State) (who : RegWho) (off o i size v : Nat) (found : List NsFound) (d : DieId) (r : Nat) (h : regionOf s off = .reg d r)
   (e1 : r / 4096 = i) (e2 : r % 4096 = o) (k : PageKind) (hk : pageAt d.val i = k) (b : Nat × Nat) (hb : regsMet (fieldsOf k) o size = [b]) :
    let h := dieHub d.val
    let lo := max o b.1
    let n := min (o + size) (b.1 + b.2) - lo
    let written := (2 ^ (8 * n) - 1) * 2 ^ (8 * (lo - b.1))
    let val := bits v (8 * (lo - o)) (8 * n) * 2 ^ (8 * (lo - b.1))
    let view : RegWho := if 0x100 ≤ b.1 ∧ d.val < 2 ∧ i = ixHub then .self .prostoza else who
    let cur := pageWord s d.val i view b.1 + (if b.2 = 8 then 2 ^ 32 * pageWord s d.val i view (b.1 + 4) else 0)
    let m := mergeFields (mayWrite s h who) cur written val (fieldsOf k b.1)
    let w : Wr := { off := b.1, v := m.1, wm := m.2.1 }
    let t := if b.1 < 0x100 then commonAct s (pgKey d.val i) (who.bank s h) w
      else blockAct s k (who.bank s h) (ledCtx s h who) found w
    regWrite s who off size v found =
      if m.2.2 then
        fwViolation t h fwRwl (match who with | .self x => reqTag s h x | .far t _ => t) (paOf s off)
      else t := by
  cases who <;> simp only [regWrite, h, e1, e2, hk, hb, List.reverse_singleton, ite_self, List.foldl, Bool.false_or]

/-- Prostoza's 4-byte write of a register of at most 32 bits of a block page. -/
theorem pageAccess_prostoza (s : State) (d : DieId) (i o v : Nat) (hi : i < 4096) (ho : o < 4096) (h4 : o % 4 = 0)
    (k : PageKind) (hk : pageAt d.val i = k) (hw : wide (fieldsOf k (o - o % 8)) = false)
    (hm : mustWait s .prostoza false (pgOff (pgKey d.val i) + o) = false) :
    pageAccess s .prostoza (pgKey d.val i) o 4 v =
      (let view : RegWho := .self .prostoza
       let m := mergeFields (fun _ => true) (pageWord s d.val i view o) (2 ^ 32 - 1) (v % 2 ^ 32) (fieldsOf k o)
       let w : Wr := { off := o, v := m.1, wm := m.2.1 }
       if o < 0x100 then commonAct s (pgKey d.val i) 0 w
       else blockAct s k 0 (ledCtx s (dieHub d.val) (.self .prostoza)) [] w) := by
  have hb : regsMet (fieldsOf k) o 4 = [(o, 4)] := by simp [regsMet, hw]
  have e1 : (i * 4096 + o) / 4096 = i := by omega
  have e2 : (i * 4096 + o) % 4096 = o := by omega
  have r := regWrite_reg s (.self .prostoza) (pgOff (pgKey d.val i) + o) o i 4 (v % 2 ^ (8 * 4)) [] d (i * 4096 + o)
    (regionOf_page s d i o hi ho) e1 e2 k hk (o, 4) hb
  simp only [pageAccess, regAccess, isReg_page d i o hi ho, hm, Bool.not_true, Bool.or_false, Bool.false_eq_true, if_false,
    physCheck_prostoza s d i o 4 hi ho (.inl ⟨rfl, h4⟩)]
  rw [r]
  have e : bits (v % 4294967296) 0 32 = v % 4294967296 := by simp [bits]
  simp [mayWrite_prostoza, mergeFields_refused, RegWho.bank, RegWho.isProstoza, e]

/-! ## Doorbell pages -/

/-- Writers of fields that every requester may write are refused none. -/
theorem mergeFields_any (may : Writer → Bool) (hm : may .any = true) (cur written v : Nat) (l : List Field)
    (hl : ∀ f ∈ l, f.who = .any) :
    mergeFields may cur written v l = mergeFields (fun _ => true) cur written v l := by
  induction l with
  | nil => rfl
  | cons f l ih =>
    have e := hl f (by simp)
    have i := ih fun g hg => hl g (List.mem_cons_of_mem _ hg)
    cases h : f.act <;> simp [mergeFields, h, e, hm, i]

theorem bellFields_any (o : Nat) : ∀ f ∈ bellFields o, f.who = .any := by
  unfold bellFields
  intro f
  repeat' split
  all_goals simp [rw, ac]
  all_goals rintro (rfl | rfl | rfl | rfl) <;> rfl

/-- A 4-byte write of a doorbell register of at most 32 bits takes effect for every requester that reaches it (R152, R639). -/
theorem regAccess_bell (s : State) (r : Requester) (q : QIdx) (o v : Nat) (ho : o < 4096) (h4 : o % 4 = 0)
    (hw : wide (bellFields (o - o % 8)) = false) (ha : bellAllows s r q = true) (hm : mustWait s r false (bellOff q + o) = false) :
    regAccess s r (bellOff q + o) 4 v =
      (let m := mergeFields (fun _ => true) (bellReg (s.queue q) o) (2 ^ 32 - 1) (v % 2 ^ 32) (bellFields o)
       bellAct s q { off := o, v := m.1, wm := m.2.1 }) := by
  have hb : regsMet bellFields o 4 = [(o, 4)] := by simp [regsMet, hw]
  have e : bits (v % 4294967296) 0 32 = v % 4294967296 := by simp [bits]
  have p := physCheck_bell s r q o 4 ho (.inl ⟨rfl, h4⟩) ha
  have g := regionOf_bell s q o ho
  have i := isReg_bell q o ho
  generalize bellOff q + o = a at p g i hm
  simp only [regAccess, i, p, hm, Bool.or_false, Bool.not_true, Bool.false_eq_true, if_false, regWrite, g, hb, List.foldl, Bool.false_or]
  simp [mergeFields_any (mayWrite s (qHub q) (.self r)) rfl _ _ _ _ (bellFields_any o), mergeFields_refused, e]

end Sys2Proof.Machine
end

