-- ==== Sys2Proof/Tests/Slice0.lean ====
section
/-! SUPPORT. Tests of one step each, ill-formed commands that the check refuses, and for every statement with premises concrete states
and operands that meet them (the theorems witness_…). -/

open Sys2Proof Sys2Proof.Machine

namespace Sys2Proof.Tests
set_option Elab.async false

/-- One hub die in operation. -/
def hub : HubSt :=
  { part := { hank := .owned, zeroed := false, parts := [(0, { hanks := 3 })] }
    xlt := { ctxs := [(32, { en := true, root := 0x100 })] }, gov := { target := 12000 } }
/-- Page tables that map the first 2 MiB of context 32 onto the first 2 MiB of memory, and the next 2 MiB onto the start of the GDDR range of H0, read and write. -/
def tables : List Host.Cell :=
  [(0x100000, 1), (0x100001, 0x10), (0x100002, 0x10), (0x101000, 1), (0x101001, 0x20), (0x101002, 0x10), (0x102000, 0x0F), (0x102008, 0x0F), (0x10200D, 1)]
/-- A package in operation with the queues qs and the bytes m, below the page tables, in memory. -/
def pkg (qs : SMap Queue) (m : List Host.Cell) : State :=
  { boot := { power := true, step := 7, ready := true, feat := 3, mctp := true }
    hub0 := { hub with ltu := { active := true, st := .locked } }, hub1 := { hub with ltu := { st := .locked } }
    queues := qs, online := [(2, true), (3, true)], mem := m ++ tables }
/-- A running queue with the commands cs, of which all are admitted. -/
def que (cs : List Cmd) : Queue :=
  { ctx := 32, bound := true, ringBase := 0x8000, cmplBase := 0x9000, dx2 := true, policy := .skip, enable := true, st := .running
    prod := BitVec.ofNat 32 cs.length, cons := BitVec.ofNat 32 cs.length, cmds := cs }
/-- A running command at its first boundary. -/
def cmd (op : Nat) (w : List W64) : Cmd :=
  { entry := BitVec.ofNat 8 op :: List.replicate 63 0, dx2 := true, phase := .running, startT := some 5, body := some w, readyT := some 5 }
def holds (o : Host.Outcome State Fault Refusal) (p : State → Bool) : Bool := match o with | .next t => p t | _ => false
def sameMem (s t : State) : Bool := t.mem == s.mem && t.caches == s.caches && t.poison == s.poison
def sameWork (s t : State) : Bool := t.queues == s.queues && t.cores == s.cores && t.creels == s.creels && t.gcs == s.gcs
def sameStart (s t : State) : Bool := t.boot == s.boot && t.pins == s.pins && t.doff == s.doff && t.mgt == s.mgt
def quiet (s t : State) : Bool := sameMem s t && sameWork s t && sameStart s t
def isNext (o : Host.Outcome State Fault Refusal) (t : State) : Bool := holds o fun u => u == t

/-! ## How a witness shows that it meets the premises of a statement -/

/-- The maps of the whole package that have to be in canonical form. -/
def canonMaps (s : State) : List Bool :=
  [Memory.wf s.mem, mwf false s.poison, mwf {} s.queues, s.queues.all fun e => decide (e.1 < 1024), mwf {} s.cores, mwf {} s.caches,
   mwf {} s.gcs, mwf {} s.creels, mwf {} s.scrubs, mwf {} s.dlks, mwf {} s.hlks, mwf {} s.errs, mwf 0 s.qrst, mwf 0 s.qrstRun, mwf 0 s.qsel,
   mwf 0 s.c0End, mwf {} s.arbs, mwf (0, 0) s.lastAt, mwf 0 s.upsets, mwf false s.online, mwf false s.scrZero, mwf (0, 0, 0) s.gddrTry,
   mwf false s.stopped, mwf false s.engRst, mwf false s.engRef]
/-- Those of one hub die. -/
def hubMaps (h : HubSt) : List Bool := [mwf {} h.grps, mwf {} h.flk.ports, mwf {} h.cbGrps, mwf {} h.flk.knot.seqs]
def canonB (s : State) : Bool := (canonMaps s ++ hubMaps s.hub0 ++ hubMaps s.hub1).all id
theorem canonical_of {s : State} (h : canonB s = true) (hb : s.blks = []) : Canonical s := by
  have all (b : Bool) (m : b ∈ canonMaps s ++ hubMaps s.hub0 ++ hubMaps s.hub1) : b = true := List.all_eq_true.1 h b m
  have on (b : Bool) (m : b ∈ canonMaps s) : b = true := all b (by simp only [List.mem_append, m, true_or])
  have hub (k : Hub) (b : Bool) (m : b ∈ hubMaps (s.hub k)) : b = true := all b (by
    have two : s.hub k = s.hub0 ∨ s.hub k = s.hub1 := by unfold State.hub; split <;> simp
    rcases two with e | e <;> rw [e] at m <;> simp only [List.mem_append, m, true_or, or_true])
  constructor
  case keys => simpa using on _ (.tail _ (.tail _ (.tail _ (.head _))))
  case blks => rw [hb]; rfl
  case cnt => intro p; simp only [State.blk, hb]; rfl
  case grps | ports | cbGrps | seqs => exact fun k => hub k _ (by simp [hubMaps])
  all_goals exact on _ (by simp [canonMaps])
theorem works_of {s : State} (h : s.alive = true) : Works s := h
theorem noLines {s : State} (h : s.caches = []) (i : Nat) : (s.cache i).lines = [] := by simp only [State.cache, h]; rfl
theorem cachesOk_of {s : State} (hm : Memory.wf s.mem = true) (h : s.caches = []) : CachesOk s :=
  ⟨hm, by rw [h]; rfl, fun i _ l hl => absurd (noLines h i ▸ hl) List.not_mem_nil, fun i _ => by rw [noLines h]; exact List.Pairwise.nil⟩
theorem noPoison_of {s : State} (hp : s.poison = []) (h : s.caches = []) (hu : s.upsets = [] := by rfl) : NoPoison s :=
  ⟨hp, fun i _ _ hl => absurd (noLines h i ▸ hl) List.not_mem_nil, hu⟩
theorem heldCurrent_of {s : State} {h : Hub} {ctx : Nat} (e : (s.hub h).xlt.held = []) : HeldCurrent s h ctx := by
  intro va rd wr; simp [oldAnswers, e]
/-- What holds of an untouched queue and of every listed one holds of every queue. -/
theorem listed_queue {s : State} (P : Queue → Prop) (h0 : P {}) (h : ∀ e ∈ s.queues, P e.2) (q : QIdx) : P (s.queue q) := by
  have key : ∀ m : SMap Queue, (∀ e ∈ m, P e.2) → ∀ k, P (mget {} m k) := by
    intro m
    induction m with
    | nil => intro _ _; exact h0
    | cons e m ih =>
      intro hm k
      simp only [mget]
      split
      · exact hm e List.mem_cons_self
      · exact ih (fun x hx => hm x (List.mem_cons_of_mem _ hx)) k
  exact key _ h _

/-! ## Well-formed commands -/

namespace Commands
def refused (l : List Instr) : Bool := l.all fun i => !i.wellFormed
/-- n bytes, of which the first is the last four bytes of the frame's first. -/
def edge (n : Nat) : CoreAccess := { addr := frameSize - 4, size := n, attr := 0, dest := 0 }
theorem test_wellFormed_edge : ([.coreLoad 0 (edge 4) 0, .coreStore 0 (edge 4) [1, 2, 3, 4] 0, .ldres 0 (edge 4), .stcond 0 (edge 4) [1, 2, 3, 4]] : List Instr).all (·.wellFormed) = true := by decide +kernel
theorem test_illFormed_access : refused [.coreLoad 0 (edge 0) 0, .coreLoad 0 (edge 5) 0, .coreLoad 0 { edge 65 with addr := 0 } 0, .coreStore 0 (edge 5) [1, 2, 3, 4, 5] 0, .coreStore 0 (edge 4) [1] 0, .ldres 0 (edge 5), .ldres 0 (edge 1),
    .stcond 0 (edge 8) [1, 2, 3, 4, 5, 6, 7, 8], .stcond 0 (edge 2) [1, 2], .stcond 0 (edge 4) [1], .storeError 0 0 .ok] = true := by decide +kernel
theorem test_illFormed_units : refused [.cmuIssue 0 { id := 1, loads := [edge 5], stores := [], regs := [], flags := 0 } true, .cmuIssue 0 { id := 1, loads := [], stores := [(edge 5, [1, 2, 3, 4, 5])], regs := [], flags := 0 } true,
    .cmuIssue 0 { id := 1, loads := [], stores := [(edge 4, [1])], regs := [], flags := 0 } true, .vectorGather 0 { vreg := 1, elems := [edge 4, edge 5] } 0, .vectorScatter 0 { vreg := 1, elems := [edge 0] } 0 0] = true := by decide +kernel
theorem test_illFormed_frame : refused [.remoteWriteArrival { src := 1, part := none, cls := 0, addr := frameSize, data := [1], issuer := .core 0 0 }, .remoteWriteArrival { src := 1, part := none, cls := 0, addr := 0, data := [], issuer := .core 0 0 },
    .remoteReadRequest { src := 1, part := none, cls := 0, addr := frameSize - 1, len := 2, issuer := .core 0 0 }, .remoteReadResponse (.core 0 0) frameSize .ok [1] 0, .remoteReadResponse (.core 0 0) 0 .ok [] 0, .remoteWriteAck (.core 0 0) frameSize .ok 0,
    .knotWriteArrival { src := 1, hub := 0, knotId := 0, knotSeq := 0, part := none, addr := frameSize, data := [1], issuer := .core 0 0 },
    .knotEndMark { src := 1, hub := 0, knotId := 0, knotSeq := 0, part := none, pieces := 1, ok := true, notice := some (256, 0) }, .combineNotice 0 256 0 true, .combineNotice 0 0 256 true] = true := by decide +kernel
theorem test_illFormed_devices : refused [.creelFetchComplete 0 16 0 0, .creelFetchTimeout 0 0 256 0, .nvmeCompletion 0 1 4 [1] 0, .hostMemoryRead 0 0 0 0 1 0, .hostMemoryWrite 0 0 0 [], .hostConfigRequest 0 0 4096 none 1, .hostConfigRequest 0 0 2 none 1,
    .cxlMemRequest 0 (.read 0 0) 1, .cxlMemRequest 0 (.write 0 []) 1, .cxlBisnpResponse 0 (packageWindow / 64), .storagePortEnable .prostoza 0 true [{ ssd := 0, nsid := 1, block := 4097 }], .gddrTransferRetry 0 gddrMost true, .hostLinkUp 0 0 16 0,
    .hostLinkUp 0 5 16 1, .functionWindowAccess 0 (.pf0Read 0 0) 1, .functionWindowAccess 0 (.pf0Write 0 []) 1, .functionWindowAccess 0 (.vfRead 0 0 0) 1, .functionWindowAccess 0 (.vfWrite 0 0 []) 1] = true := by decide +kernel
theorem test_illFormed_management : refused [.partitionError 4 4096 1, .partitionError 4 0 0, .startStepDone 0 { offers := [(0, 4)], gddr7 := true, gddrRate := 28, slotA := [], slotB := [] } 0, .startStepDone 0 { offers := [], gddr7 := true, gddrRate := 27, slotA := [], slotB := [] } 0, .startStepDone 0 { offers := [], gddr7 := false, gddrRate := 17, slotA := [], slotB := [] } 0, .startStepFail 0 4 0 0, .linkTransferError (.dlk 4 4) 0,
    .replayExhausted (.dlk 4 0) 0, .linkRetrainDone (.dlk 1 0) true 0 0, .replayEpisodeSuccess (.dlk 0 4) 0 0, .replayEpisodeSuccess (.dlk 4 0) 1 0, .fatalError 0 4 0 0, .fatalError 1 4 4096 0, .errCountRead .prostoza 4 4096, .cntClear .prostoza 4 4096,
    .intForce .prostoza 4 4096 0, .registerWrite .prostoza packageWindow 4 0 0, .registerWrite .prostoza 0 5 0 0] = true := by decide +kernel
end Commands

/-! ## The step, and line time -/

namespace LineTime
def s1 : State := pkg [] []
/-- with one line of the stack cache of T0, whose first sector is dirty -/
def sCache : State := { s1 with mem := (0x20, 7) :: tables, caches := [(0, { st := .enabled, clean := false, lines := [{ num := 0, way := 0, valid := 3, dirty := 1, poison := 0, prio := 1, stamp := 0, data := [(3, 9), (0x20, 7)] }] })] }
theorem s1_canonical : Canonical s1 := by constructor <;> first | decide +kernel | exact fun _ => rfl
theorem sCache_ok : CachesOk sCache := by
  refine ⟨by decide +kernel, by decide +kernel, ?_, by decide +kernel⟩
  intro i hi l hl
  by_cases h : i = 0
  · subst h
    obtain rfl : l = { num := 0, way := 0, valid := 3, dirty := 1, poison := 0, prio := 1, stamp := 0, data := [(3, 9), (0x20, 7)] } := by
      simpa [sCache, State.cache, mget] using hl
    exact ⟨by decide +kernel, by decide +kernel, by decide +kernel⟩
  · have : (sCache.cache i).lines = [] := by have : (0 : Nat) ≠ i := fun e => h e.symm; simp [sCache, State.cache, mget, this]
    rw [this] at hl; cases hl
theorem test_step_front : core.step { s1 with pending := [.ltAdvance 3, .ltAdvance 4] } = exec (.ltAdvance 3) { s1 with pending := [.ltAdvance 4] } := rfl
def upd (s : State) (f : Ltu → Ltu) : State := { s with hub0 := { s.hub0 with ltu := f s.hub0.ltu } }
def upd1 (s : State) (f : Ltu → Ltu) : State := { s with hub1 := { s.hub1 with ltu := f s.hub1.ltu } }
theorem test_lt_wraps : holds (exec (.ltAdvance 31) (upd s1 fun l => { l with phase := 0xFFFF, cycle := 4 })) (fun t => t.hub0.ltu.phase == 0 && t.hub0.ltu.cycle == 5 && t.due == dueNow t && quiet s1 t && t.hub1.ltu.phase == 1) = true := by decide +kernel
theorem test_lt_not_due : (isNext (exec (.ltAdvance 30) s1) (s1.toTime 30) && isNext (exec (.ltAdvance 99) (upd s1 fun l => { l with st := .wait })) ((upd s1 fun l => { l with st := .wait }).toTime 99)) = true := by decide +kernel
def sTick : State := upd s1 fun l => { l with phase := 0xFF00, lastCand := some 0, lastAcc := some 0, recent := [1999990, 1999960] }
theorem tick_accepted : lockedAccepts (sTick.ltuOf 0) 2000000 := by unfold lockedAccepts; decide +kernel
theorem test_tick_locked : holds (exec (.lineTickQualify 2000000) sTick) (fun t => t.hub0.ltu.lastAcc == some 2000000 && t.hub0.ltu.period == 2000000 && t.hub0.ltu.holdoff == 8192 && t.hub0.ltu.phaseErr == edgePhase sTick.hub0.ltu 2000000 && t.hub0.ltu.base == 2000000 && t.hub0.ltu.st == .locked && t.hub0.ltu.phase == 0xFF00 && t.cnt (ltuPage 0) 0x080 == 1 && quiet s1 t) = true := by decide +kernel
theorem tick_rejected : ¬ lockedAccepts (sTick.ltuOf 0) 1000000 := by unfold lockedAccepts; decide +kernel
theorem test_tick_rejected : holds (exec (.lineTickQualify 1000000) sTick) (fun t => t.hub0.ltu == { sTick.hub0.ltu with lastCand := some 1000000 } && (t.blk (ltuPage 0)).intStat.getLsbD 3 && t.cnt (ltuPage 0) 0x088 == 1 && quiet s1 t) = true := by decide +kernel
theorem test_lockLoss : holds (exec (.lockLossFreeRun 0 4000001) sTick) (fun t => t.hub0.ltu == { sTick.hub0.ltu with st := .freeRun, base := nomCycle sTick.hub0.ltu, corr := 0, ivals := [] } && (t.blk (ltuPage 0)).intStat.getLsbD 0 && t.cnt (ltuPage 0) 0x090 == 1 && quiet s1 t) = true := by decide +kernel
theorem test_lockLoss_early : isNext (exec (.lockLossFreeRun 0 3999999) sTick) (sTick.toTime 3999999) = true := by decide +kernel
def sWait := upd s1 fun l => { l with st := .wait, since := 100 }
theorem test_waitNoTick : holds (exec (.waitNoTickFreeRun 0 4000100) sWait) (fun t => t.hub0.ltu.st == .freeRun && t.hub0.ltu.phase == 0 && t.hub0.ltu.base == nomCycle sWait.hub0.ltu && t.hub0.ltu.cycle == 0 && (t.blk (ltuPage 0)).intStat.getLsbD 0 && t.cnt (ltuPage 0) 0x090 == 1 && quiet s1 t) = true := by decide +kernel
theorem test_waitNoTick_early : isNext (exec (.waitNoTickFreeRun 0 4000099) sWait) (sWait.toTime 4000099) = true := by decide +kernel
def msg : LtuCopy := { phase := 0xFFF0, cycle := 9, st := .slewing, base := 1999000, corr := 500 }
def sCopy := upd s1 fun l => { l with phase := 3, cycle := 10, copies := [msg] }
theorem test_copyMessage : (holds (exec (.ltuCopyMessage 19) sCopy) (fun t => t.hub1.ltu.phase == 3 && t.hub1.ltu.cycle == 10 && t.hub1.ltu.st == .slewing && t.hub1.ltu.base == 1999000 && t.hub1.ltu.corr == 481 && t.hub0.ltu.copies == [] && quiet s1 t) && isNext (exec (.ltuCopyMessage 18) sCopy) sCopy) = true := by decide +kernel
def sSil := upd1 s1 fun l => { l with silence := 64 }
theorem test_copySilence : holds (exec .ltuCopySilenceTimeout sSil) (fun t => t.hub1.ltu.active && !t.hub0.ltu.active && t.hub1.ltu.silence == 0 && quiet s1 t) = true := by decide +kernel
theorem test_copySilence_early : isNext (exec .ltuCopySilenceTimeout (upd1 s1 fun l => { l with silence := 63 })) (upd1 s1 fun l => { l with silence := 63 }) = true := by decide +kernel
theorem test_internalError : holds (exec (.ltuInternalError 0) s1) (fun t => t.hub1.ltu.active && !t.hub0.ltu.active && t.hub0.ltu.failed && quiet s1 t) = true := by decide +kernel
theorem test_internalError_standby : holds (exec (.ltuInternalError 1) s1) (fun t => t.hub1.ltu.failed && t.hub0 == s1.hub0) = true := by decide +kernel
theorem test_dcMode : holds (exec (.dcModeWrite .prostoza 0 true) sTick) (fun t => t.hub0.ltu.dcMode && t.hub0.ltu.st == .freeRun && t.hub0.ltu.phase == 0xFF00 && quiet s1 t) = true := by decide +kernel
theorem test_dcMode_clear : holds (exec (.dcModeWrite .prostoza 0 false) sTick) (fun t => t.hub0.ltu == { sTick.hub0.ltu with dcMode := false, lastCand := none } && quiet s1 t) = true := by decide +kernel
theorem witness_StepPerformsFrontCommand : ({ s1 with pending := [.ltAdvance 3, .ltAdvance 4] } : State).pending = .ltAdvance 3 :: [.ltAdvance 4] ∧ s1.pending = [] := ⟨rfl, rfl⟩
theorem witness_StepKeepsMemoryCanonical : Memory.wf sCache.mem = true ∧ ∃ t, core.step sCache = .next t := ⟨by decide +kernel, _, rfl⟩
theorem witness_CachedWriteChangesExactlyItsBytes : CachesOk sCache ∧ [1, 2, 3, 4] ≠ ([] : List Byte) ∧ 60 % 64 + [1, 2, 3, (4 : Byte)].length ≤ 64 := ⟨sCache_ok, by decide, by decide⟩
theorem witness_CachedReadAnswersMemory : CachesOk sCache ∧ 0 < 64 ∧ 64 % 64 + 64 ≤ 64 := ⟨sCache_ok, by decide, by decide⟩
theorem witness_LtAdvancesPhaseAndCycle : Works s1 ∧ s1.due = [] ∧ ltDue (s1.toTime 31) = true ∧ ltDue (s1.toTime 30) = false ∧ Works sWait ∧ sWait.due = [] ∧ ltDue (sWait.toTime 99) = false :=
  ⟨works_of (by decide +kernel), rfl, by decide +kernel, by decide +kernel, works_of (by decide +kernel), rfl, by decide +kernel⟩
theorem sTick_canonical : Canonical sTick := canonical_of (by decide +kernel) rfl
/-- accepted at the latest phase before the expected tick and at the shortest interval; rejected 10 ns earlier -/
theorem witness_CandidateTicks_locked : Works sTick ∧ Canonical sTick ∧ (sTick.ltuOf 0).st = .locked ∧ (sTick.ltuOf 0).dcMode = false ∧ (sTick.ltuOf (1 - 0)).st ≠ .wait ∧ (sTick.ltuOf 0).failed = false ∧
    (sTick.ltuOf 0).lastCand = some 0 ∧ lockedAccepts (sTick.ltuOf 0) 1515150 ∧ ¬ lockedAccepts (sTick.ltuOf 0) 1515149 :=
  ⟨works_of (by decide +kernel), sTick_canonical, by decide +kernel, by decide +kernel, by decide +kernel, by decide +kernel, by decide +kernel,
    by unfold lockedAccepts; decide +kernel, by unfold lockedAccepts; decide +kernel⟩
def sQual : State := upd s1 fun l => { l with st := .qualify, lastCand := some 0, ivals := [2000000] }
theorem witness_CandidateTicks_qualify : Works sQual ∧ Canonical sQual ∧ (sQual.ltuOf 0).dcMode = false ∧ (sQual.ltuOf 0).failed = false ∧
    (sQual.ltuOf (1 - 0)).st ≠ .wait ∧ (sQual.ltuOf 0).lastCand = some 0 ∧ (sQual.ltuOf 0).st ≠ .locked ∧ ivalOk (2222221 - 0) = false ∧ ivalOk (2222220 - 0) = true :=
  ⟨works_of (by decide +kernel), canonical_of (by decide +kernel) rfl, by decide +kernel, by decide +kernel, by decide +kernel, by decide +kernel, by decide +kernel, by decide +kernel, by decide +kernel⟩
theorem test_tick_rejected_in_qualify : holds (exec (.lineTickQualify 2222221) sQual) (fun t => t.hub0.ltu == { sQual.hub0.ltu with lastCand := some 2222221, st := .freeRun, ivals := [] }) = true := by decide +kernel
theorem witness_TwoSilentCyclesEnterFreeRun : Works sTick ∧ Canonical sTick ∧ (sTick.ltuOf 0).failed = false ∧ (sTick.ltuOf 0).st = .locked ∧
    (sTick.ltuOf 0).lastAcc.getD 0 + twoNom (sTick.ltuOf 0) = 4000000 ∧ Works sWait ∧ Canonical sWait ∧ (sWait.ltuOf 0).failed = false ∧ (sWait.ltuOf 0).st = .wait ∧
    (sWait.ltuOf 0).since + twoNom (sWait.ltuOf 0) = 4000100 ∧ sWait.activeHub = 0 ∧ trainedFar sWait = [] :=
  ⟨works_of (by decide +kernel), sTick_canonical, by decide +kernel, by decide +kernel, by decide +kernel, works_of (by decide +kernel),
    canonical_of (by decide +kernel) rfl, by decide +kernel, by decide +kernel, by decide +kernel, by decide +kernel, by decide +kernel⟩
theorem witness_StandbyUnitAndDcMode : Works sCopy ∧ sCopy.hub1.ltu.active = false ∧ sCopy.hub1.ltu.failed = false ∧ sCopy.hub0.ltu.failed = false ∧
    sCopy.hub0.ltu.copies.find? (fun m => decide ((sCopy.hub0.ltu.phase - m.phase).toNat = 19)) = some msg ∧
    sCopy.hub0.ltu.copies.find? (fun m => decide ((sCopy.hub0.ltu.phase - m.phase).toNat = 18)) = none ∧ sCopy.mgt.fatal = false ∧
    sCopy.hub1.ltu.silence < 64 ∧ Works sSil ∧ sSil.hub1.ltu.active = false ∧ sSil.hub1.ltu.failed = false ∧ sSil.hub0.ltu.failed = false ∧ 64 ≤ sSil.hub1.ltu.silence :=
  ⟨works_of (by decide +kernel), by decide +kernel, by decide +kernel, by decide +kernel, by decide +kernel, by decide +kernel, by decide +kernel,
    by decide +kernel, works_of (by decide +kernel), by decide +kernel, by decide +kernel, by decide +kernel, by decide +kernel⟩
end LineTime

/-! ## The governor and the grid -/

namespace Grid
def s1 : State := pkg [] []
def duel (g : GridEvent) : State := { s1 with due := [g, .snapshot] }
theorem test_governorUpdate : holds (exec (.governorUpdate 1 100) (duel (.gov 1))) (fun t =>
  t.hub1.gov.target == min (ceiling { s1.hub1.gov with bg := 100 }) (nextTarget { s1.hub1.gov with bg := 100 } (demand (s1.modGov 1 fun g => { g with bg := 100 }) 1)) && t.due == [.snapshot] && t.hub0 == s1.hub0 && quiet s1 t) = true := by decide +kernel
theorem test_gridEvent_not_due : ([.governorUpdate 0 9, .qosBudgetRefresh 0, .dvfsChange 0, .telemetrySnapshot, .stepStart 0 0, .ledgerCheckpoint 0, .scrubCredit] : List Instr).all (fun i => isNext (exec i s1) s1) = true := by decide +kernel
theorem test_dvfsChange_restores : holds (exec (.dvfsChange 0) ({ duel (.dvfs 0) with hub0 := { s1.hub0 with gov := { s1.hub0.gov with slowed := true } } })) (fun t => !t.hub0.gov.slowed && t.hub0.gov.target == 12000 && t.due == [.snapshot] && quiet s1 t) = true := by decide +kernel
theorem test_dvfsChange_keeps : holds (exec (.dvfsChange 0) ({ duel (.dvfs 0) with hub0 := { s1.hub0 with gov := { s1.hub0.gov with slowed := true, slowCmd := some (1, 2) } } })) (fun t => t.hub0.gov.slowed && quiet s1 t) = true := by decide +kernel
def sNo : State := { s1 with boot := { s1.boot with mctp := false } }
theorem test_messages_not_ready : exec (.govSetStep [1]) sNo = .next (respond sNo 1 2 []) ∧ exec (.govCut [1, 0]) sNo = .next (respond sNo 2 2 []) ∧
    exec (.govRelease []) sNo = .next (respond sNo 3 2 []) ∧ exec (.ltQuery []) sNo = .next (respond sNo 4 2 []) := ⟨rfl, rfl, rfl, rfl⟩
theorem test_messages_invalid : exec (.govSetStep [41]) s1 = .next (respond s1 1 1 []) ∧ exec (.govSetStep [0]) s1 = .next (respond s1 1 1 []) ∧
    exec (.govCut [0xE9, 3]) s1 = .next (respond s1 2 1 []) ∧ exec (.govRelease [0]) s1 = .next (respond s1 3 1 []) ∧
    exec (.ltQuery [0]) s1 = .next (respond s1 4 1 []) ∧ exec (.unknownCmdMessage [0x7E, 0, 0, 9, 1]) s1 = .next (respond s1 9 1 []) := ⟨rfl, rfl, rfl, rfl, rfl, rfl⟩
def answered (t : State) : List Byte := match t.out with | [.mgmt b] => b.drop 3 | _ => []
theorem test_govSetStep : holds (exec (.govSetStep [40]) s1) (fun t => t.hub0.gov.fcNext == some 40 && t.hub1.gov.fcNext == some 40 && answered t == [0x81, 0] && quiet s1 t) = true := by decide +kernel
theorem test_govCut : holds (exec (.govCut [0xE8, 3]) s1) (fun t => t.hub0.gov.cutFc && t.hub1.gov.cutActive && t.hub1.gov.fcLevel == 1000 && t.hub1.gov.target == 3000 && t.out.length == 1) = true := by decide +kernel
theorem test_govCut_release : holds (exec (.govCut [100, 0]) s1) (fun t => t.hub0.gov.target == 1200 && holds (exec (.govRelease []) t) fun u => !u.hub0.gov.cutFc && u.hub0.gov.cutActive) = true := by decide +kernel
theorem test_ltQuery : holds (exec (.ltQuery []) { s1 with hub0 := { s1.hub0 with ltu := { s1.hub0.ltu with phase := 0x1234, cycle := 5 } } }) (fun t => slice (answered t) 6 8 == [0x34, 0x12, 5, 0, 0, 0, 0, 0] && (answered t).length == 26) = true := by decide +kernel
theorem test_govCtlCutWrite : holds (exec (.govCtlCutWrite .prostoza 1 true) s1) (fun t => t.hub1.gov.cutSw && t.hub1.gov.fallEn && t.hub1.gov.cutActive && t.hub1.gov.target == 3000 && t.hub0 == s1.hub0) = true := by decide +kernel
theorem test_govCutLevelWrite : (holds (exec (.govCutLevelWrite .prostoza 1 1000) s1) (fun t => t.hub1.gov.cutLevel == 1000) && isNext (exec (.govCutLevelWrite .prostoza 1 1001) s1) s1) = true := by decide +kernel
def sQos : State := { duel (.qos 0) with hub0 := { s1.hub0 with qos := { budget := [(1, 50), (2, 7)], remain := [(1, 20), (2, -3)] } } }
theorem test_qosBudgetRefresh : holds (exec (.qosBudgetRefresh 0) sQos) (fun t => t.hub0.qos.remainOf 1 == 50 && t.hub0.qos.remainOf 2 == 4 && t.hub0.qos.budget == sQos.hub0.qos.budget && t.due == [.snapshot] && quiet s1 t) = true := by decide +kernel
def sSnap : State := { s1 with due := [.snapshot], blks := [(pgKey 0 ixHub, { cnt := [(0x80, 5)] })] }
theorem test_telemetrySnapshot : holds (exec .telemetrySnapshot sSnap) (fun t => (t.blk (pgKey 0 ixHub)).snap == [(0x80, 5)] && allPages.all (fun p => (t.blk p).snapValid && (t.blk p).snap == (t.blk p).cnt) && t.due == [] && quiet s1 t) = true := by decide +kernel
def sStep : State := { duel (.step 0 3) with hub0 := { s1.hub0 with grps := [(3, { en := true, layerInc := true, step := 0xFFFFFFFF, layer := 9, st := .awaiting })] } }
theorem test_stepStart : holds (exec (.stepStart 0 3) sStep) (fun t => (t.grp 0 3).step == 0 && (t.grp 0 3).layer == 10 && (t.grp 0 3).st == .awaiting && t.cnt (pgKey 0 ixSeq) 0x080 == 1 && t.due == [.snapshot] && sameMem s1 t && sameStart s1 t) = true := by decide +kernel
theorem test_stepGroup_enable : holds (exec (.stepGroupEnable .prostoza 1 15) { s1 with hub1 := { s1.hub1 with grps := [(15, { step := 9, layer := 4 })] } }) (fun t => (t.grp 1 15) == { en := true, layer := 4, st := .awaiting } && sameMem s1 t && sameStart s1 t) = true := by decide +kernel
theorem test_stepGroup_disable : holds (exec (.stepGroupDisable .prostoza 0 3) sStep) (fun t => t.grp 0 3 == { sStep.grp 0 3 with en := false, st := .idle } && sameMem s1 t && sameStart s1 t) = true := by decide +kernel
theorem test_ledgerCheckpoint_doff : isNext (exec (.ledgerCheckpoint 0) { duel (.ckpt 0) with doff := { active := true } }) { s1 with due := [.snapshot], doff := { active := true } } = true := by decide +kernel
def sJ : State := { s1 with hub0 := { s1.hub0 with led := { s1.hub0.led with journal := [(mramBase 0 + 5, 1), (mramBase 0 + 9, 7), (mramBase 0 + 5, 3)] } } }
theorem test_journalDrain : holds (exec (.journalDrain 0) sJ) (fun t => t.hub0.led.journal == [] && coherentByte t (mramBase 0 + 5) == 3 && coherentByte t (mramBase 0 + 9) == 7 && t.queues == s1.queues) = true := by decide +kernel
theorem test_scrubCredit : holds (exec .scrubCredit { s1 with due := [.scrub], scrubs := [(2, { credit := 7, unspent := 3, pos := 4 })] }) (fun t => (t.scrub 2).unspent == 7 && (t.scrub 2).pos == 4 && (t.scrub 11).unspent == 256 && quiet s1 t) = true := by decide +kernel
theorem test_scrubGranule : holds (exec (.scrubGranule (.smc 1) .uncorrectable) { s1 with scrubs := [(1, { unspent := 1, pos := 4 })] }) (fun t => (t.scrub 1).unspent == 0 && (t.scrub 1).pos == 5 && poisoned t (hbmStack / 64 + 4) && !poisoned t 4 && t.mem == s1.mem && sameWork s1 t) = true := by decide +kernel
theorem test_memoryRefresh : isNext (exec .memoryRefresh s1) s1 = true := by decide +kernel
theorem witness_GovernorUpdateSetsTarget : Works (duel (.gov 1)) ∧ (duel (.gov 1)).due = .gov 1 :: [.snapshot] := ⟨works_of (by decide +kernel), rfl⟩
theorem witness_GridEvents : s1.due = [] ∧ Works (duel (.dvfs 0)) ∧ (duel (.dvfs 0)).due = .dvfs 0 :: [.snapshot] ∧ Works sQos ∧ sQos.due = .qos 0 :: [.snapshot] ∧
    mwf 0 (sQos.hub 0).qos.remain = true ∧ ∀ p ∈ hubCmds sQos 0, p.2.phase ≠ .deferred :=
  ⟨rfl, works_of (by decide +kernel), rfl, works_of (by decide +kernel), rfl, by decide +kernel, by decide +kernel⟩
/-- a payload of no valid length, the least and the greatest step, the greatest cut level, and the next value of each -/
theorem witness_FrameControllerMessages : Works sNo ∧ sNo.boot.mctp = false ∧ Works s1 ∧ s1.boot.mctp = true ∧
    ([1] : List Byte).length = 1 ∧ 1 ≤ leNat [1] ∧ leNat [40] ≤ 40 ∧ ¬ (([0] : List Byte).length = 1 ∧ 1 ≤ leNat [0] ∧ leNat [0] ≤ 40) ∧ ¬ leNat [41] ≤ 40 ∧
    ([0xE8, 3] : List Byte).length = 2 ∧ leNat [0xE8, 3] ≤ 1000 ∧ ¬ leNat [0xE9, 3] ≤ 1000 ∧ ([0] : List Byte) ≠ [] ∧ ((0 : Byte) = 0 ∨ 4 < (0 : Byte).toNat) ∧ 4 < (5 : Byte).toNat ∧
    (1000 : W32).toNat % 1024 ≤ 1000 ∧ 1000 < (1001 : W32).toNat % 1024 := by
  refine ⟨works_of (by decide +kernel), rfl, works_of (by decide +kernel), rfl, ?_⟩; decide
theorem witness_SnapshotLatchesEveryWindow : Works sSnap ∧ mwf {} sSnap.blks = true ∧ sSnap.due = .snapshot :: [] := ⟨works_of (by decide +kernel), by decide +kernel, rfl⟩
theorem witness_StepGroups : Works sStep ∧ Canonical sStep ∧ sStep.due = .step 0 3 :: [.snapshot] ∧ (sStep.grp 0 3).en = true ∧ (sStep.grp 0 3).st = .awaiting ∧
    sStep.doff.stopped = false ∧ grpQueues sStep 0 3 = [] ∧ (∀ c, (sStep.grp 0 3).chg = some c → c.1 ≠ sStep.now) ∧ (sStep.grp 0 4).en = false :=
  ⟨works_of (by decide +kernel), canonical_of (by decide +kernel) rfl, rfl, by decide +kernel, by decide +kernel, rfl, by decide +kernel, (fun c hc => by rw [show (sStep.grp 0 3).chg = none by decide +kernel] at hc; cases hc), by decide +kernel⟩
theorem witness_CheckpointsAndJournal : Works (duel (.ckpt 0)) ∧ (duel (.ckpt 0)).due = .ckpt 0 :: [.snapshot] ∧ (duel (.ckpt 0)).boot.ready = true ∧
    (duel (.ckpt 0)).doff.active = false ∧ (duel (.ckpt 0)).doff.done = false ∧ doffViewed (duel (.ckpt 0)) 0 = false ∧
    Works { duel (.ckpt 0) with doff := { active := true } } ∧ Works sJ ∧ CachesOk sJ :=
  ⟨works_of (by decide +kernel), rfl, rfl, rfl, rfl, by decide +kernel, works_of (by decide +kernel), works_of (by decide +kernel), cachesOk_of (by decide +kernel) rfl⟩
def sScrub : State := { s1 with due := [.scrub], scrubs := [(1, { unspent := 1, pos := 4 })] }
theorem witness_ScrubSpendsCredit : Works sScrub ∧ Canonical sScrub ∧ sScrub.due = .scrub :: [] ∧ sScrub.poison = [] ∧ sScrub.upsets = [] ∧ (sScrub.scrub 1).en = true ∧ 0 < (sScrub.scrub 1).unspent ∧
    (sScrub.scrub 1).pos + 1 < scrubGranules sScrub 1 :=
  ⟨works_of (by decide +kernel), canonical_of (by decide +kernel) rfl, rfl, rfl, rfl, by decide +kernel, by decide +kernel, by decide +kernel⟩
end Grid

/-! ## Queues -/

namespace Queues
def qu (cs : List Cmd) : State := pkg [(216, que cs)] []
def s1 : State := pkg [] []
def withQ (q : Queue) : State := pkg [(216, q)] []
def sBell : State := withQ { que [] with prod := 4, cons := 4, ack := 0xFFFFFFFE }
theorem test_doorbell : isNext (exec (.doorbell .prostoza 216 0x3E) sBell) (sBell.setQueue 216 { sBell.queue 216 with prod := 0x3E }) = true := by decide +kernel
theorem test_doorbell_overflow : holds (exec (.doorbell .prostoza 216 0x3F) sBell) (fun t => (t.queue 216).st == .error && (t.queue 216).err == 1 && (t.queue 216).prod == 4 && (t.queue 216).cons == 4 && sameMem sBell t) = true := by decide +kernel
theorem test_doorbell_backwards : (isNext (exec (.doorbell .prostoza 216 3) sBell) (sBell.count (qmPage 216) 0x080 1) && isNext (exec (.doorbell .prostoza 216 4) sBell) sBell) = true := by decide +kernel
theorem test_doorbell_reset : isNext (exec (.doorbell .prostoza 216 9) (withQ { que [] with st := .reset })) ((withQ { que [] with st := .reset }).count (qmPage 216) 0x0C8 1) = true := by decide +kernel
/-- ring entry 0 a NOP whose COST is 7 -/
def sAdm : State := { withQ { que [] with prod := 1 } with mem := (0x8004, 7) :: tables }
theorem test_entryAdmit : holds (exec (.entryAdmit 216 30 9) sAdm) (fun t => (t.queue 216).cons == 1 && (findCmd t 216 0).any fun c => c.entry == 0 :: 0 :: 0 :: 0 :: 7 :: List.replicate 59 0 && c.pwr == 30 && c.admitT == 9 && c.phase != .ended) = true := by decide +kernel
def sAdmS : State := { withQ { que [] with prod := 1, suspend := true } with mem := (0x8004, 7) :: tables }
theorem test_entryAdmit_suspended : holds (exec (.entryAdmit 216 30 9) sAdmS) (fun t => (t.queue 216).cons == 1 && (findCmd t 216 0).any fun c => c.phase == .ended && c.status == .refused) = true := by decide +kernel
theorem test_entryAdmit_none : isNext (exec (.entryAdmit 216 30 9) (withQ (que []))) ((withQ (que [])).toTime 9) = true := by decide +kernel
def sDis : State := withQ { que [] with enable := false, st := .disabled }
theorem test_queueEnable : holds (exec (.queueEnable .prostoza 216) sDis) (fun t => (t.queue 216).enable && (t.queue 216).st == .running && sameMem s1 t) = true := by decide +kernel
def sDisBad : State := withQ { que [] with enable := false, st := .disabled, ringBase := 1 }
theorem test_queueEnable_config : holds (exec (.queueEnable .prostoza 216) sDisBad) (fun t => (t.queue 216).enable && (t.queue 216).st == .disabled && (t.queue 216).err == 4) = true := by decide +kernel
theorem test_queueDisable : (holds (exec (.queueDisable .prostoza 216) (qu [])) (fun t => !(t.queue 216).enable && (t.queue 216).st == .disabled) && holds (exec (.queueDisable .prostoza 216) (qu [cmd opNop []])) fun t => (t.queue 216).st == .draining && (t.queue 216).cmds.length == 1) = true := by decide +kernel
theorem test_queueResume : holds (exec (.queueResume .prostoza 216) (withQ { que [] with st := .halted, cons := 5 })) (fun t => (t.queue 216).st == .running && (t.queue 216).cons == 5 && sameMem s1 t && sameStart s1 t) = true := by decide +kernel
def cF : Cmd := { cmd opFill [0x40, 256, 3] with phase := .faultWait, status := .fault, prog := 0, cause := 0x40, fidx := 2 }
def sFw : State := withQ { que [cF] with policy := .resume, st := .faultWait, fiIdx := 2 }
theorem test_faultWaitRetry : holds (exec (.faultWaitRetry .prostoza 216 9) sFw) (fun t => (t.queue 216).st == .running && (findCmd t 216 0).any fun d => d.phase == .running && d.status == .ok && d.prog == 2 && d.body == cF.body) = true := by decide +kernel
theorem test_qswClr : holds (exec (.qswClr .prostoza 216) (withQ { que [] with refuseSeen := 7, lastRefuse := 2 })) (fun t => t.queue 216 == { que [] with lastRefuse := 2 }) = true := by decide +kernel
theorem test_faultWaitAbandon : holds (exec (.faultWaitAbandon .prostoza 216 9) sFw) (fun t => (t.queue 216).st == .running && (t.queue 216).done == 1 && coherentBytes t 0x9000 8 == [0, 0, 0, 0] ++ leBytes 1 cF.status.code ++ leBytes 1 (recCause cF) ++ leBytes 2 cF.fidx.toNat) = true := by decide +kernel
def cD : Cmd := { cmd opNop [] with phase := .ended, flags := 5 }
theorem test_commandCompletion : holds (exec (.commandCompletion 216 9) (qu [cD])) (fun t => (t.queue 216).done == 1 && coherentBytes t 0x9000 32 == recordBytes ((qu [cD]).queue 216) 216 cD && (t.queue 216).cmds == []) = true := by decide +kernel
theorem test_qmQrst : holds (exec (.qmQrst .prostoza 216 9) (withQ { que [] with prod := 9, cons := 9, done := 9, ack := 3, classFloor := 2, suspend := true, stepEn := true, part := 1 })) (fun t => t.queue 216 == { ctx := 32, bound := true, classFloor := 2, suspend := true, stepEn := true, part := 1 } && sameMem s1 t) = true := by decide +kernel
def cT : Cmd := { cmd opWait [0x40, 1, 0] with waiting := true }
def sTo : State := withQ { que [cT] with timeoutUs := 10 }
theorem test_commandTimeout : (isNext (exec (.commandTimeout 216 0 1005) sTo) (sTo.toTime 1005) && holds (exec (.commandTimeout 216 0 1006) sTo) fun t => (findCmd t 216 0).any fun d => d.phase == .ended && d.status == .timeout && d.cause == 0x4B) = true := by decide +kernel
def sPre : State := pkg [(216, que [{ cmd opFill [0x40, 256, 3] with cls := 1 }]), (217, que [{ cmd opNop [] with phase := .ready, startT := none, readyT := some 2 }])] []
theorem test_commandPreempt : (holds (exec (.commandPreempt 216 9) sPre) (fun t => (findCmd t 216 0).any fun d => d.paused && d.phase == .running) && isNext (exec (.commandPreempt 216 9) (qu [{ cmd opFill [0x40, 256, 3] with cls := 1 }])) ((qu [{ cmd opFill [0x40, 256, 3] with cls := 1 }]).toTime 9)) = true := by decide +kernel
def sLate : State := withQ { que [{ cmd opNop [] with phase := .ready, startT := none, readyT := none }] with lateUntil := 50 }
theorem test_lateWriteWindowEnd : (isNext (exec (.lateWriteWindowEnd 216 49) sLate) (sLate.toTime 49) && holds (exec (.lateWriteWindowEnd 216 50) sLate) fun t => (findCmd t 216 0).any fun d => d.readyT == some 50) = true := by decide +kernel
theorem witness_DoorbellWrite : Works sBell ∧ mwf {} sBell.queues = true ∧ bellAllows sBell .prostoza 216 = true ∧ mustWait sBell .prostoza false (bellOff 216) = false ∧ (sBell.queue 216).st ≠ .reset ∧
    ((0x3E : W32) - (sBell.queue 216).ack).toNat = (sBell.queue 216).depth ∧ (sBell.queue 216).depth < ((0x3F : W32) - (sBell.queue 216).ack).toNat ∧
    ((0x3E : W32) - (sBell.queue 216).prod).toNat ≤ 2 ^ 31 ∧ 2 ^ 31 < ((0x80000005 : W32) - (sBell.queue 216).prod).toNat ∧
    ((withQ { que [] with st := .reset }).queue 216).st = .reset := by
  refine ⟨works_of ?_, ?_⟩ <;> decide +kernel
theorem test_doorbell_half : (isNext (exec (.doorbell .prostoza 216 0x80000005) sBell) (sBell.count (qmPage 216) 0x080 1)) = true := by decide +kernel
def bytesNop : List Byte := 0 :: 0 :: 0 :: 0 :: 7 :: List.replicate 59 0
theorem witness_EntryAdmission : Works sAdm ∧ Canonical sAdm ∧ admits (sAdm.toTime 9) 216 = true ∧ (sAdm.queue 216).fetchFail = none ∧ (∀ c ∈ (sAdm.queue 216).cmds, c.seq ≠ (sAdm.queue 216).cons) ∧
    (qmRead (sAdm.toTime 9) 216 (sAdm.queue 216).fetchData ((sAdm.queue 216).ringBase.toNat + (sAdm.queue 216).entryLen * ((sAdm.queue 216).cons.toNat % (sAdm.queue 216).depth)) (sAdm.queue 216).entryLen).1 = .ok bytesNop false ∧
    admits ((withQ (que [])).toTime 9) 216 = false :=
  ⟨works_of (by decide +kernel), canonical_of (by decide +kernel) rfl, by decide +kernel, by decide +kernel, by decide +kernel, by decide +kernel, by decide +kernel⟩
/-- the same entry under SUSPEND -/
theorem witness_EntryAdmission_refused : Works sAdmS ∧ Canonical sAdmS ∧ admits (sAdmS.toTime 9) 216 = true ∧ ∃ w, refuseWhy (sAdmS.toTime 9) 216 0 = some w :=
  ⟨works_of (by decide +kernel), canonical_of (by decide +kernel) rfl, by decide +kernel, ⟨_, _⟩, rfl⟩
theorem witness_QueueControl : Works sDis ∧ Canonical sDis ∧ bellAllows sDis .prostoza 216 = true ∧ (sDis.queue 216).st = .disabled ∧ enableOk sDis 216 = true ∧ enableOk sDisBad 216 = false ∧
    (sDisBad.queue 216).st = .disabled ∧ ((qu []).queue 216).st = .running ∧ ((withQ { que [] with st := .halted, cons := 5 }).queue 216).st = .halted ∧
    mustWait sDis .prostoza false (bellOff 216 + 0x058) = false ∧ mustWait sFw .prostoza false (bellOff 216 + 0x058) = false ∧
    mget 0 (qu []).qrstRun (qDie 216) = 0 ∧ mustWait (qu []) .prostoza false (pgOff (qmPage 216) + 0x110) = false ∧
    Works sFw ∧ Canonical sFw ∧ bellAllows sFw .prostoza 216 = true ∧ (sFw.queue 216).enable = true ∧ (sFw.queue 216).st = .faultWait ∧
    ((sFw.queue 216).cmds.find? fun c => decide (c.phase = .faultWait)) = some cF ∧ findCmd sFw 216 cF.seq = some cF ∧ (sFw.queue 216).st ≠ .disabled ∧
    Works (qu []) ∧ Canonical (qu []) ∧ ((qu []).queue 216).cmds = [] ∧ ((qu []).queue 216).st ≠ .reset ∧ (qu []).doff.stopped = false := by
  refine ⟨works_of ?_, canonical_of ?_ rfl, ?_, ?_, ?_, ?_, ?_, ?_, ?_, ?_, ?_, ?_, ?_, works_of ?_, canonical_of ?_ rfl, ?_, ?_, ?_, ?_, ?_, ?_, works_of ?_, canonical_of ?_ rfl, ?_, ?_, rfl⟩ <;> decide +kernel
def sp0 : Span := { pa := 0x9000, n := 32, acc := {} }
theorem ready_cD : RecordReady ((qu [cD]).toTime 9) 216 cD sp0 := by
  refine ⟨⟨[], ?_⟩, ?_, ?_, ?_, ?_, ?_, ?_, ?_, ?_⟩ <;> decide +kernel
theorem ready_cF : RecordReady (sFw.toTime 9) 216 cF sp0 := by
  refine ⟨⟨[], ?_⟩, ?_, ?_, ?_, ?_, ?_, ?_, ?_, ?_⟩ <;> decide +kernel
theorem witness_RecordsAreWritten : Works (qu [cD]) ∧ Canonical (qu [cD]) ∧ CachesOk (qu [cD]) ∧ NoPoison (qu [cD]) ∧ RecordReady ((qu [cD]).toTime 9) 216 cD sp0 ∧ cD.phase = .ended ∧
    resumable ((qu [cD]).queue 216) cD = false ∧ Works sFw ∧ Canonical sFw ∧ CachesOk sFw ∧ NoPoison sFw ∧ bellAllows sFw .prostoza 216 = true ∧ (sFw.queue 216).enable = true ∧
    (sFw.queue 216).st = .faultWait ∧ cF.phase = .faultWait ∧ (∀ d ∈ (sFw.queue 216).cmds, d.seq = cF.seq → d = cF) ∧ RecordReady (sFw.toTime 9) 216 cF sp0 ∧ cF.hdr.knot = false ∧ cF.status ≠ .ok :=
  ⟨works_of (by decide +kernel), canonical_of (by decide +kernel) rfl, cachesOk_of (by decide +kernel) rfl, noPoison_of rfl rfl, ready_cD, by decide +kernel, by decide +kernel,
    works_of (by decide +kernel), canonical_of (by decide +kernel) rfl, cachesOk_of (by decide +kernel) rfl, noPoison_of rfl rfl, by decide +kernel, by decide +kernel,
    by decide +kernel, by decide +kernel, by decide +kernel, ready_cF, by decide +kernel, by decide +kernel⟩
theorem witness_TimersOfCommands : Works sTo ∧ Canonical sTo ∧ findCmd sTo 216 cT.seq = some cT ∧ cT.phase = .running ∧ expiry (sTo.queue 216) cT = some 1005 ∧ (sTo.queue 216).st ≠ .faultWait ∧ cT.head = [] ∧ updated cT = false ∧
    Works sPre ∧ Canonical sPre ∧ (sPre.queue 216).target = some { cmd opFill [0x40, 256, 3] with cls := 1 } ∧ classZeroOn (sPre.toTime 9) (qEng 216) = true ∧
    Works sLate ∧ Canonical sLate ∧ (sLate.queue 216).target = some { cmd opNop [] with phase := .ready, startT := none, readyT := none } ∧ (sLate.queue 216).lateUntil ≤ max sLate.now 50 ∧
    startHold (sLate.toTime 50) 216 { cmd opNop [] with phase := .ready, startT := none, readyT := none } = .no := by
  refine ⟨works_of ?_, canonical_of ?_ rfl, ?_, ?_, ?_, ?_, ?_, ?_, works_of ?_, canonical_of ?_ rfl, ?_, ?_, works_of ?_, canonical_of ?_ rfl, ?_, ?_, ?_⟩ <;> decide +kernel
end Queues

/-! ## Engine commands -/

namespace Engines
def qu (cs : List Cmd) : State := pkg [(216, que cs)] []
def s1 : State := pkg [] []
def one (c : Cmd) (m : List Host.Cell) : State := pkg [(216, que [c])] m
def endedOk (t : State) (q : QIdx) : Bool := (findCmd t q 0).any fun d => d.phase == .ended && d.status == .ok
def goesOn (t : State) (q : QIdx) (k : Nat) : Bool := (findCmd t q 0).any fun d => d.phase == .running && d.prog == k
def sNop := one (cmd opNop []) []
theorem runs_nop : Runs (sNop.toTime 9) 216 (cmd opNop []) := by constructor <;> first | decide +kernel | exact heldCurrent_of (by decide +kernel)
theorem test_nop : holds (exec (.nop 216 9) sNop) (fun t => endedOk t 216 && sameMem sNop t && sameStart sNop t) = true := by decide +kernel
def cFe : Cmd := { cmd opFence [] with entry := BitVec.ofNat 8 opFence :: List.replicate 63 0 }
def cFeR : Cmd := cmd opFence [1]
def sFence := pkg [(216, que [cFe])] []
theorem runs_fence : Runs (sFence.toTime 9) 216 cFe := by constructor <;> first | decide +kernel | exact heldCurrent_of (by decide +kernel)
theorem test_fence : holds (exec (.fence 216 9) sFence) (fun t => endedOk t 216 && sameMem sFence t) = true := by decide +kernel
def cStep : Cmd := cmd opStep [0x10007]
def sStep : State := { pkg [(216, { que [cStep] with stepGrp := 3, stepEn := true, stepIn := true })] [] with hub0 := { s1.hub0 with grps := [(3, { en := true, step := 2, layer := 9, st := .opened })] } }
theorem runs_step : Runs (sStep.toTime 9) 216 cStep := by constructor <;> first | decide +kernel | exact heldCurrent_of (by decide +kernel)
theorem test_step : holds (exec (.step 216 9) sStep) (fun t => endedOk t 216 && (t.grp 0 3).layer == 7 && (t.grp 0 3).step == 2 && sameMem s1 t) = true := by decide +kernel
def cWait (k : W64) : Cmd := cmd opWait [0x40, 258, k]
theorem runs_wait : Runs ((one (cWait 0) []).toTime 9) 216 (cWait 0) := by constructor <;> first | decide +kernel | exact heldCurrent_of (by decide +kernel)
theorem test_wait : (holds (exec (.wait 216 9) (one (cWait 0) [(0x40, 2), (0x41, 1)])) (fun t => endedOk t 216) && holds (exec (.wait 216 9) (one (cWait 0) [(0x40, 1), (0x41, 1)])) (fun t => goesOn t 216 0 && (findCmd t 216 0).any fun d => d.waiting && d.stallNow.map (·.1) == some cWaitSignal)) = true := by decide +kernel
theorem test_waitPoll : (holds (exec (.waitPoll 216 9) (one (cWait 1) [(0x40, 2), (0x41, 1)])) (fun t => endedOk t 216) && holds (exec (.waitPoll 216 9) (one (cWait 2) [(0x40, 2), (0x41, 1)])) (fun t => goesOn t 216 0)) = true := by decide +kernel
def cSig (add : W64) : Cmd := cmd opSignal [0x40, 0x102, add]
theorem runs_sig : Runs ((one (cSig 1) []).toTime 9) 216 (cSig 1) := by constructor <;> first | decide +kernel | exact heldCurrent_of (by decide +kernel)
theorem test_signal : (holds (exec (.signal 216 9) (one (cSig 0) [])) (fun t => endedOk t 216 && t.mem == (0x40, 2) :: (0x41, 1) :: tables) && holds (exec (.signal 216 9) (one (cSig 1) [(0x40, 0xFF)])) (fun t => endedOk t 216 && t.mem == (0x40, 1) :: (0x41, 2) :: tables)) = true := by decide +kernel
def cFill : Cmd := cmd opFill [0x44, 80, 0x0807060504030201]
theorem test_fill : holds (exec (.fill 216 1 9) (one cFill [])) (fun t => goesOn t 216 1 && coherentBytes t 0x40 72 == [0,0,0,0,1,2,3,4,5,6,7,8,1,2,3,4,5,6,7,8,1,2,3,4,5,6,7,8,1,2,3,4,5,6,7,8,1,2,3,4,5,6,7,8,1,2,3,4,5,6,7,8,1,2,3,4,5,6,7,8,1,2,3,4,0,0,0,0,0,0,0,0]) = true := by decide +kernel
def cCopy : Cmd := cmd opCopy [0x81, 0x43, 3]
theorem test_copy : holds (exec (.copy 216 1 9) (one cCopy [(0x81, 9), (0x82, 8), (0x83, 7)])) (fun t => endedOk t 216 && coherentBytes t 0x42 5 == [0, 9, 8, 7, 0]) = true := by decide +kernel
def cGat : Cmd := cmd opGather [0x100, 0x200, 0x300, 0x40001]
theorem runs_gat : Runs ((one cGat []).toTime 9) 216 cGat := by constructor <;> first | decide +kernel | exact heldCurrent_of (by decide +kernel)
theorem test_gather : holds (exec (.gather 216 1 9) (one cGat [(0x10C, 5), (0x10F, 6), (0x200, 3)])) (fun t => endedOk t 216 && coherentBytes t 0x300 5 == [5, 0, 0, 6, 0]) = true := by decide +kernel
def cSca : Cmd := cmd opScatter [0x100, 0x200, 0x300, 0x40001]
theorem test_scatter : holds (exec (.scatter 216 1 9) (one cSca [(0x100, 5), (0x103, 6), (0x200, 3)])) (fun t => endedOk t 216 && coherentBytes t 0x30C 5 == [5, 0, 0, 6, 0] && coherentBytes t 0x300 4 == [0,0,0,0]) = true := by decide +kernel
def cAt (sub : Nat) (ret : W64) : Cmd := { cmd opAtomic [0x40, 0xFFFFFFFF, 0, ret] with entry := [BitVec.ofNat 8 opAtomic, 0, 0, BitVec.ofNat 8 sub] ++ List.replicate 60 0 }
theorem test_atomic : holds (exec (.atomic 216 9) (one (cAt 0 0x80) [(0x40, 3)])) (fun t => endedOk t 216 && coherentBytes t 0x40 8 == [2, 0, 0, 0, 0, 0, 0, 0] && coherentBytes t 0x80 8 == [3, 0,0,0,0,0,0,0]) = true := by decide +kernel
theorem test_illegal : engineRows.all (fun r => holds (exec (r.row 216 9) (one (cmd opMatmul []) [])) fun t => (findCmd t 216 0).any fun d => d.phase == .ended && d.status == .failed && d.cause == cIllegalOp) = true := by decide +kernel
def cBadNop : Cmd := { cmd opNop [] with entry := [BitVec.ofNat 8 opNop, 0, 0, 1] ++ List.replicate 60 0 }
theorem test_badNop : holds (exec (.nop 216 9) (one cBadNop [])) (fun t => (findCmd t 216 0).any fun d => d.phase == .ended && d.status == .failed && d.cause == cBadOperand) = true := by decide +kernel
def sp (a n : Nat) : Span := { pa := a, n := n, acc := {} }
theorem witness_EngineRowsComplete : ∃ r ∈ engineRows, Works sNop ∧ Canonical sNop ∧ Runs (sNop.toTime 9) 216 (cmd opNop []) ∧ r.mine (cmd opNop []).hdr = true ∧
    r.body (takenUp (sNop.toTime 9) 216 (cmd opNop [])) 216 { cmd opNop [] with waiting := false } = .ok true (sNop.toTime 9) ∧ mwf {} (sNop.toTime 9).queues = true ∧
    findCmd (sNop.toTime 9) 216 (cmd opNop []).seq = some (cmd opNop []) ∧ (cmd opNop []).phase = .running ∧ (cmd opNop []).unacked = [] :=
  ⟨⟨.nop, fun h => decide (h.opcode = opNop), fun s _ _ => .ok true s⟩, by simp [engineRows], works_of (by decide +kernel), canonical_of (by decide +kernel) rfl, runs_nop,
    by decide +kernel, rfl, by decide +kernel, by decide +kernel, by decide +kernel, by decide +kernel⟩
def cMm : Cmd := cmd opMatmul []
theorem witness_EngineRowsComplete_illegal : Works (one cMm []) ∧ Canonical (one cMm []) ∧ ((one cMm []).queue 216).target = some cMm ∧ findCmd (one cMm []) 216 cMm.seq = some cMm ∧
    cMm.phase = .running ∧ cMm.startT.isSome = true ∧ cMm.paused = false ∧ cMm.waiting = false ∧ (∀ p ∈ engineTargets (one cMm []) (qEng 216), isReady p.2 = false) ∧ cMm.unacked = [] ∧
    accepts (qEngId 216) cMm.hdr.opcode = false ∧ accepts (qEngId 216) cBadNop.hdr.opcode = true ∧ cBadNop.body.isSome = true ∧
    checkCmd (qEngId 216) (one cBadNop []).boot.feat cBadNop.dx2 false cBadNop.hdr (entryWords cBadNop.dx2 cBadNop.entry) cBadNop.words = some (.failed, cBadOperand) := by
  refine ⟨works_of ?_, canonical_of ?_ rfl, ?_⟩ <;> decide +kernel
/-- a FENCE behind an earlier command of its queue whose remote write is not acknowledged -/
def cOld : Cmd := { cmd opFill [0x40, 3] with seq := 0xFFFFFFFF, performed := true, unacked := [(0x400000000040, 3, 0, 0x40)] }
def sFenceW : State := pkg [(216, { que [cOld, cFeR] with prod := 1, cons := 1, done := 0xFFFFFFFF })] []
theorem runs_fenceW : Runs (sFenceW.toTime 9) 216 cFeR := by constructor <;> first | decide +kernel | exact heldCurrent_of (by decide +kernel)
theorem test_fence_waits : holds (exec (.fence 216 9) sFenceW) (fun t => (findCmd t 216 0).any fun d => d.phase == .running && d.waiting && d.stallNow.map (·.1) == some cFenceWait) = true := by decide +kernel
theorem witness_PlainCommandsAndWait_plain : Works sNop ∧ Canonical sNop ∧ Runs (sNop.toTime 9) 216 (cmd opNop []) ∧ (cmd opNop []).unacked = [] ∧ (cmd opNop []).hdr.opcode = opNop ∧
    Works sFence ∧ Canonical sFence ∧ Runs (sFence.toTime 9) 216 cFe ∧ cFe.hdr.opcode = opFence ∧ fenceHolds (sFence.toTime 9) 216 cFe = true ∧
    Works sFenceW ∧ Canonical sFenceW ∧ Runs (sFenceW.toTime 9) 216 cFeR ∧ cFeR.hdr.opcode = opFence ∧ cFeR.unacked = [] ∧ cFeR.stallNow = none ∧ fenceHolds (sFenceW.toTime 9) 216 cFeR = false ∧
    Works sStep ∧ Canonical sStep ∧ Runs (sStep.toTime 9) 216 cStep ∧ cStep.hdr.opcode = opStep ∧ bit (wd cStep.words 0) 16 = true ∧ (sStep.queue 216).stepEn = true ∧
    (sStep.grp (qHub 216) (sStep.queue 216).stepGrp).en = true ∧ (sStep.grp (qHub 216) (sStep.queue 216).stepGrp).chg = none := by
  refine ⟨works_of ?_, canonical_of ?_ rfl, runs_nop, ?_, ?_, works_of ?_, canonical_of ?_ rfl, runs_fence, ?_, ?_, works_of ?_, canonical_of ?_ rfl, runs_fenceW, ?_, ?_, ?_, ?_,
    works_of ?_, canonical_of ?_ rfl, runs_step, ?_⟩ <;> decide +kernel
def sWait := one (cWait 0) [(0x40, 2), (0x41, 1)]
theorem witness_PlainCommandsAndWait_wait : Works sWait ∧ Canonical sWait ∧ CachesOk sWait ∧ NoPoison sWait ∧ Runs (sWait.toTime 9) 216 (cWait 0) ∧ (cWait 0).unacked = [] ∧ (cWait 0).hdr.opcode = opWait ∧
    ReadsHere (sWait.toTime 9) 216 (cWait 0) (wd (cWait 0).words 0) 8 (sp 0x40 8) ∧ (wd (cWait 0).words 2 = 0 ∧ wd (cWait 0).words 1 = leNat (coherentBytes sWait 0x40 8)) := by
  refine ⟨works_of ?_, canonical_of ?_ rfl, cachesOk_of ?_ rfl, noPoison_of rfl rfl, ?_, ?_, ?_, ?_, ?_⟩
  all_goals first | decide +kernel | (constructor <;> first | decide +kernel | exact heldCurrent_of (by decide +kernel) | (constructor <;> decide +kernel))
def sFill := one cFill []
theorem runs_fill : Runs (sFill.toTime 9) 216 cFill := by constructor <;> first | decide +kernel | exact heldCurrent_of (by decide +kernel)
theorem writes_fill : WritesHere (sFill.toTime 9) 216 cFill (wd cFill.words 0 + (pieceAt 0x44 80 0).1) (pieceAt 0x44 80 0).2 (sp 0x44 60) := by constructor <;> first | decide +kernel | exact heldCurrent_of (by decide +kernel) | (constructor <;> decide +kernel)
theorem witness_FillAndSignalWrite : Works sFill ∧ Canonical sFill ∧ CachesOk sFill ∧ Runs (sFill.toTime 9) 216 cFill ∧ cFill.unacked = [] ∧ cFill.hdr.opcode = opFill ∧ cFill.prog = 0 ∧ wd cFill.words 1 = 80 ∧
    (∃ s', checkAll (sFill.toTime 9) 216 cFill [] [(wd cFill.words 0, 80)] = .ok () s' ∧ s' = sFill.toTime 9) ∧
    WritesHere (sFill.toTime 9) 216 cFill (wd cFill.words 0 + (pieceAt 0x44 80 0).1) (pieceAt 0x44 80 0).2 (sp 0x44 60) ∧
    Works (one (cSig 0) []) ∧ Canonical (one (cSig 0) []) ∧ CachesOk (one (cSig 0) []) ∧ Runs ((one (cSig 0) []).toTime 9) 216 (cSig 0) ∧ (cSig 0).hdr.opcode = opSignal ∧ wd (cSig 0).words 2 = 0 ∧
    WritesHere ((one (cSig 0) []).toTime 9) 216 (cSig 0) (wd (cSig 0).words 0) 8 (sp 0x40 8) := by
  refine ⟨works_of ?_, canonical_of ?_ rfl, cachesOk_of ?_ rfl, runs_fill, ?_, ?_, ?_, ?_, ⟨_, rfl, ?_⟩, writes_fill, works_of ?_, canonical_of ?_ rfl, cachesOk_of ?_ rfl, ?_, ?_, ?_, ?_⟩
  all_goals first | decide +kernel | (constructor <;> first | decide +kernel | exact heldCurrent_of (by decide +kernel) | (constructor <;> decide +kernel))
def noGc (s : State) : State := { s with gcs := [(6, { en := false })] }
def sCopy := noGc (one cCopy [(0x81, 9), (0x82, 8), (0x83, 7)])
def sGat := noGc (one cGat [(0x10C, 5), (0x10F, 6), (0x200, 3)])
def sSca := noGc (one cSca [(0x100, 5), (0x103, 6), (0x200, 3)])
theorem witness_MovesCarryBytes_copy : Works sCopy ∧ Canonical sCopy ∧ CachesOk sCopy ∧ NoPoison sCopy ∧ Runs (sCopy.toTime 9) 216 cCopy ∧ cCopy.unacked = [] ∧ (sCopy.gc (qEng 216)).en = false ∧ cCopy.prog = 0 ∧
    cCopy.hdr.opcode = opCopy ∧ cCopy.hdr.subop = 0 ∧ wd cCopy.words 2 = 3 ∧ (∃ s', checkAll (sCopy.toTime 9) 216 cCopy [(wd cCopy.words 0, 3)] [(wd cCopy.words 1, 3)] = .ok () s' ∧ s' = sCopy.toTime 9) ∧
    ReadsHere (sCopy.toTime 9) 216 cCopy (wd cCopy.words 0 + (pieceAt (wd cCopy.words 1) 3 0).1) (pieceAt (wd cCopy.words 1) 3 0).2 (sp 0x81 3) ∧
    WritesHere (sCopy.toTime 9) 216 cCopy (wd cCopy.words 1 + (pieceAt (wd cCopy.words 1) 3 0).1) (pieceAt (wd cCopy.words 1) 3 0).2 (sp 0x43 3) := by
  refine ⟨works_of ?_, canonical_of ?_ rfl, cachesOk_of ?_ rfl, noPoison_of rfl rfl, ?_, ?_, ?_, ?_, ?_, ?_, ?_, ⟨_, rfl, ?_⟩, ?_, ?_⟩
  all_goals first | decide +kernel | (constructor <;> first | decide +kernel | exact heldCurrent_of (by decide +kernel) | (constructor <;> decide +kernel))
theorem witness_MovesCarryBytes_indexed : Works sGat ∧ Canonical sGat ∧ CachesOk sGat ∧ NoPoison sGat ∧ Runs (sGat.toTime 9) 216 cGat ∧ (sGat.gc (qEng 216)).en = false ∧ cGat.hdr.opcode = opGather ∧
    ReadsHere (sGat.toTime 9) 216 cGat (wd cGat.words 1 + 4 * 0) 4 (sp 0x200 4) ∧ leNat (coherentBytes sGat 0x200 4) = 3 ∧ bits (wd cGat.words 3) 16 20 = 4 ∧
    ReadsHere (sGat.toTime 9) 216 cGat (wd cGat.words 0 + 3 * 4) 4 (sp 0x10C 4) ∧ WritesHere (sGat.toTime 9) 216 cGat (wd cGat.words 2 + 0 * 4) 4 (sp 0x300 4) ∧
    Works sSca ∧ Canonical sSca ∧ CachesOk sSca ∧ NoPoison sSca ∧ Runs (sSca.toTime 9) 216 cSca ∧ (sSca.gc (qEng 216)).en = false ∧ cSca.hdr.opcode = opScatter ∧
    ReadsHere (sSca.toTime 9) 216 cSca (wd cSca.words 1 + 4 * 0) 4 (sp 0x200 4) ∧ leNat (coherentBytes sSca 0x200 4) = 3 ∧
    ReadsHere (sSca.toTime 9) 216 cSca (wd cSca.words 0 + 0 * 4) 4 (sp 0x100 4) ∧ WritesHere (sSca.toTime 9) 216 cSca (wd cSca.words 2 + 3 * 4) 4 (sp 0x30C 4) := by
  refine ⟨works_of ?_, canonical_of ?_ rfl, cachesOk_of ?_ rfl, noPoison_of rfl rfl, ?_, ?_, ?_, ?_, ?_, ?_, ?_, ?_, works_of ?_, canonical_of ?_ rfl, cachesOk_of ?_ rfl, noPoison_of rfl rfl, ?_, ?_, ?_, ?_, ?_, ?_, ?_⟩
  all_goals first | decide +kernel | (constructor <;> first | decide +kernel | exact heldCurrent_of (by decide +kernel) | (constructor <;> decide +kernel))
def sAt (r : W64) := one (cAt 0 r) [(0x40, 3)]
def isOk (e : Except (Miss × State) Span) (x : Span) : Bool := match e with | .ok y => y == x | .error _ => false
theorem of_isOk {e : Except (Miss × State) Span} {x : Span} (h : isOk e x = true) : e = .ok x := by
  unfold isOk at h
  split at h
  · rw [eq_of_beq h]
  · cases h
theorem witness_AtomicUpdatesTarget : Works (sAt 0) ∧ Canonical (sAt 0) ∧ CachesOk (sAt 0) ∧ NoPoison (sAt 0) ∧ Runs ((sAt 0).toTime 9) 216 (cAt 0 0) ∧ (cAt 0 0).unacked = [] ∧ relBlocks ((sAt 0).toTime 9) 216 (cAt 0 0) = false ∧
    sharedWait (sAt 0) [sp 0x40 4] = none ∧ (cAt 0 0).hdr.opcode = opAtomic ∧ wd (cAt 0 0).words 0 % atomicSize (cAt 0 0).hdr.subop = 0 ∧
    atomicLook ((sAt 0).toTime 9) (qHub 216) ((sAt 0).queue 216).ctx (.engine 216) (cAt 0 0).hdr.hint 0 4 (wd (cAt 0 0).words 0) = .ok (sp 0x40 4) ∧ wd (cAt 0 0).words 3 = 0 := by
  refine ⟨works_of ?_, canonical_of ?_ rfl, cachesOk_of ?_ rfl, noPoison_of rfl rfl, ?_, ?_, ?_, ?_, ?_, ?_, of_isOk ?_, ?_⟩
  all_goals first | decide +kernel | (constructor <;> first | decide +kernel | exact heldCurrent_of (by decide +kernel))
theorem witness_AtomicUpdatesTarget_ret : Runs ((sAt 0x80).toTime 9) 216 (cAt 0 0x80) ∧ wd (cAt 0 0x80).words 3 = 0x80 ∧ wd (cAt 0 0x80).words 3 % 8 = 0 ∧
    WritesHere ((sAt 0x80).toTime 9) 216 (cAt 0 0x80) (wd (cAt 0 0x80).words 3) 8 (sp 0x80 8) ∧ sharedWait (sAt 0x80) [sp 0x40 4, sp 0x80 8] = none ∧ 0x40 + 4 ≤ 0x80 ∧
    Runs ((one (cSig 1) [(0x40, 0xFF)]).toTime 9) 216 (cSig 1) ∧ (cSig 1).hdr.opcode = opSignal ∧ wd (cSig 1).words 2 = 1 ∧ wd (cSig 1).words 0 % 8 = 0 ∧
    atomicLook ((one (cSig 1) [(0x40, 0xFF)]).toTime 9) (qHub 216) 32 (.engine 216) (cSig 1).hdr.hint 1 8 (wd (cSig 1).words 0) = .ok (sp 0x40 8) := by
  refine ⟨?_, ?_, ?_, ?_, ?_, ?_, ?_, ?_, ?_, ?_, of_isOk ?_⟩
  all_goals first | decide +kernel | (constructor <;> first | decide +kernel | exact heldCurrent_of (by decide +kernel) | (constructor <;> decide +kernel))
theorem witness_Engines_free : (cmd opNop []).open_ = [] ∧ cFe.open_ = [] ∧ cFeR.open_ = [] ∧ cStep.open_ = [] ∧ (∀ c ∈ [cmd opNop [], cMm, cBadNop], c.head = []) ∧ mget 0 (one cMm []).upsets (cmdKey 216 0) < 2 ∧
    (cAt 0 0x80).fl = [] ∧ (cSig 1).fl = [] ∧ Ungated ((sAt 0x80).toTime 9) 216 (cAt 0 0x80) true [sp 0x40 4] ∧ Ungated ((one (cSig 1) [(0x40, 0xFF)]).toTime 9) 216 (cSig 1) true [sp 0x40 8] ∧
    (findCmd (engClose (acquire (sNop.toTime 9) 216 (cmd opNop [])) 216 (cmd opNop [])) 216 0).map (·.unacked) = some [] := by
  refine ⟨?_, ?_, ?_, ?_, ?_, ?_, ?_, ?_, ⟨?_, ?_, ?_⟩, ⟨?_, ?_, ?_⟩, ?_⟩ <;> decide +kernel
end Engines

/-! ## Tiles, points, attention and creel tables -/

namespace Tiles
def s1 : State := pkg [] []
/-- Command c of queue q, whose engine's gather cache is disabled. -/
def go (q : QIdx) (c : Cmd) (m : List Host.Cell) : State := { pkg [(q.val, que [c])] m with gcs := [(qEng q, { en := false })] }
def sub (n : Nat) (c : Cmd) : Cmd := { c with entry := c.entry.set 3 (BitVec.ofNat 8 n) }
def now (t : State) (q : QIdx) : Cmd := (findCmd t q 0).getD {}
def done (t : State) (q : QIdx) : Bool := decide ((now t q).phase = .ended ∧ (now t q).status = .ok)
def onTo (t : State) (q : QIdx) (k : Nat) : Bool := decide ((now t q).phase = .running ∧ (now t q).prog = k)
/-- A tile's first word, and the second of one with rows of 64 bytes. -/
def tw (va f : Nat) : W64 := BitVec.ofNat 64 (va + 2 ^ 48 * f)
def tr (rows cols : Nat) : W64 := BitVec.ofNat 64 (rows + 65536 * cols + 64 * 2 ^ 32)
def cMm : Cmd := cmd opMatmul [tw 0x1000 1, tr 1 1, tw 0x1040 1, tr 1 1, tw 0x1080 0, tr 1 1]
def sMm : State := go 128 cMm [(0x1001, 0x40), (0x1041, 0x42)]
theorem test_matmul : holds (exec (.matmul 128 1 9) sMm) (fun t => onTo t 128 0 && (now t 128).acc == [0, 0, 0xC0, 0x40, 0] && (now t 128).flags == 0 && t.mem == sMm.mem &&
  holds (exec (.matmul 128 1 9) t) fun t => done t 128 && coherentBytes t 0x107C 12 == [0, 0, 0, 0, 0, 0, 0xC0, 0x40, 0, 0, 0, 0]) = true := by decide +kernel
/-- two rows of D, the sum of whose elements with B is written to rows of 64 bytes -/
def cVec : Cmd := sub 1 (cmd opVec [tw 0x1000 0, tr 2 1, tw 0x1080 0, tr 2 1, tw 0x1100 0, tr 2 1])
def sVec : State := go 128 cVec [(0x1002, 0x80), (0x1003, 0x3F), (0x1043, 0x40), (0x1083, 0x40)]
theorem test_vec : holds (exec (.vec 128 1 9) sVec) (fun t => onTo t 128 0 && (now t 128).acc == [0, 0, 0x40, 0x40, 0, 0, 0, 0, 0x40, 0] &&
  holds (exec (.vec 128 1 9) t) fun t => onTo t 128 1 && coherentBytes t 0x1100 5 == [0, 0, 0x40, 0x40, 0] && holds (exec (.vec 128 1 9) t) fun t => done t 128 && coherentBytes t 0x113F 6 == [0, 0, 0, 0, 0x40, 0]) = true := by decide +kernel
/-- one rule: input row 1, output row 0, offset 2, in FP16 and FP32 -/
def cRb : Cmd := cmd opRb [0x1000, 0x100010001, tw 0x1100 1, tw 0x1200 1, tw 0x1300 0, 0x4000000040]
def sRb : State := go 128 cRb [(0x1000, 1), (0x1008, 2), (0x1141, 0x40), (0x1205, 0x42), (0x1302, 0x80), (0x1303, 0x3F)]
theorem test_rb : holds (exec (.rbMatmul 128 1 9) sRb) (fun t => done t 128 && coherentBytes t 0x12FF 6 == [0, 0, 0, 0xE0, 0x40, 0]) = true := by decide +kernel
def looks (s : State) (q : QIdx) (c : Cmd) (rd wr : Bool) (va n : Nat) : List Span :=
  match vaCheck s (qHub q) (s.queue q).ctx (.engine q) rd wr c.hdr.hint va n with | .ok l => l | _ => []
def freeB (s : State) (q : QIdx) (c : Cmd) (rd wr : Bool) (va n : Nat) : Bool :=
  decide (vaCheck s (qHub q) (s.queue q).ctx (.engine q) rd wr c.hdr.hint va n = .ok (looks s q c rd wr va n)) &&
    (looks s q c rd wr va n).all (fun x => isLocal s x.pa && !memBusy s (offOf x.pa)) && ((spanPieces (looks s q c rd wr va n)).all fun y => isLocal s y.1 && !isReg (offOf y.1)) &&
    (!unackedBlocks s q c (looks s q c rd wr va n) && !orderBlocks s q c wr (looks s q c rd wr va n) && decide (linkHeld s q (looks s q c rd wr va n) = []))
theorem reads_of {s : State} {q : QIdx} {c : Cmd} {va n : Nat} (bs : List Byte) (h : (freeB s q c true false va n && spanBytes s (looks s q c true false va n) == bs) = true) : ReadsAs s q c va n bs := by
  simp only [freeB, Bool.and_eq_true, decide_eq_true_eq, List.all_eq_true, Bool.not_eq_true', beq_iff_eq] at h
  exact ⟨_, ⟨h.1.1.1.1, h.1.1.1.2, h.1.1.2, ⟨h.1.2.1.1, h.1.2.1.2, h.1.2.2⟩⟩, h.2⟩
theorem writes_of {s : State} {q : QIdx} {c : Cmd} {va n : Nat} (h : freeB s q c false true va n = true) : WritesTo s q c va n (looks s q c false true va n) := by
  simp only [freeB, Bool.and_eq_true, decide_eq_true_eq, List.all_eq_true, Bool.not_eq_true'] at h
  exact ⟨h.1.1.1, h.1.1.2, h.1.2, ⟨h.2.1.1, h.2.1.2, h.2.2⟩⟩
def landB (s : State) (q : QIdx) (c : Cmd) (l : List Span) : Bool :=
  decide (sharedWait s l = none) && decide (l.Pairwise fun x y => x.pa + x.n ≤ y.pa ∨ y.pa + y.n ≤ x.pa) && !oneHub c.hdr && !relBlocks s q c
theorem lands_of {s : State} {q : QIdx} {c : Cmd} {l : List Span} (h : landB s q c l = true) : Lands s q c l := by
  simp only [landB, Bool.and_eq_true, decide_eq_true_eq, Bool.not_eq_true'] at h
  exact ⟨h.1.1.1, h.1.1.2, h.1.2, h.2⟩
/-- What every statement of a longer access asks of the state and of the command. -/
def Ready (s : State) (q : QIdx) (c : Cmd) : Prop := Works s ∧ Canonical s ∧ CachesOk s ∧ NoPoison s ∧ Runs (s.toTime 9) q c ∧ Fresh c
def runsB (s : State) (q : QIdx) (c : Cmd) : Bool :=
  decide ((s.queue q).target = some c ∧ findCmd s q c.seq = some c ∧ c.phase = .running ∧ c.startT.isSome = true ∧ c.paused = false ∧ c.performed = false ∧ c.waiting = false ∧ c.body.isSome = true) &&
    accepts (qEngId q) c.hdr.opcode && decide (checkCmd (qEngId q) s.boot.feat c.dx2 false c.hdr (entryWords c.dx2 c.entry) c.words = none) &&
    decide (creelGate s q c = .go ∧ c.lateCp = none) && !isPartial c.hdr && decide (∀ p ∈ engineTargets s (qEng q), isReady p.2 = false) &&
    decide (c.rdata = [] ∧ c.rfail = none ∧ c.unacked = []) &&
    decide (mget 0 s.upsets (cmdKey q c.seq) < 2 ∧ (c.stallNow.map (·.1)) ≠ some cKnotHold ∧ c.head = [] ∧ (s.hub (qHub q)).xlt.held = [])
theorem ready_of {s : State} {q : QIdx} {c : Cmd} (h : (s.alive && canonB s && runsB (s.toTime 9) q c) = true) (hb : s.blks = []) (hp : s.poison = []) (hc : s.caches = []) (hu : s.upsets = [] := by rfl) : Ready s q c := by
  simp only [runsB, Bool.and_eq_true, decide_eq_true_eq, Bool.not_eq_true'] at h
  obtain ⟨⟨ha, hk⟩, ⟨⟨⟨⟨⟨⟨⟨h1, h2, h3, h4, h5, h6, h7, h8⟩, h9⟩, h10⟩, h11⟩, h12⟩, h13⟩, f1, f2, f4⟩, g1, g2, g3, g4⟩ := h
  have k := canonical_of hk hb
  exact ⟨ha, k, cachesOk_of k.mem hc, noPoison_of hp hc hu, ⟨h1, h2, h3, h4, ⟨h5, h6⟩, .inl h7, h8, h9, h10, .inr h11, .inl h12, h13, g1, ⟨.inr f4, g2⟩, .inr g3, heldCurrent_of g4⟩, ⟨f1, f2⟩, f4⟩
theorem ready_cMm : Ready sMm 128 cMm := ready_of (by decide +kernel) rfl rfl rfl
theorem ready_cVec : Ready sVec 128 cVec := ready_of (by decide +kernel) rfl rfl rfl
/-- A command between two boundaries, of which the rows are kept. -/
def cRow : Cmd := { cVec with acc := [0, 0, 0x40, 0x40, 0, 0, 0, 0, 0x40, 0], prog := 1 }
def sRow : State := go 128 cRow []
theorem ready_cRow : Ready sRow 128 cRow := ready_of (by decide +kernel) rfl rfl rfl
def tileA : TileData := { rows := [[0, 0x40]], scales := [] }
def tileB : TileData := { rows := [[0, 0x42]], scales := [] }
theorem one_row {s : State} {q : QIdx} {c : Cmd} {t : Tile} (b : List Byte) (h1 : t.rows = 1) (h0 : t.scaleBytes = 0) (h : ReadsAs s q c (t.va + 0 * t.stride) t.rowBytes b) : ReadsTile s q c t { rows := [b], scales := [] } := by
  refine ⟨by rw [h1]; rfl, fun r hr => ?_, by rw [if_pos h0]⟩
  obtain rfl : r = 0 := by omega
  exact h
theorem witness_MatrixRows : ReadsTile (sMm.toTime 9) 128 cMm (tileOf cMm.words 0) tileA ∧ ReadsTile (sMm.toTime 9) 128 cMm (tileOf cMm.words 2) tileB ∧ cMm.acc = [] ∧ cMm.hdr.opcode = opMatmul ∧ bit cMm.hdr.subop 0 = false ∧
    checkAll (sMm.toTime 9) 128 cMm ((tileOf cMm.words 0).ranges ++ (tileOf cMm.words 2).ranges ++ []) (rowsOf 0x1080 1 4 64) = .ok () (sMm.toTime 9) :=
  ⟨one_row _ (by decide +kernel) (by decide +kernel) (reads_of _ (by decide +kernel)), one_row _ (by decide +kernel) (by decide +kernel) (reads_of _ (by decide +kernel)), rfl, by decide +kernel, by decide +kernel, rfl⟩
theorem two_rows {s : State} {q : QIdx} {c : Cmd} {t : Tile} (a b : List Byte) (h2 : t.rows = 2) (h0 : t.scaleBytes = 0) (ha : ReadsAs s q c (t.va + 0 * t.stride) t.rowBytes a) (hb : ReadsAs s q c (t.va + 1 * t.stride) t.rowBytes b) :
    ReadsTile s q c t { rows := [a, b], scales := [] } := by
  refine ⟨by rw [h2]; rfl, fun r hr => ?_, by rw [if_pos h0]⟩
  obtain rfl | rfl : r = 0 ∨ r = 1 := by omega
  · exact ha
  · exact hb
theorem witness_MatrixRows_vec : ReadsTile (sVec.toTime 9) 128 cVec (tileOf cVec.words 0) { rows := [[0, 0, 0x80, 0x3F], [0, 0, 0, 0x40]], scales := [] } ∧ ReadsTile (sVec.toTime 9) 128 cVec (tileOf cVec.words 2) { rows := [[0, 0, 0, 0x40], [0, 0, 0, 0]], scales := [] } ∧
    cVec.acc = [] ∧ cVec.hdr.opcode = opVec ∧ checkAll (sVec.toTime 9) 128 cVec ((tileOf cVec.words 0).ranges ++ (tileOf cVec.words 2).ranges) (tileOf cVec.words 4).ranges = .ok () (sVec.toTime 9) :=
  ⟨two_rows _ _ (by decide +kernel) (by decide +kernel) (reads_of _ (by decide +kernel)) (reads_of _ (by decide +kernel)), two_rows _ _ (by decide +kernel) (by decide +kernel) (reads_of _ (by decide +kernel)) (reads_of _ (by decide +kernel)), rfl, by decide +kernel, rfl⟩
theorem witness_MatrixRows_row : cRow.prog = 1 ∧ cRow.acc ≠ [] ∧ (1 + 1) * ((tileOf cRow.words 4).rowBytes + 1) ≤ cRow.acc.length ∧ 0 < (tileOf cRow.words 4).rowBytes ∧
    WritesTo (sRow.toTime 9) 128 cRow 0x1140 4 (looks (sRow.toTime 9) 128 cRow false true 0x1140 4) ∧ Lands (sRow.toTime 9) 128 cRow (looks (sRow.toTime 9) 128 cRow false true 0x1140 4) :=
  ⟨rfl, by decide, by decide +kernel, by decide +kernel, writes_of (by decide +kernel), lands_of (by decide +kernel)⟩
theorem ready_cRb : Ready sRb 128 cRb := ready_of (by decide +kernel) rfl rfl rfl
def rule0 : List Byte := [1, 0, 0, 0, 0, 0, 0, 0, 2, 0, 0, 0, 0, 0, 0, 0]
theorem witness_RuleMatmul : (sRb.gc (qEng 128)).en = false ∧ cRb.hdr.opcode = opRb ∧ cRb.prog = 0 ∧ bits (wd cRb.words 1) 0 16 = 0 + 1 ∧ ReadsAs (sRb.toTime 9) 128 cRb 0x1000 16 rule0 ∧ leAt rule0 8 1 ≤ 124 ∧ leAt rule0 9 7 = 0 ∧
    ReadsAs (sRb.toTime 9) 128 cRb 0x1140 2 [0, 0x40] ∧ ReadsAs (sRb.toTime 9) 128 cRb 0x1204 2 [0, 0x42] ∧ ReadsAs (sRb.toTime 9) 128 cRb 0x1300 4 [0, 0, 0x80, 0x3F] ∧
    WritesTo (sRb.toTime 9) 128 cRb 0x1300 4 (looks (sRb.toTime 9) 128 cRb false true 0x1300 4) ∧ Lands (sRb.toTime 9) 128 cRb (looks (sRb.toTime 9) 128 cRb false true 0x1300 4) :=
  ⟨by decide +kernel, by decide +kernel, rfl, by decide +kernel, reads_of _ (by decide +kernel), by decide +kernel, by decide +kernel, reads_of _ (by decide +kernel), reads_of _ (by decide +kernel), reads_of _ (by decide +kernel),
    writes_of (by decide +kernel), lands_of (by decide +kernel)⟩
def cPt (op : Nat) : Cmd := cmd op [0x10000, 0x3F8000000000000A, 0x20000, 1, 0x21000, 0x22000]
/-- The point (1.5, 0, 0) with attribute 7, voxels of 1, and slots as given. -/
def sPt (op : Nat) (m : List Host.Cell) : State := go 208 (cPt op) (m ++ [(0x20002, 0xC0), (0x20003, 0x3F), (0x2000C, 7)])
def recOf (t : State) : List Byte := coherentBytes t 0x21010 14
theorem test_insert : (holds (exec (.ptInsert 208 1 9) (sPt opInsert [])) (fun t => done t 208 && coherentBytes t 0x11C50 16 == [1, 0, 0, 0, 0, 0, 0, 0x80, 1, 0, 0, 0, 0, 0, 0, 0] &&
    recOf t == [1, 0, 0, 0, 0, 0, 0, 0, 0xC5, 1, 0, 0, 0, 0]) &&
  holds (exec (.ptInsert 208 1 9) (sPt opInsert [(0x11C50, 1), (0x11C57, 0x80), (0x11C58, 4)])) (fun t => done t 208 && coherentByte t 0x11C58 == 5 && recOf t == [1, 0, 0, 0, 0, 0, 0, 0, 0xC5, 1, 0, 0, 1, 0])) = true := by decide +kernel
theorem test_lookup : (holds (exec (.ptLookup 208 1 9) (sPt opLookup [])) (fun t => done t 208 && recOf t == [1, 0, 0, 0, 0, 0, 0, 0, 0xFF, 0xFF, 0xFF, 0xFF, 3, 0]) &&
  holds (exec (.ptLookup 208 1 9) (sPt opLookup [(0x11C57, 0x80), (0x11C60, 1), (0x11C67, 0x80)])) (fun t => done t 208 && recOf t == [1, 0, 0, 0, 0, 0, 0, 0, 0xC6, 1, 0, 0, 2, 0])) = true := by decide +kernel
/-- off the grid: a negative coordinate -/
def sOff (op : Nat) : State := go 208 (cPt op) [(0x20002, 0xC0), (0x20003, 0xBF)]
theorem test_point_off : holds (exec (.ptLookup 208 1 9) (sOff opLookup)) (fun t => done t 208 && recOf t == [255, 255, 255, 255, 255, 255, 255, 255, 255, 255, 255, 255, 6, 0]) = true := by decide +kernel
def pt1 : List Byte := [0, 0, 0xC0, 0x3F, 0, 0, 0, 0, 0, 0, 0, 0, 7, 0, 0, 0]
def zeros (n : Nat) : List Byte := List.replicate n 0
def held (k : Byte) : List Byte := [k, 0, 0, 0, 0, 0, 0, 0x80, 0, 0, 0, 0, 0, 0, 0, 0]
def uPt (op : Nat) (m : List Host.Cell) : State := (sPt op m).toTime 9
/-- the second slot of the sequence holds the key -/
def past : List Host.Cell := [(0x11C57, 0x80), (0x11C60, 1), (0x11C67, 0x80)]
/-- all slots of the sequence hold other keys -/
def fullTable : List Host.Cell := (List.range 32).flatMap fun i => [(0x11C50 + 16 * i, 9), (0x11C57 + 16 * i, 0x80)]
theorem ready_point : Ready (sPt opInsert []) 208 (cPt opInsert) ∧ Ready (sPt opLookup past) 208 (cPt opLookup) := ⟨ready_of (by decide +kernel) rfl rfl rfl, ready_of (by decide +kernel) rfl rfl rfl⟩
theorem ready_full : Ready (sPt opInsert fullTable) 208 (cPt opInsert) := ready_of (by decide +kernel) rfl rfl rfl
theorem probes_of {s : State} {q : QIdx} {c : Cmd} {key n : Nat} (b : Nat → List Byte)
    (h : ∀ i < n, (freeB s q c true false (wd c.words 0 + 16 * probeSlot c.words key i) 16 && spanBytes s (looks s q c true false (wd c.words 0 + 16 * probeSlot c.words key i) 16) == b i) = true ∧ bit (leAt (b i) 0 8) 63 = true ∧ leAt (b i) 0 8 % 2 ^ 63 ≠ key) :
    ProbesPast s q c key n b := fun i hi =>
  ⟨reads_of _ (h i hi).1, (fun (e : bit (leAt (b i) 0 8) 63 = false) => by rw [(h i hi).2.1] at e; cases e), fun e => (h i hi).2.2 e.2⟩
theorem witness_PointsFindTheirSlots : ReadsAs (uPt opInsert []) 208 (cPt opInsert) 0x20000 16 pt1 ∧ ReadsAs (uPt opInsert []) 208 (cPt opInsert) 0x22000 16 (zeros 16) ∧
    WritesTo (uPt opInsert []) 208 (cPt opInsert) 0x21000 32 (looks (uPt opInsert []) 208 (cPt opInsert) false true 0x21000 32) ∧ (pointKey pt1 (zeros 16) 0x3F800000).1 = some 1 ∧ probeSlot (cPt opInsert).words 1 0 = 0x1C5 ∧
    ReadsAs (uPt opInsert []) 208 (cPt opInsert) 0x11C50 16 (zeros 16) ∧ slotEmpty (zeros 16) ∧ WritesTo (uPt opInsert []) 208 (cPt opInsert) 0x11C50 16 (looks (uPt opInsert []) 208 (cPt opInsert) false true 0x11C50 16) ∧
    Lands (uPt opInsert []) 208 (cPt opInsert) (looks (uPt opInsert []) 208 (cPt opInsert) false true 0x11C50 16 ++ looks (uPt opInsert []) 208 (cPt opInsert) false true 0x21000 32) :=
  ⟨reads_of _ (by decide +kernel), reads_of _ (by decide +kernel), writes_of (by decide +kernel), by decide +kernel, by decide +kernel, reads_of _ (by decide +kernel), (by unfold slotEmpty; decide +kernel), writes_of (by decide +kernel), lands_of (by decide +kernel)⟩
theorem witness_PointsFindTheirSlots_past : ProbesPast (uPt opLookup past) 208 (cPt opLookup) 1 1 (fun _ => held 0) ∧ ReadsAs (uPt opLookup past) 208 (cPt opLookup) 0x11C60 16 (held 1) ∧ slotHolds (held 1) 1 ∧
    Lands (uPt opLookup past) 208 (cPt opLookup) (looks (uPt opLookup past) 208 (cPt opLookup) false true 0x21000 32) :=
  ⟨probes_of _ (by decide +kernel), reads_of _ (by decide +kernel), ⟨by decide +kernel, by decide +kernel⟩, lands_of (by decide +kernel)⟩
theorem witness_PointsFindTheirSlots_full : ProbesPast (uPt opInsert fullTable) 208 (cPt opInsert) 1 32 (fun _ => held 9) := probes_of _ (by decide +kernel)
theorem witness_PointsFindTheirSlots_off : (pointKey [0, 0, 0xC0, 0xBF, 0, 0, 0, 0, 0, 0, 0, 0, 0, 0, 0, 0] (zeros 16) 0x3F800000).1 = none := by decide +kernel
theorem witness_PointsFindTheirSlots_held : WritesTo (uPt opInsert []) 208 (cPt opInsert) 0x11C58 8 (looks (uPt opInsert []) 208 (cPt opInsert) false true 0x11C58 8) ∧
    Lands (uPt opInsert []) 208 (cPt opInsert) (looks (uPt opInsert []) 208 (cPt opInsert) false true 0x11C58 8 ++ looks (uPt opInsert []) 208 (cPt opInsert) false true 0x21000 32) := ⟨writes_of (by decide +kernel), lands_of (by decide +kernel)⟩
def cSe (op : Nat) : Cmd := cmd op [0x10000, 0x3F8000000000000A, 0x20000, 0x10001, 0x21000, 0x3F800000]
/-- The query (0, 0, 0) with radius 1 and K = 1; the voxel (1, 0, 0) lists (1, 0, 0) with ID 9 and (½, 0, 0) with ID 4. -/
def sSe (op : Nat) (k : Byte) : State :=
  go 208 (cSe op) ([(0x11C50, 1), (0x11C57, 0x80), (0x11C59, 0x30), (0x11C5A, 2), (0x11C5E, 2)] ++ (if k = 0 then [] else [(0x20017, k)]) ++ [(0x23002, 0x80), (0x23003, 0x3F), (0x2300C, 9), (0x23013, 0x3F), (0x2301C, 4)])
theorem test_ball : holds (exec (.ptBall 208 1 9) (sSe opBall 0)) (fun t => done t 208 && coherentBytes t 0x21000 17 == [1, 0, 0, 1, 2, 0, 0, 0, 9, 0, 0, 0, 0, 0, 0x80, 0x3F, 0]) = true := by decide +kernel
theorem test_knn : holds (exec (.ptKnn 208 1 9) (sSe opKnn 0)) (fun t => done t 208 && coherentBytes t 0x21000 17 == [1, 0, 0, 0, 2, 0, 0, 0, 4, 0, 0, 0, 0, 0, 0x80, 0x3E, 0]) = true := by decide +kernel
theorem test_knn_off : holds (exec (.ptKnn 208 1 9) (sSe opKnn 0x80)) (fun t => done t 208 && coherentBytes t 0x21000 16 == [0, 0, 6, 0, 0, 0, 0, 0, 0xFF, 0xFF, 0xFF, 0xFF, 0, 0, 0x80, 0x7F]) = true := by decide +kernel
/-- a site at (1, 0, 0) with ID 6, whose voxel holds 5; kernel 1, stride 1 -/
def cRu (w5 : W64) : Cmd := cmd opRulebook [0x10000, 0x110A, 0x20000, 1, 0x21000, w5]
def sRu (w5 : W64) (v : List Host.Cell) : State := go 208 (cRu w5) (v ++ [(0x20000, 1), (0x20008, 6)])
theorem test_rulebook : (holds (exec (.ptRulebook 208 1 9) (sRu 0x22000 [(0x11C50, 1), (0x11C57, 0x80), (0x11C58, 5)])) (fun t => done t 208 && coherentBytes t 0x21000 8 == [1, 0, 0, 0, 1, 0, 0, 0] &&
    coherentBytes t 0x21040 16 == [5, 0, 0, 0, 6, 0, 0, 0, 0, 0, 0, 0, 0, 0, 0, 0] && coherentBytes t 0x22000 8 == [0, 0, 0, 0, 1, 0, 0, 0]) &&
  holds (exec (.ptRulebook 208 1 9) (sRu 0 [])) (fun t => done t 208 && coherentBytes t 0x21000 8 == [0, 0, 0, 0, 1, 0, 0, 0])) = true := by decide +kernel
def uSe (op : Nat) : State := (sSe op 0).toTime 9
/-- what the home slots of the near voxels hold: one lists two points -/
def val1 (key : Nat) : Option Nat := if key = 1 then some 0x2000000023000 else none
def near1 : List (List Byte) := [[0, 0, 0x80, 0x3F, 0, 0, 0, 0, 0, 0, 0, 0, 9, 0, 0, 0], [0, 0, 0, 0x3F, 0, 0, 0, 0, 0, 0, 0, 0, 4, 0, 0, 0]]
def pts1 (key : Nat) : List (List Byte) := if key = 1 then near1 else []
def slot1 : List Byte := [1, 0, 0, 0, 0, 0, 0, 0x80, 0, 0x30, 2, 0, 0, 0, 2, 0]
theorem ready_search : Ready (sSe opKnn 0) 208 (cSe opKnn) ∧ Ready (sSe opBall 0x80) 208 (cSe opBall) := ⟨ready_of (by decide +kernel) rfl rfl rfl, ready_of (by decide +kernel) rfl rfl rfl⟩
def homeB (s : State) (c : Cmd) (key : Nat) (b : List Byte) : Bool := freeB s 208 c true false (wd c.words 0 + 16 * probeSlot c.words key 0) 16 && spanBytes s (looks s 208 c true false (wd c.words 0 + 16 * probeSlot c.words key 0) 16) == b
theorem witness_PointSearches_keys : nearKeys 0 (reach 0x3F800000 0x3F800000) = [0, 1, 2 ^ 21, 2 ^ 21 + 1, 2 ^ 42, 2 ^ 42 + 1, 2 ^ 42 + 2 ^ 21, 2 ^ 42 + 2 ^ 21 + 1] ∧
    (∀ key ∈ nearKeys 0 (reach 0x3F800000 0x3F800000), homeB (uSe opKnn) (cSe opKnn) key (if key = 1 then slot1 else zeros 16) = true) := by decide +kernel
theorem witness_PointSearches : ReadsAs (uSe opKnn) 208 (cSe opKnn) 0x20000 12 (zeros 12) ∧ ReadsAs (uSe opKnn) 208 (cSe opKnn) 0x20010 8 (zeros 8) ∧
    (∀ key ∈ nearKeys 0 (reach 0x3F800000 0x3F800000), ∃ b, ReadsAs (uSe opKnn) 208 (cSe opKnn) (wd (cSe opKnn).words 0 + 16 * probeSlot (cSe opKnn).words key 0) 16 b ∧ (match val1 key with | none => slotEmpty b | some v => slotHolds b key ∧ leAt b 8 8 = v)) ∧
    (∀ j < bits 0x2000000023000 48 16, ReadsAs (uSe opKnn) 208 (cSe opKnn) (bits 0x2000000023000 0 48 + 16 * j) 16 ((pts1 1).getD j [])) ∧ (pts1 1).length = bits 0x2000000023000 48 16 ∧
    WritesTo (uSe opKnn) 208 (cSe opKnn) 0x21000 16 (looks (uSe opKnn) 208 (cSe opKnn) false true 0x21000 16) ∧ Lands (uSe opKnn) 208 (cSe opKnn) (looks (uSe opKnn) 208 (cSe opKnn) false true 0x21000 16) := by
  refine ⟨reads_of _ (by decide +kernel), reads_of _ (by decide +kernel), fun key hk => ⟨_, reads_of _ (witness_PointSearches_keys.2 key hk), ?_⟩, fun j hj => ?_, by decide +kernel, writes_of (by decide +kernel), lands_of (by decide +kernel)⟩
  · by_cases h : key = 1
    · subst h; exact ⟨⟨by decide +kernel, by decide +kernel⟩, by decide +kernel⟩
    · simp only [val1, if_neg h]; unfold slotEmpty; decide +kernel
  · have e : bits 0x2000000023000 48 16 = 2 := by decide +kernel
    obtain rfl | rfl : j = 0 ∨ j = 1 := by omega
    · exact reads_of _ (by decide +kernel)
    · exact reads_of _ (by decide +kernel)
def occupied : List Host.Cell := [(0x11C50, 1), (0x11C57, 0x80), (0x11C58, 5)]
def sRb5 : State := sRu 0x22000 occupied
def uRu : State := sRb5.toTime 9
def site1 : List Byte := [1, 0, 0, 0, 0, 0, 0, 0, 6, 0, 0, 0, 0, 0, 0, 0]
theorem ready_rulebook : Ready sRb5 208 (cRu 0x22000) ∧ Ready (sRu 0 []) 208 (cRu 0) := ⟨ready_of (by decide +kernel) rfl rfl rfl, ready_of (by decide +kernel) rfl rfl rfl⟩
theorem witness_PointSearches_rulebook : ReadsAs uRu 208 (cRu 0x22000) 0x20000 16 site1 ∧ siteKeys 1 1 1 = [(0, 1)] ∧ ReadsAs uRu 208 (cRu 0x22000) 0x11C50 16 [1, 0, 0, 0, 0, 0, 0, 0x80, 5, 0, 0, 0, 0, 0, 0, 0] ∧
    WritesTo uRu 208 (cRu 0x22000) 0x21040 16 (looks uRu 208 (cRu 0x22000) false true 0x21040 16) ∧ WritesTo uRu 208 (cRu 0x22000) 0x22000 8 (looks uRu 208 (cRu 0x22000) false true 0x22000 8) ∧
    WritesTo uRu 208 (cRu 0x22000) 0x21000 64 (looks uRu 208 (cRu 0x22000) false true 0x21000 64) ∧
    Lands uRu 208 (cRu 0x22000) (looks uRu 208 (cRu 0x22000) false true 0x21040 16 ++ looks uRu 208 (cRu 0x22000) false true 0x22000 8 ++ looks uRu 208 (cRu 0x22000) false true 0x21000 64) :=
  ⟨reads_of _ (by decide +kernel), by decide +kernel, reads_of _ (by decide +kernel), writes_of (by decide +kernel), writes_of (by decide +kernel), writes_of (by decide +kernel), lands_of (by decide +kernel)⟩
/-- Group 5 with one span of one row of 64: the triple has m = 0, l = 2 and o₀ = 3. -/
def cCo : Cmd := cmd opCombine [0x0040000100010005, 0x2000, tw 0x4000 0, 256]
def sCo (x : CbGrp) : State := { go 0 cCo [(0x2002, 5), (0x2004, 1), (0x2006, 64), (0x2083, 0x40), (0x20C2, 0x40), (0x20C3, 0x40)] with hub0 := { s1.hub0 with cbGrps := if x = {} then [] else [(5, x)] } }
theorem test_combine : holds (exec (.combine 0 9) (sCo { st := .collecting, spans := [(0, true)] })) (fun t => done t 0 && coherentBytes t 0x3FFE 8 == [0, 0, 0, 0, 0xC0, 0x3F, 0, 0]) = true := by decide +kernel
theorem test_combine_waits : holds (exec (.combine 0 9) (sCo {})) (fun t => onTo t 0 0 && (now t 0).waiting && (now t 0).marked && (t.cbGrp 0 5).st == .opened) = true := by decide +kernel
theorem test_combine_failed : holds (exec (.combine 0 9) (sCo { st := .collecting, fail := some 0 })) (fun t => (now t 0).phase == .ended && (now t 0).status == .depFailed && (now t 0).cause == cFetchFailed && (t.cbGrp 0 5).st == .stale) = true := by decide +kernel
/-- one query of 64 elements and the one token 3 of a page table, with the value 1½ at element 0; MASK asks for the position of the query -/
def cAt : Cmd := sub 2 (cmd opAttn [tw 0x3000 0, 0x1000, 0x100000003, tw 0x4000 0, 0x3F80000000400001])
def sAt (pos : Byte) : State := go 192 cAt [(0x1000, 1), (0x1004, 1), (0x100E, 0x80), (0x100F, 0x3F), (0x1012, 0x80), (0x1013, 0x3F), (0x1042, 1), (0x1047, 0x80), (0x3003, 0x40), (0x3100, pos), (0x3104, 1), (0x10181, 0x40), (0x18181, 0x3E)]
theorem test_attn : holds (exec (.attn 192 9) (sAt 3)) (fun t => done t 192 && coherentBytes t 0x4000 6 == [0, 0, 0xC0, 0x3F, 0, 0]) = true := by decide +kernel
theorem test_attn_masked : holds (exec (.attn 192 9) (sAt 2)) (fun t => done t 192 && coherentBytes t 0x4000 6 == [0, 0, 0, 0, 0, 0]) = true := by decide +kernel
def sC1 : State := sCo { st := .collecting, spans := [(0, true)] }
def uC1 : State := sC1.toTime 9
def triple1 : List Byte := [0, 0, 5, 0, 1, 0, 64, 0] ++ List.replicate 120 0 ++ [0, 0, 0, 0x40] ++ List.replicate 60 0 ++ [0, 0, 0x40, 0x40] ++ List.replicate 252 0
theorem ready_combine : Ready sC1 0 cCo ∧ Ready (sCo {}) 0 cCo ∧ Ready (sCo { st := .collecting, fail := some 0 }) 0 cCo := by
  refine ⟨ready_of ?_ rfl rfl rfl, ready_of ?_ rfl rfl rfl, ready_of ?_ rfl rfl rfl⟩ <;> decide +kernel
theorem witness_CombineMergesSpans : cCo.hdr.opcode = opCombine ∧ cCo.marked = false ∧ (sC1.cbGrp (qHub 0) 5).st = .collecting ∧ mwf false (sC1.cbGrp (qHub 0) 5).spans = true ∧ (sC1.cbGrp (qHub 0) 5).fail = none ∧
    mget false (sC1.cbGrp (qHub 0) 5).spans 0 = true ∧ tripleBytes 1 64 = 448 ∧ leAt triple1 0 2 = 0 ∧ leAt triple1 2 2 = 5 ∧ leAt triple1 4 2 = 1 ∧ leAt triple1 6 2 = 64 := by decide +kernel
theorem reads_spans {s : State} {q : QIdx} {c : Cmd} {va n : Nat} (bs : List Byte) (h : (freeB s q c true false va n && spanBytes s (looks s q c true false va n) == bs) = true) :
    ReadsFrom s q c va n (looks s q c true false va n) ∧ spanBytes s (looks s q c true false va n) = bs := by
  simp only [freeB, Bool.and_eq_true, decide_eq_true_eq, List.all_eq_true, Bool.not_eq_true', beq_iff_eq] at h
  exact ⟨⟨h.1.1.1.1, h.1.1.1.2, h.1.1.2, ⟨h.1.2.1.1, h.1.2.1.2, h.1.2.2⟩⟩, h.2⟩
theorem witness_CombineMergesSpans_read : (ReadsFrom uC1 0 cCo 0x2000 448 (looks uC1 0 cCo true false 0x2000 448) ∧ spanBytes uC1 (looks uC1 0 cCo true false 0x2000 448) = triple1) ∧
    ∀ y ∈ looks uC1 0 cCo true false 0x2000 448, destHub uC1 y.pa = (uC1.boot.pos.val, (qHub 0).val) ∧ tripleMem uC1 y.pa = true := ⟨reads_spans _ (by decide +kernel), by decide +kernel⟩
theorem witness_CombineMergesSpans_write : WritesTo uC1 0 cCo 0x4000 256 (looks uC1 0 cCo false true 0x4000 256) ∧ Lands uC1 0 cCo (looks uC1 0 cCo false true 0x4000 256) := ⟨writes_of (by decide +kernel), lands_of (by decide +kernel)⟩
theorem witness_CombineMergesSpans_waits : mget false ((sCo {}).cbGrp (qHub 0) 5).spans 0 = false ∧ ((sCo { st := .collecting, fail := some 0 }).cbGrp (qHub 0) 5).fail = some 0 := by decide +kernel
def uAt : State := (sAt 3).toTime 9
def head1 : List Byte := [1, 0, 0, 0, 1, 0, 0, 0, 0, 0, 0, 0, 0, 0, 0x80, 0x3F, 0, 0, 0x80, 0x3F] ++ List.replicate 44 0
def qrow : List Byte := [0, 0, 0, 0x40] ++ List.replicate 252 0
def krow : List Byte := [0, 0x40] ++ List.replicate 126 0
def vrow : List Byte := [0, 0x3E] ++ List.replicate 126 0
theorem ready_attn : Ready (sAt 3) 192 cAt := ready_of (by decide +kernel) rfl rfl rfl
theorem witness_AttentionWritesRows : cAt.hdr.opcode = opAttn ∧ bit cAt.hdr.subop 0 = false ∧ bit cAt.hdr.subop 1 = true ∧ kvHeadOk cAt.words head1 = true ∧ ((sAt 3).gc (qEng 192)).en = false := by decide +kernel
theorem witness_AttentionWritesRows_reads : ReadsAs uAt 192 cAt 0x1000 64 head1 ∧ ReadsAs uAt 192 cAt 0x3000 256 qrow ∧ ReadsAs uAt 192 cAt 0x3100 16 [3, 0, 0, 0, 1, 0, 0, 0, 0, 0, 0, 0, 0, 0, 0, 0] ∧ ReadsAs uAt 192 cAt 0x1040 8 [0, 0, 1, 0, 0, 0, 0, 0x80] ∧
    ReadsAs uAt 192 cAt 0x10180 128 krow ∧ ReadsAs uAt 192 cAt 0x18180 128 vrow :=
  ⟨reads_of _ (by decide +kernel), reads_of _ (by decide +kernel), reads_of _ (by decide +kernel), reads_of _ (by decide +kernel), reads_of _ (by decide +kernel), reads_of _ (by decide +kernel)⟩
theorem witness_AttentionWritesRows_write : WritesTo uAt 192 cAt 0x4000 256 (looks uAt 192 cAt false true 0x4000 256) ∧ Lands uAt 192 cAt (looks uAt 192 cAt false true 0x4000 256) := ⟨writes_of (by decide +kernel), lands_of (by decide +kernel)⟩
/-- A table of two layers with one buffer of one page and one entry for layer 1 with LEAD 1. -/
def cAr : Cmd := cmd opCreel [0x1000, 0x30001]
def sAr (n : Byte) : State := { go 216 cAr [(0x1002, 2), (0x1004, n), (0x1012, 2), (0x1019, 0x10), (0x101C, 1), (0x1200, 1), (0x1202, 1), (0x1204, 64), (0x1209, 0x30)] with hub0 := { s1.hub0 with grps := [(3, { layer := 5 })] } }
theorem test_arm : holds (exec (.creelArm 216 9) (sAr 1)) (fun t => done t 216 && (t.creel 0).st == 1 && (t.creel 0).group == 3 && (t.creel 0).aArm == 1 && (t.creel 0).layers == 2 && (t.creel 0).ents.length == 1 && t.mem == (sAr 1).mem) = true := by decide +kernel
theorem test_arm_bad : holds (exec (.creelArm 216 9) (sAr 0)) (fun t => (now t 216).phase == .ended && (now t 216).cause == cBadOperand && t.creels == []) = true := by decide +kernel
def cDa : Cmd := sub 1 (cmd opCreel [])
def sDa (f : List (Nat × Option Fetch)) : State := { go 216 cDa [] with creels := [(0, { st := 1, nbuf := 1, layers := 2, fetches := f }), (1, { st := 1 })] }
theorem test_disarm : (holds (exec (.creelDisarm 216 9) (sDa [])) (fun t => done t 216 && (t.creel 0).st == 0 && (t.creel 1).st == 1 && t.mem == tables) &&
  holds (exec (.creelDisarm 216 9) (sDa [(0, some { occ := 0, st := .filling, at0 := 0, rdata := [], need := [], rfail := none })])) (fun t => onTo t 216 0 && (now t 216).waiting && (t.creel 0).st == 2)) = true := by decide +kernel
def uAr : State := (sAr 1).toTime 9
def table1 (n : Byte) : List Byte :=
  [0, 0, 2, 0, n] ++ List.replicate 13 0 ++ [2, 0, 0, 0, 0, 0, 0, 0x10, 0, 0, 1] ++ List.replicate 483 0 ++ [1, 0, 1, 0, 64, 0, 0, 0, 0, 0x30] ++ List.replicate 22 0
theorem ready_arm : Ready (sAr 1) 216 cAr ∧ Ready (sDa []) 216 cDa := ⟨ready_of (by decide +kernel) rfl rfl rfl, ready_of (by decide +kernel) rfl rfl rfl⟩
theorem witness_CreelArmAndDisarm : cAr.hdr.opcode = opCreel ∧ cAr.hdr.subop = 0 ∧ ((sAr 1).creel (cpOf 216)).st = 0 ∧ ((sAr 1).gc (qEng 216)).en = false ∧ (parseTable (table1 1) 1).isSome = true ∧ parseTable (table1 0) 1 = none := by decide +kernel
theorem witness_CreelArmAndDisarm_read : ReadsAs uAr 216 cAr 0x1000 (512 + 32 * 1) (table1 1) := reads_of _ (by decide +kernel)
theorem witness_CreelArmAndDisarm_disarm : cDa.hdr.subop = 1 ∧ mget false (sDa []).engRst (cpEng (cpOf 216)) = false ∧ ((sDa []).creel (cpOf 216)).inFlight = false ∧ ((sDa []).creel (cpOf 216)).st ≤ 1 ∧
    (∀ e ∈ (sDa []).queues, ∀ d ∈ e.2.cmds, d.lateCp ≠ some (cpOf 216)) ∧ ((sDa [(0, some { occ := 0, st := .filling, at0 := 0, rdata := [], need := [], rfail := none })]).creel (cpOf 216)).inFlight = true := by decide +kernel
/-- STORE of one block of 512 bytes at 0x2000 with SSD 2: as it asks, with two bytes at hand, and as it writes. -/
def cSt (n : Nat) (acc : List Nat) : Cmd := { sub n (cmd opStore [0x2000, 3, 0x2000000010001]) with acc := acc }
def sSt (c : Cmd) : State := { go 24 c [(0x2005, 9)] with hub0 := { s1.hub0 with slk := { en := true, nss := [{ ssd := 2, nsid := 1, block := 512 }], nextTag := 6 } } }
def stData : List Byte := [0, 0, 0, 0, 0, 9] ++ List.replicate 506 0
def stAsked (t : State) (w : Bool) (data : List Byte) : Bool := t.hub0.slk.reqs == [{ tag := 6, owner := .cmd 24 0, ssd := 2 }] && t.out.contains (.nvme 0 6 2 1 3 1 w data) && onTo t 24 0 && (now t 24).waiting
theorem test_store : (holds (exec (.store 24 9) (sSt (cSt 0 []))) (fun t => stAsked t false []) && holds (exec (.store 24 9) (sSt (cSt 1 []))) (fun t => stAsked t true stData)) = true := by decide +kernel
theorem test_store_data : holds (exec (.store 24 9) (sSt (cSt 0 [7, 8]))) (fun t => done t 24 && coherentBytes t 0x1FFF 8 == [0, 7, 8, 0, 0, 0, 9, 0]) = true := by decide +kernel
theorem ready_store : Ready (sSt (cSt 0 [])) 24 (cSt 0 []) ∧ Ready (sSt (cSt 1 [])) 24 (cSt 1 []) ∧ Ready (sSt (cSt 0 [7, 8])) 24 (cSt 0 [7, 8]) := by
  refine ⟨ready_of ?_ rfl rfl rfl, ready_of ?_ rfl rfl rfl, ready_of ?_ rfl rfl rfl⟩ <;> decide +kernel
theorem witness_StoragePortServes_store : (cSt 0 []).hdr.opcode = opStore ∧ (cSt 0 []).hdr.subop = 0 ∧ (cSt 1 []).hdr.subop = 1 ∧ nsBlock (sSt (cSt 0 [])) 2 1 = some 512 ∧ ((sSt (cSt 1 [])).gc (qEng 24)).en = false ∧
    nvmeAwaited (sSt (cSt 0 [])) (ssdHub 2) (.cmd 24 0) = false ∧ looks ((sSt (cSt 0 [])).toTime 9) 24 (cSt 0 []) false true 0x2000 512 ≠ [] ∧ (cSt 0 [7, 8]).acc = [7, 8] := by decide +kernel
theorem witness_StoragePortServes_bytes : ReadsAs ((sSt (cSt 1 [])).toTime 9) 24 (cSt 1 []) 0x2000 512 stData ∧
    WritesTo ((sSt (cSt 0 [7, 8])).toTime 9) 24 (cSt 0 [7, 8]) 0x2000 2 (looks ((sSt (cSt 0 [7, 8])).toTime 9) 24 (cSt 0 [7, 8]) false true 0x2000 2) ∧
    Lands ((sSt (cSt 0 [7, 8])).toTime 9) 24 (cSt 0 [7, 8]) (looks ((sSt (cSt 0 [7, 8])).toTime 9) 24 (cSt 0 [7, 8]) false true 0x2000 2) :=
  ⟨reads_of _ (by decide +kernel), writes_of (by decide +kernel), lands_of (by decide +kernel)⟩
end Tiles

/-! ## Transfers, knots, creels, storage -/

namespace Fabric
def one (c : Cmd) (m : List Host.Cell) : State := pkg [(216, que [c])] m
def s1 : State := pkg [] []
def endedOk (t : State) (q : QIdx) : Bool := (findCmd t q 0).any fun d => d.phase == .ended && d.status == .ok
def sFar : State := { s1 with hub0 := { s1.hub0 with flk := { s1.hub0.flk with ports := [(0, { width := 8, trained := true, lnk := { st := .up } })] } } }
def wr : RemoteWrite := { src := 1, part := some 0, cls := 1, addr := 0x40, data := [1, 2, 3], issuer := .core 0 0 }
theorem test_remoteWrite : holds (exec (.remoteWriteArrival wr) sFar) (fun t => coherentBytes t 0x3F 5 == [0, 1, 2, 3, 0] && t.out == [.flkAck 1 (.core 0 0) 0x40 .ok]) = true := by decide +kernel
theorem test_remoteWrite_firewall : holds (exec (.remoteWriteArrival { wr with part := some 1 }) sFar) (fun t => t.mem == sFar.mem && t.out.head? == some (.flkAck 1 (.core 0 0) 0x40 .firewall) && t.cnt (pgKey 0 ixHub) 0x088 == 1) = true := by decide +kernel
theorem test_remoteWrite_committed : isNext (exec (.remoteWriteArrival wr) { sFar with hub0 := { sFar.hub0 with led := { sFar.hub0.led with st := .committing } } }) { sFar with hub0 := { sFar.hub0 with led := { sFar.hub0.led with st := .committing } } } = true := by decide +kernel
theorem test_remoteRead : holds (exec (.remoteReadRequest { src := 1, part := some 0, cls := 1, addr := 0x40, len := 3, issuer := .core 0 0 }) { sFar with mem := (0x41, 9) :: tables }) (fun t => t.out == [.flkData 1 (.core 0 0) 0x40 .ok [0, 9, 0]]) = true := by decide +kernel
def cNeed : Cmd := { cmd opCopy [0x400000000040, 0x40, 3] with gen := 1, need := [(0x400000000040, 3)] }
theorem test_readResponse : holds (exec (.remoteReadResponse (.cmd 216 0 1) 0x400000000040 .ok [7, 8, 9] 9) (one cNeed [])) (fun t => (findCmd t 216 0).any fun d => d.need == [] && d.phase == .running && d.rdata == keepBytes cNeed.rdata 0x400000000040 [7, 8, 9]) = true := by decide +kernel
theorem test_readResponse_late : isNext (exec (.remoteReadResponse (.cmd 216 0 2) 0x400000000040 .ok [7, 8, 9] 9) (one cNeed [])) (lateDiscard ((one cNeed []).toTime 9) (qDie 216)) = true := by decide +kernel
def cAck : Cmd := { cmd opFill [0x40, 3] with gen := 1, performed := true, unacked := [(0x400000000040, 3, 0, 0x40)] }
theorem test_writeAck : holds (exec (.remoteWriteAck (.cmd 216 0 1) 0x400000000040 .ok 9) (one cAck [])) (fun t => endedOk t 216) = true := by decide +kernel
def pc : KnotPiece := { src := 1, hub := 0, knotId := 5, knotSeq := 0, part := some 0, addr := 0x40, data := [1, 2], issuer := .cmd 3 4 1 }
theorem test_knotPiece0 : holds (exec (.knotWriteArrival pc) sFar) (fun t => (t.seq 0 (knotKey 1 5)).isOpen && (t.seq 0 (knotKey 1 5)).next == 0 && (mget {} (t.seq 0 (knotKey 1 5)).members 0).seen == 1 && coherentBytes t 0x40 3 == [1, 2, 0] && t.out == [.flkAck 1 (.cmd 3 4 1) 0x40 .ok]) = true := by decide +kernel
theorem test_knotPiece1 : holds (exec (.knotWriteArrival { pc with knotSeq := 1 }) sFar) (fun t => (t.seq 0 (knotKey 1 5)).held == [{ pc with knotSeq := 1 }] && t.mem == sFar.mem && t.out == [] && (t.knot 0).heldCnt == 1) = true := by decide +kernel
def sSeq (n : Nat) : State := { sFar with hub0 := { sFar.hub0 with flk := { sFar.hub0.flk with knot := { seqs := [(knotKey 1 5, { isOpen := true, next := n, members := [(n, { seen := 2 })] })] } } } }
def mk (sq : W32) : EndMark := { src := 1, hub := 0, knotId := 5, knotSeq := sq, part := some 0, pieces := 2, ok := true, notice := none }
theorem test_knotEndMark : (holds (exec (.knotEndMark (mk 3)) (sSeq 3)) (fun t => (t.seq 0 (knotKey 1 5)).next == 4 && (t.seq 0 (knotKey 1 5)).isOpen)) = true := by decide +kernel
def sSeqL : State := { sFar with hub0 := { sFar.hub0 with flk := { sFar.hub0.flk with knot := { seqs := [(knotKey 1 5, { isOpen := true, next := 3, members := [(3, { seen := 2, last := true })] })] } } } }
theorem test_knotEndMark_last : (holds (exec (.knotEndMark (mk 0x80000003)) sSeqL) (fun t => (t.knot 0).seqs == [])) = true := by decide +kernel
def cbS (g : CbGrp) : State := { s1 with hub0 := { s1.hub0 with cbGrps := [(200, g)], cbSel := [(0, 200)] } }
theorem test_combineNotice : holds (exec (.combineNotice 0 200 7 false) (cbS { st := .collecting, spans := [(9, true)], fail := some 9 })) (fun t => t.cbGrp 0 200 == { st := .collecting, spans := [(7, true), (9, true)], fail := some 7 }) = true := by decide +kernel
theorem test_combineNotice_stale : isNext (exec (.combineNotice 0 200 7 false) (cbS { st := .stale })) ((cbS { st := .stale }).count (cbPage 0) 0x098 1) = true := by decide +kernel
theorem test_combineNotice_dup : isNext (exec (.combineNotice 0 200 7 false) (cbS { st := .opened, spans := [(7, true)] })) ((cbS { st := .opened, spans := [(7, true)] }).count (cbPage 0) 0x090 1) = true := by decide +kernel
theorem test_cbGrpClr : (holds (exec (.cbGrpClr .prostoza 0) (cbS { st := .collecting, spans := [(7, true)] })) (fun t => t.cbGrp 0 200 == {}) && holds (exec (.cbGrpClr .prostoza 0) (cbS { st := .opened, spans := [(7, true)] })) (fun t => (t.cbGrp 0 200).st == .opened)) = true := by decide +kernel
theorem test_knotFlush : holds (exec (.knotCtlFlush .prostoza 0) ({ sFar with hub0 := { sFar.hub0 with flk := { sFar.hub0.flk with knot := { waiting := [{ piece := pc }], seqs := [(3, { isOpen := true, held := [pc, pc] })] } } } })) (fun t => mkeys (t.knot 0).seqs == [knotKey 1 5] && (t.knot 0).waiting == [] && (t.knot 0).discarded == 2 && coherentBytes t 0x40 3 == [1, 2, 0]) = true := by decide +kernel
def cr (f : SMap (Option Fetch)) : State :=
  { pkg [(216, que [])] [(0x1000, 5), (0x1001, 6)] with creels := [(0, { st := 1, queue := 216, nbuf := 1, layers := 4, timeout := 100, bufs := [{ dst := 0x4000, slotBytes := 64, slots := 2 }], ents := [{ layer := 0, lead := 1, buf := 0, store := false, hint := 0, len := 64, src := 0x1000, ssd := 0, nsid := 0 }], fetches := f })] , hub0 := { s1.hub0 with grps := [(0, { en := true, st := .awaiting })] } }
theorem test_creelFetchIssue : holds (exec (.creelFetchIssue 0 9) (cr [])) (fun t => ((t.creel 0).fetchOf 0 0).any fun f => f.st == .filling && f.at0 == 9 && f.occ == 0) = true := by decide +kernel
def fl : Fetch := { occ := 0, st := .filling, at0 := 9, rdata := [], need := [], rfail := none }
theorem test_creelFetchComplete : holds (exec (.creelFetchComplete 0 0 0 20) (cr [(0, some fl)])) (fun t => (((t.creel 0).fetchOf 0 0).any fun f => f.st == .ready) && coherentBytes t 0x4000 3 == [5, 6, 0]) = true := by decide +kernel
theorem test_creelFetchTimeout : (isNext (exec (.creelFetchTimeout 0 0 0 10009) (cr [(0, some fl)])) ((cr [(0, some fl)]).toTime 10009) && holds (exec (.creelFetchTimeout 0 0 0 10010) (cr [(0, some fl)])) (fun t => ((t.creel 0).fetchOf 0 0).any fun f => f.st == .failed 6)) = true := by decide +kernel
def found : List NsFound := [{ ssd := 2, nsid := 1, block := 512 }]
def slk (b : Bool) (r : List NvmeReq) (c : List Cmd) : State := { pkg [(24, que c)] [] with hub0 := { s1.hub0 with slk := { en := b, nss := if b then found else [], reqs := r } }, pins := { perst0 := if b then .high else .low } }
theorem test_storagePortEnable : holds (exec (.storagePortEnable .prostoza 0 true found) (slk false [] [])) (fun t => t.hub0.slk.en && t.hub0.slk.nss == found && t.pins.perst0 == .high) = true := by decide +kernel
theorem test_storagePortDisable : holds (exec (.storagePortEnable .prostoza 0 false found) (slk true [] [])) (fun t => !t.hub0.slk.en && t.hub0.slk.nss == [] && t.pins.perst0 == .low) = true := by decide +kernel
theorem test_ssdLinkDrop : holds (exec (.ssdLinkDrop 0 2 9) (slk true [] [])) (fun t => t.hub0.slk.nss == []) = true := by decide +kernel
def cSt : Cmd := { cmd opStore [0x2000, 3, 0x2000000010001] with entry := [BitVec.ofNat 8 opStore, 0, 0, 1] ++ List.replicate 60 0 }
def sNv : State := slk true [{ tag := 7, owner := .cmd 24 0, ssd := 2 }] [cSt]
theorem test_nvme_unknown : isNext (exec (.nvmeCompletion 0 9 0 [] 9) sNv) (lateDiscard (sNv.toTime 9) 0) = true := by decide +kernel
theorem test_nvme_failed : holds (exec (.nvmeCompletion 0 7 2 [] 9) sNv) (fun t => t.hub0.slk.reqs == [] && (findCmd t 24 0).any fun d => d.phase == .ended && d.status == .failed && d.cause == cFetchFailed) = true := by decide +kernel
theorem test_nvme_ok : holds (exec (.nvmeCompletion 0 7 0 [] 9) sNv) (fun t => t.hub0.slk.reqs == [] && endedOk t 24) = true := by decide +kernel
def sp (a n : Nat) : Span := { pa := a, n := n, acc := {} }
theorem sFar_base : Works sFar ∧ Canonical sFar ∧ CachesOk sFar ∧ NoPoison sFar ∧ reaches sFar 1 = true :=
  ⟨works_of (by decide +kernel), canonical_of (by decide +kernel) rfl, cachesOk_of (by decide +kernel) rfl, noPoison_of rfl rfl, by decide +kernel⟩
theorem witness_RemoteTransfersArrive : Works sFar ∧ CachesOk sFar ∧ reaches sFar wr.src = true ∧ commitBegun sFar (homeHub sFar wr.addr) = false ∧ NoPoison sFar ∧
    farStop sFar wr.part wr.addr wr.data.length = none ∧ isReg (offOf wr.addr) = false ∧ memBusy sFar (offOf wr.addr) = false ∧ sharedBytes sFar (offOf wr.addr) wr.data.length = false ∧ wr.data ≠ [] ∧
    offOf wr.addr % 64 + wr.data.length ≤ 64 ∧ farStop sFar (some 1) wr.addr wr.data.length = some (.firewall, 0) ∧ (sFar.blk (pgKey 0 ixHub)).cntFreeze = false ∧ mwf {} sFar.blks = true ∧
    commitBegun { sFar with hub0 := { sFar.hub0 with led := { sFar.hub0.led with st := .committing } } } 0 = true := by
  refine ⟨sFar_base.1, sFar_base.2.2.1, ?_, ?_, sFar_base.2.2.2.1, ?_⟩ <;> decide +kernel
theorem witness_RemoteAnswersReachTheirCommand : Works (one cNeed []) ∧ Canonical (one cNeed []) ∧ 0 < 1 ∧ findCmd (one cNeed []) 216 0 = some cNeed ∧ cNeed.phase = .running ∧ cNeed.gen = 1 ∧
    cNeed.need = [(0x400000000040, 3)] ∧ ([7, 8, 9] : List Byte).length = 3 ∧ Works (one cAck []) ∧ Canonical (one cAck []) ∧ findCmd (one cAck []) 216 0 = some cAck ∧ cAck.phase = .running ∧ cAck.gen = 1 ∧
    cAck.performed = true ∧ cAck.unacked = [(0x400000000040, 3, 0, 0x40)] ∧ cAck.status = .ok ∧ findCmd (one cNeed []) 216 5 = none := by
  refine ⟨works_of ?_, canonical_of ?_ rfl, ?_, ?_, ?_, ?_, ?_, ?_, works_of ?_, canonical_of ?_ rfl, ?_⟩ <;> decide +kernel
theorem witness_KnotPiecesAreOrdered : Works sFar ∧ CachesOk sFar ∧ reaches sFar pc.src = true ∧ commitBegun sFar pc.hub = false ∧ (sFar.knot pc.hub).waiting = [] ∧ farStop sFar pc.part pc.addr pc.data.length = none ∧
    (sFar.knot pc.hub).seqs = [] ∧ isReg (offOf pc.addr) = false ∧ memBusy sFar (offOf pc.addr) = false ∧ sharedBytes sFar (offOf pc.addr) pc.data.length = false ∧ pc.data ≠ [] ∧
    offOf pc.addr % 64 + pc.data.length ≤ 64 ∧ knotPos pc.knotSeq = 0 ∧ 1 ≤ knotPos 1 ∧ knotPos 0x40000000 ≤ 2 ^ 30 := by
  refine ⟨sFar_base.1, sFar_base.2.2.1, ?_⟩; decide +kernel
def kx (l : Bool) : KnotSeq := { isOpen := true, next := 3, members := [(3, { seen := 2, last := l })] }
theorem witness_KnotPiecesAreOrdered_mark : Works (sSeq 3) ∧ CachesOk (sSeq 3) ∧ reaches (sSeq 3) 1 = true ∧ commitBegun (sSeq 3) 0 = false ∧ ((sSeq 3).knot 0).waiting = [] ∧ farAllows (sSeq 3) 0 (some 0) = true ∧
    ((sSeq 3).knot 0).seqs = [(knotKey 1 5, kx false)] ∧ (kx false).next = knotPos (mk 3).knotSeq ∧ knotLast (mk 3).knotSeq = false ∧ (sSeqL.knot 0).seqs = [(knotKey 1 5, kx true)] ∧
    (kx true).next = knotPos (mk 0x80000003).knotSeq ∧ knotLast (mk 0x80000003).knotSeq = true := by
  refine ⟨works_of ?_, cachesOk_of ?_ rfl, ?_⟩ <;> decide +kernel
def cbC : CbGrp := { st := .collecting, spans := [(9, true)], fail := some 9 }
theorem witness_CombineNoticesAndClears : Works (cbS cbC) ∧ Canonical (cbS cbC) ∧ 3 ≤ (cbS cbC).boot.feat ∧ mwf false ((cbS cbC).cbGrp 0 200).spans = true ∧ ((cbS cbC).cbGrp 0 200).st = .collecting ∧
    mget false ((cbS cbC).cbGrp 0 200).spans 7 = false ∧ mget false ((cbS cbC).cbGrp 0 200).spans 9 = true ∧ ((cbS cbC).cbGrp 0 200).st ≠ .stale ∧ ((cbS { st := .stale }).cbGrp 0 200).st = .stale := by
  refine ⟨works_of ?_, canonical_of ?_ rfl, ?_⟩ <;> decide +kernel
def ce : CreelEnt := { layer := 0, lead := 1, buf := 0, store := false, hint := 0, len := 64, src := 0x1000, ssd := 0, nsid := 0 }
theorem witness_CreelFetches_issue : Works (cr []) ∧ Canonical (cr []) ∧ ((cr []).creel 0).st = 1 ∧ mwf none ((cr []).creel 0).fetches = true ∧ (cr []).doff.stopped = false ∧
    mget false (cr []).stopped (engPage (cpEng 0)) = false ∧ ((cr []).creel 0).next = some (0, 0, 0, ce) ∧ ce.store = false ∧
    (match fetchCheck ((cr []).toTime 9) 0 ce (((cr []).creel 0).slotVa 0 0) with | .ok l => l == [sp 0x1000 64] | .error _ => false) = true ∧ missing (cr []) [] [sp 0x1000 64] = [] := by
  refine ⟨works_of ?_, canonical_of ?_ rfl, ?_⟩ <;> decide +kernel
def crF : State := cr [(0, some fl)]
theorem witness_CreelFetches_complete : Works crF ∧ Canonical crF ∧ (crF.creel 0).st = 1 ∧ fillingAt crF 0 0 0 = some fl ∧ fl.rfail = none ∧
    ((crF.creel 0).entsOf 0).find? (fun y => y.layer = fl.occ % (crF.creel 0).layers) = some ce ∧ nvmeAwaited crF (ssdHub ce.ssd) (.creel 0 0 0) = false ∧ CachesOk crF ∧ NoPoison crF ∧
    (match fetchCheck (crF.toTime 20) 0 ce ((crF.creel 0).slotVa 0 0) with | .ok l => l == [sp 0x1000 64] | .error _ => false) = true ∧
    vaCheck (crF.toTime 20) (qHub (crF.creel 0).queue) (crF.queue (crF.creel 0).queue).ctx (.engine (crF.creel 0).queue) false true ce.hint ((crF.creel 0).slotVa 0 0) ce.len = .ok [sp 0x4000 64] ∧
    spansBusy crF [sp 0x1000 64, sp 0x4000 64] = false ∧ sharedWait crF [sp 0x4000 64] = none ∧ (∀ i < 64, isReg (offOf 0x1000 + i) = false ∧ isReg (offOf 0x4000 + i) = false) ∧
    (crF.creel 0).timeout ≠ 0 ∧ fl.at0 + us (crF.creel 0).timeout = 10009 := by
  refine ⟨works_of ?_, canonical_of ?_ rfl, ?_, ?_, ?_, ?_, ?_, cachesOk_of ?_ rfl, noPoison_of rfl rfl, ?_⟩ <;> decide +kernel
theorem runs_nv : Runs (sNv.toTime 9) 24 cSt := by constructor <;> first | decide +kernel | exact heldCurrent_of (by decide +kernel)
theorem witness_StoragePortServes : Works (slk false [] []) ∧ Canonical (slk false [] []) ∧ ((slk false [] []).hub 0).slk.en = false ∧ Works (slk true [] []) ∧ Canonical (slk true [] []) ∧
    ((slk true [] []).hub 0).slk.en = true ∧ ((slk true [] []).hub 0).slk.reqs = [] ∧ Works sNv ∧ Canonical sNv ∧ (sNv.hub 0).slk.reqs = [{ tag := 7, owner := .cmd 24 cSt.seq, ssd := 2 }] ∧
    (∀ r ∈ (sNv.hub 0).slk.reqs, r.tag ≠ 9) ∧ Runs (sNv.toTime 9) 24 cSt ∧ cSt.hdr.opcode = opStore ∧ cSt.hdr.subop = 1 ∧ cSt.acc = [] ∧ cSt.unacked = [] ∧
    (nsBlock sNv (bits (wd cSt.words 2) 48 4) (bits (wd cSt.words 2) 16 32)).isSome = true ∧ ssdHub (bits (wd cSt.words 2) 48 4) = 0 := by
  refine ⟨works_of ?_, canonical_of ?_ rfl, ?_, works_of ?_, canonical_of ?_ rfl, ?_, ?_, works_of ?_, canonical_of ?_ rfl, ?_, ?_, runs_nv, ?_⟩ <;> decide +kernel
def rdView : RemoteRead := { src := 1, part := some 0, cls := 1, addr := 0x40, len := 3, issuer := .host 0 0, view := some .dump }
theorem witness_Fabric_more : rdView.view = some .dump ∧ reaches sFar rdView.src = true ∧ ({ rdView with view := none } : RemoteRead).view = none ∧ cAck.head = [] ∧ (mk 3).again = false ∧ creelYields (cr []) 0 = false ∧
    ((sSeq 3).seq 0 (knotKey 1 5)).members = [(3, { seen := 2 })] ∧ ({ seen := 2 } : KMember).mark = none := by decide +kernel
theorem test_mark_again : isNext (exec (.knotEndMark { mk 3 with again := true, ok := false }) (sSeq 3)) (sSeq 3) = true := by decide +kernel
end Fabric

/-! ## Cores -/

namespace CoresTests
def s1 : State := pkg [] []
def cs (c : Core) (m : List Host.Cell) : State := { pkg [] m with cores := [(0, c)] }
def la (n : Nat) : CoreAccess := { addr := 0x40, size := n, attr := 2, dest := 3 }
def se (a n d : Nat) : SbEnt := { acc := { addr := a, size := n, attr := 2, dest := 0 }, data := (List.range n).map (fun i => BitVec.ofNat 8 (d + i)), issued := 5, sent := false }
theorem test_coreLoad : holds (exec (.coreLoad 0 (la 4) 9) (cs {} [(0x41, 7)])) (fun t => (t.core 0).regs == [(3, [0, 7, 0, 0])] && t.mem == (cs {} [(0x41, 7)]).mem) = true := by decide +kernel
theorem test_coreLoad_forward : holds (exec (.coreLoad 0 (la 4) 9) (cs { sb := [se 0x38 16 1, se 0x100 4 9] } [])) (fun t => mget [] (t.core 0).regs 3 == [9, 10, 11, 12] && (t.core 0).sb.length == 2) = true := by decide +kernel
theorem test_coreLoad_partial : holds (exec (.coreLoad 0 (la 4) 9) (cs { sb := [se 0x42 16 1] } [])) (fun t => (t.core 0).pendLoad == some (la 4, 9) && (t.core 0).regs == []) = true := by decide +kernel
theorem test_ldres : holds (exec (.ldres 0 (la 8)) (cs {} [(0x41, 7)])) (fun t => (t.core 0).regs == [(3, [0, 7, 0, 0, 0, 0, 0, 0])] && (t.core 0).resv == some (0x40, 8)) = true := by decide +kernel
theorem test_coreStore : holds (exec (.coreStore 0 (la 2) [5, 6] 9) (cs { sb := [se 0x42 16 1] } [])) (fun t => (t.core 0).sb.getLast? == some { acc := la 2, data := [5, 6], issued := 9, sent := false } && (t.core 0).sb.length == 2 && t.mem == tables) = true := by decide +kernel
theorem test_coreStorePerformed : holds (exec (.coreStorePerformed 0 0) (cs { sb := [se 0x42 2 1, se 0x43 2 9] } [])) (fun t => (t.core 0).sb == [se 0x43 2 9] && coherentBytes t 0x41 4 == [0, 1, 2, 0]) = true := by decide +kernel
theorem test_coreStorePerformed_order : isNext (exec (.coreStorePerformed 0 1) (cs { sb := [se 0x42 2 1, se 0x43 2 9] } [])) (cs { sb := [se 0x42 2 1, se 0x43 2 9] } []) = true := by decide +kernel
theorem test_fenceSl : (holds (exec (.fenceSl 0) (cs { sb := [se 0x42 2 1] } [])) (fun t => (t.core 0).fence == some (false, 1)) && holds (exec (.fenceSl 0) (cs { sb := [{ se 0x400000000000 2 1 with sent := true }] } [])) (fun t => (t.core 0).fence == none)) = true := by decide +kernel
theorem test_fenceRemote : (holds (exec (.fenceRemote 0) (cs { sb := [{ se 0x400000000000 2 1 with sent := true }] } [])) (fun t => (t.core 0).fence == some (true, 1)) && holds (exec (.fenceRemote 0) (cs {} [])) (fun t => (t.core 0).fence == none)) = true := by decide +kernel
theorem test_storeError : holds (exec (.storeError 0 0 .firewall) (cs { sb := [se 0x42 2 1, se 0x50 2 1], resv := some (1, 4) } [])) (fun t => (t.core 0).sb == [se 0x50 2 1] && (t.core 0).storeErr == some (answerClass .firewall, 0x42) && (t.core 0).resv == none) = true := by decide +kernel
theorem test_coreAccessLinkTimeout : (isNext (exec (.coreAccessLinkTimeout 0 (some 0) 200004) (cs { sb := [{ se 0x400000000000 2 1 with sent := true }] } [])) ((cs { sb := [{ se 0x400000000000 2 1 with sent := true }] } []).toTime 200004) && holds (exec (.coreAccessLinkTimeout 0 (some 0) 200005) (cs { sb := [{ se 0x400000000000 2 1 with sent := true }] } [])) (fun t => (t.core 0).sb == [] && (t.core 0).storeErr == some (cLink, 0x400000000000))) = true := by decide +kernel
def far (n : Nat) : CoreAccess := { addr := 0x400000000040, size := n, attr := 2, dest := 3 }
def asks : Core := { pendLoad := some (far 4, 3), ask := { need := [(0, 0x400000000040, 4)], at0 := 5 } }
theorem test_coreLoadLinkTimeout : (isNext (exec (.coreAccessLinkTimeout 0 none 200004) (cs asks [])) ((cs asks []).toTime 200004) && holds (exec (.coreAccessLinkTimeout 0 none 200005) (cs asks [])) (fun t => (t.core 0).pendLoad == none && (t.core 0).abort == some (cLink, 0x400000000040))) = true := by decide +kernel
theorem test_stcond_lost : holds (exec (.stcond 0 { la 4 with simple := true } [1, 2, 3, 4]) (cs { resv := some (0x40, 8) } [])) (fun t => (t.core 0).stStatus == 1 && (t.core 0).resv == none && (t.core 0).regs == [(3, [1, 0, 0, 0, 0, 0, 0, 0])] && t.mem == tables) = true := by decide +kernel
theorem test_stcond_ok : holds (exec (.stcond 0 { la 4 with simple := true } [1, 2, 3, 4]) (cs { resv := some (0x40, 4), spurious := 3 } [])) (fun t => (t.core 0).stStatus == 0 && coherentBytes t 0x40 5 == [1, 2, 3, 4, 0]) = true := by decide +kernel
theorem test_stcond_remote : holds (exec (.stcond 0 { far 4 with simple := true } [1, 2, 3, 4]) (cs { resv := some (0x40, 4) } [])) (fun t => (t.core 0).stStatus == 2 && (t.core 0).resv == none) = true := by decide +kernel
theorem test_stcond_uncached : holds (exec (.stcond 0 { la 4 with attr := 0, simple := true } [1, 2, 3, 4]) (cs { resv := some (0x40, 4) } [])) (fun t => (t.core 0).stStatus == 3 && t.mem == tables) = true := by decide +kernel
def ci : CmuInstr := { id := 4, loads := [la 4], stores := [(la 2, [5, 6])], regs := [(9, [1])], flags := 4 }
theorem test_cmuIssue : holds (exec (.cmuIssue 0 ci false) (cs {} [(0x41, 7)])) (fun t => begun t 0 4 == some { instr := ci, data := [[0, 7, 0, 0]], fault := none, no := 1 } && (t.core 0).regs == []) = true := by decide +kernel
theorem test_cmuIssue_se : holds (exec (.cmuIssue 0 { ci with loads := [{ la 4 with attr := 4 }] } false) (cs {} [(0x41, 7)])) (fun t => (begun t 0 4).any fun b => b.data == [] && b.fault == none) = true := by decide +kernel
def bg : CmuBegun := { instr := ci, data := [[0, 7, 0, 0]], fault := none }
theorem test_cmuCommit : holds (exec (.cmuCommit 0 4 9) (cs { cmu := [bg] } [])) (fun t => begun t 0 4 == none && (t.core 0).regs == [(9, [1])] && (t.core 0).cmuFlags == 4 && (t.core 0).sb == [{ acc := la 2, data := [5, 6], issued := 9, sent := false }]) = true := by decide +kernel
theorem test_cmuSquash : holds (exec (.cmuSquash 0 4) (cs { cmu := [bg] } [])) (fun t => t.core 0 == {}) = true := by decide +kernel
def vi : VecInstr := { vreg := 2, elems := [la 4, { la 4 with addr := 0x80 }] }
theorem test_vectorGather : (holds (exec (.vectorGather 0 vi 1) (cs {} [(0x40, 7)])) (fun t => mget [] (t.core 0).vregs 2 == putLane [] 0 [7, 0, 0, 0] && (t.core 0).gidx == 1) && holds (exec (.vectorGather 0 vi 1) (cs { gidx := 1 } [(0x80, 7)])) (fun t => mget [] (t.core 0).vregs 2 == putLane [] 4 [7, 0, 0, 0] && (t.core 0).gidx == 0)) = true := by decide +kernel
theorem test_vectorScatter : holds (exec (.vectorScatter 0 vi 1 9) (cs { gidx := 1, vregs := [(2, [1, 2, 3, 4, 5, 6, 7, 8])] } [])) (fun t => (t.core 0).sb == [{ acc := { la 4 with addr := 0x80 }, data := [5, 6, 7, 8], issued := 9, sent := false }] && (t.core 0).gidx == 0) = true := by decide +kernel
def cw : State := cs { cmuFlags := 1 } [(0x41, 7)]
theorem cw_base : Works cw ∧ Canonical cw ∧ CachesOk cw ∧ NoPoison cw := ⟨works_of (by decide +kernel), canonical_of (by decide +kernel) rfl, cachesOk_of (by decide +kernel) rfl, noPoison_of rfl rfl⟩
theorem reach8 : CoreReaches cw 0 (la 8) := by constructor <;> decide +kernel
theorem reach4 : CoreReaches cw 0 (la 4) := by constructor <;> decide +kernel
theorem free4 : LoadsFreely cw 0 (la 4) := by constructor <;> decide +kernel
def cSb : State := cs { sb := [se 0x38 16 1, se 0x100 4 9] } []
def cPart : State := cs { sb := [se 0x42 16 1] } []
theorem witness_CoreLoadsAnswer : Works cw ∧ Canonical cw ∧ CachesOk cw ∧ NoPoison cw ∧ mwf [] (cw.core 0).regs = true ∧ CoreReaches cw 0 (la 8) ∧ LoadsFreely cw 0 (la 8) ∧ (la 8).addr % 8 = 0 ∧
    Works cSb ∧ Canonical cSb ∧ CachesOk cSb ∧ NoPoison cSb ∧ CoreReaches cSb 0 (la 4) ∧ (cSb.core 0).fence = none ∧ otherLoad (cSb.core 0) (la 4) = false ∧ (coreAcc cSb (la 4)).se = false ∧
    ((cSb.core 0).sb.filter (overlaps (la 4))).getLast? = some (se 0x38 16 1) ∧ forwarded (la 4) (se 0x38 16 1) = some [9, 10, 11, 12] ∧
    Works cPart ∧ Canonical cPart ∧ ((cPart.core 0).sb.filter (overlaps (la 4))).getLast? = some (se 0x42 16 1) ∧ forwarded (la 4) (se 0x42 16 1) = none := by
  refine ⟨cw_base.1, cw_base.2.1, cw_base.2.2.1, cw_base.2.2.2, ?_, reach8, ?_, ?_, works_of ?_, canonical_of ?_ rfl, cachesOk_of ?_ rfl, noPoison_of rfl rfl, ?_, ?_, ?_, ?_, ?_, ?_, works_of ?_, canonical_of ?_ rfl, ?_, ?_⟩
  all_goals first | decide +kernel | (constructor <;> decide +kernel)
def cSt : State := cs { sb := [se 0x42 2 1, se 0x43 2 9] } []
theorem witness_CoreStoresReachMemory : Works cSt ∧ Canonical cSt ∧ CachesOk cSt ∧ NoPoison cSt ∧ coreOnline cSt 0 = true ∧ mayCommit (cSt.core 0) = true ∧ ([5, 6] : List Byte).length = (la 2).size ∧ storeFault cSt 0 (la 2) = none ∧
    isLocal cSt (la 2).addr = true ∧ (∀ e ∈ (cSt.core 0).sb, isLocal cSt e.acc.addr = true) ∧ (cSt.core 0).sb[0]? = some (se 0x42 2 1) ∧ (se 0x42 2 1).data.length = (se 0x42 2 1).acc.size ∧
    CoreReaches cSt 0 (se 0x42 2 1).acc ∧ sbMay cSt (cSt.core 0) 0 (se 0x42 2 1) = true ∧ sharedBytes cSt (offOf 0x42) 2 = false ∧
    (corePieces (se 0x42 2 1).acc)[(se 0x42 2 1).done]? = some (0x42, 2) := by
  refine ⟨works_of ?_, canonical_of ?_ rfl, cachesOk_of ?_ rfl, noPoison_of rfl rfl, ?_, ?_, ?_, ?_, ?_, ?_, ?_, ?_, ?_, ?_, ?_, ?_⟩
  all_goals first | decide +kernel | (constructor <;> decide +kernel)
def cFar : State := cs { asks with sb := [{ se 0x400000000000 2 1 with sent := true }] } []
theorem witness_FencesAndLostAccesses : Works cFar ∧ Canonical cFar ∧ (∀ e ∈ (cFar.core 0).sb, e.sent = true) ∧ coreOnline cFar 0 = true ∧ (cFar.core 0).sb[0]? = some { se 0x400000000000 2 1 with sent := true } ∧
    Answer.firewall ≠ .ok ∧ (5 : Nat) + ms 2 = 200005 ∧ (cFar.core 0).pendLoad = some (far 4, 3) ∧ isLocal cFar (far 4).addr = false ∧
    (cFar.core 0).ask.need ≠ [] ∧ (cFar.core 0).ask.at0 = 5 ∧ (∀ b ∈ (cFar.core 0).cmu, b.ask.need = []) := by
  refine ⟨works_of ?_, canonical_of ?_ rfl, ?_⟩ <;> decide +kernel
def cRes : State := cs { resv := some (0x40, 4), spurious := 3 } []
theorem witness_StoreConditional : Works cRes ∧ Canonical cRes ∧ CachesOk cRes ∧ NoPoison cRes ∧ mwf [] (cRes.core 0).regs = true ∧ coreOnline cRes 0 = true ∧ mayCommit (cRes.core 0) = true ∧ (la 4).size = 4 ∧
    ([1, 2, 3, 4] : List Byte).length = (la 4).size ∧ (la 4).addr % (la 4).size = 0 ∧ ¬ ((la 4).attr.getLsbD 1 = true ∧ (la 4).attr.getLsbD 2 = true) ∧ (la 4).addr < 8 * window ∧
    isLocal cRes (la 4).addr = true ∧ storeFault cRes 0 (la 4) = none ∧ (∀ e ∈ (cRes.core 0).sb, e.pos ≠ cRes.boot.pos.val) ∧ sharedBytes cRes (offOf 0x40) 4 = false ∧ coreLook cRes 0 (la 4) = .ok ∧
    (coreAcc cRes (la 4)).c = true ∧ (coreAcc cRes (la 4)).se = false ∧ (cRes.core 0).resv = some (offOf 0x40, 4) ∧ isLocal cRes (far 4).addr = false ∧ (far 4).addr < 8 * window ∧
    (coreAcc cRes { la 4 with attr := 0 }).c = false := by
  refine ⟨works_of ?_, canonical_of ?_ rfl, cachesOk_of ?_ rfl, noPoison_of rfl rfl, ?_⟩ <;> decide +kernel
def cBg : State := cs { cmu := [bg] } []
theorem witness_MatrixUnitCommits : Works cw ∧ Canonical cw ∧ CachesOk cw ∧ NoPoison cw ∧ coreOnline cw 0 = true ∧ begun cw 0 ci.id = none ∧ ci.loads = [la 4] ∧ CoreReaches cw 0 (la 4) ∧ LoadsFreely cw 0 (la 4) ∧
    (coreAcc cw (la 4)).se = false ∧ (coreAcc cw { la 4 with attr := 4 }).se = true ∧ Works cBg ∧ Canonical cBg ∧ CachesOk cBg ∧ NoPoison cBg ∧ coreOnline cBg 0 = true ∧ begun cBg 0 4 = some bg ∧ bg.redo = false ∧
    executed bg = true ∧ bg.fault = none ∧ noneBefore (cw.core 0) { instr := ci, data := [], fault := none, no := (cw.core 0).nextNo } = true ∧
    loadsBefore (cBg.core 0) bg.no = false ∧ ((cBg.core 0).fence.any fun f => f.1) = false ∧ (∀ e ∈ (cBg.core 0).sb, isLocal cBg e.acc.addr = true) ∧ cmuStoreFault cBg 0 bg.instr = none ∧ (∀ p ∈ bg.instr.stores, isLocal cBg p.1.addr = true) := by
  refine ⟨cw_base.1, cw_base.2.1, cw_base.2.2.1, cw_base.2.2.2, ?_, ?_, ?_, reach4, free4, ?_, ?_, works_of ?_, canonical_of ?_ rfl, cachesOk_of ?_ rfl, noPoison_of rfl rfl, ?_⟩ <;> decide +kernel
theorem witness_VectorElementsMove : Works cw ∧ Canonical cw ∧ coreOnline cw 0 = true ∧ mwf [] (cw.core 0).vregs = true ∧ vi.elems[(cw.core 0).gidx]? = some (la 4) ∧ (cw.core 0).pendLoad = none ∧ CachesOk cw ∧
    NoPoison cw ∧ CoreReaches cw 0 (la 4) ∧ LoadsFreely cw 0 (la 4) ∧ mayCommit (cw.core 0) = true ∧ storeFault cw 0 (la 4) = none ∧ isLocal cw (la 4).addr = true ∧
    (∀ e ∈ (cw.core 0).sb, isLocal cw e.acc.addr = true) := by
  refine ⟨cw_base.1, cw_base.2.1, ?_, ?_, ?_, ?_, cw_base.2.2.1, cw_base.2.2.2, reach4, free4, ?_⟩ <;> decide +kernel
end CoresTests

/-! ## Hosts -/

namespace HostTests
def s1 : State := pkg [] []
def hp (x : Hlk) (m : List Host.Cell) : State :=
  { pkg [] m with hlks := [(0, { x with speed := 5, width := 16, proto := 1, vfMap := [(1, (3, true)), (2, (4, true))] })]
                  hub0 := { s1.hub0 with part := { s1.hub0.part with funcs := [(3, { part := 0, bound := true })] }
                                         xlt := { ctxs := [(3, { en := true, root := 0x100 }), (32, { en := true, root := 0x100 })] } } }
theorem vf_serves : VfServes (hp {} []) 0 0 3 := by constructor <;> decide +kernel
theorem host_reaches : HostReaches ((hp {} []).toTime 9) 0 3 true false 0x40 3 { pa := 0x40, n := 3, acc := {} } := by constructor <;> decide +kernel
theorem test_hostRead : holds (exec (.hostMemoryRead 0 0 0x40 3 77 9) (hp {} [(0x41, 7)])) (fun t => t.out == [.pcie 0 77 0 [0, 7, 0]] && t.cnt (hlkPage 0) 0x080 == 1 && t.mem == (0x41, 7) :: tables) = true := by decide +kernel
theorem test_hostRead_unbound : holds (exec (.hostMemoryRead 0 1 0x40 3 77 9) (hp {} [(0x41, 7)])) (fun t => t.out.head? == some (.pcie 0 77 1 [])) = true := by decide +kernel
theorem test_hostRead_aperture : holds (exec (.hostMemoryRead 0 0 (2 ^ 40 + 1) 3 77 9) (hp {} [(0x41, 7)])) (fun t => t.out.head? == some (.pcie 0 77 1 [])) = true := by decide +kernel
theorem test_hostWrite : holds (exec (.hostMemoryWrite 0 0 0x40 [1, 2, 3]) (hp {} [])) (fun t => coherentBytes t 0x3F 5 == [0, 1, 2, 3, 0] && t.out == []) = true := by decide +kernel
theorem test_hostAtomic : (holds (exec (.hostAtomicop 0 0 0x40 .fetchAdd 4 2 0 77) (hp {} [(0x40, 0xFF), (0x41, 0xFF), (0x42, 0xFF), (0x43, 0xFF)])) (fun t => coherentBytes t 0x40 5 == [1, 0, 0, 0, 0] && t.out == [.pcie 0 77 0 [0xFF, 0xFF, 0xFF, 0xFF]])) = true := by decide +kernel
theorem test_hostSwap_gddr : holds (exec (.hostAtomicop 0 0 0x200040 .swap 4 9 0 77) { hp {} [] with mem := tables ++ [(0x10000000040, 8)] }) (fun t => coherentBytes t 0x10000000040 2 == [9, 0] && t.out == [.pcie 0 77 0 [8, 0, 0, 0]]) = true := by decide +kernel
theorem test_hostCas_gddr : (holds (exec (.hostAtomicop 0 0 0x200040 .cas 8 9 8 77) { hp {} [] with mem := tables ++ [(0x10000000040, 8)] }) (fun t => coherentBytes t 0x10000000040 2 == [9, 0]) && holds (exec (.hostAtomicop 0 0 0x200040 .cas 8 9 7 77) { hp {} [] with mem := tables ++ [(0x10000000040, 8)] }) (fun t => coherentBytes t 0x10000000040 2 == [8, 0] && t.out == [.pcie 0 77 0 [8, 0, 0, 0, 0, 0, 0, 0]])) = true := by decide +kernel
theorem test_hostSwap_hbm : holds (exec (.hostAtomicop 0 0 0x40 .swap 4 9 0 77) (hp {} [(0x40, 8)])) (fun t => coherentBytes t 0x40 2 == [8, 0] && t.out.head? == some (.pcie 0 77 4 [])) = true := by decide +kernel
theorem test_hostLinkUp : holds (exec (.hostLinkUp 0 6 16 3) (hp { cxlEn := true } [])) (fun t => (t.hlk 0).proto == 3 && (t.hlk 0).speed == 6 && (t.hlk 0).width == 16) = true := by decide +kernel
theorem test_hostConfig_retry : holds (exec (.hostConfigRequest 0 0 0 none 77) { hp {} [] with boot := { s1.boot with ready := false } }) (fun t => t.out == [.pcie 0 77 2 []]) = true := by decide +kernel
theorem test_hostConfig_ready : holds (exec (.hostConfigRequest 0 0 0 none 77) (hp {} [])) (fun t => match t.out with | [.pcie 0 77 0 d] => d.length == 4 | _ => false) = true := by decide +kernel
def sFlr : State := { hp { pba := [(33, true), (65, true)] } [] with queues := [(216, { que [] with ctx := 3, prod := 4, cons := 4, done := 4 }), (217, que [])] }
theorem test_flr : holds (exec (.functionLevelReset 0 (.flr 0) 9) sFlr) (fun t => (t.queue 216).st == .disabled && (t.queue 216).prod == 0 && (t.queue 216).ctx == 3 && (t.queue 216).bound && t.queue 217 == que [] && (t.hlk 0).pba == [(65, true)]) = true := by decide +kernel
theorem test_snoop2 : exec (.cxlH2dSnoop 0 5) { hp {} [] with hlks := [(0, { proto := 2 })] } = .next ({ hp {} [] with hlks := [(0, { proto := 2 })] }.send (.cxl 0 0 5 [])) := rfl
theorem test_bisnp : holds (exec (.cxlBisnpResponse 0 5) { hp {} [] with hlks := [(0, { proto := 3, sharers := [(5, some true), (6, some false)] })] }) (fun t => (t.hlk 0).sharers == [(6, some false)]) = true := by decide +kernel
def cx : State := { hp {} [(0x41, 7)] with hlks := [(0, { proto := 2, speed := 5, cxlV := true, cxlFn := 3, cxlSize := 1 })] }
theorem test_cxl_target : cxlTarget cx 0 (Config.hdmBase 0 + 0x40) 3 = some (3, 0x40) := by
  have h : (reqPart cx (portHub 0) (.function (Fin.ofNat 32 ((3 : BitVec 5).toNat)))).isSome = true := by decide +kernel
  have e : cx.hlk 0 = { proto := 2, speed := 5, cxlV := true, cxlFn := 3, cxlSize := 1 } := rfl
  have key : ∀ b : Nat, (if (true && true && decide (b ≤ b + 0x40 ∧ b + 0x40 + 3 ≤ b + 1 * 2 ^ 28)) = true
      then some (Fin.ofNat 32 ((3 : BitVec 5).toNat), b + 0x40 - b) else none) = some ((3 : Fin 32), 0x40) := by
    intro b
    rw [if_pos (by simp), Nat.add_sub_cancel_left]
    rfl
  unfold cxlTarget
  rw [e]
  dsimp only
  rw [h]
  exact key _
theorem test_window_pf0 : holds (exec (.functionWindowAccess 0 (.pf0Read 0 4) 77) (hp {} [])) (fun t => match t.out with | [.pcie 0 77 0 d] => d == ((List.range 4).map fun i => portPage (hp {} []) 0 i) | _ => false) = true := by decide +kernel
theorem test_window_pf0_beyond : holds (exec (.functionWindowAccess 0 (.pf0Read 4093 4) 77) (hp {} [])) (fun t => t.out.head? == some (.pcie 0 77 1 [])) = true := by decide +kernel
theorem test_window_msix : holds (exec (.functionWindowAccess 0 (.vfRead 0 12 1) 77) (hp {} [])) (fun t => t.out == [.pcie 0 77 0 [1]]) = true := by decide +kernel
theorem test_window_unbound : holds (exec (.functionWindowAccess 0 (.vfRead 1 12 1) 77) (hp {} [])) (fun t => t.out.head? == some (.pcie 0 77 1 [])) = true := by decide +kernel
theorem test_window_qvec : holds (exec (.functionWindowAccess 0 (.vfWrite 0 0x100005 [0xFF]) 77) (hp {} [])) (fun t => (t.hlk 0).qvec == [(8197, 0xFF)]) = true := by decide +kernel
theorem hp_base : Works (hp {} []) ∧ Canonical (hp {} []) ∧ CachesOk (hp {} []) ∧ NoPoison (hp {} []) ∧ (hp {} []).boot.ready = true ∧ ((hp {} []).hlk 0).speed ≠ 0 :=
  ⟨works_of (by decide +kernel), canonical_of (by decide +kernel) rfl, cachesOk_of (by decide +kernel) rfl, noPoison_of rfl rfl, rfl, by decide +kernel⟩
theorem witness_HostAccesses : Works (hp {} []) ∧ Canonical (hp {} []) ∧ CachesOk (hp {} []) ∧ NoPoison (hp {} []) ∧ (hp {} []).boot.ready = true ∧ ((hp {} []).hlk 0).speed ≠ 0 ∧ VfServes (hp {} []) 0 0 3 ∧
    0x40 + 3 ≤ 2 ^ ((hp {} []).hlk 0).apActive ∧ HostReaches ((hp {} []).toTime 9) 0 3 true false 0x40 3 { pa := 0x40, n := 3, acc := {} } ∧ ((hp {} []).hlk 0).posted = [] ∧
    HostReaches (hp {} []) 0 3 false true 0x40 3 { pa := 0x40, n := 3, acc := {} } ∧ boundFn (hp {} []) 0 (vfNum 1) = none ∧ 2 ^ ((hp {} []).hlk 0).apActive < 2 ^ 40 + 1 :=
  ⟨hp_base.1, hp_base.2.1, hp_base.2.2.1, hp_base.2.2.2.1, hp_base.2.2.2.2.1, hp_base.2.2.2.2.2, vf_serves, by decide +kernel, host_reaches, by decide +kernel,
    by constructor <;> decide +kernel, by decide +kernel, by decide +kernel⟩
def isOk (e : Except (Miss × State) Span) (x : Span) : Bool := match e with | .ok y => y == x | .error _ => false
theorem witness_HostAccesses_atomic : (4 = 4 ∨ 4 = 8) ∧ 0x40 % 4 = 0 ∧ isOk (atomicLook (hp {} []) (portHub 0) 3 (.function 3) 0 (atomicCode .fetchAdd 4) 4 0x40) { pa := 0x40, n := 4, acc := {} } = true ∧
    isOk (atomicLook (hp {} []) (portHub 0) 3 (.function 3) 0 (atomicCode .cas 8) 8 0x200040) { pa := 0x10000000040, n := 8, acc := {} } = true := by decide +kernel
def sRetry : State := { hp {} [] with boot := { s1.boot with ready := false } }
def hx : State := hp { pend := [⟨77, 5, [], [], [(0x400000000000, 4)], none, 3⟩] } []
theorem test_hostRequestTimeout : (isNext (exec (.hostRequestTimeout 0 77 200004) hx) (hx.toTime 200004) && holds (exec (.hostRequestTimeout 0 77 200005) hx) (fun t => (t.hlk 0).pend == [] && t.out.head? == some (.pcie 0 77 4 []))) = true := by decide +kernel
theorem witness_HostPorts : Works (hp {} []) ∧ Canonical (hp {} []) ∧ 3 ≤ (hp {} []).boot.step ∧ (6 : Fin 7).val ≠ 0 ∧ Works sRetry ∧ Canonical sRetry ∧ (sRetry.hlk 0).speed ≠ 0 ∧ sRetry.boot.ready = false ∧
    Works hx ∧ Canonical hx ∧ (hx.hlk 0).pend = [⟨77, 5, [], [], [(0x400000000000, 4)], none, 3⟩] ∧ (5 : Nat) + ms 2 = 200005 ∧ Works sFlr ∧ Canonical sFlr ∧ vfFn sFlr 0 (vfNum 0) = some 3 ∧ sFlr.doff.stopped = false ∧
    (∀ e ∈ sFlr.queues, e.2.bound = true → e.2.ctx = 3 → e.2.cmds = [] ∧ e.2.st ≠ .reset) := by
  refine ⟨hp_base.1, hp_base.2.1, ?_, ?_, works_of ?_, canonical_of ?_ rfl, ?_, ?_, works_of ?_, canonical_of ?_ rfl, ?_, ?_, works_of ?_, canonical_of ?_ rfl, ?_⟩ <;> decide +kernel
theorem witness_HostPorts_flr : ∀ q, (sFlr.queue q).bound = true → (sFlr.queue q).ctx = (3 : Fin 32).val → (sFlr.queue q).cmds = [] ∧ (sFlr.queue q).st ≠ .reset :=
  listed_queue (fun x => x.bound = true → x.ctx = (3 : Fin 32).val → x.cmds = [] ∧ x.st ≠ .reset) (by decide +kernel) (by decide +kernel)
def cxS : State := { cx with hlks := [(0, { proto := 3, speed := 5, cxlV := true, cxlFn := 3, cxlSize := 1, sharers := [(5, some true)] })] }
theorem witness_CxlRequests : Works cx ∧ Canonical cx ∧ CachesOk cx ∧ NoPoison cx ∧ 2 ≤ (cx.hlk 0).proto ∧ (cx.hlk 0).proto = 2 ∧ cx.boot.ready = true ∧ fatalState cx = false ∧
    cxlTarget cx 0 (Config.hdmBase 0 + 0x40) 3 = some (3, 0x40) ∧ HostReaches cx 0 3 true false 0x40 3 { pa := 0x40, n := 3, acc := {} } ∧ HostReaches cx 0 3 false true 0x40 3 { pa := 0x40, n := 3, acc := {} } ∧
    Works cxS ∧ Canonical cxS ∧ CachesOk cxS ∧ mget none (cxS.hlk 0).sharers 5 = some true ∧ mwf none (cxS.hlk 0).sharers = true ∧ (∀ h, (cxS.knot h).seqs = [] ∧ (cxS.knot h).waiting = []) := by
  refine ⟨works_of ?_, canonical_of ?_ rfl, cachesOk_of ?_ rfl, noPoison_of rfl rfl, ?_, ?_, ?_, ?_, test_cxl_target, ?_, ?_, works_of ?_, canonical_of ?_ rfl, cachesOk_of ?_ rfl, ?_, ?_, ?_⟩
  all_goals first | decide +kernel | (constructor <;> decide +kernel)
theorem witness_CxlRequests_outside : cxlTarget (hp {} []) 0 5 3 = none := rfl
theorem witness_WindowAccesses : Works (hp {} []) ∧ Canonical (hp {} []) ∧ (hp {} []).boot.ready = true ∧ ((hp {} []).hlk 0).speed ≠ 0 ∧ fatalState (hp {} []) = false ∧ 0xFFC + 4 ≤ 4096 ∧ 4096 < 0xFFD + 4 ∧
    boundFn (hp {} []) 0 (vfNum 1) = none ∧ boundFn (hp {} []) 0 (vfNum 0) = some 3 ∧ mwf 1 ((hp {} []).hlk 0).qvec = true :=
  ⟨hp_base.1, hp_base.2.1, rfl, hp_base.2.2.2.2.2, by decide +kernel, by decide, by decide, by decide +kernel, by decide +kernel, by decide +kernel⟩
theorem witness_HostTests_more : postedWait (hp {} []) 0 3 = false ∧ (16 : Fin 17) ∈ [1, 2, 4, 8, 16] ∧ hx.now + 1 ≤ 5 + ms 2 ∧ ((hx.hlk 0).pend.map (·.cxl)) = [none] := by decide +kernel
end HostTests

/-! ## Management, caches -/

namespace Management
def s1 : State := pkg [] []
theorem test_bootStatus : holds (exec .bootStatusRead { s1 with boot := { s1.boot with ready := false, step := 3, rstHeld := true } }) (fun t => match t.out with | [.mgmt b] => b.length == 16 | _ => false) = true := by decide +kernel
theorem test_i3c : isNext (exec (.i3cDynamicAddress 9) s1) { s1 with mgt := { s1.mgt with i3cAddr := some 9 } } = true := by decide +kernel
theorem test_jtag : ∃ s', exec (.jtagInstruction .idcode) s1 = .next s' ∧ s'.mgt = { s1.mgt with jtag := .idcode } ∧ s'.out = [.value (BitVec.ofNat 64 (idcode s1))] := ⟨_, rfl, rfl, rfl⟩
theorem test_pldmBase : exec (.pldmBaseDiscovery [1]) s1 = .next (s1.send (.mgmt (Config.pldmBase [1]))) := rfl
theorem test_pldmSensor : exec (.pldmSensorRead (.supply 2) 5) s1 = .next (s1.send (.mgmt [0, 5, 0, 0, 0])) := by rfl
theorem test_firmware : holds (exec (.pldmFirmwareUpdate (List.replicate 16 1)) { s1 with boot := { s1.boot with runSlot := some false } }) (fun t => t.mgt.flash == [(1, List.replicate 16 1)] && t.out == [.mgmt [0]]) = true := by decide +kernel
theorem test_firmware_short : holds (exec (.pldmFirmwareUpdate (List.replicate 15 1)) s1) (fun t => t.mgt.flash == [] && t.out == [.mgmt [3]]) = true := by decide +kernel
theorem test_dumpRead_none : isNext (exec (.dumpRead 0 4) s1) (s1.send (.mgmt [0x80])) = true := by decide +kernel
theorem test_dumpRelease_none : (isNext (exec .dumpRelease s1) (s1.send (.mgmt [0x80])) && isNext (exec (.dumpRel .prostoza) s1) s1) = true := by decide +kernel
def ca (c : Cache) (m : List Host.Cell) : State := { pkg [] m with caches := [(0, c)] }
def ln : Line := { num := 0, way := 0, valid := 3, dirty := 1, poison := 0, prio := 1, stamp := 0, data := [(3, 9), (0x20, 7)] }
theorem test_cacheEnable : holds (exec (.cacheEnable .prostoza (.scc 1)) (ca {} [])) (fun t => t.cache 1 == { st := .enabled, clean := false } && t.mem == tables) = true := by decide +kernel
theorem test_cacheEnable_unclean : holds (exec (.cacheEnable .prostoza (.scc 0)) (ca { clean := false } [])) (fun t => t.cache 0 == { clean := false, seqWhy := 1 } && (t.blk (cachePage 0)).intStat.getLsbD 3) = true := by decide +kernel
theorem test_cacheDisable : holds (exec (.cacheDisable .prostoza (.scc 0)) (ca { st := .enabled, clean := false } [])) (fun t => t.cache 0 == { st := .draining, clean := false }) = true := by decide +kernel
theorem test_cacheDrainDone : holds (exec (.cacheDrainDone (.scc 0)) (ca { st := .draining, clean := false, lines := [ln] } [(0x20, 7)])) (fun t => (t.cache 0).lines == [] && (t.cache 0).st == .disabled && t.mem == (3, 9) :: (0x20, 7) :: tables) = true := by decide +kernel
theorem test_cacheMaintWb : holds (exec (.cacheMaintWb .prostoza (.scc 0)) (ca { st := .enabled, clean := false, lines := [ln] } [(0x20, 7)])) (fun t => (t.cache 0).maint == some (0, false) && holds (exec (.cacheMaintDone (.scc 0)) t) fun u => u.mem == (3, 9) :: (0x20, 7) :: tables && (u.cache 0).lines.map (fun l => (l.valid, l.dirty)) == [(3, 0)]) = true := by decide +kernel
theorem test_cacheMaintInv : holds (exec (.cacheMaintInv .prostoza (.scc 0)) (ca { st := .enabled, clean := false, lines := [ln] } [(0x20, 7)])) (fun t => (t.cache 0).maint == some (1, false) && holds (exec (.cacheMaintDone (.scc 0)) t) fun u => (u.cache 0).lines == []) = true := by decide +kernel
theorem test_cacheMaintWbinv : holds (exec (.cacheMaintWbinv .prostoza (.scc 0)) (ca { st := .disabled, clean := false, lines := [ln] } [(0x20, 7)])) (fun t => (t.cache 0).maint == some (2, true) && holds (exec (.cacheMaintDone (.scc 0)) t) fun u => u.mem == (3, 9) :: (0x20, 7) :: tables && (u.cache 0).lines == [] && (u.cache 0).clean && (u.blk (cachePage 0)).intStat.getLsbD 0) = true := by decide +kernel
theorem test_cacheCarve : holds (exec (.cacheCarve .prostoza (.scc 0) 2) (ca { cur := 5 } [])) (fun t => (t.cache 0).st == .carving && (t.cache 0).units == 2 && (t.cache 0).cur == 2 && holds (exec (.carveDone (.scc 0)) t) fun u => (u.cache 0).st == .disabled && (u.cache 0).cur == 2 && (u.blk (cachePage 0)).intStat.getLsbD 1) = true := by decide +kernel
def pl : Cache := { st := .enabled, clean := false, plBase := 0x100, plLen := 0x100 }
theorem test_cachePreload : holds (exec (.cachePreload .prostoza (.scc 0) 3) (ca pl [(0x101, 5)])) (fun t => t.cache 0 == { pl with plBusy := true, plWays := 3, plRun := (0x100, 0x100, 3) }) = true := by decide +kernel
theorem test_preloadDone : holds (exec (.preloadDone (.scc 0)) (ca { pl with plBusy := true, plRun := (0x100, 0x100, 3) } [(0x101, 5)])) (fun t => !(t.cache 0).plBusy && (t.cache 0).lines.map (·.num) == [1] && coherentByte t 0x101 == 5) = true := by decide +kernel
def gcs (g : Gc) : State := { s1 with gcs := [(engIx (.tensor 0 1), g)] }
theorem test_gcEnable : holds (exec (.gcEnable .prostoza (.tensor 0 1) false) (gcs { en := false, clean := true })) (fun t => t.gc 1 == { en := true, clean := false }) = true := by decide +kernel
theorem test_gcDisable : holds (exec (.gcDisable .prostoza (.tensor 0 1)) (gcs { en := true, ents := [⟨1, [2], 3, none⟩] })) (fun t => t.gc 1 == { en := false, clean := true }) = true := by decide +kernel
theorem test_gcInv : holds (exec (.gcInv .prostoza (.tensor 0 1)) (gcs { en := false, ents := [⟨1, [2], 3, none⟩] })) (fun t => t.gc 1 == { en := false, clean := true }) = true := by decide +kernel
theorem test_scrZero : isNext (exec (.scrZero .prostoza 3) s1) { s1 with scrZero := [(3, true)] } = true := by decide +kernel
theorem test_scrZeroDone : holds (exec (.scrZeroDone 3) { s1 with scrZero := [(3, true)], mem := tables ++ [(scrBase 3 - 1, 4), (scrBase 3, 5), (scrBase 3 + 0x7FFFFFF, 6), (scrBase 3 + 0x8000000, 7)] }) (fun t => t.scrZero == [] && t.mem == tables ++ [(scrBase 3 - 1, 4), (scrBase 3 + 0x8000000, 7)]) = true := by decide +kernel
theorem test_gddrRetry : holds (exec (.gddrTransferRetry 1 0x40 false) s1) (fun t => mget (0, 0, 0) t.gddrTry 1 == (granule (gddrBase 1 + 0x40) + 1, 1, 0) && t.cnt (pgKey 1 ixGmc) 0x0B8 == 1) = true := by decide +kernel
theorem test_gddrRetry5 : holds (exec (.gddrTransferRetry 1 0x40 false) { s1 with gddrTry := [(1, (granule (gddrBase 1 + 0x40) + 1, 4, 0))] }) (fun t => poisoned t (granule (gddrBase 1 + 0x40)) && t.gddrTry == []) = true := by decide +kernel
/-- with a dump: its summary holds its flag and its CRC, the dump one byte -/
def sDump : State := { s1 with mem := tables ++ [(1167962669057, 5), (1167962669068, 32), (4123204255744, 255), (4123204255745, 255), (4123204255746, 255), (4123204255747, 255), (4123204255750, 1), (4123204255751, 150), (4123204255752, 48), (4123204255753, 7), (4123204255754, 119), (4123204255756, 255), (4123204255757, 255), (4123204255758, 255), (4123204255759, 255)] }
theorem crc_zeros (n : Nat) : (List.replicate n (0 : Byte)).foldl crcByte 0#32 = 0#32 := by
  induction n with
  | zero => rfl
  | succ n ih => rw [List.replicate_succ, List.foldl_cons]; exact ih
theorem sDump_bytes : rawBytes sDump (mramBase 0 + summaryOff) 4096 = [0xFF,0xFF,0xFF,0xFF,0,0,1,0x96,0x30,7,0x77,0,0xFF,0xFF,0xFF,0xFF] ++ List.replicate 4080 0 := by
  have hz : ∀ i, rawByte sDump (4123204255744 + (16 + i)) = 0 := by
    intro i
    have h (k : Nat) (hk : k < 4123204255760) : ¬ k = 4123204255744 + (16 + i) := by omega
    simp [rawByte, sDump, tables, mget, h]
  have h1 : (List.range 16).map (fun i => rawByte sDump (4123204255744 + i)) = [0xFF,0xFF,0xFF,0xFF,0,0,1,0x96,0x30,7,0x77,0,0xFF,0xFF,0xFF,0xFF] := by decide +kernel
  have h2 : ((List.range 4080).map (16 + ·)).map (fun i => rawByte sDump (4123204255744 + i)) = List.replicate 4080 0 := by
    rw [List.eq_replicate_iff]
    refine ⟨by simp, ?_⟩
    intro b hb
    rw [List.map_map, List.mem_map] at hb
    obtain ⟨i, -, rfl⟩ := hb
    exact hz i
  have h3 : mramBase 0 + summaryOff = 4123204255744 := by decide +kernel
  rw [rawBytes, h3, show 4096 = 16 + 4080 from rfl, List.range_add, List.map_append, h1, h2]
theorem sDump_present : dumpPresent sDump = true := by
  have h3 : mramBase 0 + summaryOff = 4123204255744 := by decide +kernel
  have hf : (rawByte sDump (4123204255744 + 6)).getLsbD 0 = true := by decide +kernel
  have h16 : ([0xFF,0xFF,0xFF,0xFF,0,0,1,0x96,0x30,7,0x77,0,0,0,0,0] : List Byte).foldl crcByte 0xFFFFFFFF#32 = 0#32 := by decide +kernel
  have hc : crc32 ([0xFF,0xFF,0xFF,0xFF,0,0,1,0x96,0x30,7,0x77,0,0,0,0,0] ++ List.replicate 4080 0) = 4294967295#32 := by
    rw [crc32, List.foldl_append, h16, crc_zeros]
    decide
  have hl : leAt ([0xFF,0xFF,0xFF,0xFF,0,0,1,0x96,0x30,7,0x77,0,0xFF,0xFF,0xFF,0xFF] ++ List.replicate 4080 0) 12 4 = 4294967295 := by
    rw [leAt, slice, List.drop_append_of_le_length (by decide), List.take_append_of_le_length (by decide)]
    decide
  have hzf : zeroField ([0xFF,0xFF,0xFF,0xFF,0,0,1,0x96,0x30,7,0x77,0,0xFF,0xFF,0xFF,0xFF] ++ List.replicate 4080 0) 12 4 = [0xFF,0xFF,0xFF,0xFF,0,0,1,0x96,0x30,7,0x77,0,0,0,0,0] ++ List.replicate 4080 0 := by
    rw [zeroField, List.take_append_of_le_length (by decide), List.drop_append_of_le_length (by decide)]
    rfl
  unfold dumpPresent
  simp only [sDump_bytes, hzf, hc, hl]
  rw [h3, hf]
  decide
theorem witness_ManagementAnswers : s1.boot.power = true ∧ Works s1 ∧ s1.boot.mctp = true ∧ s1.doff.active = false ∧ s1.doff.done = false ∧ s1.mgt.fatal = false ∧ 16 ≤ (List.replicate 16 (1 : Byte)).length ∧
    (List.replicate 16 (1 : Byte)).length ≤ 0x1000000 ∧ Works sDump ∧ sDump.boot.mctp = true ∧ dumpPresent sDump = true ∧ 1 ≤ 1024 :=
  ⟨rfl, works_of (by decide +kernel), rfl, rfl, rfl, rfl, by decide, by decide, works_of (by decide +kernel), rfl, sDump_present, by decide⟩
theorem witness_ManagementAnswers_none : dumpPresent s1 = false := by decide +kernel
theorem line_ok (c : Cache) (m : List Host.Cell) (hm : Memory.wf (m ++ tables) = true) (hc : mwf {} [(0, c)] = true) (hl : c.lines = [ln]) (h : LineOk (ca c m) 0 ln) : CachesOk (ca c m) := by
  have h0 : (ca c m).cache 0 = c := rfl
  have hn (i : Nat) (hi : i ≠ 0) : (ca c m).cache i = {} := by
    have : ¬ (0 : Nat) = i := fun e => hi e.symm
    simp only [State.cache, ca, mget, if_neg this]
  refine ⟨hm, hc, fun i _ l hl' => ?_, fun i _ => ?_⟩ <;> by_cases hi : i = 0
  · subst hi; rw [h0, hl] at hl'; obtain rfl := List.mem_singleton.mp hl'; exact h
  · rw [hn i hi] at hl'; exact absurd hl' List.not_mem_nil
  · subst hi; rw [h0, hl]; exact List.pairwise_singleton _ _
  · rw [hn i hi]; exact List.Pairwise.nil
theorem line_noPoison (c : Cache) (m : List Host.Cell) (hl : c.lines = [ln]) : NoPoison (ca c m) := by
  refine ⟨rfl, fun i _ l h => ?_, rfl⟩
  by_cases hi : i = 0
  · subst hi; have : (ca c m).cache 0 = c := rfl
    rw [this, hl] at h; obtain rfl := List.mem_singleton.mp h; rfl
  · have e : ¬ (0 : Nat) = i := fun e => hi e.symm
    have : (ca c m).cache i = {} := by simp only [State.cache, ca, mget, if_neg e]
    rw [this] at h; exact absurd h List.not_mem_nil
def cEn : Cache := { st := .enabled, clean := false, lines := [ln] }
def cDr : Cache := { st := .draining, clean := false, lines := [ln] }
def cMt : Cache := { st := .disabled, clean := false, lines := [ln], maint := some (2, true) }
def cPl : Cache := { st := .enabled, clean := false, plBase := 0x100, plLen := 0x100, plBusy := true, plRun := (0x100, 0x100, 3), lines := [ln] }
theorem witness_CacheEnableAndDrain : Works (ca cEn []) ∧ Canonical (ca cEn []) ∧ (s1.cache 1).st = .disabled ∧ (s1.cache 1).clean = true ∧ ((ca { clean := false } []).cache 0).clean = false ∧ ((ca cEn []).cache 0).st = .enabled ∧
    Works (ca cDr [(0x20, 7)]) ∧ Canonical (ca cDr [(0x20, 7)]) ∧ ((ca cDr [(0x20, 7)]).cache 0).st = .draining ∧ CachesOk (ca cDr [(0x20, 7)]) ∧ NoPoison (ca cDr [(0x20, 7)]) :=
  ⟨works_of (by decide +kernel), canonical_of (by decide +kernel) rfl, rfl, rfl, rfl, rfl, works_of (by decide +kernel), canonical_of (by decide +kernel) rfl, rfl,
    line_ok _ _ (by decide +kernel) (by decide +kernel) rfl ⟨by decide +kernel, by decide +kernel, by decide +kernel⟩, line_noPoison _ _ rfl⟩
theorem witness_CacheEnableAndDrain_preload : Works (ca cPl [(0x20, 7)]) ∧ Canonical (ca cPl [(0x20, 7)]) ∧ ((ca cPl [(0x20, 7)]).cache 0).st = .enabled ∧ ((ca cPl [(0x20, 7)]).cache 0).plBusy = true ∧
    CachesOk (ca cPl [(0x20, 7)]) ∧ NoPoison (ca cPl [(0x20, 7)]) ∧ ((ca cPl [(0x20, 7)]).cache 0).plRun.1 + ((ca cPl [(0x20, 7)]).cache 0).plRun.2.1 ≤ hbmStack :=
  ⟨works_of (by decide +kernel), canonical_of (by decide +kernel) rfl, rfl, rfl,
    line_ok _ _ (by decide +kernel) (by decide +kernel) rfl ⟨by decide +kernel, by decide +kernel, by decide +kernel⟩, line_noPoison _ _ rfl, by decide +kernel⟩
/-- No link holds back the register accesses that the statements name. -/
theorem witness_registers_free : ∀ o ∈ [pgOff (cachePage 0) + 0x100, pgOff (cachePage 0) + 0x110, pgOff (cachePage 0) + 0x114, pgOff (cachePage 0) + 0x130, pgOff (engPage 1) + 0x300, pgOff (pgKey (tDie 3) ixScr) + 0x100,
      pgOff (pgKey (tDie 3) ixTdc) + 0x100, pgOff (pgKey 2 ixErr) + 0x104, pgOff (pgKey 2 ixCore) + 0x010, pgOff (pgKey 2 ixCore) + 0x020, bellOff 216 + 0x058, pgOff (qmPage 216) + 0x110],
    mustWait s1 .prostoza false o = false ∧ mustWait s1 .prostoza true o = false := by decide +kernel
theorem witness_CacheMaintenanceAndCarving : Works (ca cEn []) ∧ Canonical (ca cEn []) ∧ ((ca cEn []).cache 0).st ≠ .draining ∧ ((ca cEn []).cache 0).st ≠ .carving ∧ ((ca cEn []).cache 0).maint = none ∧
    ((ca cEn []).cache 0).plBusy = false ∧ Works (ca cMt [(0x20, 7)]) ∧ Canonical (ca cMt [(0x20, 7)]) ∧ ((ca cMt [(0x20, 7)]).cache 0).maint = some (2, true) ∧ CachesOk (ca cMt [(0x20, 7)]) ∧ NoPoison (ca cMt [(0x20, 7)]) ∧
    ¬ (true = true ∧ 2 = 1) ∧ (6 : Fin 16).val ≤ maxUnits 0 ∧ ((ca { units := 6, st := .carving } []).cache 0).st = .carving ∧ ((ca pl []).cache 0).plBase.toNat % 256 = 0 ∧ ((ca pl []).cache 0).plLen.toNat = 256 ∧
    ((ca pl []).cache 0).plBase.toNat + ((ca pl []).cache 0).plLen.toNat ≤ cacheRange (ca pl []) 0 ∧ wayList (ca pl []) 0 3 ≠ [] ∧ Works (ca cPl [(0x20, 7)]) ∧ Canonical (ca cPl [(0x20, 7)]) ∧
    ((ca cPl [(0x20, 7)]).cache 0).plBusy = true ∧ CachesOk (ca cPl [(0x20, 7)]) ∧ NoPoison (ca cPl [(0x20, 7)]) :=
  ⟨works_of (by decide +kernel), canonical_of (by decide +kernel) rfl, by decide +kernel, by decide +kernel, rfl, rfl, works_of (by decide +kernel), canonical_of (by decide +kernel) rfl, rfl,
    line_ok _ _ (by decide +kernel) (by decide +kernel) rfl ⟨by decide +kernel, by decide +kernel, by decide +kernel⟩, line_noPoison _ _ rfl, by decide, by decide +kernel, rfl, by decide +kernel, by decide +kernel,
    by decide +kernel, by decide +kernel, works_of (by decide +kernel), canonical_of (by decide +kernel) rfl, rfl,
    line_ok _ _ (by decide +kernel) (by decide +kernel) rfl ⟨by decide +kernel, by decide +kernel, by decide +kernel⟩, line_noPoison _ _ rfl⟩
def sGc : State := { s1 with gcs := [(1, { en := false, clean := true })], scrZero := [(3, true)], gddrTry := [(1, (granule (gddrBase 1 + 0x40) + 1, 4, 0))] }
theorem witness_GatherCachesAndScratchpads : Works sGc ∧ Canonical sGc ∧ (sGc.gc (engIx (.tensor 0 1))).clean = true ∧ (sGc.gc (engIx (.tensor 0 1))).en = false ∧ (sGc.gc (engIx (.tensor 0 2))).en = true ∧
    mget false sGc.scrZero (3 : Tensor).val = true ∧ (∀ h, (sGc.knot h).seqs = [] ∧ (sGc.knot h).waiting = []) ∧ gddrSize sGc - 1 < gddrSize sGc ∧ mget (0, 0, 0) sGc.gddrTry 0 = (0, 0, 0) ∧
    mget (0, 0, 0) sGc.gddrTry (1 : Hub).val = (granule (gddrBase 1 + 0x40) + 1, 4, 0) ∧ sGc.now ≤ 0 + us 2 ∧ poisonUsed sGc 1 = 0 := by
  refine ⟨works_of ?_, canonical_of ?_ rfl, ?_⟩ <;> decide +kernel
end Management

/-! ## Hanks, partitions, doffing -/

namespace Reassignment
def s1 : State := pkg [] []
def pt (p : Partn) (qs : SMap Queue) (m : List Host.Cell) : State := { pkg qs m with hub0 := { s1.hub0 with part := { s1.hub0.part with hank := p.hank, owner := p.owner, zeroed := p.zeroed, releaseAt := p.releaseAt, ctlOp := p.ctlOp } } }
theorem test_hankDrainTimeout : (isNext (exec (.hankDrainTimeout 0 1000008) (pt { hank := .releasing, releaseAt := 9 } [(216, que [cmd opNop []])] [])) ((pt { hank := .releasing, releaseAt := 9 } [(216, que [cmd opNop []])] []).toTime 1000008) && holds (exec (.hankDrainTimeout 0 1000009) (pt { hank := .releasing, releaseAt := 9 } [(216, que [cmd opNop []])] [])) (fun t => (t.queue 216).st == .reset || ((t.queue 216).st == .disabled && (t.queue 216).cmds == []))) = true := by decide +kernel
theorem test_hankZeroingDone : holds (exec (.hankZeroingDone 0) ({ pt { hank := .zeroing } [(216, que [])] [(5, 5)] with cores := [(0, { gidx := 3 }), (60, { gidx := 4 })] })) (fun t => t.hub0.part.hank == .unassigned && t.hub0.part.zeroed && t.mem.all (fun p => p.1 ≥ 0x40000000000 || p.1 < 0) && t.queue 216 == {} && t.core 0 == {} && t.core 60 == { gidx := 4 }) = true := by decide +kernel
theorem test_hankAssign : holds (exec (.hankAssign .prostoza 0 7) (pt { hank := .unassigned, zeroed := true } [] [])) (fun t => t.hub0.part.hank == .owned && t.hub0.part.owner == 7 && !t.hub0.part.zeroed && quiet s1 t) = true := by decide +kernel
def sPr : State := { pkg [(216, { que [] with prod := 4, cons := 4, done := 4 })] [] with cores := [(0, { gidx := 3 }), (60, { gidx := 4 })], stopped := [(engPage 0, true)], hub0 := { s1.hub0 with cbGrps := [(3, { st := .collecting })], flk := { knot := { seqs := [(3, { isOpen := true })] } } } }
theorem test_partRst : holds (exec (.partRst .prostoza 0 0 9) sPr) (fun t => !t.hub0.part.rstBusy && (t.queue 216).st == .disabled && (t.queue 216).prod == 0 && (t.queue 216).bound && t.core 0 == {} && t.core 60 == { gidx := 4 } && t.cbGrp 0 3 == {} && t.hub0.flk.knot.seqs == [] && t.stopped == [] && sameMem s1 t && sameStart s1 t) = true := by decide +kernel
theorem test_partRst_other : holds (exec (.partRst .prostoza 0 1 9) sPr) (fun t => sameMem sPr t && sameWork sPr t && sameStart s1 t) = true := by decide +kernel
theorem test_partitionError : (holds (exec (.partitionError 4 ixEng 3) s1) (fun t => mget false t.stopped (pgKey 4 ixEng) && (t.blk (pgKey 4 ixEng)).intStat.getLsbD 31 && sameMem s1 t && sameWork s1 t) && isNext (exec (.partitionError 4 ixEng 0) s1) s1) = true := by decide +kernel
theorem test_pwrWarn : holds (exec (.pwrWarnAssert 9) s1) (fun t => t.doff.active && t.doff.tW == 9 && t.doff.tD == 1000009 && t.hub0.led.st == .stopping && t.hub1.gov.cutActive && t.hub1.gov.cutPwr && sameMem s1 t) = true := by decide +kernel
def sDo (d : Doff) (qs : SMap Queue) : State := { pkg qs [] with doff := d }
theorem test_pwrWarn_done : holds (exec (.pwrWarnAssert 9) (sDo { done := true } [])) (fun t => t.pins.doffDone == .high && sameMem s1 t) = true := by decide +kernel
theorem test_admissionStop : holds (exec (.admissionStop 12) (sDo { active := true, tW := 9 } [(216, que [{ cmd opNop [] with phase := .ready, startT := none }]), (217, { que [] with st := .halted })])) (fun t => t.doff.stopped && (t.queue 216).st == .doff && (t.queue 217).preDoff == .halted && (t.queue 216).cmds.map (fun d => (d.phase, d.status)) == [(.ended, .doff)] && t.hub0.led.tStop == 3) = true := by decide +kernel
theorem test_doffDeadline : (holds (exec (.doffDeadline 20) (sDo { active := true, stopped := true, tW := 9, tD0 := 20, tD1 := 20 } [(216, { que [cmd opNop []] with st := .doff })])) (fun t => (t.queue 216).cmds.map (fun d => (d.phase, d.status)) == [(.ended, .doff)]) && isNext (exec (.doffDeadline 19) (sDo { active := true, stopped := true, tW := 9, tD0 := 20, tD1 := 20 } [(216, { que [cmd opNop []] with st := .doff })])) ((sDo { active := true, stopped := true, tW := 9, tD0 := 20, tD1 := 20 } [(216, { que [cmd opNop []] with st := .doff })]).toTime 19)) = true := by decide +kernel
def sCom : State := sDo { active := true, stopped := true, tW := 9, tD0 := 20, tD1 := 20, warned := true } [(216, { que [] with st := .doff })]
def sClr : State := { sDo { active := true, stopped := true, tW := 9, tD0 := 20, tD1 := 20, warned := true } [(216, { que [] with st := .doff, preDoff := .running }), (217, { que [] with st := .disabled })] with hub0 := { s1.hub0 with led := { s1.hub0.led with clearAct := false, st := .stopping }, gov := { s1.hub0.gov with cutPwr := true } } }
theorem test_pwrWarnClear2 : holds (exec (.pwrWarnClear 15) sClr) (fun t => t.doff == {} && t.hub0.led.st == .normal && !t.hub0.gov.cutPwr && (t.queue 216).st == .running && (t.queue 217).st == .disabled) = true := by decide +kernel
theorem test_viewRel : holds (exec (.ledViewRel .prostoza 0) { s1 with hub0 := { s1.hub0 with led := { s1.hub0.led with views := [3, 4, 5], viewSel := [(0, 4)] } } }) (fun t => t.hub0.led.views == [3, 5]) = true := by decide +kernel
def sOwn : State := pt { hank := .owned } [(216, que [cmd opNop []]), (217, que [])] []
def sRel : State := pt { hank := .releasing, releaseAt := 9 } [(216, que [cmd opNop []])] []
def sZer : State := { pt { hank := .zeroing } [(216, que [])] [(5, 5)] with cores := [(0, { gidx := 3 }), (60, { gidx := 4 })] }
theorem idle_all {s : State} (h : ∀ e ∈ s.queues, e.2.cmds = [] ∧ e.2.st ≠ .reset) (q : QIdx) : (s.queue q).cmds = [] ∧ (s.queue q).st ≠ .reset :=
  listed_queue (fun x => x.cmds = [] ∧ x.st ≠ .reset) (by decide) h q
theorem witness_HanksAndPartitions_release : Works sOwn ∧ Canonical sOwn ∧ (sOwn.hub 0).part.hank = .owned ∧ (∃ q, qHub q = 0 ∧ (sOwn.queue q).cmds ≠ []) ∧
    (∀ q, qHub q = 0 → ((pt { hank := .owned } [(217, que [])] []).queue q).cmds = []) ∧ Works sRel ∧ Canonical sRel ∧ (sRel.hub 0).part.hank = .releasing ∧ (sRel.hub 0).part.releaseAt + ms 10 = 1000009 ∧ sRel.doff.stopped = false ∧
    Works sZer ∧ Canonical sZer ∧ (sZer.hub 0).part.hank = .zeroing ∧ sZer.doff.active = false ∧ sZer.doff.done = false :=
  ⟨works_of (by decide +kernel), canonical_of (by decide +kernel) rfl, rfl, ⟨216, by decide +kernel, by decide +kernel⟩, fun q _ => (idle_all (by decide +kernel) q).1, works_of (by decide +kernel),
    canonical_of (by decide +kernel) rfl, rfl, by decide +kernel, rfl, works_of (by decide +kernel), canonical_of (by decide +kernel) rfl, rfl, rfl, rfl⟩
theorem witness_HankAssignment : Works (pt { hank := .unassigned, zeroed := true } [] []) ∧ Canonical (pt { hank := .unassigned, zeroed := true } [] []) ∧ ((pt { hank := .unassigned, zeroed := true } [] []).hub 0).part.hank = .unassigned ∧
    ((pt { hank := .unassigned, zeroed := true } [] []).hub 0).part.zeroed = true ∧ ((pt { hank := .unassigned, zeroed := false } [] []).hub 0).part.zeroed = false ∧ (sOwn.hub 0).part.hank ≠ .unassigned :=
  ⟨works_of (by decide +kernel), canonical_of (by decide +kernel) rfl, rfl, rfl, rfl, by decide +kernel⟩
theorem test_hankAssign_ignored : holds (exec (.hankAssign .prostoza 0 7) (pt { hank := .unassigned, zeroed := false } [] [])) (fun t => t.hub0.part.hank == .unassigned && t.hub0.part.owner == 0 && !t.hub0.part.zeroed && t.hub1 == s1.hub1) = true := by decide +kernel
theorem witness_HanksAndPartitions_reset : Works sPr ∧ Canonical sPr ∧ hankOwner sPr 0 = some (0 : Fin 16).val ∧ hankOwner sPr 0 ≠ some (1 : Fin 16).val ∧ sPr.doff.stopped = false ∧ (sPr.hub 0).part.rstBusy = false ∧
    (∀ q, qHub q = 0 → (sPr.queue q).cmds = [] ∧ (sPr.queue q).st ≠ .reset) ∧ (∀ e : Fin 16, tensorHub (e.val / 2) = 0 → (sPr.creel e).st = 0) ∧ ixEng < 4096 ∧
    (∃ k n, pageAt 4 ixEng = .eng k n) :=
  ⟨works_of (by decide +kernel), canonical_of (by decide +kernel) rfl, by decide +kernel, by decide +kernel, rfl, rfl, fun q _ => idle_all (by decide +kernel) q, by decide +kernel, by decide +kernel, ⟨_, _, rfl⟩⟩
def sStop : State := sDo { active := true, tW := 9 } [(216, que [{ cmd opNop [] with phase := .ready, startT := none }]), (217, { que [] with st := .halted })]
def sDead : State := sDo { active := true, stopped := true, tW := 9, tD0 := 20, tD1 := 20 } [(216, { que [cmd opNop []] with st := .doff })]
theorem witness_Doffing_begin : Works s1 ∧ Canonical s1 ∧ s1.boot.ready = true ∧ s1.doff.active = false ∧ s1.doff.done = false ∧ Works (sDo { done := true } []) ∧ Canonical (sDo { done := true } []) ∧
    (sDo { done := true } []).doff.done = true ∧ (sDo { done := true } []).doff.warned = false ∧ Works sStop ∧ Canonical sStop ∧ sStop.doff.active = true ∧ sStop.doff.stopped = false ∧
    (sStop.queue 216).cmds = [{ cmd opNop [] with phase := .ready, startT := none }] ∧ (sStop.queue 217).st = .halted ∧ updated { cmd opNop [] with phase := .ready, startT := none } = false := by
  refine ⟨works_of ?_, canonical_of ?_ rfl, rfl, rfl, rfl, works_of ?_, canonical_of ?_ rfl, rfl, rfl, works_of ?_, canonical_of ?_ rfl, ?_⟩ <;> decide +kernel
theorem witness_Doffing_end : Works sDead ∧ Canonical sDead ∧ sDead.doff.stopped = true ∧ sDead.doff.done = false ∧ sDead.doff.tD 0 ≤ max sDead.now 20 ∧ max sDead.now 19 < sDead.doff.tD 0 ∧ max sDead.now 19 < sDead.doff.tD 1 ∧ sCom.upsets = [] ∧ (sDead.queue 216).cmds = [cmd opNop []] ∧
    updated (cmd opNop []) = false ∧ Works sCom ∧ Canonical sCom ∧ sCom.doff.stopped = true ∧ sCom.doff.done = false ∧ sCom.mgt.fatal = false ∧ sCom.poison = [] ∧ sCom.caches = [] ∧ commitBegun sCom 0 = false ∧
    (∀ q, qHub q = 0 → (sCom.queue q).cmds = []) ∧ (sCom.hub 1).led.committed = false ∧ Works sClr ∧ Canonical sClr ∧ sClr.doff.active = true ∧ sClr.doff.fatal = false ∧ commitBegun sClr 0 = false ∧ commitBegun sClr 1 = false ∧
    sClr.hub0.led.clearAct = false ∧ (sClr.queue 216).st = .doff ∧ (sClr.queue 217).st ≠ .doff :=
  ⟨works_of (by decide +kernel), canonical_of (by decide +kernel) rfl, rfl, rfl, by decide +kernel, by decide +kernel, by decide +kernel, rfl, by decide +kernel, by decide +kernel, works_of (by decide +kernel), canonical_of (by decide +kernel) rfl,
    rfl, rfl, rfl, rfl, rfl, by decide +kernel, fun q _ => (idle_all (by decide +kernel) q).1, rfl, works_of (by decide +kernel), canonical_of (by decide +kernel) rfl, rfl, rfl, by decide +kernel, by decide +kernel, rfl,
    by decide +kernel, by decide +kernel⟩
/-- the other hub die has committed -/
theorem noHead {s : State} (h : ∀ e ∈ s.queues, ∀ c ∈ e.2.cmds, c.head = []) (q : QIdx) : ∀ c ∈ (s.queue q).cmds, c.head = [] :=
  listed_queue (fun x => ∀ c ∈ x.cmds, c.head = []) (by simp) h q
theorem witness_Doffing_heads : (∀ q, ∀ c ∈ (sStop.queue q).cmds, c.head = []) ∧ (∀ q, ∀ c ∈ (sDead.queue q).cmds, c.head = []) := ⟨noHead (by decide +kernel), noHead (by decide +kernel)⟩
/-- before READY, and in a package that has doffed -/
def sWait : State := { sClr with doff := {}, boot := { sClr.boot with ready := false } }
theorem test_pwrWarn_early : holds (exec (.pwrWarnAssert 9) { sWait with hub0 := s1.hub0 }) (fun t => t.doff == {} && t.hub0.gov.cutPwr && t.hub0.gov.cutActive && t.hub1.gov.cutActive) = true := by decide +kernel
theorem test_pwrWarnClear_early : (holds (exec (.pwrWarnClear 15) sWait) (fun t => t.doff == {} && !t.hub0.gov.cutPwr && sameWork sWait t) &&
    isNext (exec (.pwrWarnClear 15) (sDo { done := true } [])) ((sDo { done := true } []).toTime 15)) = true := by decide +kernel
theorem witness_Doffing_early : Works sWait ∧ Canonical sWait ∧ sWait.boot.ready = false ∧ sWait.doff.active = false ∧ sWait.doff.done = false ∧ (sDo { done := true } []).doff.active = false ∧ (sDo { done := true } []).doff.done = true :=
  ⟨works_of (by decide +kernel), canonical_of (by decide +kernel) rfl, rfl, rfl, rfl, rfl, rfl⟩
/-- a queue that waits on a fault drains when it is disabled -/
def sFwq : State := pkg [(216, { que [{ cmd opNop [] with phase := .faultWait, stallNow := some (cFaultWait, 3) }] with st := .faultWait, fwAt := 3 })] []
theorem test_disable_faultWait : holds (exec (.queueDisable .prostoza 216) sFwq) (fun t => (t.queue 216).st == .draining && !(t.queue 216).enable && (t.queue 216).cmds == ((sFwq.queue 216).leaveWait sFwq.now).cmds) = true := by decide +kernel
theorem witness_QueueControl_faultWait : Works sFwq ∧ Canonical sFwq ∧ bellAllows sFwq .prostoza 216 = true ∧ mustWait sFwq .prostoza false (bellOff 216 + 0x058) = false ∧ (sFwq.queue 216).st = .faultWait := by
  refine ⟨works_of ?_, canonical_of ?_ rfl, ?_⟩ <;> decide +kernel
theorem witness_Doffing_second : commitBegun { sCom with hub1 := { sCom.hub1 with led := { sCom.hub1.led with committed := true, st := .committing } } } 0 = false := by decide +kernel
end Reassignment

/-! ## Resets and the start -/

namespace Start
def s1 : State := pkg [] []
def dirty : State := { pkg [(216, que [cmd opNop []])] [(5, 5)] with cores := [(0, { gidx := 3 })], mem := (5, 5) :: tables ++ [(mramBase 0 + 7, 7)], caches := [(0, {})], doff := { active := true }, pins := { ready := .high } }
theorem test_powerGoodLoss : ([.powerGoodLoss, .refclkLoss] : List Instr).all (fun i => holds (exec i dirty) fun t => !t.boot.power && t.boot.cause == 1 && t.boot.step == 0 && t.queues == [] && t.cores == [] && t.caches == [] && t.pins == {} && t.doff == {} && t.mem == [(mramBase 0 + 7, 7)]) = true := by decide +kernel
theorem test_pkgResetPin : (holds (exec (.pkgResetPin 1000) dirty) (fun t => t.boot.cause == 2 && t.boot.step == 0 && !t.boot.ready && !t.alive && t.queues == [] && t.mem == dirty.mem && t.boot.rstHeld) && isNext (exec (.pkgResetPin 99) dirty) dirty && holds (exec (.frameResetPin 1000) dirty) (fun t => t.boot.cause == 3 && t.boot.frmHeld && t.cores == [])) = true := by decide +kernel
theorem test_softPkgReset : holds (exec (.softPkgReset .prostoza) dirty) (fun t => t.boot.cause == 4 && t.boot.step == 0 && t.boot.power && t.queues == [] && t.mem == dirty.mem && t.doff == {}) = true := by decide +kernel
theorem test_powerGood : holds (exec (.powerGood 5 false 9) State.reset) (fun t => t.boot == { power := true, posId := 5, pos := 5, memtype := false } && t.pins.ready == .low) = true := by decide +kernel
theorem test_resetDeassert : holds (exec (.resetDeassert false 6 true) { s1 with boot := { power := true, rstHeld := true } }) (fun t => !t.boot.rstHeld && t.boot.pos == 6 && t.boot.memtype) = true := by decide +kernel
def st (k : Nat) (b : Boot) : State := { s1 with boot := { b with power := true, step := k, stepAt := 10 } }
theorem test_startSequenceBegin : holds (exec (.startSequenceBegin 9) (st 0 {})) (fun t => t.boot.step == 1 && t.boot.stepAt == 9) = true := by decide +kernel
def ff : StepFindings := { offers := [(0, 3)], gddr7 := true, gddrRate := 32, slotA := [], slotB := [] }
theorem test_startStepDone_first : holds (exec (.startStepDone 0 ff 20) (st 1 {})) (fun t => t.boot == { (st 1 {}).boot with done0 := true }) = true := by decide +kernel
theorem test_startStepDone : holds (exec (.startStepDone 1 ff 20) (st 1 { done0 := true })) (fun t => t.boot.step == 2 && t.boot.stepAt == 20 && !t.boot.done0 && t.mem == s1.mem) = true := by decide +kernel
def st3 : State := { st 3 { done0 := true, cause := 1 } with mem := [(5, 5), (mramBase 0 + 7, 7)] }
theorem test_startStepDone3 : holds (exec (.startStepDone 1 ff 20) st3) (fun t => t.boot.step == 4 && t.mem == [(mramBase 0 + 7, 7)] && t.caches == []) = true := by decide +kernel
theorem test_setReady : holds (exec (.setReady .prostoza) (st 5 {})) (fun t => t.boot.ready && t.boot.step == 7 && t.pins.ready == .high) = true := by decide +kernel
theorem test_startStepFail : holds (exec (.startStepFail 3 1 9 20) (st 2 { n := 11 })) (fun t => t.boot.backoff && t.boot.bfReason == 3 && t.boot.bfDie == 1 && t.boot.bfStep == 2 && t.boot.retryTo == 1 && t.boot.n == 12 && t.boot.retryAt == 20 + ms 1000) = true := by decide +kernel
theorem test_startStepTimeout : (isNext (exec (.startStepTimeout (9 + stepLimit 2)) (st 2 {})) ((st 2 {}).toTime (9 + stepLimit 2)) && holds (exec (.startStepTimeout (10 + stepLimit 2)) (st 2 {})) (fun t => t.boot.bfReason == 11 && t.boot.retryTo == 2 && t.boot.retryAt == 10 + stepLimit 2 + ms 1)) = true := by decide +kernel
theorem test_retry : (isNext (exec (.retryBackoffExpiry 29) (st 2 { backoff := true, retryAt := 30, retryTo := 1 })) ((st 2 { backoff := true, retryAt := 30, retryTo := 1 }).toTime 29) && holds (exec (.retryBackoffExpiry 30) (st 2 { backoff := true, retryAt := 30, retryTo := 1 })) (fun t => !t.boot.backoff && t.boot.step == 1 && t.boot.attempts == 1 && t.boot.stepAt == 30)) = true := by decide +kernel
theorem test_fwFail : holds (exec (.fwFail .prostoza 30) (st 5 {})) (fun t => t.boot.bfReason == 10 && t.boot.backoff && t.boot.retryTo == 5) = true := by decide +kernel
theorem test_engRst_refused : holds (exec (.engRst .prostoza 0 0x40) (pkg [(216, que [])] [])) (fun t => mget false t.engRef 0 && t.queues == [(216, que [])]) = true := by decide +kernel
theorem test_engRst : holds (exec (.engRst .prostoza 0 0x40) { s1 with blks := [(engPage 6, { intStat := 3, cnt := [(0x80, 7), (0xD0, 5)] })], stopped := [(engPage 6, true)] }) (fun t => !mget false t.engRef 0 && (t.blk (engPage 6)).intStat == 3 && (t.blk (engPage 6)).cnt == [(0xD0, 5)] && t.stopped == []) = true := by decide +kernel
theorem test_hubEngRst_refused : holds (exec (.hubEngRst .prostoza 0 true false) (pkg [(3, que [])] [])) (fun t => t.hub0.part.engRefused) = true := by decide +kernel
theorem test_hubEngRst : holds (exec (.hubEngRst .prostoza 0 true false) { s1 with hub0 := { s1.hub0 with cbGrps := [(3, { st := .collecting })] }, blks := [(engPage 64, { cnt := [(0x80, 7)] })] }) (fun t => !t.hub0.part.engRefused && t.hub0.cbGrps == [] && (t.blk (engPage 64)).cnt == []) = true := by decide +kernel
theorem witness_PackageResets : dirty.boot.power = true ∧ 1000 ≤ 1000 ∧ 99 < 100 ∧ Works dirty := ⟨rfl, by decide, by decide, works_of (by decide +kernel)⟩
theorem witness_StartSequence : State.reset.boot.power = false ∧ State.reset.boot.rstHeld = false ∧ State.reset.boot.frmHeld = false ∧ (({ s1 with boot := { power := true, rstHeld := true } } : State).boot.rstHeld = true) ∧
    Works (st 0 {}) ∧ (st 0 {}).boot.step = 0 ∧ starting (st 1 {}) = true ∧ (st 1 {}).boot.step ≠ 5 ∧ max (st 1 {}).now (10 + stepLimit 1) ≤ (st 1 {}).boot.stepAt + stepLimit (st 1 {}).boot.step ∧ (st 1 {}).boot.done1 = false ∧
    starting (st 1 { done0 := true }) = true ∧ (st 1 { done0 := true }).boot.done0 = true ∧ stepFault (st 1 { done0 := true }) ff = none ∧ starting st3 = true ∧ st3.boot.step = 3 ∧ stepFault st3 ff = none ∧ starting (st 5 {}) = true ∧
    (st 5 {}).boot.step = 5 := by
  refine ⟨rfl, rfl, rfl, rfl, works_of ?_, ?_⟩ <;> decide +kernel
theorem witness_StartSequence_retry : starting (st 2 { n := 11 }) = true ∧ reasonFits 3 (st 2 { n := 11 }).boot.step = true ∧ (st 2 {}).boot.stepAt + stepLimit (st 2 {}).boot.step = 10 + stepLimit 2 ∧ starting (st 5 {}) = true ∧
    Works (st 2 { backoff := true, retryAt := 30, retryTo := 1 }) ∧ (st 2 { backoff := true, retryAt := 30, retryTo := 1 }).boot.backoff = true := by
  refine ⟨?_, ?_, ?_, ?_, works_of ?_, ?_⟩ <;> decide +kernel
def sEng : State := pkg [(216, que [])] []
theorem disabled_all {s : State} (h : ∀ e ∈ s.queues, e.2.live = false) (q : QIdx) : (s.queue q).live = false := listed_queue (fun x => x.live = false) (by decide) h q
theorem witness_EngineResets : Works sEng ∧ Canonical sEng ∧ mget false sEng.engRst 6 = false ∧ (∃ q, qEng q = 6 ∧ (sEng.queue q).live = true) ∧ Works s1 ∧ Canonical s1 ∧ (∀ q, qEng q = 6 → (s1.queue q).live = false) ∧
    (s1.creel (Fin.ofNat 16 (2 * 0 + 6 - 6))).st = 0 ∧ (∃ q, qEng q = 64 ∧ ((pkg [(3, que [])] []).queue q).live = true) ∧ (∀ q, qEng q = 64 → (s1.queue q).live = false) :=
  ⟨works_of (by decide +kernel), canonical_of (by decide +kernel) rfl, rfl, ⟨216, by decide +kernel, by decide +kernel⟩, works_of (by decide +kernel), canonical_of (by decide +kernel) rfl,
    fun q _ => disabled_all (by decide +kernel) q, rfl, ⟨3, by decide +kernel, by decide +kernel⟩, fun q _ => disabled_all (by decide +kernel) q⟩
end Start

/-! ## Links -/

namespace Links
def s1 : State := pkg [] []
def lk (k : LinkId) (x : Lnk) : State := s1.modLink k fun _ => x
def d04 : LinkId := .dlk 0 4
theorem test_linkError : (holds (exec (.linkTransferError (.dlk 4 0) 9) (lk d04 { st := .up })) (fun t => lnkOf t d04 == { st := .replay, attempts := 1, since := 9 } && sameMem s1 t) && holds (exec (.linkTransferError d04 9) (lk d04 { st := .replay, attempts := 7, since := 5 })) (fun t => lnkOf t d04 == { st := .replay, attempts := 8, since := 5 })) = true := by decide +kernel
theorem test_replayOk : holds (exec (.replayEpisodeSuccess d04 8 1205) (lk d04 { st := .replay, attempts := 3, since := 5 })) (fun t => lnkOf t d04 == { st := .up, attempts := 8, duration := 1200, since := 5 }) = true := by decide +kernel
theorem test_replayExhausted : holds (exec (.replayExhausted d04 1205) (lk d04 { st := .replay, attempts := 8, since := 5 })) (fun t => lnkOf t d04 == { st := .retrain, attempts := 8, duration := 1200, since := 1205 }) = true := by decide +kernel
theorem test_retrainOk : holds (exec (.linkRetrainDone d04 true 0 9) (lk d04 { st := .retrain, fails := 2 })) (fun t => (lnkOf t d04).st == .up && (lnkOf t d04).fails == 0) = true := by decide +kernel
theorem test_retrainFail : holds (exec (.linkRetrainDone d04 false 0 9) (lk d04 { st := .retrain, fails := 1 })) (fun t => lnkOf t d04 == { st := .retrain, fails := 2, since := 9 }) = true := by decide +kernel
theorem test_retrainFatal : holds (exec (.linkRetrainDone d04 false 0 9) (lk d04 { st := .retrain, fails := 2 })) (fun t => (lnkOf t d04).st == .failed && t.mgt.fatal && t.mgt.code == 2 && t.pins.fatalN == .low && sameMem s1 t) = true := by decide +kernel
theorem test_flkRetrainFail : holds (exec (.linkRetrainDone (.flk 0 2) false 0 9) (lk (.flk 0 2) { st := .retrain, fails := 2 })) (fun t => !t.mgt.fatal && (t.fport 0 2).lnk.st != .up) = true := by decide +kernel
theorem lkStates : (Works s1 ∧ Canonical s1) ∧ (Works (lk d04 { st := .replay, attempts := 7, since := 5 }) ∧ Canonical (lk d04 { st := .replay, attempts := 7, since := 5 })) ∧
    Works (lk d04 { st := .retrain, fails := 2 }) ∧ Canonical (lk d04 { st := .retrain, fails := 2 }) := by
  refine ⟨⟨works_of ?_, canonical_of ?_ rfl⟩, ⟨works_of ?_, canonical_of ?_ rfl⟩, works_of ?_, canonical_of ?_ rfl⟩ <;> decide +kernel
theorem witness_LinkRecovery : theLink (.dlk 4 0) = some d04 ∧ theLink d04 = some d04 ∧ (lnkOf (lk d04 { st := .up }) d04).st = .up ∧ (lnkOf (lk d04 { st := .replay, attempts := 7, since := 5 }) d04) = { st := .replay, attempts := 7, since := 5 } ∧
    max s1.now 1205 ≤ 5 + us 12 ∧ (lnkOf (lk d04 { st := .retrain, fails := 1 }) d04) = { st := .retrain, fails := 1 } ∧ (1 : Nat) + 1 < 3 ∧ (lnkOf (lk d04 { st := .retrain, fails := 2 }) d04).fails = 2 ∧
    (lk d04 { st := .retrain, fails := 2 }).boot.ready = true ∧ (lk d04 { st := .retrain, fails := 2 }).mgt.fatal = false ∧ (lk d04 { st := .retrain, fails := 2 }).doff.done = false :=
  ⟨rfl, rfl, by decide +kernel, by decide +kernel, by decide +kernel, by decide +kernel, by decide, by decide +kernel, rfl, rfl, rfl⟩
/-- the boundary of the time of an episode -/
theorem test_replayOk_limit : holds (exec (.replayEpisodeSuccess d04 8 1205) (lk d04 { st := .replay, attempts := 3, since := 5 })) (fun t => (lnkOf t d04).st == .up) = true := by decide +kernel
end Links

/-! ## Half-links, errors, registers, number formats -/

namespace Errors
def s1 : State := pkg [] []
def fp (j : FPort) (x : FlkPort) : State := { s1 with hub0 := { s1.hub0 with flk := { ports := [(j.val, x)] } } }
theorem test_train : holds (exec (.frameLinkTrainAttempt 0 2 9) s1) (fun t => (t.fport 0 2).lnk.st == .training && (t.fport 0 2).lnk.since == 9 && t.cnt (flkPage 0) 0x0C0 == 1 && quiet s1 t) = true := by decide +kernel
theorem test_trained : holds (exec (.frameLinkTrained 0 2 3 0x100 true 7) s1) (fun t => linkUp t 0 2 && (t.fport 0 2).width == widthOf 0x100 && posState t 3 == .present && quiet s1 t) = true := by decide +kernel
theorem test_trained_mismatch_other : holds (exec (.frameLinkTrained 1 2 4 0 true 7) { s1 with hub0 := { s1.hub0 with flk := { ports := [(2, { width := 8, trained := true, lnk := { st := .up } })] } } })
    (fun t => !linkUp t 0 2 && !linkUp t 1 2 && (t.fport 1 2).mismatch && posState t 3 == .down) = true := by decide +kernel
theorem test_trained_mismatch : holds (exec (.frameLinkTrained 0 2 4 0 true 7) s1) (fun t => !linkUp t 0 2 && (t.fport 0 2).mismatch && quiet s1 t) = true := by decide +kernel
def up1 : State := fp 2 { width := 8, trained := true, lnk := { st := .up } }
def up2 : State := { up1 with hub1 := { s1.hub1 with flk := { ports := [(2, { width := 8, trained := true, lnk := { st := .up } })] } } }
theorem test_lost_half : holds (exec (.frameLinkLost 0 2 9) up2) (fun t => (t.fport 0 2).width == 0 && posState t 3 == .present) = true := by decide +kernel
theorem test_lost : holds (exec (.frameLinkLost 0 2 9) up1) (fun t => (t.fport 0 2).width == 0 && posState t 3 == .down) = true := by decide +kernel
theorem test_lost_down : isNext (exec (.frameLinkLost 0 2 9) s1) (s1.toTime 9) = true := by decide +kernel
theorem test_fatal : holds (exec (.fatalError 3 4 0 9) s1) (fun t => t.mgt.fatal && t.mgt.code == 3 && t.mgt.srcDie == 4 && t.mgt.srcPage == 0 && t.pins.fatalN == .low && t.doff.active && t.doff.fatal && t.doff.tW == 9 && t.doff.tD == 100009 && sameMem s1 t && sameWork s1 t) = true := by decide +kernel
theorem test_watchdog : (isNext (exec (.watchdogExpiry 100000008) { s1 with mgt := { wdogEn := true, kickAt := 9 } }) ({ s1 with mgt := { wdogEn := true, kickAt := 9 } }.toTime 100000008) && holds (exec (.watchdogExpiry 100000009) { s1 with mgt := { wdogEn := true, kickAt := 9 } }) (fun t => t.mgt.code == 5 && t.mgt.srcDie == 0 && t.mgt.srcPage == ixMgt)) = true := by decide +kernel
theorem test_declare : holds (exec (.mgtFatalDeclare .prostoza 9) s1) (fun t => t.mgt.code == fcDeclared && t.pins.fatalN == .low) = true := by decide +kernel
theorem test_wdog_arm : holds (exec (.watchdogArm .prostoza 9) s1) (fun t => t.mgt == { wdogEn := true, kickAt := 9 } && sameMem s1 t && sameWork s1 t) = true := by decide +kernel
theorem test_wdog_kick : holds (exec (.watchdogKick .prostoza 9) s1) (fun t => t.mgt == { kickAt := 9 }) = true := by decide +kernel
def er : State := { s1 with errs := [(4, { unread := 3, overflow := true, next := 5 }), (5, { unread := 1 })], blks := [(pgKey 4 0, { errCount := 2 }), (pgKey 4 ixEng, { errCount := 9, cnt := [(0x80, 3)], intStat := 1 })] }
theorem test_errLogAck : holds (exec (.errLogAck .prostoza 4) er) (fun t => t.errs == [(4, { next := 5 }), (5, { unread := 1 })] && quiet er t) = true := by decide +kernel
theorem test_errCountRead : holds (exec (.errCountRead .prostoza 4 ixEng) er) (fun t => t.out == [.value 9] && (t.blk (pgKey 4 ixEng)).errCount == 0 && (t.blk (pgKey 4 0)).errCount == 2 && quiet er t) = true := by decide +kernel
theorem test_cntClear : holds (exec (.cntClear .prostoza 4 ixEng) er) (fun t => (t.blk (pgKey 4 ixEng)).cnt == [] && (t.blk (pgKey 4 ixEng)).errCount == 9 && quiet er t) = true := by decide +kernel
theorem test_intForce : holds (exec (.intForce .prostoza 4 ixEng 0x80000000) er) (fun t => (t.blk (pgKey 4 ixEng)).intStat == 0x80000001 && quiet er t && holds (exec (.intForce .prostoza 4 ixEng 0x7FFFFFFF) er) fun u => (u.blk (pgKey 4 ixEng)).intStat == 1) = true := by decide +kernel
theorem test_retrain_late : holds (exec (.linkRetrainDone (.dlk 0 4) true 0 10006) (s1.modLink (.dlk 0 4) fun _ => { st := .retrain, fails := 1, since := 5 })) (fun t => lnkOf t (.dlk 0 4) == { st := .retrain, fails := 2, since := 10006 }) = true := by decide +kernel
def xl (x : Xlt) : State := { s1 with hub0 := { s1.hub0 with xlt := x } }
theorem test_xltEnable : holds (exec (.xltContextEnable .prostoza 0 0x200) (xl { csel := [(0, 5)], ctxs := [(6, { en := true })] })) (fun t => t.hub0.xlt.ctxs == [(5, { en := true, root := 0x200 }), (6, { en := true })] && quiet s1 t) = true := by decide +kernel
theorem test_xltDisable : holds (exec (.xltContextDisable .prostoza 0) (xl { csel := [(0, 6)], ctxs := [(6, { en := true })] })) (fun t => t.hub0.xlt.ctxs == [(6, { en := false, disabling := true })] && holds (exec (.xltDisableDone 0 6) t) fun u => u.hub0.xlt.ctxs == []) = true := by decide +kernel
theorem test_xltInv : holds (exec (.xltInvalidate .prostoza 0 63 true) (xl { invVa := 5, invLen := 7 })) (fun t => t.hub0.xlt.inv == some (63, true, 5, 7) && holds (exec (.xltInvalidateDone 0) t) fun u => u.hub0.xlt.inv == none && (u.blk (xltPage 0)).intStat.getLsbD 0) = true := by decide +kernel
def ro : Nat := pgOff (ledPage 0) + 0x104
theorem test_registerWrite : (holds (exec (.registerWrite .prostoza ro 4 1000 9) s1) (fun t => t.hub0.led.deadline == 1000) && holds (exec (.registerWrite .prostoza ro 4 999 9) s1) (fun t => t.hub0.led.deadline == 10000) && holds (exec (.registerWrite .prostoza ro 4 16001 9) s1) (fun t => t.hub0.led.deadline == 10000)) = true := by decide +kernel
theorem test_registerWrite_rwl : isNext (exec (.registerWrite (.core 0) ro 4 1000 9) s1) (fwViolation (s1.toTime 9) 0 fwRwl (reqTag (s1.toTime 9) 0 (.core 0)) (paOf s1 ro)) = true := by decide +kernel
theorem test_registerWrite_mem : isNext (exec (.registerWrite .prostoza 5 4 1000 9) s1) (s1.toTime 9) = true := by decide +kernel
theorem linkStates : (Works s1 ∧ Canonical s1) ∧ (Works up1 ∧ Canonical up1) ∧ (Works up2 ∧ Canonical up2) :=
  ⟨⟨works_of rfl, canonical_of rfl rfl⟩, ⟨works_of rfl, canonical_of rfl rfl⟩, ⟨works_of rfl, canonical_of rfl rfl⟩⟩
theorem witness_HalfLinkTraining : mayTrain s1 = true ∧ linkUp s1 0 2 = false ∧ (s1.fport 0 2).lnk.st ≠ .training ∧ (s1.blk (flkPage 0)).cntFreeze = false ∧ widthOf 0x100 ≠ 0 ∧ farOf s1.boot.pos 2 = 3 ∧ (4 : Pos) ≠ farOf s1.boot.pos 2 ∧
    linkUp up2 0 2 = true ∧ linkUp up2 1 2 = true ∧ openOn up2 0 (farOf up2.boot.pos 2) = 0 ∧ linkUp up1 0 2 = true ∧ linkUp up1 1 2 = false ∧ (up1.fport 0 2).trained = true ∧ up1.queues = [] ∧ up1.creels = [] ∧ up1.cores = [] ∧
    up1.hlks = [] ∧ (∀ k : Hub, (up1.knot k).seqs = [] ∧ (up1.knot k).waiting = []) := by
  refine ⟨?_, ?_, ?_, ?_, ?_, ?_, ?_, ?_, ?_, ?_, ?_, ?_, ?_, rfl, rfl, rfl, rfl, ?_⟩ <;> decide +kernel
def dog : State := { s1 with mgt := { wdogEn := true, kickAt := 9 } }
theorem witness_FatalStopBegins : (Works s1 ∧ Canonical s1) ∧ s1.boot.ready = true ∧ s1.mgt.fatal = false ∧ s1.doff.active = false ∧ s1.doff.done = false ∧ s1.mgt.wdogEn = false ∧ (0 : Nat) < 4096 ∧ (3 : Fin 9).val ≠ 0 ∧ pageAt 4 0 ≠ .none ∧
    (Works dog ∧ Canonical dog) ∧ dog.boot.ready = true ∧ dog.mgt.fatal = false ∧ dog.doff.active = false ∧ dog.mgt.wdogEn = true ∧ dog.mgt.kickAt + ms 1000 ≤ max dog.now 100000009 ∧ max dog.now 100000008 < dog.mgt.kickAt + ms 1000 := by
  refine ⟨linkStates.1, rfl, rfl, rfl, rfl, rfl, ?_, ?_, ?_, ⟨works_of rfl, canonical_of rfl rfl⟩, rfl, rfl, rfl, rfl, ?_, ?_⟩ <;> decide +kernel
def erLog : State := { er with blks := [] }
theorem witness_ErrorRegisters : Works erLog ∧ Canonical erLog ∧ ixEng < 4096 ∧ pageAt 4 ixEng ≠ .none ∧ mget {} erLog.errs 4 ≠ {} ∧ (5 : DieId) ≠ 4 := by
  refine ⟨works_of ?_, canonical_of ?_ rfl, ?_, ?_, ?_, ?_⟩ <;> decide +kernel
def xOff : State := xl { csel := [(0, 5)], ctxs := [(6, { en := true })] }
def xOn : State := xl { csel := [(0, 6)], ctxs := [(6, { en := true })], inv := some (3, false, 0, 0) }
theorem witness_TranslationContexts : (Works xOff ∧ Canonical xOff ∧ mwf {} (xOff.hub 0).xlt.ctxs = true) ∧ (Works xOn ∧ Canonical xOn ∧ mwf {} (xOn.hub 0).xlt.ctxs = true) ∧ mget 0 (xOff.hub 0).xlt.csel 0 = 5 ∧
    (mget {} (xOff.hub 0).xlt.ctxs 5).en = false ∧ (mget {} (xOff.hub 0).xlt.ctxs 5).disabling = false ∧ (mget {} (xOn.hub 0).xlt.ctxs 6).en = true ∧ (xOff.hub 0).xlt.inv = none ∧ (xOn.hub 0).xlt.inv ≠ none := by
  refine ⟨⟨works_of rfl, canonical_of rfl rfl, ?_⟩, ⟨works_of rfl, canonical_of rfl rfl, ?_⟩, rfl, rfl, rfl, rfl, rfl, ?_⟩ <;> decide
def xDis : State := xl { ctxs := [(6, { disabling := true })] }
/-- a command of queue 216, in context 32, that awaits an acknowledgement -/
def xBusy : State := { pkg [(216, que [{ cmd opFill [0x40, 3] with performed := true, unacked := [(0x400000000040, 3, 0, 0x40)] }])] [] with hub0 := { s1.hub0 with xlt := { ctxs := [(32, { disabling := true })], inv := some (32, true, 0, 0) } } }
theorem test_xlt_busy : (isNext (exec (.xltDisableDone 0 32) xBusy) xBusy && isNext (exec (.xltInvalidateDone 0) xBusy) xBusy) = true := by decide +kernel
theorem witness_TranslationContexts_end : Works xDis ∧ Canonical xDis ∧ (mget {} (xDis.hub 0).xlt.ctxs 6).disabling = true ∧ ctxBusy xDis 0 6 = false ∧ Works xBusy ∧ Canonical xBusy ∧ mwf {} (xBusy.hub 0).xlt.ctxs = true ∧
    (mget {} (xBusy.hub 0).xlt.ctxs 32).disabling = true ∧ ctxBusy xBusy 0 32 = true ∧ (xBusy.hub 0).xlt.inv = some (32, true, 0, 0) ∧ (xOn.hub 0).xlt.inv = some (3, false, 0, 0) ∧ ctxBusy xOn 0 3 = false := by
  refine ⟨works_of ?_, canonical_of ?_ rfl, ?_, ?_, works_of ?_, canonical_of ?_ rfl, ?_⟩ <;> decide +kernel
theorem witness_RegisterWrites : (Works s1 ∧ Canonical s1) ∧ (Requester.core 0) ≠ .prostoza ∧ physCheck s1 (.core 0) (paOf s1 (pgOff (ledPage 0) + 0x104)) 4 = .ok ∧ (s1.hub 0).led.deadline < 65536 ∧
    (1000 : W64).toNat % 65536 ≠ (s1.hub 0).led.deadline ∧ isReg 5 = false ∧ mustWait (s1.toTime 9) (.core 0) false (pgOff (ledPage 0) + 0x104) = false :=
  ⟨linkStates.1, by decide, by decide +kernel, by decide +kernel, by decide +kernel, by decide +kernel, by decide +kernel⟩
theorem witness_FormatsHoldTheirNumbers : f16 ∈ [f32, f16, bf16, e5m2, e4m3] ∧ 0x0001 < 2 ^ (1 + f16.eb + f16.mb) ∧ (f16.decode 0x0001).1.isNan = false :=
  ⟨by simp, by decide, by decide +kernel⟩
/-- the least number of E4M3 and the largest of BF16 round to themselves -/
theorem test_formats : e4m3.put false false (e4m3.decode 1).1 = (1, 0) ∧ bf16.put true false (bf16.decode 0x7F7F).1 = (0x7F7F, 0) := by decide +kernel
end Errors

end Sys2Proof.Tests
end

section
/-!
The start sequence: its commands, its failures and its steps' ends (R535–R546).
-/

namespace Sys2Proof.Machine

/-! ## Commands of a package that works -/

/-- A change at cycle t of a package that works takes place. -/
theorem atTime_of_works {s : State} (h : Works s) (t : Nat) (f : State → State) : s.atTime t f = f (s.toTime t) := if_pos h
/-- A change of a package that works takes place. -/
theorem whenAlive_of_works {s : State} (h : Works s) (f : State → State) : s.whenAlive f = f s := if_pos h

@[simp] theorem starting_toTime (s : State) (t : Nat) : starting (s.toTime t) = starting s := rfl

/-- What it means that a start step is in progress. -/
theorem starting_iff (s : State) :
    starting s = true ↔ Works s ∧ (1 ≤ s.boot.step ∧ s.boot.step ≤ 5) ∧ s.boot.backoff = false ∧ s.boot.ready = false := by
  simp [starting, Works, and_assoc]
/-- A package in a start step works. -/
theorem works_of_starting {s : State} (h : starting s = true) : Works s := ((starting_iff s).1 h).1

/-- A part of what a fold builds that each of its steps keeps is kept by the fold. -/
theorem foldl_keeps {σ α β : Type} (g : σ → β) (f : σ → α → σ) (l : List α) (s : σ) (hf : ∀ t a, g (f t a) = g t) :
    g (l.foldl f s) = g s := by
  induction l generalizing s with
  | nil => rfl
  | cons a l ih => exact (ih _).trans (hf s a)

/-! ## Prostoza's writes of HUB_CTL (R541) -/

/-- The number of a hub die's hub. -/
theorem dieHub_of_hubDie : ∀ d : DieId, d.val < 2 → (dieHub d.val).val = d.val := by decide

/-- Prostoza, at hand on either hub die, waits for no link on its way to a page of a hub die (R646). -/
theorem mustWait_prostoza_hub {s : State} {d : DieId} {o x : Nat} (rd : Bool) (hd : d.val < 2) (r : regionOf s o = .reg d x) :
    mustWait s .prostoza rd o = false := by
  simp [mustWait, regHeld, localLinks, reqDie, servingDie, r, dieHub_of_hubDie d hd]

/-- The bits that the fields of a register cover. -/
def fieldsMask (l : List Field) : Nat := l.foldr (fun f m => m ||| f.mask) 0

/-- A writer of every field, which writes all 32 bits, has the fields take what it writes. -/
theorem mergeFields_word (cur v : Nat) (l : List Field) (h : ∀ f ∈ l, f.mask &&& (2 ^ 32 - 1) = f.mask) :
    mergeFields (fun _ => true) cur (2 ^ 32 - 1) v l = (v &&& fieldsMask l, fieldsMask l, false) := by
  induction l with
  | nil => simp [mergeFields, fieldsMask]
  | cons f l ih =>
    have hf : f.mask &&& (2 ^ 32 - 1) = f.mask := h f (by simp)
    have i := ih fun g hg => h g (List.mem_cons_of_mem _ hg)
    cases ha : f.act <;> simp only [mergeFields, i, hf, ha, if_true, Nat.sub_self, Nat.or_zero, Bool.false_eq_true, if_false] <;>
      simp [fieldsMask, Nat.and_or_distrib_left]

/-- A bit of a HUB_CTL word below FW_CODE. -/
theorem hubCtlWord_testBit (v c i : Nat) (hv : v < 65536) (hi : i < 16) : (v + 65536 * c).testBit i = v.testBit i := by
  have h := Nat.testBit_mod_two_pow (v + 65536 * c) 16 i
  rw [show (v + 65536 * c) % 2 ^ 16 = v by omega] at h
  simpa [hi] using h.symm

/-- What the write of a HUB_CTL word whose FW_CODE is as it stands does: the actions whose bits are 1, in their order. -/
def hubCtlActions (s : State) (v : Nat) : State :=
  let s := if v.testBit 0 then readyAct s else s
  let s := if v.testBit 1 then fwFailAct s else s
  if v.testBit 2 then packageReset s 4 false else s

/-- A write of HUB_CTL whose word agrees with v on the actions and leaves FW_CODE as it stands. -/
theorem hubAct_hubCtl {s : State} {h : Hub} {w : Wr} {v : Nat} (ho : w.off = 0x104) (hw : w.wm / 65536 ≠ 0)
    (hc : BitVec.ofNat 16 (w.f 16 16) = s.boot.fwCode) (hs : ∀ i < 3, w.sets i = v.testBit i) : hubAct s h w = hubCtlActions s v := by
  simp [hubAct, hubCtlActions, ho, hw, hc, hs]

/-- The word of HUB_CTL that the fields take has the written actions and FW_CODE. -/
theorem hubCtlWord_taken {v c m : Nat} (hm : m = 0xFFFF0007) (hv : v < 65536) (hc : c < 65536) :
    (∀ i < 3, Wr.sets { off := 0x104, v := (v + 65536 * c) &&& m, wm := m } i = v.testBit i) ∧
      Wr.f { off := 0x104, v := (v + 65536 * c) &&& m, wm := m } 16 16 = c := by
  constructor
  · intro i hi
    have hb : m.testBit i = true := by subst hm; interval_cases i <;> decide
    simp [Wr.sets, bit, Nat.testBit_and, hb, hubCtlWord_testBit v c i hv (by omega)]
  · have hk : m >>> 16 = 2 ^ 16 - 1 := by subst hm; decide
    have hs : (v + 65536 * c) >>> 16 = c := by rw [Nat.shiftRight_eq_div_pow]; omega
    simp only [Wr.f, bits, Nat.shiftRight_and_distrib, hk, hs, Nat.and_two_pow_sub_one_eq_mod]
    omega

/-- Prostoza's write of HUB_CTL of H0 with FW_CODE as it stands performs the actions whose bits it sets. -/
theorem hubCtl_prostoza (s : State) (v : Nat) (hv : v < 65536) : hubCtl s .prostoza v = hubCtlActions s v := by
  have hm := mustWait_prostoza_hub (d := 0) false (by decide) (regionOf_page s 0 ixHub 0x104 (by decide) (by decide))
  refine (pageAccess_prostoza s 0 ixHub 0x104 (v + 65536 * s.boot.fwCode.toNat) (by decide) (by decide) rfl (.hub 0) rfl rfl hm).trans ?_
  have hc := s.boot.fwCode.isLt
  obtain ⟨hs, hf⟩ := hubCtlWord_taken (m := fieldsMask (fieldsOf (.hub 0) 0x104)) (by decide) hv hc
  simp only [mergeFields_word _ _ (fieldsOf (.hub 0) 0x104) (by decide), Nat.mod_eq_of_lt (show v + 65536 * s.boot.fwCode.toNat < 2 ^ 32 by omega)]
  exact hubAct_hubCtl (h := 0) rfl (show fieldsMask (fieldsOf (.hub 0) 0x104) / 65536 ≠ 0 by decide) (by rw [hf]; simp) hs

/-! ## The reset pins (R21, R546) -/

/-- The release of a held reset pin samples the straps; memory and work stay. -/
theorem pinRelease_of_held {s : State} {frame : Bool} (h : (if frame then s.boot.frmHeld else s.boot.rstHeld) = true) (posId : BitVec 3)
    (mt : Bool) :
    let b : Boot := { s.boot with posId := posId, pos := posId.toFin, memtype := mt }
    (pinRelease s frame posId mt).boot = (if frame then { b with frmHeld := false } else { b with rstHeld := false }) ∧
      SameMemory s (pinRelease s frame posId mt) ∧ SameWork s (pinRelease s frame posId mt) := by
  unfold pinRelease
  rw [if_pos (by rw [h]; rfl)]
  cases frame <;> simp only [if_true, if_false, Bool.false_eq_true] <;> split <;> exact ⟨rfl, ⟨rfl, rfl, rfl⟩, rfl, rfl, rfl, rfl⟩

/-! ## SET_READY (R80, R541) -/

/-- Adopting a cycle count changes nothing but the two line time units. -/
theorem adopt_eq (s : State) : ∃ a b, adopt s = { s with hub0 := { s.hub0 with ltu := a }, hub1 := { s.hub1 with ltu := b } } := by
  unfold adopt
  split
  · exact ⟨_, _, rfl⟩
  · dsimp only
    split
    · exact ⟨_, _, rfl⟩
    · exact ⟨_, _, rfl⟩

/-- SET_READY while step 5 runs drives READY high (R541). -/
theorem readyAct_of_step5 {s : State} (h : starting s = true) (h5 : s.boot.step = 5) :
    (readyAct s).boot = { s.boot with ready := true, step := 7 } ∧ (readyAct s).pins = { s.pins with ready := .high } ∧
      SameMemory s (readyAct s) ∧ SameWork s (readyAct s) := by
  obtain ⟨a, b, e⟩ := adopt_eq s
  simp [readyAct, h, h5, e, SameMemory, SameWork]

/-! ## Failing start steps (R543–R545) -/

/-- The start step of s has failed at cycle `now`: the record of the failure and the retry, all else as before. -/
def FailsWith (s s' : State) (r die back now : Nat) : Prop :=
  s'.boot.backoff = true ∧ s'.boot.bfReason = BitVec.ofNat 8 r ∧ s'.boot.bfDie = BitVec.ofNat 4 die ∧
    s'.boot.bfStep = BitVec.ofNat 3 s.boot.step ∧ s'.boot.retryTo = back ∧ s'.boot.n = s.boot.n + 1 ∧
    s'.boot.retryAt = now + ms (min (2 ^ s.boot.n) 1000) ∧ SameMemory s s' ∧ SameWork s s'

/-- Whatever the reason, a failing step leaves its record and the time of the retry. -/
theorem stepFail_failsWith (s : State) (t r die x back : Nat) :
    FailsWith s (stepFail (s.toTime t) r die x back) r die back (max s.now t) :=
  ⟨rfl, rfl, rfl, rfl, rfl, rfl, rfl, ⟨rfl, rfl, rfl⟩, rfl, rfl, rfl, rfl⟩

theorem startStepFail_failsWith {s : State} (h : starting s = true) (r : Fin 12) (d : DieId) (x : BitVec 12) (t : Nat)
    (hr : reasonFits r.val s.boot.step = true) :
    ∃ s', exec (.startStepFail r d x t) s = .next s' ∧ FailsWith s s' r.val d.val (if r.val = 3 then 1 else s.boot.step) (max s.now t) := by
  refine ⟨_, ?_, stepFail_failsWith s t _ _ x.toNat _⟩
  show Host.Outcome.next (s.atTime t _) = _
  simp [atTime_of_works (works_of_starting h), h, hr]

theorem startStepTimeout_failsWith {s : State} (h : starting s = true) (t : Nat) (ht : s.boot.stepAt + stepLimit s.boot.step ≤ max s.now t) :
    ∃ s', exec (.startStepTimeout t) s = .next s' ∧ FailsWith s s' 11 0 s.boot.step (max s.now t) := by
  refine ⟨_, ?_, stepFail_failsWith s t _ _ 0 _⟩
  show Host.Outcome.next (s.atTime t _) = _
  simp [atTime_of_works (works_of_starting h), h, State.toTime_now, ht]

theorem startStepTimeout_early {s : State} (h : starting s = true) (t : Nat) (ht : max s.now t < s.boot.stepAt + stepLimit s.boot.step) :
    exec (.startStepTimeout t) s = .next (s.toTime t) := by
  show Host.Outcome.next (s.atTime t _) = _
  simp [atTime_of_works (works_of_starting h), h, State.toTime_now, Nat.not_le.2 ht]

theorem fwFail_failsWith {s : State} (h : starting s = true) (h5 : s.boot.step = 5) (t : Nat) :
    ∃ s', exec (.fwFail .prostoza t) s = .next s' ∧ FailsWith s s' 10 0 5 (max s.now t) := by
  refine ⟨_, ?_, stepFail_failsWith s t _ _ (s.boot.fwCode.toNat % 4096) _⟩
  show Host.Outcome.next (s.atTime t _) = _
  simp [atTime_of_works (works_of_starting h), hubCtl_prostoza _ 2 (by decide), hubCtlActions, Nat.testBit, fwFailAct, h, h5]

/-! ## A start step ends (R536, R537) -/

/-- What the end of the step in progress does before the next step begins. -/
def stepEffect (s : State) (f : StepFindings) : State :=
  if s.boot.step = 1 then linksDone s f
  else if s.boot.step = 2 then calibrateDone s f
  else if s.boot.step = 3 then initDone s
  else { s with boot := { s.boot with runSlot := bootSlot s f, mctp := true }, mgt := { s.mgt with cores := 3 } }

/-- A step whose attempt finds nothing wrong has its effect, and the next step begins. -/
theorem stepEnd_of_sound {s : State} {f : StepFindings} (h : stepFault s f = none) :
    stepEnd s f = (let u := stepEffect s f
      { u with boot := { u.boot with step := u.boot.step + 1, done0 := false, done1 := false, stepAt := u.now } }) := by
  simp only [stepEnd, h, stepEffect]

/-- Die links that come up change nothing but the die links and the feature levels. -/
theorem linksDone_keeps (s : State) (f : StepFindings) :
    (linksDone s f).boot.step = s.boot.step ∧ (linksDone s f).boot.backoff = s.boot.backoff ∧ (linksDone s f).now = s.now ∧
      (linksDone s f).queues = s.queues ∧ (linksDone s f).mem = s.mem := by
  have k : ∀ {β : Type} (g : State → β), (∀ t a b f, g (State.modDlk t a b f) = g t) →
      g (dieLinks.foldl (fun s (a, b) =>
        if 4 ≤ b.val then linkComesUp s a b (linkLevel s f (b.val - 4)) (hubMax s) (offerOf f (b.val - 4))
        else linkComesUp s a b 0 0 0) s) = g s := by
    intro β g hg
    refine foldl_keeps g _ _ _ fun t d => ?_
    dsimp only
    split <;> simp [linkComesUp, hg]
  unfold linksDone
  exact ⟨(congrArg Boot.step (k State.boot fun _ _ _ _ => rfl) :), (congrArg Boot.backoff (k State.boot fun _ _ _ _ => rfl) :),
    k State.now fun _ _ _ _ => rfl, k State.queues fun _ _ _ _ => rfl, k State.mem fun _ _ _ _ => rfl⟩

/-- The end of step 3 leaves no cache line, and of memory what step 3 keeps. -/
theorem initDone_keeps (s : State) :
    (initDone s).boot = s.boot ∧ (initDone s).now = s.now ∧ (initDone s).queues = s.queues ∧ (initDone s).caches = [] ∧
      (initDone s).mem = s.mem.filter fun e => startKeeps s (dumpPresent s && decide (s.boot.cause ≠ 1)) e.1 := by
  have k : ∀ {β : Type} (g : State → β), (∀ t p f, g (State.modBlk t p f) = g t) → (∀ t h f, g (State.modHub t h f) = g t) →
      ∀ (pages : List Nat) (hubs : List Hub) (u : State), g (hubs.foldl (fun s h => s.modLed h fun d => { d with views := allCtx })
        (pages.foldl (fun s p => s.modBlk p fun b => { b with initDone := true }) u)) = g u := fun g hb hh _ _ _ =>
    (foldl_keeps g _ _ _ fun _ _ => hh _ _ _).trans (foldl_keeps g _ _ _ fun _ _ => hb _ _ _)
  unfold initDone
  exact ⟨k State.boot (by simp) (by simp) .., k State.now (by simp) (by simp) .., k State.queues (by simp) (by simp) ..,
    k State.caches (by simp) (by simp) .., k State.mem (by simp) (by simp) ..⟩

/-- A key that a filter drops reads as the default. -/
theorem mget_filter_of_dropped {β : Type} (d : β) (p : Nat → Bool) (m : SMap β) (a : Nat) (h : p a = false) :
    mget d (m.filter fun e => p e.1) a = d := by
  induction m with
  | nil => rfl
  | cons e m ih =>
    obtain ⟨k, v⟩ := e
    by_cases hk : p k = true
    · have hka : k ≠ a := by rintro rfl; simp [h] at hk
      simp [hk, mget, hka, ih]
    · simp [hk, ih]

/-- The effect of a step leaves the place in the sequence, the time, the queues and, but for step 3, the memory. -/
theorem stepEffect_keeps (s : State) (f : StepFindings) :
    (stepEffect s f).boot.step = s.boot.step ∧ (stepEffect s f).boot.backoff = s.boot.backoff ∧ (stepEffect s f).now = s.now ∧
      (stepEffect s f).queues = s.queues ∧ (s.boot.step ≠ 3 → (stepEffect s f).mem = s.mem) := by
  unfold stepEffect
  split
  · obtain ⟨hs, hb, hn, hq, hm⟩ := linksDone_keeps s f
    exact ⟨hs, hb, hn, hq, fun _ => hm⟩
  · split
    · exact ⟨rfl, rfl, rfl, rfl, fun _ => rfl⟩
    · split
      case isTrue h3 =>
        obtain ⟨hb, hn, hq, -, -⟩ := initDone_keeps s
        exact ⟨by rw [hb], by rw [hb], hn, hq, fun h => absurd h3 h⟩
      · exact ⟨rfl, rfl, rfl, rfl, fun _ => rfl⟩

/-- The state in which hub die h has completed the step. -/
def markDone (s : State) (h : Hub) : State :=
  { s with boot := if h = 0 then { s.boot with done0 := true } else { s.boot with done1 := true } }

/-- Within its limit, a step other than 5 takes note of the hub die, and ends when both have completed it. -/
theorem exec_startStepDone {s : State} (h : starting s = true) (u : Hub) (f : StepFindings) (t : Nat) (h5 : s.boot.step ≠ 5)
    (ht : max s.now t ≤ s.boot.stepAt + stepLimit s.boot.step) :
    exec (.startStepDone u f t) s = .next
      (if (if u = 0 then s.boot.done1 else s.boot.done0) then stepEnd (markDone (s.toTime t) u) f else markDone (s.toTime t) u) := by
  show Host.Outcome.next (s.atTime t _) = _
  simp only [atTime_of_works (works_of_starting h), stepDone, starting_toTime, h, State.toTime_boot, h5, State.toTime_now, Nat.not_lt.2 ht,
    Bool.not_true, decide_false, Bool.or_false, Bool.false_eq_true, if_false]
  by_cases e : u = 0 <;> simp [e, markDone, State.toTime]

/-- A completed start step is over: the next one begins, and the memory is as before but for step 3 (R536, R539). -/
theorem stepEnd_markDone {s : State} {f : StepFindings} (h : starting s = true) (u : Hub) (t : Nat) (hf : stepFault s f = none) :
    let s' := stepEnd (markDone (s.toTime t) u) f
    s'.boot.step = s.boot.step + 1 ∧ s'.boot.stepAt = max s.now t ∧ s'.boot.done0 = false ∧ s'.boot.done1 = false ∧
      s'.boot.backoff = false ∧ s'.queues = s.queues ∧ (s.boot.step ≠ 3 → s'.mem = s.mem) ∧
      (s.boot.step = 3 → s'.caches = [] ∧ ∀ o, startKeeps s (dumpPresent s && decide (s.boot.cause ≠ 1)) o = false → rawByte s' o = 0) := by
  obtain ⟨-, -, hback, -⟩ := (starting_iff s).1 h
  have hboot : (markDone (s.toTime t) u).boot.step = s.boot.step ∧ (markDone (s.toTime t) u).boot.backoff = s.boot.backoff := by
    unfold markDone; split <;> exact ⟨rfl, rfl⟩
  have hf' : stepFault (markDone (s.toTime t) u) f = none := by
    rw [← hf]; unfold markDone; split <;> rfl
  obtain ⟨estep, eback, enow, equeues, emem⟩ := stepEffect_keeps (markDone (s.toTime t) u) f
  refine ⟨?_, ?_, ?_, ?_, ?_, ?_, ?_, ?_⟩ <;> rw [stepEnd_of_sound hf']
  · exact congrArg (· + 1) (estep.trans hboot.1)
  · exact enow
  · exact (eback.trans hboot.2).trans hback
  · exact equeues
  · exact fun h3 => emem (hboot.1 ▸ h3)
  · intro h3
    obtain ⟨-, -, -, hc, hm⟩ := initDone_keeps (markDone (s.toTime t) u)
    have he : stepEffect (markDone (s.toTime t) u) f = initDone (markDone (s.toTime t) u) := by
      simp [stepEffect, hboot.1, h3]
    refine ⟨(congrArg State.caches he).trans hc, fun o ho => ?_⟩
    have hk : startKeeps (markDone (s.toTime t) u) (dumpPresent (markDone (s.toTime t) u) &&
        decide ((markDone (s.toTime t) u).boot.cause ≠ 1)) o = false := by
      rw [← ho]; unfold markDone; split <;> rfl
    exact (congrArg (mget 0 · o) ((congrArg State.mem he).trans hm)).trans (mget_filter_of_dropped 0 _ _ o hk)

/-- Settles O52: each command of the start sequence is its meaning in a package that works; the step's end rests on `stepEnd_markDone`, the
failures on `stepFail_failsWith`, SET_READY and FW_FAIL on Prostoza's write of HUB_CTL. -/
theorem startSequence : Obligations.StartSequence := by
  refine ⟨fun s posId mt t => ⟨?_, ?_, ?_, ?_, ?_⟩, fun s t h => ⟨⟨?_, ?_, ?_, ?_⟩, fun u hu hb => ⟨?_, ?_⟩⟩⟩
  · intro hp hr hf
    refine ⟨_, rfl, ?_⟩
    simp [hp, hr, hf, sample, startPins, SameMemory, SameWork]
  · intro frame hheld
    obtain ⟨e, hm, hw⟩ := pinRelease_of_held hheld posId mt
    refine ⟨_, rfl, ?_⟩
    rw [e]
    cases frame <;> exact ⟨rfl, rfl, rfl, rfl, hm, hw⟩
  · intro hw h0
    refine ⟨_, rfl, ?_⟩
    simp [atTime_of_works hw, h0, State.toTime_now, startPins, SameMemory, SameWork]
  · intro h u f h5 ht
    rw [exec_startStepDone h u f t h5 ht]
    constructor
    · intro hd
      refine ⟨_, rfl, ?_⟩
      simp [hd, markDone, SameMemory, SameWork]
    · intro hd hf
      exact ⟨_, by rw [if_pos hd], stepEnd_markDone h u t hf⟩
  · intro h h5
    refine ⟨readyAct s, ?_, ?_⟩
    · show Host.Outcome.next (s.whenAlive _) = _
      simp [whenAlive_of_works (works_of_starting h), hubCtl_prostoza _ 1 (by decide), hubCtlActions, Nat.testBit]
    · obtain ⟨hb, hp, hm, hw⟩ := readyAct_of_step5 h h5
      simp [hb, hp, hm, hw]
  · exact fun r d x hr => startStepFail_failsWith h r d x t hr
  · exact startStepTimeout_failsWith h t
  · exact startStepTimeout_early h t
  · exact fun h5 => fwFail_failsWith h h5 t
  · intro ht
    refine ⟨_, rfl, ?_⟩
    simp [atTime_of_works hu, hb, State.toTime_now, ht, SameMemory, SameWork]
  · intro ht
    show Host.Outcome.next (u.atTime t _) = _
    simp [atTime_of_works hu, State.toTime_now, Nat.not_le.2 ht]

end Sys2Proof.Machine
end

section
/-!
A position that becomes DOWN leaves the frame-link ports alone (R321, R580): one lemma for each function on the way to `posLost`.
-/

namespace Sys2Proof.Machine

/-- The frame-link ports of both hub dies: the part of the state that what follows a lost position leaves alone. -/
def State.ports (s : State) : SMap FlkPort × SMap FlkPort := (s.hub0.flk.ports, s.hub1.flk.ports)

/-- The ports of a state written out field by field. -/
@[simp] theorem ports_mk (now boot pins hub0 hub1 due queues blks mem poison caches gcs creels cores online scrubs scrZero gddrTry qrst qrstRun
    stopped engRef engRst c0End arbs lts lastAt qsel dlks hlks errs doff mgt upsets stamp fresh out pending) :
    (State.mk now boot pins hub0 hub1 due queues blks mem poison caches gcs creels cores online scrubs scrZero gddrTry qrst qrstRun
      stopped engRef engRst c0End arbs lts lastAt qsel dlks hlks errs doff mgt upsets stamp fresh out pending).ports =
    (hub0.flk.ports, hub1.flk.ports) := rfl
@[simp] theorem ports_eta (s : State) : (s.hub0.flk.ports, s.hub1.flk.ports) = s.ports := rfl

@[simp] theorem ite_ports (c : Prop) [Decidable c] (s t : State) : (if c then s else t).ports = if c then s.ports else t.ports := apply_ite ..

@[simp] theorem modHub_ports (s : State) (h : Hub) (f : HubSt → HubSt) (hf : ∀ x, (f x).flk.ports = x.flk.ports) :
    (s.modHub h f).ports = s.ports := by
  unfold State.modHub State.setHub State.hub
  by_cases e : h = 0 <;> simp [e, hf]

@[simp] theorem foldl_ports {α : Type} (f : State → α → State) (l : List α) (s : State) (hf : ∀ t a, (f t a).ports = t.ports) :
    (l.foldl f s).ports = s.ports := foldl_keeps State.ports f l s hf
@[simp] theorem foldl_fst_ports {α β : Type} (f : State × β → α → State × β) (l : List α) (p : State × β)
    (hf : ∀ t a, (f t a).1.ports = t.1.ports) : (l.foldl f p).1.ports = p.1.ports := foldl_keeps (fun p => p.1.ports) f l p hf

/-! ### The state: updates, counters, events -/

@[simp] theorem setQueue_ports (s : State) (q x) : (State.setQueue s q x).ports = s.ports := rfl
@[simp] theorem modQueue_ports (s : State) (q f) : (State.modQueue s q f).ports = s.ports := rfl
@[simp] theorem setBlk_ports (s : State) (p b) : (State.setBlk s p b).ports = s.ports := rfl
@[simp] theorem modBlk_ports (s : State) (p f) : (State.modBlk s p f).ports = s.ports := rfl
@[simp] theorem setCore_ports (s : State) (c x) : (State.setCore s c x).ports = s.ports := rfl
@[simp] theorem modCore_ports (s : State) (c f) : (State.modCore s c f).ports = s.ports := rfl
@[simp] theorem modHlk_ports (s : State) (p f) : (State.modHlk s p f).ports = s.ports := rfl
@[simp] theorem setCache_ports (s : State) (i c) : (State.setCache s i c).ports = s.ports := rfl
@[simp] theorem modCache_ports (s : State) (i f) : (State.modCache s i f).ports = s.ports := rfl
@[simp] theorem modGc_ports (s : State) (i f) : (State.modGc s i f).ports = s.ports := rfl
@[simp] theorem modCreel_ports (s : State) (e f) : (State.modCreel s e f).ports = s.ports := rfl
@[simp] theorem modGrp_ports (s : State) (h g f) : (State.modGrp s h g f).ports = s.ports := by simp [State.modGrp]
@[simp] theorem send_ports (s : State) (o) : (State.send s o).ports = s.ports := rfl
@[simp] theorem draw_ports (s : State) : (State.draw s).2.ports = s.ports := rfl
@[simp] theorem count_ports (s : State) (p off n) : (State.count s p off n).ports = s.ports := rfl
@[simp] theorem raiseMsixVf_ports (s : State) (p v f vec) : (raiseMsixVf s p v f vec).ports = s.ports := by simp [raiseMsixVf]
@[simp] theorem raiseMsix_ports (s : State) (f vec) : (raiseMsix s f vec).ports = s.ports := by simp [raiseMsix]
@[simp] theorem mgmtIrq_ports (s : State) (h n) : (mgmtIrq s h n).ports = s.ports := by
  unfold mgmtIrq; split <;> simp
@[simp] theorem withFatalIrq_ports (s : State) (p f) : (State.withFatalIrq s p f).ports = s.ports := by simp [State.withFatalIrq]
@[simp] theorem withIrq_ports (s : State) (p f) : (State.withIrq s p f).ports = s.ports := by simp [State.withIrq]
@[simp] theorem event_ports (s : State) (p i) : (State.event s p i).ports = s.ports := by simp [State.event]

/-! ### Errors and fatal errors -/

@[simp] theorem corrected_ports (s : State) (d) : (corrected s d).ports = s.ports := by
  unfold corrected; dsimp only; split <;> simp
@[simp] theorem report_ports (s : State) (p cls code detail t errAddr physAddr) :
    (report s p cls code detail t errAddr physAddr).ports = s.ports := by
  simp [report]
@[simp] theorem fwViolation_ports (s : State) (h kind t addr) : (fwViolation s h kind t addr).ports = s.ports := by
  unfold fwViolation; split <;> simp
@[simp] theorem stepFail_ports (s : State) (reason die detail back) : (stepFail s reason die detail back).ports = s.ports := rfl
@[simp] theorem raiseFatal_ports (s : State) (code p) : (raiseFatal s code p).ports = s.ports := by simp [raiseFatal]

/-! ### Memory and caches -/

@[simp] theorem store_ports (s : State) (o bs) : (State.store s o bs).ports = s.ports := rfl
@[simp] theorem ctlCount_ports (s : State) (r off n) : (ctlCount s r off n).ports = s.ports := by
  unfold ctlCount; split <;> simp
@[simp] theorem setPoison_ports (s : State) (g) : (setPoison s g).ports = s.ports := by
  unfold setPoison
  repeat' split
  all_goals simp
@[simp] theorem clearPoison_ports (s : State) (g) : (clearPoison s g).ports = s.ports := rfl
@[simp] theorem eccUe_ports (s : State) (o) : (eccUe s o).ports = s.ports := by
  unfold eccUe; dsimp only; split <;> simp
@[simp] theorem clearUpset_ports (s : State) (k) : (clearUpset s k).ports = s.ports := by simp [clearUpset]
@[simp] theorem eccRead_ports (s : State) (o) : (eccRead s o).ports = s.ports := by
  unfold eccRead
  dsimp only
  repeat' split
  all_goals simp
@[simp] theorem loseResv_ports (s : State) (except g) : (loseResv s except g).ports = s.ports := rfl
@[simp] theorem tick_ports (s : State) : (State.tick s).2.ports = s.ports := rfl
@[simp] theorem lineErrors_ports (s : State) (i l k) : (lineErrors s i l k).1.ports = s.ports := by
  unfold lineErrors
  dsimp only
  repeat' split
  all_goals simp
@[simp] theorem writeBack_ports (s : State) (i l k) : (writeBack s i l k).1.ports = s.ports := by
  unfold writeBack; split <;> simp
@[simp] theorem writeBackLine_ports (s : State) (i l) : (writeBackLine s i l).1.ports = s.ports := by simp [writeBackLine]
@[simp] theorem evict_ports (s : State) (i l) : (evict s i l).ports = s.ports := by simp [evict]
theorem allocLine_ports {s t : State} {i num prio : Nat} {l : Line} (e : allocLine s i num prio = some (t, l)) : t.ports = s.ports := by
  unfold allocLine at e
  obtain ⟨w, -, e⟩ := Option.map_eq_some_iff.1 e
  cases e
  cases lineAt (s.cache i) i (setOf i num) w <;> simp
@[simp] theorem findErrors_ports (s : State) (i o) : (findErrors s i o).ports = s.ports := by
  unfold findErrors
  dsimp only
  repeat' split
  all_goals simp
@[simp] theorem writeErrors_ports (s : State) (i a o n) : (writeErrors s i a o n).ports = s.ports := by simp [writeErrors]
@[simp] theorem wrThrough_ports (s : State) (i o bs) : (wrThrough s i o bs).ports = s.ports := by
  unfold wrThrough; dsimp only; split <;> simp
@[simp] theorem wrSector_ports (s : State) (i a o bs) : (wrSector s i a o bs).ports = s.ports := by
  unfold wrSector
  dsimp only
  repeat' split
  all_goals simp
  all_goals exact (allocLine_ports (by assumption)).trans (by simp)
@[simp] theorem poisonOnWrite_ports (s : State) (o n) : (poisonOnWrite s o n).ports = s.ports := by
  unfold poisonOnWrite
  dsimp only
  repeat' split
  all_goals simp
@[simp] theorem mergeErrors_ports (s : State) (a o n) : (mergeErrors s a o n).ports = s.ports := by
  unfold mergeErrors
  repeat' split
  all_goals simp
@[simp] theorem wrPiece_ports (s : State) (w a o bs) : (wrPiece s w a o bs).ports = s.ports := by
  unfold wrPiece
  dsimp only
  repeat' split
  all_goals simp
@[simp] theorem zeroRange_ports (s : State) (o n) : (zeroRange s o n).ports = s.ports := rfl

/-! ### Translation and the firewalls -/

@[simp] theorem holdLeaf_ports (s : State) (h ctx va) : (holdLeaf s h ctx va).ports = s.ports := by
  unfold holdLeaf; split <;> simp
@[simp] theorem countWalks_ports (s : State) (h ctx va n fault) : (countWalks s h ctx va n fault).ports = s.ports := by simp [countWalks]
@[simp] theorem logFw_ports (s : State) (h fabric kind addr r) : (logFw s h fabric kind addr r).ports = s.ports := by
  unfold logFw; split <;> simp

/-! ### Commands and the power governor -/

@[simp] theorem putCmd_ports (s : State) (q c) : (putCmd s q c).ports = s.ports := rfl
@[simp] theorem modCmd_ports (s : State) (q seq f) : (State.modCmd s q seq f).ports = s.ports := rfl
@[simp] theorem modGov_ports (s : State) (h f) : (State.modGov s h f).ports = s.ports := by simp [State.modGov]
@[simp] theorem govBallast_ports (s : State) (h) : (govBallast s h).ports = s.ports := by simp [govBallast]
@[simp] theorem putThrottled_ports (s : State) (q c) : (putThrottled s q c).ports = s.ports := by simp [putThrottled]
@[simp] theorem slowClocks_ports (s : State) (h) : (slowClocks s h).ports = s.ports := by simp [slowClocks]
@[simp] theorem runOversize_ports (s : State) (h q c) : (runOversize s h q c).ports = s.ports := by simp [runOversize]
@[simp] theorem dispatch_ports (s : State) (h q c) : (dispatch s h q c).ports = s.ports := by simp [dispatch]
@[simp] theorem dispatchHeld_ports (s : State) (h) : (dispatchHeld s h).ports = s.ports := by
  refine foldl_fst_ports _ _ _ fun p c => ?_
  split <;> simp
@[simp] theorem hold_ports (s : State) (q c) : (hold s q c).ports = s.ports := by simp [hold]
@[simp] theorem cutApply_ports (s : State) (h) : (cutApply s h).ports = s.ports := by simp [cutApply]

/-! ### Writes that come to memory -/

@[simp] theorem writeMem_ports (s : State) (w a o bs) : (writeMem s w a o bs).ports = s.ports := by simp [writeMem]
@[simp] theorem snoopBytes_ports (s : State) (o n) : (snoopBytes s o n).ports = s.ports := by simp [snoopBytes]
theorem sharedWait_ports {s t : State} {l : List Span} (e : sharedWait s l = some t) : t.ports = s.ports := by
  unfold sharedWait at e
  dsimp only at e
  split at e
  · cases e
  · cases e; simp
@[simp] theorem sendWrite_ports (s : State) (part cls i x pa bs) : (sendWrite s part cls i x pa bs).ports = s.ports := rfl

/-! ### Queues -/

@[simp] theorem coresTake_ports (s : State) (part) : (coresTake s part).ports = s.ports := rfl
@[simp] theorem queueIrq_ports (s : State) (q) : (queueIrq s q).ports = s.ports := by simp [queueIrq]
@[simp] theorem queueError_ports (s : State) (q code seq idx st cause va) : (queueError s q code seq idx st cause va).ports = s.ports := by
  simp [queueError]
@[simp] theorem xltFault_ports (s : State) (q cause addr) : (xltFault s q cause addr).ports = s.ports := by simp [xltFault]
@[simp] theorem joinSteps_ports (s : State) (q) : (joinSteps s q).ports = s.ports := by simp [joinSteps]
@[simp] theorem stepEndCheck_ports (s : State) (h g) : (stepEndCheck s h g).ports = s.ports := by simp [stepEndCheck]
@[simp] theorem leaveSteps_ports (s : State) (q) : (leaveSteps s q).ports = s.ports := by simp [leaveSteps]
@[simp] theorem resetDone_ports (s : State) (q) : (resetDone s q).ports = s.ports := by
  unfold resetDone; dsimp only; split <;> simp
@[simp] theorem zeroingCheck_ports (s : State) (h) : (zeroingCheck s h).ports = s.ports := by simp [zeroingCheck]
@[simp] theorem partRstCheck_ports (s : State) (h) : (partRstCheck s h).ports = s.ports := by simp [partRstCheck]
@[simp] theorem settle_ports (s : State) (q) : (settle s q).ports = s.ports := by
  unfold settle
  dsimp only
  repeat' split
  all_goals simp
@[simp] theorem qosStalls_ports (s : State) (e) : (qosStalls s e).ports = s.ports := by
  refine foldl_ports _ _ _ fun t p => ?_
  repeat' split
  all_goals simp
@[simp] theorem refreshReady_ports (s : State) (q) : (refreshReady s q).ports = s.ports := by
  unfold refreshReady
  repeat' split
  all_goals simp
@[simp] theorem gateReady_ports (s : State) (q) : (gateReady s q).ports = s.ports := by
  unfold gateReady; dsimp only; split <;> simp
@[simp] theorem dropOrdEntries_ports (s : State) (q c) : (dropOrdEntries s q c).ports = s.ports := by simp [dropOrdEntries]
@[simp] theorem gcAcquire_ports (s : State) (e) : (gcAcquire s e).ports = s.ports := rfl
@[simp] theorem acquire_ports (s : State) (q c) : (acquire s q c).ports = s.ports := by simp [acquire]
@[simp] theorem sendMark_ports (s : State) (q c ok) : (sendMark s q c ok).ports = s.ports := by
  unfold sendMark; split <;> simp
@[simp] theorem modCbGrp_ports (s : State) (h g f) : (State.modCbGrp s h g f).ports = s.ports := by simp [State.modCbGrp]
@[simp] theorem tellEnd_ports (s : State) (q c ok) : (tellEnd s q c ok).ports = s.ports := by
  unfold tellEnd
  repeat' split
  all_goals simp
@[simp] theorem closeLate_ports (s : State) (c) : (closeLate s c).ports = s.ports := by
  unfold closeLate; split <;> simp
@[simp] theorem closeHead_ports (s : State) (q c) : (closeHead s q c).ports = s.ports := by simp [closeHead]
@[simp] theorem endCmd_ports (s : State) (q c st cause idx va ea) : (endCmd s q c st cause idx va ea).ports = s.ports := by simp [endCmd]
@[simp] theorem c0Check_ports (s : State) (q c) : (c0Check s q c).ports = s.ports := by
  unfold c0Check; split <;> simp
@[simp] theorem enterFaultWait_ports (s : State) (q c) : (enterFaultWait s q c).ports = s.ports := by simp [enterFaultWait]
@[simp] theorem finishRecord_ports (s : State) (q c written) : (finishRecord s q c written).ports = s.ports := by simp [finishRecord]
@[simp] theorem completeOne_ports (s : State) (q) : (completeOne s q).ports = s.ports := by
  unfold completeOne
  dsimp only
  repeat' split
  any_goals simp
  exact sharedWait_ports (by assumption)
@[simp] theorem completeAll_ports (s : State) (q n) : (completeAll s q n).ports = s.ports := by
  induction n generalizing s with
  | zero => rfl
  | succ n ih => simp [completeAll, ih]
@[simp] theorem stopCmd_ports (s : State) (q c st cause) : (stopCmd s q c st cause).ports = s.ports := by simp [stopCmd]
@[simp] theorem stopAll_ports (s : State) (q st cause) : (stopAll s q st cause).ports = s.ports := by simp [stopAll]
@[simp] theorem queueReset_ports (s : State) (q) : (queueReset s q).ports = s.ports := by simp [queueReset]
@[simp] theorem enableQueue_ports (s : State) (q) : (enableQueue s q).ports = s.ports := by simp [enableQueue]
@[simp] theorem disableQueue_ports (s : State) (q) : (disableQueue s q).ports = s.ports := by simp [disableQueue]
@[simp] theorem endWaitState_ports (s : State) (q) : (endWaitState s q).ports = s.ports := rfl
@[simp] theorem faultRetry_ports (s : State) (q) : (faultRetry s q).ports = s.ports := by
  unfold faultRetry; dsimp only; split <;> simp
@[simp] theorem faultAbandon_ports (s : State) (q) : (faultAbandon s q).ports = s.ports := by
  unfold faultAbandon; dsimp only; split <;> simp
@[simp] theorem resumeQueue_ports (s : State) (q) : (resumeQueue s q).ports = s.ports := by simp [resumeQueue]
@[simp] theorem ringBell_ports (s : State) (q v) : (ringBell s q v).ports = s.ports := by simp [ringBell]
@[simp] theorem enableGrp_ports (s : State) (h g) : (enableGrp s h g).ports = s.ports := by simp [enableGrp]
@[simp] theorem disableGrp_ports (s : State) (h g) : (disableGrp s h g).ports = s.ports := by simp [disableGrp]

/-! ### Maintenance of caches -/

@[simp] theorem seqError_ports (s : State) (i why) : (seqError s i why).ports = s.ports := by simp [seqError]
@[simp] theorem cacheOn_ports (s : State) (i) : (cacheOn s i).ports = s.ports := by
  unfold cacheOn; split <;> simp
@[simp] theorem maintStart_ports (s : State) (i op) : (maintStart s i op).ports = s.ports := rfl
@[simp] theorem carveWrite_ports (s : State) (i n) : (carveWrite s i n).ports = s.ports := rfl
@[simp] theorem maintCarve_ports (s : State) (i start units) : (maintCarve s i start units).ports = s.ports := by
  unfold maintCarve
  dsimp only
  repeat' split
  all_goals simp
@[simp] theorem preloadStart_ports (s : State) (i ways) : (preloadStart s i ways).ports = s.ports := by simp [preloadStart]
@[simp] theorem fillErrors_ports (s : State) (i o) : (fillErrors s i o).ports = s.ports := by simp [fillErrors]
@[simp] theorem preloadLine_ports (s : State) (i ways loaded num) : (preloadLine s i ways loaded num).1.ports = s.ports := by
  unfold preloadLine
  dsimp only
  repeat' split
  all_goals simp
@[simp] theorem preloadLines_ports (s : State) (i n) : (preloadLines s i n).ports = s.ports := by simp [preloadLines]
@[simp] theorem cacheOff_ports (s : State) (i) : (cacheOff s i).ports = s.ports := by
  unfold cacheOff; split <;> simp
@[simp] theorem gcFlush_ports (s : State) (e off) : (gcFlush s e off).ports = s.ports := rfl
@[simp] theorem gcWrite_ports (s : State) (e en inv) : (gcWrite s e en inv).ports = s.ports := by simp [gcWrite]
@[simp] theorem scrZeroStart_ports (s : State) (n) : (scrZeroStart s n).ports = s.ports := rfl
@[simp] theorem modXlt_ports (s : State) (h f) : (State.modXlt s h f).ports = s.ports := by simp [State.modXlt]
@[simp] theorem modCtx_ports (s : State) (h c f) : (State.modCtx s h c f).ports = s.ports := by simp [State.modCtx]
@[simp] theorem invStart_ports (s : State) (h) : (invStart s h).ports = s.ports := by simp [invStart]
@[simp] theorem ctxWrite_ports (s : State) (h c en root) : (ctxWrite s h c en root).ports = s.ports := by simp [ctxWrite]

/-! ### Engine resets -/

@[simp] theorem engineClear_ports (s : State) (i) : (engineClear s i).ports = s.ports := by simp [engineClear]
@[simp] theorem disarmCheck_ports (s : State) (e) : (disarmCheck s e).ports = s.ports := by
  unfold disarmCheck
  dsimp only
  repeat' split
  all_goals simp
@[simp] theorem disarmStart_ports (s : State) (e) : (disarmStart s e).ports = s.ports := by simp [disarmStart]
@[simp] theorem engineReset_ports (s : State) (i) : (engineReset s i).1.ports = s.ports := by
  unfold engineReset
  repeat' split
  all_goals simp
@[simp] theorem timerRace_ports (s : State) (q c) : (timerRace s q c).ports = s.ports := by simp [timerRace]
@[simp] theorem badArrival_ports (s : State) (h) : (badArrival s h).ports = s.ports := by simp [badArrival]
@[simp] theorem cbNotice_ports (s : State) (h g k ok) : (cbNotice s h g k ok).ports = s.ports := by
  unfold cbNotice
  dsimp only
  repeat' split
  all_goals simp
@[simp] theorem cbClear_ports (s : State) (h g) : (cbClear s h g).ports = s.ports := by simp [cbClear]

/-! ### Line time, doff, the grid, partitions -/

@[simp] theorem modLtu_ports (s : State) (u f) : (State.modLtu s u f).ports = s.ports := by simp [State.modLtu]
@[simp] theorem knotFlush_ports (s : State) (h) : (knotFlush s h).ports = s.ports := by simp [knotFlush]
@[simp] theorem knotDropPos_ports (s : State) (h p) : (knotDropPos s h p).ports = s.ports := by simp [knotDropPos]
@[simp] theorem modLed_ports (s : State) (h f) : (State.modLed s h f).ports = s.ports := by simp [State.modLed]
@[simp] theorem fetchFail_ports (s : State) (e k f reason) : (fetchFail s e k f reason).ports = s.ports := by simp [fetchFail]
@[simp] theorem viewRelease_ports (s : State) (h c) : (viewRelease s h c).ports = s.ports := by simp [viewRelease]
@[simp] theorem modQos_ports (s : State) (h f) : (State.modQos s h f).ports = s.ports := by simp [State.modQos]
@[simp] theorem modScrub_ports (s : State) (i f) : (State.modScrub s i f).ports = s.ports := rfl
@[simp] theorem modPart_ports (s : State) (h f) : (State.modPart s h f).ports = s.ports := by simp [State.modPart]
@[simp] theorem lateDiscard_ports (s : State) (d) : (lateDiscard s d).ports = s.ports := rfl

/-! ### What a write of a register does -/

@[simp] theorem commonAct_ports (s : State) (p bank w) : (commonAct s p bank w).ports = s.ports := by simp [commonAct]
@[simp] theorem seqAct_ports (s : State) (h w) : (seqAct s h w).ports = s.ports := by simp [seqAct]
@[simp] theorem govAct_ports (s : State) (h w) : (govAct s h w).ports = s.ports := by simp [govAct]
@[simp] theorem ledAct_ports (s : State) (h bank ctx w) : (ledAct s h bank ctx w).ports = s.ports := by simp [ledAct]
@[simp] theorem ccAct_ports (s : State) (i w) : (ccAct s i w).ports = s.ports := by simp [ccAct]
@[simp] theorem gcAct_ports (s : State) (e w) : (gcAct s e w).ports = s.ports := by simp [gcAct]
@[simp] theorem xltAct_ports (s : State) (h bank w) : (xltAct s h bank w).ports = s.ports := by simp [xltAct]
@[simp] theorem qmAct_ports (s : State) (d bank w) : (qmAct s d bank w).ports = s.ports := by
  unfold qmAct
  dsimp only
  repeat' split
  all_goals simp
@[simp] theorem cbAct_ports (s : State) (h bank w) : (cbAct s h bank w).ports = s.ports := by simp [cbAct]
@[simp] theorem hlkAct_ports (s : State) (p w) : (hlkAct s p w).ports = s.ports := by simp [hlkAct]
@[simp] theorem tdcAct_ports (s : State) (n w) : (tdcAct s n w).ports = s.ports := by
  unfold tdcAct
  split
  · rfl
  · refine foldl_fst_ports _ _ _ fun p e => ?_
    split <;> simp
@[simp] theorem bellAct_ports (s : State) (q w) : (bellAct s q w).ports = s.ports := by simp [bellAct]

/-! ### Cores -/

@[simp] theorem coreAbort_ports (s : State) (c cls addr) : (coreAbort s c cls addr).ports = s.ports := by simp [coreAbort]
@[simp] theorem storeFailed_ports (s : State) (c cls addr) : (storeFailed s c cls addr).ports = s.ports := by simp [storeFailed]
@[simp] theorem logMiss_ports (s : State) (c m) : (logMiss s c m).ports = s.ports := by
  unfold logMiss; split <;> simp
@[simp] theorem coreMissed_ports (s : State) (c m) : (coreMissed s c m).ports = s.ports := by simp [coreMissed]
@[simp] theorem storeMissed_ports (s : State) (c m) : (storeMissed s c m).ports = s.ports := by simp [storeMissed]
@[simp] theorem nextNo_ports (s : State) (c) : (nextNo s c).2.ports = s.ports := rfl
@[simp] theorem sbRemove_ports (s : State) (c i) : (sbRemove s c i).ports = s.ports := rfl
@[simp] theorem sbSend_ports (s : State) (c i e) : (sbSend s c i e).ports = s.ports := by
  unfold sbSend
  split
  · refine (foldl_ports _ _ _ fun t p => ?_).trans ?_ <;> simp
  all_goals simp
@[simp] theorem sbDrive_ports (s : State) (c n) : (sbDrive s c n).ports = s.ports := by
  induction n generalizing s with
  | zero => rfl
  | succ n ih =>
    rw [sbDrive]
    split <;> simp [ih]
@[simp] theorem sbFlow_ports (s : State) (c) : (sbFlow s c).ports = s.ports := by simp [sbFlow]
@[simp] theorem sbFail_ports (s : State) (c i k) : (sbFail s c i k).ports = s.ports := by
  unfold sbFail; split <;> simp
@[simp] theorem setGidx_ports (s : State) (c f) : (setGidx s c f).ports = s.ports := rfl
@[simp] theorem vecFault_ports (s : State) (c f m) : (vecFault s c f m).ports = s.ports := by simp [vecFault]
@[simp] theorem pendFails_ports (s : State) (c m) : (pendFails s c m).ports = s.ports := by simp [pendFails]
@[simp] theorem cmuFails_ports (s : State) (c which k) : (cmuFails s c which k).ports = s.ports := rfl

/-! ### Fetches -/

@[simp] theorem fetchRace_ports (s : State) (x f) : (fetchRace s x f).ports = s.ports := by simp [fetchRace]

/-! ### Arrivals -/

@[simp] theorem logFar_ports (s : State) (a h t pa) : (logFar s a h t pa).ports = s.ports := by simp [logFar]

/-! ### A far write of a register (R639) -/

/-- No far write acts on a register that only Prostoza may write (R639). -/
theorem mergeFields_none (may : Writer → Bool) (cur written v : Nat) (l : List Field) (h : ∀ f ∈ l, may f.who = false) :
    (mergeFields may cur written v l).2.1 = 0 := by
  induction l with
  | nil => rfl
  | cons f l ih =>
    have hf := h f List.mem_cons_self
    have hl := ih fun g hg => h g (List.mem_cons_of_mem _ hg)
    cases ha : f.act <;> simp [mergeFields, hf, ha, hl]
/-- The fields of the pages whose registers reach both hub dies, but for the engine resets, are Prostoza's. -/
theorem fieldsOf_prostoza {k : PageKind} {o : Nat} {h : Hub} (ho : 0x100 ≤ o)
    (hk : (k = .hub h ∧ o ≠ 0x118) ∨ k = .mgt h ∨ k = .ltu h ∨ k = .flk h ∨ k = .slk h) : ∀ f ∈ fieldsOf k o, f.who = .prostoza := by
  have hc : o ≠ 0x010 ∧ o ≠ 0x018 ∧ o ≠ 0x01C ∧ o ≠ 0x020 ∧ o ≠ 0x030 ∧ ¬ o < 0x100 := by omega
  unfold fieldsOf
  rcases hk with ⟨rfl, h8⟩ | rfl | rfl | rfl | rfl
  all_goals
    simp only [reduceCtorEq, if_false, *]
    repeat' split
    all_goals decide
/-- A write of the HUB page keeps the ports where it reaches the engine resets or no writable bit: only a package reset clears them. -/
theorem hubAct_ports (s : State) (h : Hub) (w : Wr) (hw : w.off ≠ 0x118 → w.wm = 0) : (hubAct s h w).ports = s.ports := by
  by_cases e : w.off = 0x118
  · simp [hubAct, e, apply_ite Prod.fst]
  · simp [hubAct, e, hw e, Wr.sets, Wr.hits, bit]
/-- So does a write of a block page by one who may not write Prostoza's fields. -/
theorem blockAct_ports (s : State) (k : PageKind) (bank ctx : Nat) (found : List NsFound) (w : Wr) (ho : ¬ w.off < 0x100)
    (hw : (∀ f ∈ fieldsOf k w.off, f.who = .prostoza) → w.wm = 0) : (blockAct s k bank ctx found w).ports = s.ports := by
  have ho : 0x100 ≤ w.off := by omega
  cases k with
  | hub h => exact hubAct_ports _ _ _ fun e => hw (fieldsOf_prostoza ho (.inl ⟨rfl, e⟩))
  | mgt h => simp [blockAct, mgtAct, Wr.sets, Wr.hits, bit, hw (fieldsOf_prostoza (h := h) ho (by simp))]
  | ltu h => simp [blockAct, ltuAct, hw (fieldsOf_prostoza (h := h) ho (by simp))]
  | slk h => simp [blockAct, slkAct, hw (fieldsOf_prostoza (h := h) ho (by simp))]
  | flk h => simp [blockAct, flkAct, hw (fieldsOf_prostoza (h := h) ho (by simp))]
  | _ => simp [blockAct]
@[simp] theorem regWrite_far_ports (s : State) (t : ReqTag) (fn : Option (Fin 32)) (o size v : Nat) :
    (regWrite s (.far t fn) o size v).ports = s.ports := by
  unfold regWrite
  dsimp only
  split
  · rw [ite_ports, fwViolation_ports, ite_self]
    refine foldl_fst_ports _ _ _ fun p b => ?_
    split
    · exact commonAct_ports ..
    next h => exact blockAct_ports _ _ _ _ _ _ h fun hf => mergeFields_none _ _ _ _ _ fun f m => by rw [hf f m]; rfl
  · rw [ite_ports, fwViolation_ports, ite_self]
    exact foldl_fst_ports _ _ _ fun p b => bellAct_ports ..
  · rfl
@[simp] theorem farPut_ports (s : State) (t x pa bs) : (farPut s t x pa bs).2.ports = s.ports := by
  unfold farPut
  dsimp only
  repeat' split
  all_goals simp

/-! ### Knot units -/

@[simp] theorem modKnot_ports (s : State) (h f) : (State.modKnot s h f).ports = s.ports := by simp [State.modKnot]
@[simp] theorem modSeq_ports (s : State) (h k f) : (State.modSeq s h k f).ports = s.ports := by simp [State.modSeq]
@[simp] theorem modMember_ports (s : State) (h k n f) : (State.modMember s h k n f).ports = s.ports := by simp [State.modMember]
theorem openSeq_ports {s t : State} {h : Hub} {k : Nat} {b : Bool} (e : openSeq s h k = (b, t)) : t.ports = s.ports := by
  unfold openSeq at e
  split at e
  · cases e; rfl
  · split at e <;> cases e <;> simp
@[simp] theorem newUse_ports (s : State) (h k n) : (newUse s h k n).ports = s.ports := by simp [newUse]
@[simp] theorem knotSeen_ports (s : State) (h k p) : (knotSeen s h k p).ports = s.ports := by simp [knotSeen]
theorem knotPut_ports {s t : State} {h : Hub} {k : Nat} {p : KnotPiece} {b : Bool} (e : knotPut s h k p = (b, t)) : t.ports = s.ports := by
  have f := farPut_ports s (farTag p.src p.part p.issuer p.attr) p.attr p.addr p.data
  unfold knotPut at e
  split at e <;> cases e <;> simp_all
@[simp] theorem knotRelease_ports (s : State) (h k) : (knotRelease s h k).ports = s.ports := by
  refine foldl_fst_ports _ _ _ fun p x => ?_
  split
  next e => simp [apply_ite, knotPut_ports e]
  next e => simp [apply_ite, knotPut_ports e]
@[simp] theorem knotTell_ports (s : State) (h k) : (knotTell s h k).ports = s.ports := by
  refine foldl_ports _ _ _ fun t p => ?_
  repeat' split
  all_goals simp
@[simp] theorem knotSettle_ports (s : State) (h k n) : (knotSettle s h k n).ports = s.ports := by
  induction n generalizing s with
  | zero => rfl
  | succ n ih => simp [knotSettle, ih]
@[simp] theorem settleSeq_ports (s : State) (h k) : (settleSeq s h k).ports = s.ports := by simp [settleSeq]
@[simp] theorem knotDrop_ports (s : State) (h k n) : (knotDrop s h k n).ports = s.ports := by simp [knotDrop]
@[simp] theorem knotTake_ports (s : State) (h w) : (knotTake s h w).2.ports = s.ports := by
  unfold knotTake
  dsimp only
  split
  next e => split <;> simp [openSeq_ports e]
  next t e =>
    have ht := openSeq_ports e
    repeat' split
    all_goals simp [ht]
    all_goals exact (knotPut_ports (by assumption)).trans (by simp [ht])
@[simp] theorem knotRetry_ports (s : State) (h n) : (knotRetry s h n).ports = s.ports := by
  induction n generalizing s with
  | zero => rfl
  | succ n ih =>
    rw [knotRetry]
    rw [ite_ports, ih, ite_self]
    refine (foldl_ports _ _ _ fun t p => ?_).trans (by simp)
    have f := knotTake_ports t h p
    split <;> simp_all
@[simp] theorem knotRun_ports (s : State) (h) : (knotRun s h).ports = s.ports := by simp [knotRun]

/-! ### Host ports -/

@[simp] theorem hostAnswer_ports (s : State) (p tag st data) : (hostAnswer s p tag st data).ports = s.ports := by simp [hostAnswer]
@[simp] theorem hostFault_ports (s : State) (p f cause addr) : (hostFault s p f cause addr).ports = s.ports := by simp [hostFault]
@[simp] theorem hostPosDown_ports (s : State) (p f pa) : (hostPosDown s p f pa).ports = s.ports := by
  unfold hostPosDown; split <;> simp
@[simp] theorem readAnswer_ports (s : State) (p tag st cxl data) : (readAnswer s p tag st cxl data).ports = s.ports := by
  unfold readAnswer; split <;> simp
@[simp] theorem dropPend_ports (s : State) (p tag) : (dropPend s p tag).ports = s.ports := rfl

/-! ### A position becomes DOWN (R321, R580) -/

@[simp] theorem cmdLost_ports (s : State) (p q c) : (cmdLost s p q c).ports = s.ports := by simp [cmdLost]
@[simp] theorem recLost_ports (s : State) (p q) : (recLost s p q).ports = s.ports := by
  unfold recLost
  dsimp only
  repeat' split
  all_goals simp
@[simp] theorem queueLost_ports (s : State) (p q) : (queueLost s p q).ports = s.ports := by
  unfold queueLost; dsimp only; split <;> simp
@[simp] theorem creelLost_ports (s : State) (p e) : (creelLost s p e).ports = s.ports := by
  refine foldl_ports _ _ _ fun t p => ?_
  repeat' split
  all_goals simp
@[simp] theorem coreStoresLost_ports (s : State) (p c n) : (coreStoresLost s p c n).ports = s.ports := by
  induction n generalizing s with
  | zero => rfl
  | succ n ih =>
    rw [coreStoresLost]
    split <;> simp [ih]
@[simp] theorem coreLost_ports (s : State) (p c) : (coreLost s p c).ports = s.ports := by
  unfold coreLost; dsimp only; split <;> simp
@[simp] theorem hostLost_ports (s : State) (p k) : (hostLost s p k).ports = s.ports := by simp [hostLost]
@[simp] theorem posLost_ports (s : State) (p) : (posLost s p).ports = s.ports := by simp [posLost]

end Sys2Proof.Machine
end

section
/-!
Half-links: training, a wrong position, loss (R23, R25, R43, R44, R549).
-/

namespace Sys2Proof.Machine

/-! ## Half-link ports after an update (R655) -/

/-- The ports of both hub dies are in canonical form. -/
def PortsOk (s : State) : Prop := ∀ h, mwf {} (s.hub h).flk.ports = true

/-- Two states with the same ports have the same half-links. -/
theorem fport_of_ports {s t : State} (e : t.ports = s.ports) (h : Hub) (j : FPort) : t.fport h j = s.fport h j := by
  obtain ⟨e0, e1⟩ := Prod.mk.inj e
  unfold State.fport State.hub
  split
  · rw [e0]
  · rw [e1]

/-- So are they in canonical form together. -/
theorem portsOk_of_ports {s t : State} (e : t.ports = s.ports) (w : PortsOk s) : PortsOk t := by
  obtain ⟨e0, e1⟩ := Prod.mk.inj e
  intro h
  have wh := w h
  unfold State.hub at wh ⊢
  split
  · simpa [e0, *] using wh
  · simpa [e1, *] using wh

/-- A change of a half-link keeps the canonical form. -/
theorem modFport_portsOk {s : State} (w : PortsOk s) (h : Hub) (j : FPort) (f : FlkPort → FlkPort) : PortsOk (s.modFport h j f) := by
  intro g
  rw [State.modFport, State.modHub_hub]
  split
  · exact mput_wf _ _ (w h)
  · exact w g

/-- The half-links after one of them has been changed. -/
theorem modFport_fport {s : State} (w : PortsOk s) (h g : Hub) (j i : FPort) (f : FlkPort → FlkPort) :
    (s.modFport h j f).fport g i = if g = h ∧ i = j then f (s.fport h j) else s.fport g i := by
  simp only [State.fport, State.modFport, State.modHub_hub]
  by_cases hg : g = h
  · subst hg
    simp only [true_and, if_true]
    rw [mget_mput _ _ _ (w g)]
    simp only [Fin.ext_iff, eq_comm]
  · simp [hg]

/-- The half-link that is changed. -/
theorem modFport_fport_self {s : State} (w : PortsOk s) (h : Hub) (j : FPort) (f : FlkPort → FlkPort) :
    (s.modFport h j f).fport h j = f (s.fport h j) := by rw [modFport_fport w, if_pos ⟨rfl, rfl⟩]
/-- The half-links of the other hub die are as before. -/
theorem modFport_fport_other {s : State} (w : PortsOk s) {h g : Hub} (n : g ≠ h) (j i : FPort) (f : FlkPort → FlkPort) :
    (s.modFport h j f).fport g i = s.fport g i := by rw [modFport_fport w, if_neg fun e => n e.1]

/-- The hub die beside h is not h. -/
theorem otherHub_ne : ∀ h : Hub, 1 - h ≠ h := by decide
theorem otherHub_other : ∀ h : Hub, 1 - (1 - h) = h := by decide
/-- The port towards the far position of a port (R22). -/
theorem portTo_farOf : ∀ (p : Pos) (j : FPort), portTo p (farOf p j) = some j := by decide

/-- The state of a port's far position, over the two half-links of the port (R25). -/
theorem posState_farOf {s : State} {p : Pos} (e : s.boot.pos = p) (h : Hub) (j : FPort) :
    posState s (farOf p j) =
      if linkUp s h j || linkUp s (1 - h) j then .present
      else if (s.fport h j).trained || (s.fport (1 - h) j).trained then .down else .empty := by
  rw [posState, e, portTo_farOf]
  fin_cases h
  · rfl
  · simp only [Bool.or_comm (linkUp s 0 j), Bool.or_comm (s.fport 0 j).trained]; rfl

/-! ## What a change of half-links leaves as it is -/

/-- Memory, what runs, and start, doff and management state are as before. -/
def SameRest (s t : State) : Prop := SameMemory s t ∧ SameWork s t ∧ SameStart s t

theorem SameMemory.trans {s t u : State} (a : SameMemory s t) (b : SameMemory t u) : SameMemory s u := by
  obtain ⟨am, ac, ap⟩ := a
  obtain ⟨bm, bc, bp⟩ := b
  exact ⟨bm.trans am, bc.trans ac, bp.trans ap⟩
theorem SameWork.trans {s t u : State} (a : SameWork s t) (b : SameWork t u) : SameWork s u := by
  obtain ⟨aq, ac, al, ag⟩ := a
  obtain ⟨bq, bc, bl, bg⟩ := b
  exact ⟨bq.trans aq, bc.trans ac, bl.trans al, bg.trans ag⟩
theorem SameStart.trans {s t u : State} (a : SameStart s t) (b : SameStart t u) : SameStart s u := by
  obtain ⟨ab, ap, ad, am⟩ := a
  obtain ⟨bb, bp, bd, bm⟩ := b
  exact ⟨bb.trans ab, bp.trans ap, bd.trans ad, bm.trans am⟩
theorem SameRest.trans {s t u : State} (a : SameRest s t) (b : SameRest t u) : SameRest s u := by
  obtain ⟨am, aw, as⟩ := a
  obtain ⟨bm, bw, bs⟩ := b
  exact ⟨am.trans bm, aw.trans bw, as.trans bs⟩
theorem SameRest.refl (s : State) : SameRest s s := ⟨⟨rfl, rfl, rfl⟩, ⟨rfl, rfl, rfl, rfl⟩, rfl, rfl, rfl, rfl⟩
theorem modFport_sameRest (s : State) (h : Hub) (j : FPort) (f : FlkPort → FlkPort) : SameRest s (s.modFport h j f) := by
  simp [SameRest, SameMemory, SameWork, SameStart]
theorem sendTrain_sameRest (s : State) (h : Hub) (j : FPort) : SameRest s (sendTrain s h j) :=
  ⟨⟨rfl, rfl, rfl⟩, ⟨rfl, rfl, rfl, rfl⟩, rfl, rfl, rfl, rfl⟩
theorem count_sameRest (s : State) (p off n : Nat) : SameRest s (s.count p off n) :=
  ⟨⟨rfl, rfl, rfl⟩, ⟨rfl, rfl, rfl, rfl⟩, rfl, rfl, rfl, rfl⟩
theorem adopt_ports (s : State) : (adopt s).ports = s.ports := by
  obtain ⟨a, b, e⟩ := adopt_eq s
  rw [e]
  rfl
theorem adopt_sameRest (s : State) : SameRest s (adopt s) := by
  obtain ⟨a, b, e⟩ := adopt_eq s
  rw [e]
  exact ⟨⟨rfl, rfl, rfl⟩, ⟨rfl, rfl, rfl, rfl⟩, rfl, rfl, rfl, rfl⟩

/-- What the far end reported is put down in both half-links of the port. -/
theorem farReport_eq (s : State) (j : FPort) (r : Bool) (c : BitVec 48) :
    farReport s j r c = (s.modFport 0 j fun x => { x with farReady := r, farCycle := c, farAt := s.now }).modFport 1 j fun x =>
      { x with farReady := r, farCycle := c, farAt := s.now } := by
  simp [farReport, bothHubs]
theorem farReport_sameRest (s : State) (j : FPort) (r : Bool) (c : BitVec 48) : SameRest s (farReport s j r c) := by
  rw [farReport_eq]
  exact (modFport_sameRest s 0 j _).trans (modFport_sameRest _ 1 j _)
/-- It leaves a half-link's width, state and mismatch. -/
theorem farReport_fport {s : State} (w : PortsOk s) (h : Hub) (j : FPort) (r : Bool) (c : BitVec 48) :
    (farReport s j r c).fport h j = { s.fport h j with farReady := r, farCycle := c, farAt := s.now } := by
  rw [farReport_eq, modFport_fport (modFport_portsOk w 0 j _), modFport_fport w, modFport_fport w]
  fin_cases h <;> simp

/-! ## Training (R23, R43, R549) -/

theorem linkUp_eq_true {s : State} {h : Hub} {j : FPort} : linkUp s h j = true ↔ (s.fport h j).width ≠ 0 := by simp [linkUp]

/-- A port that is up does not attempt training. -/
theorem trainTry_of_up {s : State} {h : Hub} {j : FPort} (hu : linkUp s h j = true) : trainTry s h j = s := by simp [trainTry, hu]

/-- A half-link from its training attempt at a cycle on. -/
def attempting (now : Nat) (x : FlkPort) : FlkPort := { x with lnk := { x.lnk with st := .training, since := now } }

/-- A port that is down begins a training attempt. -/
theorem trainTry_begins {s : State} {h : Hub} {j : FPort} (hm : mayTrain s = true) (hd : linkUp s h j = false)
    (ht : (s.fport h j).lnk.st ≠ .training) :
    trainTry s h j =
      sendTrain ((s.modFport h j (attempting s.now)).count (flkPage h) 0x0C0 1) h j := by
  unfold attempting
  simp [trainTry, hm, hd, ht]

/-- The attempt is sent to the far end and counted; but for that and the half-link, all is as before (R549). -/
theorem trainTry_frame {s : State} {h : Hub} {j : FPort} (w : PortsOk s) (hb : mwf {} s.blks = true)
    (hk : mwf 0 (s.blk (flkPage h)).cnt = true) (hm : mayTrain s = true) (hd : linkUp s h j = false)
    (ht : (s.fport h j).lnk.st ≠ .training) :
    let s' := trainTry s h j
    (s'.fport h j).lnk.st = .training ∧ (s'.fport h j).lnk.since = s.now ∧ SameRest s s' ∧
      ((s.blk (flkPage h)).cntFreeze = false → s'.cnt (flkPage h) 0x0C0 = s.cnt (flkPage h) 0x0C0 + 1) := by
  have hblks : (s.modFport h j (attempting s.now)).blks = s.blks := State.modFport_blks s h j _
  have hblk : (s.modFport h j (attempting s.now)).blk (flkPage h) = s.blk (flkPage h) := by rw [State.blk, hblks, ← State.blk]
  have hport : (trainTry s h j).fport h j = attempting s.now (s.fport h j) := by
    rw [trainTry_begins hm hd ht]
    exact modFport_fport_self w h j _
  refine ⟨by rw [hport]; rfl, by rw [hport]; rfl, ?_, fun hfree => ?_⟩
  · rw [trainTry_begins hm hd ht]
    exact (modFport_sameRest s h j _).trans ((count_sameRest _ _ _ 1).trans (sendTrain_sameRest _ h j))
  · rw [trainTry_begins hm hd ht]
    have n := State.count_cnt (s.modFport h j (attempting s.now)) (flkPage h) 0x0C0 1 (hblks ▸ hb) (hblk ▸ hk) (hblk ▸ hfree)
    exact n.trans (by rw [State.cnt, hblk]; rfl)

/-- What a half-link sends before it trains, if it has not attempted training. -/
def trainStart (s : State) (h : Hub) (j : FPort) : State := if (s.fport h j).lnk.st = .training then s else sendTrain s h j

theorem trainStart_ports (s : State) (h : Hub) (j : FPort) : (trainStart s h j).ports = s.ports := by
  unfold trainStart; split <;> rfl
theorem trainStart_sameRest (s : State) (h : Hub) (j : FPort) : SameRest s (trainStart s h j) := by
  unfold trainStart
  split
  · exact .refl s
  · exact sendTrain_sameRest s h j

/-- A half-link whose lanes suffice, towards the position it expects, comes up. -/
theorem linkTrained_expected {s : State} {h : Hub} {j : FPort} {failed : BitVec 9} (r : Bool) (c : BitVec 48)
    (hm : mayTrain s = true) (hd : linkUp s h j = false) (hf : widthOf failed ≠ 0) (ho : (s.fport (1 - h) j).mismatch = false) :
    linkTrained s h j (farOf s.boot.pos j) failed r c =
      adopt (farReport (((trainStart s h j).modFport h j fun x =>
          { setLanes x failed with farPos := BitVec.ofNat 3 (farOf s.boot.pos j).val, mismatch := false }).modFport h j fun x =>
        { x with trained := true, lnk := { x.lnk with st := .up, fails := 0 } }) j r c) := by
  have hp : (trainStart s h j).boot.pos = s.boot.pos := by unfold trainStart; split <;> rfl
  have hf' : (trainStart s h j).fport (1 - h) j = s.fport (1 - h) j := fport_of_ports (trainStart_ports s h j) _ _
  unfold linkTrained
  rw [← trainStart]
  simp [hm, hd, hf, hp, hf', ho]

/-- The half-link is up then, and all but links and line time is as before. -/
theorem linkTrained_expected_up {s : State} {h : Hub} {j : FPort} {failed : BitVec 9} (r : Bool) (c : BitVec 48) (w : PortsOk s)
    (hm : mayTrain s = true) (hd : linkUp s h j = false) (hf : widthOf failed ≠ 0) (ho : (s.fport (1 - h) j).mismatch = false) :
    let s' := linkTrained s h j (farOf s.boot.pos j) failed r c
    SameRest s s' ∧ (s'.fport h j).width = widthOf failed ∧ (s'.fport h j).mismatch = false ∧ (s'.fport h j).lnk.st = .up := by
  have w0 : PortsOk (trainStart s h j) := portsOk_of_ports (trainStart_ports s h j) w
  dsimp only
  rw [linkTrained_expected r c hm hd hf ho]
  constructor
  · exact (trainStart_sameRest s h j).trans ((modFport_sameRest _ h j _).trans ((modFport_sameRest _ h j _).trans
      ((farReport_sameRest _ j r c).trans (adopt_sameRest _))))
  · rw [fport_of_ports (adopt_ports _), farReport_fport (modFport_portsOk (modFport_portsOk w0 h j _) h j _),
      modFport_fport_self (modFport_portsOk w0 h j _), modFport_fport_self w0]
    exact ⟨rfl, rfl, rfl⟩

/-! ## A half-link goes down (R25, R44) -/

/-- A half-link that is down cannot go down. -/
theorem halfDown_of_down {s : State} {h : Hub} {j : FPort} (hd : linkUp s h j = false) : halfDown s h j = s := by simp [halfDown, hd]

/-- The half-link of hub die h on port j, gone down. -/
def dropHalf (s : State) (h : Hub) (j : FPort) : State :=
  s.modFport h j fun x => { x with width := 0, lnk := { x.lnk with st := .down, fails := 0 } }

/-- Which half-links are up then. -/
theorem dropHalf_linkUp {s : State} (w : PortsOk s) (h g : Hub) (j i : FPort) :
    linkUp (dropHalf s h j) g i = if g = h ∧ i = j then false else linkUp s g i := by
  unfold linkUp dropHalf
  rw [modFport_fport w]
  split <;> simp
/-- With the other half-link up, the transfers of the one that goes down are resent there. -/
theorem halfDown_resent {s : State} {h : Hub} {j : FPort} (w : PortsOk s) (hu : linkUp s h j = true) (ho : linkUp s (1 - h) j = true)
    (hn : openOn s h (farOf s.boot.pos j) = 0) : halfDown s h j = stallsEnd (dropHalf s h j) := by
  have e : linkUp (dropHalf s h j) (1 - h) j = true := by simp [dropHalf_linkUp w, ho, otherHub_ne]
  unfold halfDown
  rw [← dropHalf]
  simp [hu, hn, e]
/-- Without it, the position is DOWN. -/
theorem halfDown_lost {s : State} {h : Hub} {j : FPort} (w : PortsOk s) (hu : linkUp s h j = true) (ho : linkUp s (1 - h) j = false) :
    halfDown s h j = posLost (dropHalf s h j) (farOf s.boot.pos j) := by
  have e : linkUp (dropHalf s h j) (1 - h) j = false := by simp [dropHalf_linkUp w, ho]
  unfold halfDown
  rw [← dropHalf]
  simp [hu, e]

/-- A half-link goes down without the port's other half-link: it is down, and the other one as it was. -/
theorem halfDown_alone {s : State} {h : Hub} {j : FPort} (w : PortsOk s) (ho : linkUp s (1 - h) j = false) :
    linkUp (halfDown s h j) h j = false ∧ (halfDown s h j).fport (1 - h) j = s.fport (1 - h) j := by
  cases hu : linkUp s h j
  case false => rw [halfDown_of_down hu]; exact ⟨hu, rfl⟩
  case true =>
    have e (g : Hub) : (halfDown s h j).fport g j = (dropHalf s h j).fport g j := by
      rw [halfDown_lost w hu ho]; exact fport_of_ports (posLost_ports _ _) g j
    refine ⟨?_, (e _).trans (modFport_fport_other w (otherHub_ne h) j j _)⟩
    rw [linkUp, e, ← linkUp, dropHalf_linkUp w, if_pos ⟨rfl, rfl⟩]

/-! ## A wrong position (R23) -/

/-- The port that has met a wrong far position. -/
def misplace (s : State) (h : Hub) (j : FPort) (far : Pos) : State :=
  s.modFport h j fun x => { x with mismatch := true, farPos := BitVec.ofNat 3 far.val, lnk := { x.lnk with st := .down } }

/-- A wrong far position is noted, and the port's other half-link goes down. -/
theorem linkTrained_wrong {s : State} {h : Hub} {j : FPort} {far : Pos} (failed : BitVec 9) (r : Bool) (c : BitVec 48)
    (hm : mayTrain s = true) (hd : linkUp s h j = false) (hf : far ≠ farOf s.boot.pos j) :
    linkTrained s h j far failed r c = halfDown (misplace (trainStart s h j) h j far) (1 - h) j := by
  have hp : (trainStart s h j).boot.pos = s.boot.pos := by unfold trainStart; split <;> rfl
  unfold linkTrained
  rw [← trainStart]
  simp [hm, hd, hp, hf, misplace]

theorem misplace_portsOk {s : State} (w : PortsOk s) (h : Hub) (j : FPort) (far : Pos) : PortsOk (misplace s h j far) :=
  modFport_portsOk w h j _
theorem misplace_linkUp {s : State} (w : PortsOk s) (h g : Hub) (j : FPort) (far : Pos) :
    linkUp (misplace s h j far) g j = linkUp s g j := by
  unfold linkUp misplace
  rw [modFport_fport w]
  split
  case isTrue e => rw [e.1]
  case isFalse => rfl

/-- Both half-links of a port that has met a wrong position are down (R23). -/
theorem linkTrained_wrong_down {s : State} {h : Hub} {j : FPort} {far : Pos} (failed : BitVec 9) (r : Bool) (c : BitVec 48) (w : PortsOk s)
    (hm : mayTrain s = true) (hd : linkUp s h j = false) (hf : far ≠ farOf s.boot.pos j) :
    let s' := linkTrained s h j far failed r c
    linkUp s' h j = false ∧ linkUp s' (1 - h) j = false ∧ (s'.fport h j).mismatch = true ∧ (linkUp s (1 - h) j = false → SameRest s s') := by
  have w0 : PortsOk (trainStart s h j) := portsOk_of_ports (trainStart_ports s h j) w
  have hl (g : Hub) : linkUp (misplace (trainStart s h j) h j far) g j = linkUp s g j := by
    rw [misplace_linkUp w0, linkUp, fport_of_ports (trainStart_ports s h j), linkUp]
  have ho : linkUp (misplace (trainStart s h j) h j far) (1 - (1 - h)) j = false := by rw [otherHub_other, hl, hd]
  obtain ⟨hdown, hkeep⟩ := halfDown_alone (misplace_portsOk w0 h j far) ho
  rw [otherHub_other] at hkeep
  dsimp only
  rw [linkTrained_wrong failed r c hm hd hf]
  refine ⟨?_, hdown, ?_, fun hod => ?_⟩
  · rw [linkUp, hkeep, ← linkUp, hl, hd]
  · rw [hkeep, misplace, modFport_fport_self w0]
  · rw [halfDown_of_down ((hl _).trans hod)]
    exact (trainStart_sameRest s h j).trans (modFport_sameRest _ h j _)

/-! ## What goes on when a half-link is lost -/

/-- Commands that go on after waiting on a link change queues and counters only. -/
theorem stallsEnd_keeps {β : Type} (g : State → β) (hq : ∀ t q f, g (State.modQueue t q f) = g t) (hb : ∀ t p f, g (State.modBlk t p f) = g t)
    (s : State) : g (stallsEnd s) = g s := by
  refine foldl_keeps g _ _ _ fun t p => ?_
  split
  · rw [putThrottled]
    split
    · exact (hb _ _ _).trans (hq _ _ _)
    · exact hq _ _ _
  · rfl
/-- So memory, start and the half-links are as before. -/
theorem stallsEnd_frame (s : State) : SameMemory s (stallsEnd s) ∧ SameStart s (stallsEnd s) ∧ (stallsEnd s).ports = s.ports := by
  have k {β : Type} (g : State → β) (hq : ∀ t q f, g (State.modQueue t q f) = g t) (hb : ∀ t p f, g (State.modBlk t p f) = g t) :=
    stallsEnd_keeps g hq hb s
  refine ⟨⟨?_, ?_, ?_⟩, ⟨?_, ?_, ?_, ?_⟩, ?_⟩
  all_goals exact k _ (fun _ _ _ => rfl) (fun _ _ _ => rfl)

/-- A package in which nothing waits for another position. -/
structure Unattached (s : State) : Prop where
  queues : s.queues = []
  creels : s.creels = []
  cores  : s.cores = []
  hlks   : s.hlks = []
  knots  : ∀ h, (s.knot h).seqs = [] ∧ (s.knot h).waiting = []

/-- A change of a hub die's part that comes to nothing. -/
theorem modHub_id (s : State) (h : Hub) {f : HubSt → HubSt} (e : f (s.hub h) = s.hub h) : s.modHub h f = s := by
  rw [State.modHub, e]
  unfold State.setHub State.hub
  split <;> rfl

theorem knotDropPos_unattached {s : State} (u : Unattached s) (h : Hub) (p : Pos) : knotDropPos s h p = s := by
  obtain ⟨hs, hw⟩ := u.knots h
  refine modHub_id s h ?_
  simp only [State.knot] at hs hw
  simp only [hs, hw, List.filter_nil, List.map_nil, List.sum_nil, BitVec.add_zero]
  rw [← hs, ← hw]
theorem knotRun_unattached {s : State} (u : Unattached s) (h : Hub) : knotRun s h = s := by
  obtain ⟨hs, hw⟩ := u.knots h
  simp [knotRun, hs, hw, mkeys, knotRetry]
theorem creelLost_unattached {s : State} (u : Unattached s) (p : Pos) (e : Fin 16) : creelLost s p e = s := by
  simp [creelLost, State.creel, u.creels]
theorem hostLost_unattached {s : State} (u : Unattached s) (p : Pos) (k : Port) : hostLost s p k = s := by
  simp only [hostLost, State.modHlk, State.hlk, u.hlks, mget_nil, List.filter_nil, List.foldl_nil, mput, if_true]
  rw [← u.hlks]

/-- Where nothing waits for another position, one that becomes DOWN changes nothing. -/
theorem posLost_unattached {s : State} (u : Unattached s) (p : Pos) : posLost s p = s := by
  unfold posLost
  have hc := List.foldl_fixed' (f := fun s e => creelLost s p e) (creelLost_unattached u p)
  have hh := List.foldl_fixed' (f := fun s k => hostLost s p k) (hostLost_unattached u p)
  simp only [u.queues, List.map_nil, List.foldl_nil, hc, u.cores, hh, knotDropPos_unattached u, knotRun_unattached u]

theorem modFport_knot (s : State) (h g : Hub) (j : FPort) (f : FlkPort → FlkPort) : (s.modFport h j f).knot g = s.knot g := by
  simp only [State.knot, State.modFport, State.modHub_hub]
  split
  case isTrue e => rw [e]
  case isFalse => rfl
theorem dropHalf_unattached {s : State} (u : Unattached s) (h : Hub) (j : FPort) : Unattached (dropHalf s h j) where
  queues := by rw [dropHalf, State.modFport_queues, u.queues]
  creels := by rw [dropHalf, State.modFport_creels, u.creels]
  cores := by rw [dropHalf, State.modFport_cores, u.cores]
  hlks := by rw [dropHalf, State.modFport_hlks, u.hlks]
  knots := fun g => by rw [dropHalf, modFport_knot]; exact u.knots g

/-! ## The position of a half-link that is lost (R25, R44) -/

/-- Once the half-link is down, its width is 0, and the position is as the other half-link and the earlier training have it. -/
theorem posState_dropHalf {s s' : State} {h : Hub} {j : FPort} (w : PortsOk s) (e : s'.ports = (dropHalf s h j).ports)
    (hb : s'.boot = s.boot) :
    (s'.fport h j).width = 0 ∧ posState s' (farOf s.boot.pos j) =
      if linkUp s (1 - h) j then .present else if (s.fport h j).trained || (s.fport (1 - h) j).trained then .down else .empty := by
  have hown : s'.fport h j = { s.fport h j with width := 0, lnk := { (s.fport h j).lnk with st := .down, fails := 0 } } :=
    (fport_of_ports e h j).trans (modFport_fport_self w h j _)
  have hother : s'.fport (1 - h) j = s.fport (1 - h) j :=
    (fport_of_ports e (1 - h) j).trans (modFport_fport_other w (otherHub_ne h) j j _)
  refine ⟨by rw [hown], ?_⟩
  rw [posState_farOf (congrArg Boot.pos hb) h j, linkUp, hown, linkUp, hother, ← linkUp]
  simp

theorem dropHalf_sameRest (s : State) (h : Hub) (j : FPort) : SameRest s (dropHalf s h j) := modFport_sameRest s h j _

/-- A half-link that is lost while the other one is up: the position stays present (R44). -/
theorem halfDown_present {s : State} {h : Hub} {j : FPort} (w : PortsOk s) (hu : linkUp s h j = true) (ho : linkUp s (1 - h) j = true)
    (hn : openOn s h (farOf s.boot.pos j) = 0) :
    let s' := halfDown s h j
    (s'.fport h j).width = 0 ∧ posState s' (farOf s.boot.pos j) = .present ∧ SameMemory s s' ∧ SameStart s s' := by
  obtain ⟨hm, hs, hp⟩ := stallsEnd_frame (dropHalf s h j)
  obtain ⟨dm, -, ds⟩ := dropHalf_sameRest s h j
  have hstart := ds.trans hs
  obtain ⟨hw, hpos⟩ := posState_dropHalf w hp hstart.1
  dsimp only
  rw [halfDown_resent w hu ho hn]
  exact ⟨hw, by rw [hpos, if_pos ho], dm.trans hm, hstart⟩

/-- A half-link that is lost while the other one is down: the position, which was reached, is DOWN (R25). -/
theorem halfDown_posDown {s : State} {h : Hub} {j : FPort} (w : PortsOk s) (hu : linkUp s h j = true) (ho : linkUp s (1 - h) j = false)
    (ht : (s.fport h j).trained = true) (u : Unattached s) :
    let s' := halfDown s h j
    (s'.fport h j).width = 0 ∧ posState s' (farOf s.boot.pos j) = .down ∧ SameMemory s s' ∧ SameStart s s' := by
  obtain ⟨dm, -, ds⟩ := dropHalf_sameRest s h j
  obtain ⟨hw, hpos⟩ := posState_dropHalf w rfl ds.1
  dsimp only
  rw [halfDown_lost w hu ho, posLost_unattached (dropHalf_unattached u h j)]
  exact ⟨hw, by simp [hpos, ho, ht], dm, ds⟩

/-- Settles O55: an attempt is `trainTry_frame`, training towards the expected and a wrong position `linkTrained_expected_up` and
`linkTrained_wrong_down`, the loss of a half-link `halfDown_present` and `halfDown_posDown`. -/
theorem halfLinkTraining : Obligations.HalfLinkTraining := by
  intro s h j t hw hc
  have w : PortsOk s := hc.ports
  refine ⟨?_, fun hm hd => ⟨?_, ?_, ?_⟩, fun hu => ⟨?_, ?_⟩, ?_⟩
  · intro hu
    exact congrArg Host.Outcome.next ((atTime_of_works hw t _).trans (trainTry_of_up (s := s.toTime t) hu))
  · intro ht
    obtain ⟨hst, hsince, ⟨hmem, hwork, hstart⟩, hcnt⟩ :=
      trainTry_frame (s := s.toTime t) w hc.blks (hc.cnt _) hm hd ht
    exact ⟨_, congrArg Host.Outcome.next (atTime_of_works hw t _), hst, hsince, hmem, hwork, hstart, hcnt⟩
  · intro failed r c hf ho
    obtain ⟨⟨hm, hk, hs⟩, hwidth, hmis, hst⟩ := linkTrained_expected_up r c w hm hd hf ho
    refine ⟨linkTrained s h j _ failed r c, congrArg Host.Outcome.next (whenAlive_of_works hw _), ?_, hwidth, hmis, hst, ?_, hm, hk, hs⟩
    · exact linkUp_eq_true.2 (hwidth ▸ hf)
    · rw [posState_farOf (congrArg Boot.pos hs.1) h j, linkUp_eq_true.2 (hwidth ▸ hf)]
      rfl
  · intro far failed r c hf
    exact ⟨_, congrArg Host.Outcome.next (whenAlive_of_works hw _), linkTrained_wrong_down failed r c w hm hd hf⟩
  · intro ho hn
    exact ⟨_, congrArg Host.Outcome.next (atTime_of_works hw _ _), halfDown_present (s := s.toTime t) w hu ho hn⟩
  · intro ho ht hq hl hcores hh hknots
    have u : Unattached (s.toTime t) := ⟨hq, hl, hcores, hh, hknots⟩
    exact ⟨_, congrArg Host.Outcome.next (atTime_of_works hw _ _), halfDown_posDown (s := s.toTime t) w hu ho ht u⟩
  · intro hd
    exact congrArg Host.Outcome.next ((atTime_of_works hw t _).trans (halfDown_of_down (s := s.toTime t) hd))

end Sys2Proof.Machine
end

section
/-!
Block pages after counts and events, and what changes of line time units leave as it was (R632, R637).
-/

namespace Sys2Proof.Machine

/-! ## Block pages -/

/-- A page that no host port has: the counter of raised MSI-X vectors (R607) does not lie on it. -/
def OffPorts (p : Nat) : Prop := ∀ k : Port, hlkPage k ≠ p

theorem ltuPage_offPorts : ∀ u, OffPorts (ltuPage u) := by unfold OffPorts; decide
theorem ltuPage_ne : ∀ u v : Hub, u ≠ v → ltuPage u ≠ ltuPage v := by decide

theorem modBlk_wf {s : State} (w : mwf {} s.blks = true) (p : Nat) (f : Blk → Blk) : mwf {} (s.modBlk p f).blks = true := mput_wf _ _ w
theorem count_wf {s : State} (w : mwf {} s.blks = true) (p off n : Nat) : mwf {} (s.count p off n).blks = true := modBlk_wf w p _

theorem raiseMsixVf_wf {s : State} (w : mwf {} s.blks = true) (k : Port) (v f vec : Nat) : mwf {} (raiseMsixVf s k v f vec).blks = true := by
  unfold raiseMsixVf
  split
  · exact w
  · exact mput_wf _ _ w
theorem raiseMsixVf_blk (s : State) (k : Port) (v f vec : Nat) {p : Nat} (hp : OffPorts p) : (raiseMsixVf s k v f vec).blk p = s.blk p := by
  unfold raiseMsixVf
  split
  · rfl
  · exact mget_mput_ne _ _ _ (hp k)

theorem mgmtIrq_wf {s : State} (w : mwf {} s.blks = true) (h : Hub) (n : Nat) : mwf {} (mgmtIrq s h n).blks = true := by
  unfold mgmtIrq
  split
  · exact List.foldlRecOn (motive := fun t : State => mwf {} t.blks = true) _ _ w fun t wt a _ => raiseMsixVf_wf wt _ _ _ _
  · exact w
theorem mgmtIrq_blk (s : State) (h : Hub) (n : Nat) {p : Nat} (hp : OffPorts p) : (mgmtIrq s h n).blk p = s.blk p := by
  unfold mgmtIrq
  split
  · exact foldl_keeps (State.blk · p) _ _ _ fun t a => raiseMsixVf_blk t _ _ _ _ hp
  · rfl

theorem withIrq_wf {s : State} (w : mwf {} s.blks = true) (p : Nat) (f : Blk → Blk) : mwf {} (s.withIrq p f).blks = true := by
  have wm := modBlk_wf w p f
  unfold State.withIrq
  dsimp only
  repeat' split
  · exact mgmtIrq_wf (s := (s.modBlk p f).send _) wm _ _
  · exact wm
  · exact wm
theorem withIrq_blk (s : State) (p : Nat) (f : Blk → Blk) {q : Nat} (hq : OffPorts q) : (s.withIrq p f).blk q = (s.modBlk p f).blk q := by
  unfold State.withIrq
  dsimp only
  repeat' split
  · exact mgmtIrq_blk _ _ _ hq
  · rfl
  · rfl

theorem event_wf {s : State} (w : mwf {} s.blks = true) (p i : Nat) : mwf {} (s.event p i).blks = true := withIrq_wf w p _
/-- An event sets its bit on its page. -/
theorem event_blk {s : State} (w : mwf {} s.blks = true) {p : Nat} (i : Nat) (hp : OffPorts p) :
    (s.event p i).blk p = { s.blk p with intStat := (s.blk p).intStat ||| (1#32 <<< i) } :=
  (withIrq_blk s p _ hp).trans (State.modBlk_blk s p _ w)
/-- Other pages keep what they hold. -/
theorem event_blk_ne (s : State) {p q : Nat} (i : Nat) (hq : OffPorts q) (h : p ≠ q) : (s.event p i).blk q = s.blk q :=
  (withIrq_blk s p _ hq).trans (State.modBlk_blk_ne s p q _ h)
theorem event_intStat {s : State} (w : mwf {} s.blks = true) {p i : Nat} (hp : OffPorts p) (hi : i < 32) :
    ((s.event p i).blk p).intStat.getLsbD i = true := by
  rw [event_blk w i hp]
  simp [hi]
theorem event_cnt {s : State} (w : mwf {} s.blks = true) {p : Nat} (i off : Nat) (hp : OffPorts p) : (s.event p i).cnt p off = s.cnt p off := by
  rw [State.cnt, State.cnt, event_blk w i hp]

theorem count_blk_ne (s : State) {p q : Nat} (off n : Nat) (h : p ≠ q) : (s.count p off n).blk q = s.blk q := State.modBlk_blk_ne s p q _ h
/-- A count changes counters only. -/
theorem count_blk {s : State} (w : mwf {} s.blks = true) (p off n : Nat) :
    ∃ m, (s.count p off n).blk p = { s.blk p with cnt := m } ∧ (mwf 0 (s.blk p).cnt = true → mwf 0 m = true) := by
  unfold State.count
  rw [State.modBlk_blk s p _ w]
  split
  · exact ⟨_, rfl, id⟩
  · exact ⟨_, rfl, mput_wf _ _⟩
theorem count_intStat {s : State} (w : mwf {} s.blks = true) (p off n : Nat) : ((s.count p off n).blk p).intStat = (s.blk p).intStat := by
  obtain ⟨m, e, -⟩ := count_blk w p off n
  rw [e]
/-- A count leaves the page's other counters. -/
theorem count_cnt_ne {s : State} (w : mwf {} s.blks = true) (p : Nat) {a b : Nat} (n : Nat) (h : a ≠ b) :
    (s.count p a n).cnt p b = s.cnt p b := by
  unfold State.cnt State.count
  rw [State.modBlk_blk s p _ w]
  split
  · rfl
  · exact mget_mput_ne _ _ _ h

/-! ## What leaves memory, work and start as they were -/

theorem notices_sameRest {s t : State} (h : Notices s t) : SameRest s t :=
  ⟨⟨h.mem, h.caches, h.poison⟩, ⟨h.queues, h.cores, h.creels, h.gcs⟩, h.boot, h.pins, h.doff, h.mgt⟩
theorem event_sameRest (s : State) (p i : Nat) : SameRest s (s.event p i) := notices_sameRest (event_notices s p i)
theorem modHub_sameRest (s : State) (h : Hub) (f : HubSt → HubSt) : SameRest s (s.modHub h f) := by
  simp [SameRest, SameMemory, SameWork, SameStart]
theorem foldl_sameRest {α : Type} {f : State → α → State} (hf : ∀ s a, SameRest s (f s a)) (l : List α) (s : State) :
    SameRest s (l.foldl f s) :=
  List.foldlRecOn (motive := SameRest s) _ _ (.refl s) fun _ h a _ => h.trans (hf _ a)

/-! ## Line time units after an update -/

@[simp] theorem modLtu_ltuOf (s : State) (u v : Hub) (f : Ltu → Ltu) :
    (s.modLtu u f).ltuOf v = if v = u then f (s.ltuOf u) else s.ltuOf v := by
  unfold State.ltuOf State.modLtu
  rw [State.modHub_hub]
  split <;> rfl
@[simp] theorem modLtu_blks (s : State) (u : Hub) (f : Ltu → Ltu) : (s.modLtu u f).blks = s.blks := State.modHub_blks s u _
@[simp] theorem modLtu_blk (s : State) (u : Hub) (f : Ltu → Ltu) (p : Nat) : (s.modLtu u f).blk p = s.blk p := by simp [State.blk]
@[simp] theorem modLtu_cnt (s : State) (u : Hub) (f : Ltu → Ltu) (p off : Nat) : (s.modLtu u f).cnt p off = s.cnt p off := by simp [State.cnt]
theorem notices_ltuOf {s t : State} (h : Notices s t) (u : Hub) : t.ltuOf u = s.ltuOf u := congrArg HubSt.ltu (h.hub u)
@[simp] theorem event_ltuOf (s : State) (p i : Nat) (u : Hub) : (s.event p i).ltuOf u = s.ltuOf u := notices_ltuOf (event_notices s p i) u
@[simp] theorem count_ltuOf (s : State) (p off n : Nat) (u : Hub) : (s.count p off n).ltuOf u = s.ltuOf u := rfl
@[simp] theorem toTime_ltuOf (s : State) (t : Nat) (u : Hub) : (s.toTime t).ltuOf u = s.ltuOf u := rfl
theorem ltuOf_zero (s : State) : s.ltuOf 0 = s.hub0.ltu := rfl
theorem ltuOf_one (s : State) : s.ltuOf 1 = s.hub1.ltu := rfl
theorem modLtu_sameRest (s : State) (u : Hub) (f : Ltu → Ltu) : SameRest s (s.modLtu u f) := modHub_sameRest s u _

/-- The active hub die depends on which units are active. -/
theorem activeHub_eq (s : State) : s.activeHub = if (s.ltuOf 1).active && !(s.ltuOf 0).active then 1 else 0 := rfl
/-- An update that leaves ACTIVE leaves the choice of the active unit. -/
theorem modLtu_activeHub (s : State) (u : Hub) {f : Ltu → Ltu} (hf : ∀ l, (f l).active = l.active) : (s.modLtu u f).activeHub = s.activeHub := by
  simp only [activeHub_eq, modLtu_ltuOf]
  fin_cases u <;> simp [hf]

end Sys2Proof.Machine
end

section
/-!
The line time units leave WAIT and run free (R61, R62, R68, R72).
-/

namespace Sys2Proof.Machine

@[simp] theorem modLtu_boot (s : State) (u : Hub) (f : Ltu → Ltu) : (s.modLtu u f).boot = s.boot := State.modHub_boot s u _

/-! ## Adoption and copy messages leave all of a unit but its cycle count and the messages (R76, R80) -/

theorem modUpPorts_keeps {β : Type} (g : State → β) (hg : ∀ t h j f, g (State.modFport t h j f) = g t) (s : State) (f : FlkPort → FlkPort) :
    g (modUpPorts s f) = g s := by
  refine foldl_keeps g _ _ _ fun t j => foldl_keeps g _ _ _ fun t h => ?_
  split
  · exact hg t h j f
  · rfl
theorem modUpPorts_sameRest (s : State) (f : FlkPort → FlkPort) : SameRest s (modUpPorts s f) := by
  refine foldl_sameRest (fun t j => foldl_sameRest (fun t h => ?_) _ _) _ _
  split
  · exact modFport_sameRest t h j f
  · exact .refl t
@[simp] theorem modFport_ltuOf (s : State) (h : Hub) (j : FPort) (f : FlkPort → FlkPort) (u : Hub) : (s.modFport h j f).ltuOf u = s.ltuOf u := by
  unfold State.ltuOf State.modFport
  rw [State.modHub_hub]
  split
  next e => rw [e]
  next => rfl
@[simp] theorem modUpPorts_ltuOf (s : State) (f : FlkPort → FlkPort) (u : Hub) : (modUpPorts s f).ltuOf u = s.ltuOf u :=
  modUpPorts_keeps (State.ltuOf · u) (fun _ _ _ _ => modFport_ltuOf ..) s f
@[simp] theorem farCatchUp_ltuOf (s : State) (u : Hub) : (farCatchUp s).ltuOf u = s.ltuOf u := modUpPorts_ltuOf s _ u
@[simp] theorem farAdvance_ltuOf (s : State) (u : Hub) : (farAdvance s).ltuOf u = s.ltuOf u := by
  unfold farAdvance
  split
  · rfl
  · exact modUpPorts_ltuOf s _ u
theorem farAdvance_sameRest (s : State) : SameRest s (farAdvance s) := by
  unfold farAdvance
  split
  · exact .refl s
  · exact modUpPorts_sameRest s _
@[simp] theorem farCatchUp_blks (s : State) : (farCatchUp s).blks = s.blks := modUpPorts_keeps State.blks (fun _ _ _ _ => State.modFport_blks ..) s _
@[simp] theorem farCatchUp_boot (s : State) : (farCatchUp s).boot = s.boot := modUpPorts_keeps State.boot (fun _ _ _ _ => State.modFport_boot ..) s _

/-- A unit but for its counters, the moment of its latest LT, and what it tells the standby unit. -/
def Ltu.kept (l : Ltu) : Ltu := { l with phase := 0, cycle := 0, lastLt := 0, adopted := false, copies := [] }

theorem adopt_ltuOf (s : State) (u : Hub) :
    ∃ c b m, (adopt s).ltuOf u = { s.ltuOf u with cycle := c, adopted := b, copies := m } := by
  unfold adopt
  split
  · exact ⟨_, _, _, rfl⟩
  · dsimp only
    split
    · exact ⟨_, _, _, rfl⟩
    · fin_cases u <;> exact ⟨_, _, _, rfl⟩
@[simp] theorem adopt_blks (s : State) : (adopt s).blks = s.blks := by
  obtain ⟨a, b, e⟩ := adopt_eq s
  rw [e]
/-- With READY set, or no far position at hand, there is nothing to adopt (R80). -/
theorem adopt_none {s : State} (h : s.boot.ready = true ∨ trainedFar s = []) : adopt s = s := by
  unfold adopt
  rcases h with h | h <;> simp [h]

theorem sendCopy_ltuOf (s : State) (u : Hub) : ∃ m, (sendCopy s).ltuOf u = { s.ltuOf u with copies := m } := by
  unfold sendCopy
  dsimp only
  split
  · rw [modLtu_ltuOf]
    split
    next e => exact ⟨_, by rw [e]⟩
    next => exact ⟨_, rfl⟩
  · exact ⟨_, rfl⟩
@[simp] theorem sendCopy_blks (s : State) : (sendCopy s).blks = s.blks := by
  unfold sendCopy
  dsimp only
  split <;> simp
theorem sendCopy_sameRest (s : State) : SameRest s (sendCopy s) := by
  unfold sendCopy
  dsimp only
  split
  · exact modLtu_sameRest s 0 _
  · exact .refl s

/-! ## No far position (R25, R80) -/

theorem trainedFar_of_ports {s t : State} (e : t.ports = s.ports) (hb : t.boot = s.boot) : trainedFar t = trainedFar s := by
  unfold trainedFar linkUp
  simp only [fport_of_ports e, hb]
/-- Without a far position that is reached, no half-link is up. -/
theorem linkUp_of_trainedFar_nil {s : State} (e : trainedFar s = []) (h : Hub) (j : FPort) : linkUp s h j = false := by
  have n := List.filterMap_eq_nil_iff.1 e (farOf s.boot.pos j).val (List.mem_range.2 (farOf s.boot.pos j).isLt)
  have hp : Fin.ofNat 8 (farOf s.boot.pos j).val = farOf s.boot.pos j := Fin.ofNat_val_eq_self _
  simp only [hp, portTo_farOf] at n
  have down : linkUp s 0 j = false ∧ linkUp s 1 j = false := by
    cases u0 : linkUp s 0 j <;> cases u1 : linkUp s 1 j <;> simp [u0, u1] at n ⊢
  fin_cases h
  · exact down.1
  · exact down.2
theorem modUpPorts_of_down {s : State} (d : ∀ h j, linkUp s h j = false) (f : FlkPort → FlkPort) : modUpPorts s f = s := by
  have inner (j : FPort) : [(0 : Hub), 1].foldl (fun s h => if linkUp s h j then s.modFport h j f else s) s = s := by simp [d]
  exact List.foldl_fixed' inner _
theorem farCatchUp_none {s : State} (e : trainedFar s = []) : farCatchUp s = s := modUpPorts_of_down (linkUp_of_trainedFar_nil e) _

/-! ## Leaving WAIT (R61) -/

/-- A unit that leaves WAIT in state st at cycle now. -/
def Ltu.leave (l : Ltu) (st : LtuState) (now : Nat) : Ltu := { l with st := st, phase := 0, cycle := 0, lastLt := 2 ^ 24 * now, recent := [] }

/-- What the active unit does as it leaves WAIT, once its counters start. -/
def firstLt (s : State) : State :=
  let s := sendCopy (adopt (farCatchUp s))
  { s with due := s.due ++ dueNow s }

@[simp] theorem setDue_ltuOf (s : State) (l : List GridEvent) (u : Hub) : ({ s with due := l } : State).ltuOf u = s.ltuOf u := rfl
theorem setDue_sameRest (s : State) (l : List GridEvent) : SameRest s { s with due := l } := ⟨⟨rfl, rfl, rfl⟩, ⟨rfl, rfl, rfl, rfl⟩, rfl, rfl, rfl, rfl⟩

theorem firstLt_ltuOf (s : State) (u : Hub) : ∃ c b m, (firstLt s).ltuOf u = { s.ltuOf u with cycle := c, adopted := b, copies := m } := by
  obtain ⟨m, em⟩ := sendCopy_ltuOf (adopt (farCatchUp s)) u
  obtain ⟨c, b, n, ea⟩ := adopt_ltuOf (farCatchUp s) u
  refine ⟨c, b, m, ?_⟩
  rw [firstLt, setDue_ltuOf, em, ea, farCatchUp_ltuOf]
@[simp] theorem firstLt_blks (s : State) : (firstLt s).blks = s.blks := by simp [firstLt]
theorem firstLt_sameRest (s : State) : SameRest s (firstLt s) :=
  (modUpPorts_sameRest s _).trans ((adopt_sameRest _).trans ((sendCopy_sameRest _).trans (setDue_sameRest _ _)))
theorem firstLt_cycle {s : State} (h : s.boot.ready = true ∨ trainedFar s = []) (u : Hub) : ((firstLt s).ltuOf u).cycle = (s.ltuOf u).cycle := by
  have hn : adopt (farCatchUp s) = farCatchUp s := by
    refine adopt_none (h.imp (fun r => ?_) fun e => ?_)
    · rw [farCatchUp_boot, r]
    · rw [farCatchUp_none e, e]
  obtain ⟨m, em⟩ := sendCopy_ltuOf (adopt (farCatchUp s)) u
  rw [firstLt, setDue_ltuOf, em, hn, farCatchUp_ltuOf]

/-- Leaving WAIT, by the part that the unit has. -/
theorem leaveWait_eq (s : State) (u : Hub) (st : LtuState) :
    leaveWait s u st =
      let t := s.modLtu u fun l => l.leave st s.now
      if s.activeHub = u then firstLt t
      else if s.ltu.st = .wait then t
      else t.modLtu u fun l => { l with phase := s.ltu.phase, cycle := s.ltu.cycle, lastLt := s.ltu.lastLt } := by
  have e : (s.modLtu u fun l => l.leave st s.now).activeHub = s.activeHub := modLtu_activeHub s u fun _ => rfl
  dsimp only
  rw [← e]
  rfl

/-- Whichever part it has, the unit is in its new state; its registers but the counters stay. -/
theorem leaveWait_kept (s : State) (u : Hub) (st : LtuState) : ((leaveWait s u st).ltuOf u).kept = ((s.ltuOf u).leave st s.now).kept := by
  rw [leaveWait_eq]
  dsimp only
  split
  · obtain ⟨c, b, m, e⟩ := firstLt_ltuOf (s.modLtu u fun l => l.leave st s.now) u
    rw [e, modLtu_ltuOf, if_pos rfl]
    rfl
  · split
    · rw [modLtu_ltuOf, if_pos rfl]
    · rw [modLtu_ltuOf, if_pos rfl, modLtu_ltuOf, if_pos rfl]
      rfl
@[simp] theorem leaveWait_blks (s : State) (u : Hub) (st : LtuState) : (leaveWait s u st).blks = s.blks := by
  rw [leaveWait_eq]
  dsimp only
  repeat' split
  all_goals simp
theorem leaveWait_sameRest (s : State) (u : Hub) (st : LtuState) : SameRest s (leaveWait s u st) := by
  rw [leaveWait_eq]
  dsimp only
  have h := modLtu_sameRest s u fun l => l.leave st s.now
  split
  · exact h.trans (firstLt_sameRest _)
  · split
    · exact h
    · exact h.trans (modLtu_sameRest _ u _)
/-- The counters of the active unit, and of the standby unit beside an active one in WAIT, start from zero, but for a count that is
adopted (R61, R80). -/
theorem leaveWait_counters {s : State} {u : Hub} (st : LtuState) (h : s.activeHub = u ∨ s.ltu.st = .wait) :
    ((leaveWait s u st).ltuOf u).phase = 0 ∧ (s.boot.ready = true ∨ trainedFar s = [] → ((leaveWait s u st).ltuOf u).cycle = 0) := by
  rw [leaveWait_eq]
  dsimp only
  split
  case isTrue =>
    refine ⟨?_, fun hn => ?_⟩
    · obtain ⟨c, b, m, e⟩ := firstLt_ltuOf (s.modLtu u fun l => l.leave st s.now) u
      rw [e, modLtu_ltuOf, if_pos rfl]
      rfl
    · have hb := modLtu_boot s u fun l => l.leave st s.now
      rw [firstLt_cycle (by rwa [trainedFar_of_ports (modLtu_ports s u _) hb, hb]), modLtu_ltuOf, if_pos rfl]
      rfl
  case isFalse na =>
    rw [if_pos (h.resolve_left na), modLtu_ltuOf, if_pos rfl]
    exact ⟨rfl, fun _ => rfl⟩

/-! ## FREE_RUN (R62, R68, R667) -/

/-- A unit at the nominal frequency, with no phase error to remove and no intervals measured. -/
def Ltu.nominal (l : Ltu) : Ltu := { l with base := nomCycle l, corr := 0, ivals := [] }

theorem toFreeRun_synced {s : State} {u : Hub} (h : (s.ltuOf u).st = .locked ∨ (s.ltuOf u).st = .slewing) :
    toFreeRun s u = freeRunEntry (s.modLtu u fun l => { l.nominal with st := .freeRun }) u := by
  unfold toFreeRun
  rcases h with h | h <;> simp only [h] <;> rfl
theorem toFreeRun_wait {s : State} {u : Hub} (h : (s.ltuOf u).st = .wait) :
    toFreeRun s u = freeRunEntry ((leaveWait s u .freeRun).modLtu u Ltu.nominal) u := by
  unfold toFreeRun
  simp only [h]
  rfl
theorem toFreeRun_free {s : State} {u : Hub} (h : (s.ltuOf u).st = .freeRun ∨ (s.ltuOf u).st = .qualify) :
    toFreeRun s u = s.modLtu u fun l => { l.nominal with st := .freeRun } := by
  unfold toFreeRun
  rcases h with h | h <;> simp only [h] <;> rfl

@[simp] theorem freeRunEntry_ltuOf (s : State) (u v : Hub) : (freeRunEntry s u).ltuOf v = s.ltuOf v := by simp [freeRunEntry]
theorem freeRunEntry_sameRest (s : State) (u : Hub) : SameRest s (freeRunEntry s u) :=
  (event_sameRest s _ 0).trans (count_sameRest _ _ _ 1)
/-- An entry to FREE_RUN raises FREE_RUN_ENTER and is counted. -/
theorem freeRunEntry_page {s : State} {u : Hub} (w : mwf {} s.blks = true) (v : mwf 0 (s.blk (ltuPage u)).cnt = true) :
    ((freeRunEntry s u).blk (ltuPage u)).intStat.getLsbD 0 = true ∧
      ((s.blk (ltuPage u)).cntFreeze = false → (freeRunEntry s u).cnt (ltuPage u) 0x090 = s.cnt (ltuPage u) 0x090 + 1) := by
  have hp := ltuPage_offPorts u
  have we := event_wf w (ltuPage u) 0
  have eb := event_blk w 0 hp
  unfold freeRunEntry
  refine ⟨?_, fun hf => ?_⟩
  · rw [count_intStat we]
    exact event_intStat w hp (by decide)
  · rw [State.count_cnt _ _ _ _ we (by rw [eb]; exact v) (by rw [eb]; exact hf), event_cnt w 0 _ hp]
    rfl

/-- LOCKED and SLEWING end in FREE_RUN: the registers of the unit, the event, the counter, and what stays (R68). -/
theorem toFreeRun_synced_frame {s : State} {u : Hub} (w : mwf {} s.blks = true) (v : mwf 0 (s.blk (ltuPage u)).cnt = true)
    (h : (s.ltuOf u).st = .locked ∨ (s.ltuOf u).st = .slewing) :
    let s' := toFreeRun s u
    s'.ltuOf u = { (s.ltuOf u).nominal with st := .freeRun } ∧ (s'.blk (ltuPage u)).intStat.getLsbD 0 = true ∧
      ((s.blk (ltuPage u)).cntFreeze = false → s'.cnt (ltuPage u) 0x090 = s.cnt (ltuPage u) 0x090 + 1) ∧ SameRest s s' := by
  dsimp only
  rw [toFreeRun_synced h]
  obtain ⟨hi, hc⟩ := freeRunEntry_page (s := s.modLtu u fun l => { l.nominal with st := .freeRun }) (u := u) (by simpa using w) (by simpa using v)
  refine ⟨by simp, hi, fun hf => ?_, (modLtu_sameRest s u _).trans (freeRunEntry_sameRest _ u)⟩
  rw [hc (by simpa using hf), modLtu_cnt]

/-- WAIT ends in FREE_RUN (R61, R62). -/
theorem toFreeRun_wait_frame {s : State} {u : Hub} (w : mwf {} s.blks = true) (v : mwf 0 (s.blk (ltuPage u)).cnt = true)
    (h : (s.ltuOf u).st = .wait) :
    let s' := toFreeRun s u
    (s'.ltuOf u).st = .freeRun ∧
      (s.activeHub = u ∨ s.ltu.st = .wait → (s'.ltuOf u).phase = 0 ∧ (s.boot.ready = true ∨ trainedFar s = [] → (s'.ltuOf u).cycle = 0)) ∧
      (s'.ltuOf u).base = nomCycle (s.ltuOf u) ∧ (s'.blk (ltuPage u)).intStat.getLsbD 0 = true ∧
      ((s.blk (ltuPage u)).cntFreeze = false → s'.cnt (ltuPage u) 0x090 = s.cnt (ltuPage u) 0x090 + 1) ∧ SameRest s s' := by
  have kept := leaveWait_kept s u .freeRun
  have hb : ∀ p, (leaveWait s u .freeRun).blk p = s.blk p := fun p => by simp [State.blk]
  dsimp only
  rw [toFreeRun_wait h]
  obtain ⟨hi, hc⟩ := freeRunEntry_page (s := (leaveWait s u .freeRun).modLtu u Ltu.nominal) (u := u) (by simpa using w) (by simpa [hb] using v)
  simp only [freeRunEntry_ltuOf, modLtu_ltuOf, if_true]
  refine ⟨congrArg Ltu.st kept, leaveWait_counters .freeRun, ?_, hi, fun hf => ?_,
    (leaveWait_sameRest s u _).trans ((modLtu_sameRest _ u _).trans (freeRunEntry_sameRest _ u))⟩
  · have hn : ((leaveWait s u .freeRun).ltuOf u).nomFreq = (s.ltuOf u).nomFreq := (congrArg Ltu.nomFreq kept :)
    simp only [Ltu.nominal, nomCycle, hn]
  · rw [hc (by simpa [hb] using hf), modLtu_cnt, State.cnt, hb, State.cnt]

/-- Settles O8: LOCKED and SLEWING by `toFreeRun_synced_frame`, WAIT by `toFreeRun_wait_frame`; a timer that has not expired does nothing. -/
theorem twoSilentCyclesEnterFreeRun : Obligations.TwoSilentCyclesEnterFreeRun := by
  intro s u t hw hc hf
  have atLock : exec (.lockLossFreeRun u t) s = .next (lockTimer (s.toTime t) u) := congrArg Host.Outcome.next (atTime_of_works hw t _)
  have atWait : exec (.waitNoTickFreeRun u t) s = .next (waitTimer (s.toTime t) u) := congrArg Host.Outcome.next (atTime_of_works hw t _)
  refine ⟨fun hst => ⟨fun late => ?_, fun early => ?_⟩, fun hst => ?_⟩
  · have e : lockTimer (s.toTime t) u = toFreeRun (s.toTime t) u := if_pos ⟨hst, by rw [toTime_ltuOf, hf]; rfl, late⟩
    obtain ⟨hl, hi, hn, hm, hk, hs⟩ := toFreeRun_synced_frame (s := s.toTime t) hc.blks (hc.cnt _) hst
    exact ⟨_, atLock.trans (by rw [e]), hl, hi, hn, hm, hk, hs⟩
  · rw [atLock, lockTimer, if_neg fun h => absurd h.2.2 (Nat.not_lt.2 (Nat.le_of_lt early))]
  · split
    case isTrue late =>
      have e : waitTimer (s.toTime t) u = toFreeRun (s.toTime t) u := if_pos ⟨hst, by rw [toTime_ltuOf, hf]; rfl, late⟩
      obtain ⟨hl, hz, hb, hi, hn, hm, hk, hs⟩ := toFreeRun_wait_frame (s := s.toTime t) hc.blks (hc.cnt _) hst
      exact ⟨_, atWait.trans (by rw [e]), hl, hz, hb, hi, hn, hm, hk, hs⟩
    case isFalse early =>
      rw [atWait, waitTimer, if_neg fun h => early h.2.2]

end Sys2Proof.Machine
end

section
/-!
Events of the grid that are due, and the telemetry snapshot (R83, R84).
-/

namespace Sys2Proof.Machine

@[simp] theorem modLtu_due (s : State) (u : Hub) (f : Ltu → Ltu) : (s.modLtu u f).due = s.due := State.modHub_due s u _
@[simp] theorem modGov_ltuOf (s : State) (h : Hub) (f : Gov → Gov) (u : Hub) : (s.modGov h f).ltuOf u = s.ltuOf u := by
  unfold State.ltuOf State.modGov
  rw [State.modHub_hub]
  split
  next e => rw [e]
  next => rfl

/-! ## Events that are next in the order, and events that are not due -/

/-- The event that is next in the order takes place, with none before it. -/
theorem takeEvent_next {s : State} {e : GridEvent} {rest : List GridEvent} (h : s.due = e :: rest) (f : State → State) :
    takeEvent s e f = f { s with due := rest } := by simp [takeEvent, h]
/-- An event that is not due does nothing. -/
theorem takeEvent_not_due {s : State} {e : GridEvent} (h : e ∉ s.due) (f : State → State) : takeEvent s e f = s := if_neg h
theorem whenAlive_takeEvent_not_due {s : State} {e : GridEvent} (h : e ∉ s.due) (f : State → State) :
    s.whenAlive (takeEvent · e f) = s := by
  unfold State.whenAlive
  dsimp only
  rw [takeEvent_not_due h, ite_self]

/-! ## CUT_US (R648) -/

/-- Counting CUT_US keeps what every change of a governor and every count keep. -/
theorem countCutUs_keeps {β : Type} (g : State → β) (hg : ∀ t h f, g (State.modGov t h f) = g t) (hc : ∀ t p off n, g (State.count t p off n) = g t)
    (s : State) (h : Hub) : g (countCutUs s h) = g s := by
  unfold countCutUs
  dsimp only
  split
  · rfl
  · exact (foldl_keeps g _ _ _ fun t k => hc t _ _ _).trans (hg s h _)
@[simp] theorem countCutUs_due (s : State) (h : Hub) : (countCutUs s h).due = s.due :=
  countCutUs_keeps State.due (fun _ _ _ => State.modHub_due ..) (fun _ _ _ _ => rfl) s h
@[simp] theorem countCutUs_ltuOf (s : State) (h : Hub) (u : Hub) : (countCutUs s h).ltuOf u = s.ltuOf u :=
  countCutUs_keeps (State.ltuOf · u) (fun _ _ _ => modGov_ltuOf ..) (fun _ _ _ _ => rfl) s h
theorem countCutUs_sameRest (s : State) (h : Hub) : SameRest s (countCutUs s h) := by
  unfold countCutUs
  dsimp only
  split
  · exact .refl s
  · exact (modHub_sameRest s h _).trans (foldl_sameRest (fun t k => count_sameRest t _ _ _) _ _)
theorem countCutUs_wf {s : State} (w : mwf {} s.blks = true) (h : Hub) : mwf {} (countCutUs s h).blks = true := by
  unfold countCutUs
  dsimp only
  split
  · exact w
  · exact List.foldlRecOn (motive := fun t : State => mwf {} t.blks = true) _ _ (by simpa [State.modGov] using w) fun t wt k _ => count_wf wt _ _ _

/-! ## The snapshot (R84) -/

/-- A page whose counter window is latched. -/
def Latched (s : State) (p : Nat) : Prop := (s.blk p).snap = (s.blk p).cnt ∧ (s.blk p).snapValid = true
/-- The counter window of page p is latched. -/
def State.latch (s : State) (p : Nat) : State := s.modBlk p fun b => { b with snap := b.cnt, snapValid := true }

theorem snapshot_eq (s : State) : snapshot s = allPages.foldl State.latch (countCutUs (countCutUs s 0) 1) := rfl
theorem latched_latch {s : State} (w : mwf {} s.blks = true) (p : Nat) : Latched (s.latch p) p := by
  simp only [Latched, State.latch, State.modBlk_blk s p _ w, and_self]
/-- A page that is latched stays so, whichever page is latched next. -/
theorem Latched.latch {s : State} (w : mwf {} s.blks = true) {p : Nat} (h : Latched s p) (q : Nat) : Latched (s.latch q) p := by
  by_cases e : q = p
  · exact e ▸ latched_latch w q
  · simpa only [Latched, State.latch, State.modBlk_blk_ne s q p _ e] using h
theorem latched_foldl {s : State} (w : mwf {} s.blks = true) {l : List Nat} {p : Nat} (h : p ∈ l ∨ Latched s p) : Latched (l.foldl State.latch s) p := by
  induction l generalizing s with
  | nil => simpa using h
  | cons q l ih =>
    refine ih (modBlk_wf w q _) ?_
    rcases h with h | h
    · rcases List.mem_cons.1 h with rfl | h
      · exact .inr (latched_latch w p)
      · exact .inl h
    · exact .inr (h.latch w q)

theorem latch_sameRest (s : State) (p : Nat) : SameRest s (s.latch p) := ⟨⟨rfl, rfl, rfl⟩, ⟨rfl, rfl, rfl, rfl⟩, rfl, rfl, rfl, rfl⟩
theorem snapshot_sameRest (s : State) : SameRest s (snapshot s) :=
  (countCutUs_sameRest s 0).trans ((countCutUs_sameRest _ 1).trans (foldl_sameRest latch_sameRest _ _))
theorem snapshot_due (s : State) : (snapshot s).due = s.due := by
  rw [snapshot_eq, foldl_keeps State.due State.latch _ _ fun _ _ => rfl, countCutUs_due, countCutUs_due]

/-- Settles O12: the snapshot is next in the order, and latches page after page; a page that is latched stays so. -/
theorem snapshotLatchesEveryWindow : Obligations.SnapshotLatchesEveryWindow := by
  intro s rest hw w hd
  have e : exec .telemetrySnapshot s = .next (snapshot { s with due := rest }) :=
    congrArg Host.Outcome.next ((whenAlive_of_works hw _).trans (takeEvent_next hd _))
  have wc : mwf {} (countCutUs (countCutUs { s with due := rest } 0) 1).blks = true :=
    countCutUs_wf (countCutUs_wf (s := { s with due := rest }) w 0) 1
  obtain ⟨hm, hk, hs⟩ := (setDue_sameRest s rest).trans (snapshot_sameRest _)
  exact ⟨_, e, fun p hp => latched_foldl wc (.inl hp), snapshot_due _, hm, hk, hs⟩

end Sys2Proof.Machine
end

section
/-!
One LT of the line time units (R59–R61, R83).
-/

namespace Sys2Proof.Machine

theorem hub_cases (u : Hub) : u = 0 ∨ u = 1 := by fin_cases u <;> simp

/-- One LT of a unit that begins at moment at0; a unit in WAIT, or one that has failed, stands still. -/
def Ltu.oneLt (l : Ltu) (u : Hub) (at0 : Nat) : Ltu :=
  if l.st = .wait ∨ l.failed = true then l
  else
    let t := (at0 + (2 ^ 24 - 1)) / 2 ^ 24
    { l with
      phase := l.phase + 1, cycle := if l.phase = 0xFFFF then l.cycle + 1 else l.cycle, holdoff := l.holdoff - 1
      silence := if u = 1 ∧ !l.active then l.silence + 1 else 0, corr := corrAfter 1 l.corr
      recent := (t :: l.recent).filter fun x => decide (t ≤ x + 200), lastLt := at0 }

theorem ltUnit_ltuOf (s : State) (u v : Hub) (at0 : Nat) :
    (ltUnit s u at0).ltuOf v = if v = u then (s.ltuOf u).oneLt u at0 else s.ltuOf v := by
  unfold ltUnit Ltu.oneLt
  by_cases h : (s.ltuOf u).st = .wait ∨ (s.ltuOf u).failed = true
  · have hb : ((s.ltuOf u).st = .wait || (s.ltuOf u).failed) = true := by simpa using h
    simp only [hb, h, if_true]
    split
    next e => rw [e]
    next => rfl
  · have hb : ((s.ltuOf u).st = .wait || (s.ltuOf u).failed) = false := by simpa using h
    simp only [hb, h, if_false, Bool.false_eq_true]
    split <;> simp
theorem ltUnit_sameRest (s : State) (u : Hub) (at0 : Nat) : SameRest s (ltUnit s u at0) := by
  unfold ltUnit
  dsimp only
  split
  · exact .refl s
  · split
    · exact (modLtu_sameRest s u _).trans (count_sameRest _ _ _ _)
    · exact modLtu_sameRest s u _

theorem oneLt_st (l : Ltu) (u : Hub) (at0 : Nat) : (l.oneLt u at0).st = l.st := by
  unfold Ltu.oneLt
  split <;> rfl
theorem oneLt_stands {l : Ltu} (h : l.st = .wait ∨ l.failed = true) (u : Hub) (at0 : Nat) :
    (l.oneLt u at0).phase = l.phase ∧ (l.oneLt u at0).cycle = l.cycle := by
  rw [Ltu.oneLt, if_pos h]
  exact ⟨rfl, rfl⟩
theorem oneLt_counters {l : Ltu} (h : ¬ (l.st = .wait ∨ l.failed = true)) (u : Hub) (at0 : Nat) :
    (l.oneLt u at0).phase = l.phase + 1 ∧ (l.oneLt u at0).cycle = if l.phase = 0xFFFF then l.cycle + 1 else l.cycle := by
  rw [Ltu.oneLt, if_neg h]
  exact ⟨rfl, rfl⟩
theorem oneLt_active (l : Ltu) (u : Hub) (at0 : Nat) : (l.oneLt u at0).active = l.active := by
  unfold Ltu.oneLt
  split <;> rfl

@[simp] theorem decay_ltuOf (s : State) (u : Hub) : (decay s).ltuOf u = s.ltuOf u := rfl
theorem decay_sameRest (s : State) : SameRest s (decay s) := ⟨⟨rfl, rfl, rfl⟩, ⟨rfl, rfl, rfl, rfl⟩, rfl, rfl, rfl, rfl⟩
@[simp] theorem govLt_ltuOf (s : State) (h : Hub) (u : Hub) : (govLt s h).ltuOf u = s.ltuOf u := by
  unfold govLt
  dsimp only
  rw [countCutUs_ltuOf]
  split <;> split <;> rfl
theorem govLt_sameRest (s : State) (h : Hub) : SameRest s (govLt s h) := by
  have held (t : State) (n : Nat) : SameRest t (if n = 0 then t else t.count (govPage h) 0x088 n) := by
    split
    · exact .refl t
    · exact count_sameRest ..
  have ballast (t : State) : SameRest t (if (t.hub h).gov.ballast then t.count (govPage h) 0x090 1 else t) := by
    split
    · exact count_sameRest ..
    · exact .refl t
  exact (held s _).trans ((ballast _).trans (countCutUs_sameRest _ h))

/-- What ends the passing of the LT numbered n: the decay of bits, the governors' counters, and the events of the new LT. -/
def closeLt (s : State) (n : Nat) : State :=
  let s := govLt (govLt (decay { s with lts := n }) 0) 1
  { s with due := dueNow s }
@[simp] theorem closeLt_ltuOf (s : State) (n : Nat) (u : Hub) : (closeLt s n).ltuOf u = s.ltuOf u := by
  rw [closeLt, setDue_ltuOf, govLt_ltuOf, govLt_ltuOf, decay_ltuOf]
  rfl
theorem dueNow_setDue (s : State) (l : List GridEvent) : dueNow { s with due := l } = dueNow s := rfl
theorem closeLt_due (s : State) (n : Nat) : (closeLt s n).due = dueNow (closeLt s n) := (dueNow_setDue _ _).symm
theorem closeLt_sameRest (s : State) (n : Nat) : SameRest s (closeLt s n) := by
  have number : SameRest s { s with lts := n } := ⟨⟨rfl, rfl, rfl⟩, ⟨rfl, rfl, rfl, rfl⟩, rfl, rfl, rfl, rfl⟩
  exact number.trans ((decay_sameRest _).trans ((govLt_sameRest _ 0).trans ((govLt_sameRest _ 1).trans (setDue_sameRest _ _))))

/-- An LT that is not due does not pass. -/
theorem passLt_not_due {s : State} (h : ltDue s = false) : passLt s = s := by simp [passLt, h]

/-- Both units after one LT, and what tells the standby unit and the far positions of it. -/
def ltUnits (s : State) : State :=
  let t := sendCopy (ltUnit (ltUnit s 0 (ltEnd s)) 1 (ltEnd s))
  if decide (s.ltu.phase = 0xFFFF) then farAdvance t else t
/-- An LT that is due passes, once nothing is due any more. -/
theorem passLt_due {s : State} (hd : s.due = []) (h : ltDue s = true) : ∃ n, passLt s = closeLt (ltUnits s) n := by
  have e : runDue s = s := by
    unfold runDue
    rw [hd]
    show ({ s with due := [] } : State) = s
    rw [← hd]
  refine ⟨(sendCopy (ltUnit (ltUnit s 0 (ltEnd s)) 1 (ltEnd s))).lts + 1, ?_⟩
  unfold passLt ltUnits
  rw [if_neg (by simp [h]), e]
  rfl

theorem ltUnits_ltuOf (s : State) (u : Hub) : ∃ m, (ltUnits s).ltuOf u = { (s.ltuOf u).oneLt u (ltEnd s) with copies := m } := by
  obtain ⟨m, e⟩ := sendCopy_ltuOf (ltUnit (ltUnit s 0 (ltEnd s)) 1 (ltEnd s)) u
  have both : (ltUnit (ltUnit s 0 (ltEnd s)) 1 (ltEnd s)).ltuOf u = (s.ltuOf u).oneLt u (ltEnd s) := by
    rw [ltUnit_ltuOf, ltUnit_ltuOf, ltUnit_ltuOf]
    fin_cases u <;> rfl
  refine ⟨m, ?_⟩
  rw [← both, ← e, ltUnits]
  split
  · exact farAdvance_ltuOf _ u
  · rfl
theorem ltUnits_sameRest (s : State) : SameRest s (ltUnits s) := by
  have h := (ltUnit_sameRest s 0 (ltEnd s)).trans ((ltUnit_sameRest _ 1 (ltEnd s)).trans (sendCopy_sameRest _))
  rw [ltUnits]
  split
  · exact h.trans (farAdvance_sameRest _)
  · exact h

/-- What an LT that is due does (R59–R61, R83). -/
theorem passLt_frame {s : State} (hd : s.due = []) (h : ltDue s = true) :
    (∀ u, ∃ m, (passLt s).ltuOf u = { (s.ltuOf u).oneLt u (ltEnd s) with copies := m }) ∧
      (passLt s).due = dueNow (passLt s) ∧ SameRest s (passLt s) := by
  obtain ⟨n, e⟩ := passLt_due hd h
  rw [e]
  refine ⟨fun u => ?_, closeLt_due _ n, (ltUnits_sameRest s).trans (closeLt_sameRest _ n)⟩
  rw [closeLt_ltuOf]
  exact ltUnits_ltuOf s u

/-! ## Candidate ticks: what stays on one unit (R56–R58) -/

/-- Whatever happens on line time unit v: the other unit, its page, memory, work and the start stay. -/
structure OnUnit (v : Hub) (s t : State) : Prop where
  others : ∀ u, u ≠ v → t.ltuOf u = s.ltuOf u
  pages  : ∀ u, u ≠ v → t.blk (ltuPage u) = s.blk (ltuPage u)
  wf     : mwf {} s.blks = true → mwf {} t.blks = true
  rest   : SameRest s t

theorem OnUnit.refl (v : Hub) (s : State) : OnUnit v s s := ⟨fun _ _ => rfl, fun _ _ => rfl, id, .refl s⟩
theorem OnUnit.trans {v : Hub} {a b c : State} (h : OnUnit v a b) (k : OnUnit v b c) : OnUnit v a c :=
  ⟨fun u e => (k.others u e).trans (h.others u e), fun u e => (k.pages u e).trans (h.pages u e), fun w => k.wf (h.wf w), h.rest.trans k.rest⟩
theorem OnUnit.ite {v : Hub} {s a b : State} {c : Prop} [Decidable c] (h : OnUnit v s a) (k : OnUnit v s b) : OnUnit v s (if c then a else b) := by
  split
  · exact h
  · exact k
theorem OnUnit.modLtu (v : Hub) (s : State) (f : Ltu → Ltu) : OnUnit v s (s.modLtu v f) where
  others u e := by rw [modLtu_ltuOf, if_neg e]
  pages u _ := modLtu_blk s v f _
  wf w := by simpa using w
  rest := modLtu_sameRest s v f
theorem OnUnit.count (v : Hub) (s : State) (off n : Nat) : OnUnit v s (s.count (ltuPage v) off n) where
  others _ _ := rfl
  pages u e := count_blk_ne s off n (ltuPage_ne v u (Ne.symm e))
  wf w := count_wf w _ _ _
  rest := count_sameRest s _ _ _
theorem OnUnit.event (v : Hub) (s : State) (i : Nat) : OnUnit v s (s.event (ltuPage v) i) where
  others _ _ := event_ltuOf ..
  pages u e := event_blk_ne s i (ltuPage_offPorts u) (ltuPage_ne v u (Ne.symm e))
  wf w := event_wf w _ _
  rest := event_sameRest s _ _

theorem tickReject_onUnit (s : State) (v : Hub) : OnUnit v s (tickReject s v) :=
  (OnUnit.count v s _ _).trans ((OnUnit.event v _ _).trans (OnUnit.modLtu v _ _))
/-- The counts of an accepted candidate: it is counted, and once more where it came as the timer expired (R69). -/
def acceptCounts (s : State) (u : Hub) (race : Bool) : State :=
  if race then (s.count (ltuPage u) 0x080 1).count (ltuPage u) 0x0A8 1 else s.count (ltuPage u) 0x080 1
theorem acceptCounts_onUnit (s : State) (v : Hub) (race : Bool) : OnUnit v s (acceptCounts s v race) := by
  unfold acceptCounts
  split
  · exact (OnUnit.count v s _ _).trans (OnUnit.count v _ _ _)
  · exact OnUnit.count v s _ _
/-- What is measured on a candidate that is accepted at cycle t after n cycles, its edge at phase e (R57, R67, R71). -/
def Ltu.measured (l : Ltu) (e : BitVec 16) (t n : Nat) : Ltu :=
  { l with lastAcc := some t, period := BitVec.ofNat 32 n, phaseErr := e, holdoff := 8192, corr := 256 * phaseSigned e }

/-- A candidate that a locked unit accepts: its counts and what it measures. -/
theorem tickAccept_locked {s : State} {u : Hub} (t n : Nat) (h : (s.ltuOf u).st = .locked) :
    ∃ race, tickAccept s u t n =
      ((acceptCounts s u race).modLtu u fun l => l.measured (edgePhase (s.ltuOf u) t) t n).modLtu u fun l => { l with base := n } := by
  obtain ⟨race, hr⟩ : ∃ race, race = (decide ((s.ltuOf u).st = .locked ∨ (s.ltuOf u).st = .slewing) &&
    decide ((s.ltuOf u).lastAcc.map (· + twoNom (s.ltuOf u)) = some t)) := ⟨_, rfl⟩
  refine ⟨race, ?_⟩
  unfold tickAccept
  dsimp only
  rw [← hr, h]
  rfl
/-- An accepted candidate outside WAIT stays on its unit. -/
theorem tickAccept_onUnit {s : State} {v : Hub} (t n : Nat) (h : (s.ltuOf v).st ≠ .wait) : OnUnit v s (tickAccept s v t n) := by
  have measure (race : Bool) (f : Ltu → Ltu) : OnUnit v s ((acceptCounts s v race).modLtu v f) :=
    (acceptCounts_onUnit s v race).trans (OnUnit.modLtu v _ f)
  unfold tickAccept
  dsimp only
  cases e : (s.ltuOf v).st with
  | wait => exact absurd e h
  | locked => exact (measure _ _).trans (OnUnit.modLtu v _ _)
  | slewing =>
    have based (f g : Ltu → Ltu) (race : Bool) : OnUnit v s (((acceptCounts s v race).modLtu v f).modLtu v g) := (measure race f).trans (OnUnit.modLtu v _ g)
    exact OnUnit.ite ((based _ _ _).trans ((OnUnit.modLtu v _ _).trans ((OnUnit.event v _ _).trans (OnUnit.count v _ _ _)))) (based _ _ _)
  | freeRun => exact (measure _ _).trans (OnUnit.modLtu v _ _)
  | qualify => exact (measure _ _).trans (OnUnit.modLtu v _ _)

/-- A unit that takes a candidate and has one before it: the candidate is the reference from now on. -/
def tickTaken (s : State) (u : Hub) (t : Nat) : State := s.modLtu u fun l => { l with lastCand := some t }
theorem tickTaken_ltuOf (s : State) (u : Hub) (t : Nat) : (tickTaken s u t).ltuOf u = { s.ltuOf u with lastCand := some t } := by simp [tickTaken]

/-- What becomes of a candidate at a unit that looks at it, with one before it at cycle c. -/
theorem tickUnit_eq {s : State} {u : Hub} {c : Nat} (t : Nat) (hd : (s.ltuOf u).dcMode = false) (hf : (s.ltuOf u).failed = false)
    (hc : (s.ltuOf u).lastCand = some c) :
    tickUnit s u t =
      if (s.ltuOf u).st = .locked then
        if ((edgePhase (s.ltuOf u) t).toNat < 0x1000 ∨ 0xF000 ≤ (edgePhase (s.ltuOf u) t).toNat) ∧
            ivalOk (t - (s.ltuOf u).lastAcc.getD 0) ∧ (s.ltuOf u).holdoff = 0 then
          tickAccept (tickTaken s u t) u t (t - (s.ltuOf u).lastAcc.getD 0)
        else tickReject (tickTaken s u t) u
      else if ivalOk (t - c) then tickAccept (tickTaken s u t) u t (t - c) else tickReject (tickTaken s u t) u := by
  unfold tickUnit
  simp only [hd, hf, hc, Bool.or_self, Bool.false_eq_true, if_false]
  rfl
theorem tickUnit_onUnit {s : State} {v : Hub} (t : Nat) (h : (s.ltuOf v).st ≠ .wait) : OnUnit v s (tickUnit s v t) := by
  have taken : OnUnit v s (tickTaken s v t) := OnUnit.modLtu v s _
  have accept (n : Nat) : OnUnit v s (tickAccept (tickTaken s v t) v t n) := taken.trans (tickAccept_onUnit t n (by rwa [tickTaken_ltuOf]))
  have reject : OnUnit v s (tickReject (tickTaken s v t) v) := taken.trans (tickReject_onUnit _ v)
  by_cases hoff : ((s.ltuOf v).dcMode || (s.ltuOf v).failed) = true
  · rw [tickUnit, if_pos hoff]
    exact .refl v s
  · obtain ⟨hd, hf⟩ : (s.ltuOf v).dcMode = false ∧ (s.ltuOf v).failed = false := by simpa using hoff
    cases hc : (s.ltuOf v).lastCand with
    | none =>
      unfold tickUnit
      simp only [hd, hf, hc, Bool.or_self, Bool.false_eq_true, if_false]
      exact taken
    | some c =>
      rw [tickUnit_eq t hd hf hc]
      repeat' split
      · exact accept _
      · exact reject
      · exact accept _
      · exact reject

/-- Both units receive the pulse: what becomes of unit u, while what happens on the other one stays there. -/
theorem tickBoth {s : State} {u : Hub} (t : Nat) (other : (s.ltuOf (1 - u)).st ≠ .wait)
    (own : ∀ a, a.ltuOf u = s.ltuOf u → OnUnit u a (tickUnit a u t)) :
    ∃ a, OnUnit (1 - u) s a ∧ OnUnit (1 - u) (tickUnit a u t) (tickUnit (tickUnit s 0 t) 1 t) := by
  obtain rfl | rfl := hub_cases u
  · exact ⟨s, .refl _ s, tickUnit_onUnit t (by rw [(own s rfl).others (1 - 0) (by decide)]; exact other)⟩
  · exact ⟨tickUnit s 0 t, tickUnit_onUnit t other, .refl _ _⟩

/-! ## A candidate accepted in LOCKED, and one that is rejected -/

theorem acceptCounts_cnt {s : State} {u : Hub} (w : mwf {} s.blks = true) (v : mwf 0 (s.blk (ltuPage u)).cnt = true)
    (hf : (s.blk (ltuPage u)).cntFreeze = false) (race : Bool) :
    (acceptCounts s u race).cnt (ltuPage u) 0x080 = s.cnt (ltuPage u) 0x080 + 1 := by
  have one : (s.count (ltuPage u) 0x080 1).cnt (ltuPage u) 0x080 = s.cnt (ltuPage u) 0x080 + 1 := State.count_cnt _ _ _ _ w v hf
  unfold acceptCounts
  split
  · rw [count_cnt_ne (count_wf w _ _ _) _ _ (by decide), one]
  · exact one
@[simp] theorem acceptCounts_ltuOf (s : State) (u v : Hub) (race : Bool) : (acceptCounts s u race).ltuOf v = s.ltuOf v := by
  unfold acceptCounts
  split <;> rfl

theorem tickUnit_accepted {s : State} {u : Hub} {t c : Nat} (hst : (s.ltuOf u).st = .locked) (hd : (s.ltuOf u).dcMode = false)
    (hf : (s.ltuOf u).failed = false) (hc : (s.ltuOf u).lastCand = some c) (ha : lockedAccepts (s.ltuOf u) t) :
    (tickUnit s u t).ltuOf u = { s.ltuOf u with
        lastCand := some t, lastAcc := some t, period := BitVec.ofNat 32 (t - (s.ltuOf u).lastAcc.getD 0)
        phaseErr := edgePhase (s.ltuOf u) t, holdoff := 8192, corr := 256 * (edgePhase (s.ltuOf u) t).toInt
        base := t - (s.ltuOf u).lastAcc.getD 0 } ∧
      (mwf {} s.blks = true → mwf 0 (s.blk (ltuPage u)).cnt = true → (s.blk (ltuPage u)).cntFreeze = false →
        (tickUnit s u t).cnt (ltuPage u) 0x080 = s.cnt (ltuPage u) 0x080 + 1) := by
  obtain ⟨race, e⟩ := tickAccept_locked (s := tickTaken s u t) (u := u) t (t - (s.ltuOf u).lastAcc.getD 0) (by rwa [tickTaken_ltuOf])
  rw [tickUnit_eq t hd hf hc, if_pos hst, if_pos (show _ ∧ _ ∧ _ from ha), e]
  refine ⟨?_, fun w v fz => ?_⟩
  · simp only [modLtu_ltuOf, acceptCounts_ltuOf, tickTaken_ltuOf, if_true]
    rfl
  · rw [modLtu_cnt, modLtu_cnt, acceptCounts_cnt (by simpa [tickTaken] using w) (by simpa [tickTaken] using v) (by simpa [tickTaken] using fz), tickTaken,
      modLtu_cnt]

theorem tickUnit_rejects {s : State} {u : Hub} {t c : Nat} (hd : (s.ltuOf u).dcMode = false) (hf : (s.ltuOf u).failed = false)
    (hc : (s.ltuOf u).lastCand = some c) (hl : (s.ltuOf u).st = .locked → ¬ lockedAccepts (s.ltuOf u) t)
    (hi : (s.ltuOf u).st ≠ .locked → ivalOk (t - c) = false) : tickUnit s u t = tickReject (tickTaken s u t) u := by
  rw [tickUnit_eq t hd hf hc]
  split
  case isTrue e => exact if_neg (hl e)
  case isFalse e => rw [hi e, if_neg Bool.false_ne_true]
/-- A rejected candidate is counted and raises TICK_REJECT, and ends QUALIFY (R58, R70). -/
theorem tickReject_frame (s : State) (u : Hub) :
    (tickReject s u).ltuOf u = (if (s.ltuOf u).st = .qualify then { s.ltuOf u with st := .freeRun, ivals := [] } else s.ltuOf u) ∧
      (mwf {} s.blks = true → ((tickReject s u).blk (ltuPage u)).intStat.getLsbD 3 = true) ∧
      (mwf {} s.blks = true → mwf 0 (s.blk (ltuPage u)).cnt = true → (s.blk (ltuPage u)).cntFreeze = false →
        (tickReject s u).cnt (ltuPage u) 0x088 = s.cnt (ltuPage u) 0x088 + 1) := by
  unfold tickReject
  refine ⟨by simp, fun w => ?_, fun w v fz => ?_⟩
  · rw [modLtu_blk, event_intStat (count_wf w _ _ _) (ltuPage_offPorts u) (by decide)]
  · rw [modLtu_cnt, event_cnt (count_wf w _ _ _) _ _ (ltuPage_offPorts u), State.count_cnt _ _ _ _ w v fz]
    rfl

/-- Settles O7: an LT by `passLt_frame`, an accepted candidate by `tickUnit_accepted`, a rejected one by `tickReject_frame`; what the pulse
does to the other unit stays there. -/
theorem lineTimeAndTicks : Obligations.LineTimeAndTicks := by
  refine ⟨fun s t hw hd => ⟨fun h => ?_, fun h => ?_⟩, fun s t c u hw hcan hst hdc hother hf hc ha => ?_,
    fun s t c u hw hcan hdc hf hother hc hl hi => ?_⟩
  · exact congrArg Host.Outcome.next ((atTime_of_works hw t _).trans (passLt_not_due h))
  · obtain ⟨hl, hdue, hm, hk, hs⟩ := passLt_frame (s := s.toTime t) hd h
    refine ⟨_, congrArg Host.Outcome.next (atTime_of_works hw t _), fun u => ?_, hdue, hm, hk, hs⟩
    obtain ⟨m, e⟩ := hl u
    rw [e]
    refine ⟨oneLt_st .., oneLt_active .., ?_⟩
    split
    case isTrue stands => exact oneLt_stands stands _ _
    case isFalse runs => exact oneLt_counters runs _ _
  · have own (a : State) (e : a.ltuOf u = (s.toTime t).ltuOf u) : OnUnit u a (tickUnit a u t) :=
      tickUnit_onUnit t (by rw [e, toTime_ltuOf, hst]; decide)
    obtain ⟨a, before, after⟩ := tickBoth (s := s.toTime t) t hother own
    have hu : u ≠ 1 - u := by fin_cases u <;> decide
    have el : a.ltuOf u = s.ltuOf u := before.others u hu
    have eb : a.blk (ltuPage u) = s.blk (ltuPage u) := before.pages u hu
    obtain ⟨hl, hn⟩ := tickUnit_accepted (s := a) (u := u) (t := t) (c := c) (by rw [el, hst]) (by rw [el, hdc]) (by rw [el, hf]) (by rw [el, hc])
      (by rwa [el])
    obtain ⟨hm, hk, hs⟩ := before.rest.trans ((own a el).rest.trans after.rest)
    refine ⟨_, congrArg Host.Outcome.next (atTime_of_works hw t _), ?_, fun fz => ?_, hm, hk, hs⟩
    · rw [after.others u hu, hl, el]
    · have hn := hn (before.wf hcan.blks) (by rw [eb]; exact hcan.cnt _) (by rw [eb, fz])
      rw [State.cnt, after.pages u hu]
      rw [State.cnt] at hn
      rw [hn, State.cnt, State.cnt, eb]
  · have rejected (a : State) (e : a.ltuOf u = s.ltuOf u) : tickUnit a u t = tickReject (tickTaken a u t) u :=
      tickUnit_rejects (c := c) (by rw [e, hdc]) (by rw [e, hf]) (by rw [e, hc]) (by rwa [e]) (by rwa [e])
    have own (a : State) (e : a.ltuOf u = (s.toTime t).ltuOf u) : OnUnit u a (tickUnit a u t) := by
      rw [rejected a e]
      exact (OnUnit.modLtu u a _).trans (tickReject_onUnit _ u)
    obtain ⟨a, before, after⟩ := tickBoth (s := s.toTime t) t hother own
    have hu : u ≠ 1 - u := by fin_cases u <;> decide
    have el : a.ltuOf u = s.ltuOf u := before.others u hu
    have eb : (tickTaken a u t).blk (ltuPage u) = s.blk (ltuPage u) := (modLtu_blk a u _ _).trans (before.pages u hu)
    have wt : mwf {} (tickTaken a u t).blks = true := (OnUnit.modLtu u a _).wf (before.wf hcan.blks)
    rw [rejected a el] at after
    obtain ⟨hl, hb, hn⟩ := tickReject_frame (tickTaken a u t) u
    refine ⟨_, congrArg Host.Outcome.next (atTime_of_works hw t _), ?_, ?_, fun fz => ?_⟩
    · rw [after.others u hu, hl, tickTaken_ltuOf, el]
    · rw [after.pages u hu, hb wt]
    · have hn := hn wt (by rw [eb]; exact hcan.cnt _) (by rw [eb, fz])
      rw [State.cnt, after.pages u hu]
      rw [State.cnt] at hn
      rw [hn, State.cnt, State.cnt, eb]

end Sys2Proof.Machine
end

section
/-!
The standby line time unit and DC_MODE (R56, R72, R76, R77).
-/

namespace Sys2Proof.Machine

/-! ## Prostoza writes a register of a hub die -/

/-- A write of a 4-byte register of a block page of a hub die, whose fields take v where their bits lie. -/
theorem pageAccess_hub_prostoza (s : State) (d : DieId) (hd : d.val < 2) (i o v : Nat) (hi : i < 4096) (ho : o < 4096) (h4 : o % 4 = 0)
    (k : PageKind) (hk : pageAt d.val i = k) (hw : wide (fieldsOf k (o - o % 8)) = false) (hb : 0x100 ≤ o) (hv : v < 2 ^ 32)
    (hf : ∀ f ∈ fieldsOf k o, f.mask &&& (2 ^ 32 - 1) = f.mask) :
    pageAccess s .prostoza (pgKey d.val i) o 4 v =
      blockAct s k 0 (ledCtx s (dieHub d.val) (.self .prostoza)) [] { off := o, v := v &&& fieldsMask (fieldsOf k o), wm := fieldsMask (fieldsOf k o) } := by
  rw [pageAccess_prostoza s d i o v hi ho h4 k hk hw (mustWait_prostoza_hub false hd (regionOf_page s d i o hi ho))]
  simp only [mergeFields_word _ _ _ hf, Nat.mod_eq_of_lt hv, if_neg (Nat.not_lt.2 hb)]

theorem ltuAct_dcMode (s : State) (u : Hub) {w : Wr} (ho : w.off = 0x100) (hw : w.wm ≠ 0) : ltuAct s u w = dcWrite s u (bit w.v 0) := by
  simp [ltuAct, ho, hw]
/-- Prostoza's write of DC_MODE. -/
theorem pageAccess_dcMode (s : State) (u : Hub) (v : Bool) : pageAccess s .prostoza (ltuPage u) 0x100 4 (b2n v) = dcWrite s u v := by
  have hv : b2n v < 2 ^ 32 := by cases v <;> decide
  have hb : bit (b2n v &&& fieldsMask (fieldsOf (.ltu 0) 0x100)) 0 = v := by cases v <;> rfl
  obtain rfl | rfl := hub_cases u
  · refine (pageAccess_hub_prostoza s 0 (by decide) ixLtu 0x100 (b2n v) (by decide) (by decide) rfl (.ltu 0) rfl rfl (by decide) hv (by decide)).trans ?_
    exact (ltuAct_dcMode s 0 rfl (show fieldsMask (fieldsOf (.ltu 0) 0x100) ≠ 0 by decide)).trans (congrArg _ hb)
  · refine (pageAccess_hub_prostoza s 1 (by decide) ixLtu 0x100 (b2n v) (by decide) (by decide) rfl (.ltu 1) rfl rfl (by decide) hv (by decide)).trans ?_
    exact (ltuAct_dcMode s 1 rfl (show fieldsMask (fieldsOf (.ltu 1) 0x100) ≠ 0 by decide)).trans (congrArg _ hb)

/-! ## The standby unit (R76, R77) -/

/-- What H1 takes from a copy message that has been on its way for n LT. -/
def Ltu.follow (l : Ltu) (m : LtuCopy) (n lastLt : Nat) : Ltu :=
  let v := m.phase.toNat + 65536 * m.cycle.toNat + n
  { l with
    phase := BitVec.ofNat 16 v, cycle := BitVec.ofNat 48 (v / 65536), st := m.st, base := m.base, corr := corrAfter n m.corr
    lastLt := lastLt, silence := 0 }
theorem ltuNow_follow (l : Ltu) (m : LtuCopy) (n lastLt : Nat) :
    ltuNow (l.follow m n lastLt) = (m.phase.toNat + 65536 * m.cycle.toNat + n) % 2 ^ 64 := by
  simp only [ltuNow, Ltu.follow, BitVec.toNat_ofNat]
  omega
/-- Messages that have been on their way for n LT or longer are over. -/
def Ltu.dropCopies (l : Ltu) (p : BitVec 16) (n : Nat) : Ltu := { l with copies := l.copies.filter fun x => decide ((p - x.phase).toNat < n) }

theorem copyMessage_some {s : State} {n : Nat} {m : LtuCopy} (ha : s.hub1.ltu.active = false) (h1 : s.hub1.ltu.failed = false)
    (h0 : s.hub0.ltu.failed = false) (hm : s.hub0.ltu.copies.find? (fun m => decide ((s.hub0.ltu.phase - m.phase).toNat = n)) = some m) :
    copyMessage s n = (s.modLtu 0 (Ltu.dropCopies · s.hub0.ltu.phase n)).modLtu 1 (Ltu.follow · m n s.hub0.ltu.lastLt) := by
  unfold copyMessage
  simp only [ha, h1, h0, hm, Bool.or_self, Bool.false_eq_true, if_false]
  rfl
theorem copyMessage_none {s : State} {n : Nat} (hm : s.hub0.ltu.copies.find? (fun m => decide ((s.hub0.ltu.phase - m.phase).toNat = n)) = none) :
    copyMessage s n = s := by
  unfold copyMessage
  simp only [hm, ite_self]

/-- H1 becomes the active unit and goes on from its own counters. -/
theorem takeover_frame {s : State} (ha : s.hub1.ltu.active = false) (hf : s.hub1.ltu.failed = false) :
    (takeover s).hub1.ltu = { s.hub1.ltu with active := true, silence := 0 } ∧ (takeover s).hub0.ltu = { s.hub0.ltu with active := false } ∧
      SameRest s (takeover s) := by
  have e : takeover s = ((s.modLtu 0 fun l => { l with active := false }).modLtu 1 fun l => { l with active := true, silence := 0 }).event (ltuPage 1) 2 := by
    unfold takeover
    simp only [ha, hf, Bool.false_eq_true, or_self, if_false]
  rw [e, ← ltuOf_one, ← ltuOf_zero, event_ltuOf, event_ltuOf]
  exact ⟨rfl, rfl, (modLtu_sameRest s 0 _).trans ((modLtu_sameRest _ 1 _).trans (event_sameRest _ _ _))⟩

/-- No dump is due: the fatal stop has not begun, or not come to its end, or the dump is written. -/
theorem fatalEnd_none {s : State} (h : s.mgt.fatal = true → s.doff.done = false ∨ s.mgt.dumped = true) : fatalEnd s = s := by
  refine if_neg ?_
  simp only [Bool.and_eq_true, Bool.not_eq_true', not_and, Bool.not_eq_false]
  intro ⟨hf, hd⟩
  exact (h hf).resolve_left (by simp [hd])
/-- What keeps the start keeps a dump away. -/
theorem fatalEnd_of_sameRest {s t : State} (r : SameRest s t) (h : s.mgt.fatal = true → s.doff.done = false ∨ s.mgt.dumped = true) :
    fatalEnd t = t := by
  obtain ⟨-, -, -, -, hdoff, hmgt⟩ := r
  exact fatalEnd_none (by rwa [hdoff, hmgt])

theorem ltuError_zero {s : State} (hf : s.hub1.ltu.failed = false) : ltuError s 0 = takeover (s.modLtu 0 fun l => { l with failed := true }) := by
  have e : (s.modLtu 0 fun l => { l with failed := true }).hub1.ltu.failed = false := hf
  unfold ltuError
  simp only [e, Bool.and_false, Bool.false_eq_true, if_false, if_true]
theorem ltuError_one {s : State} (hf : s.hub0.ltu.failed = false) : ltuError s 1 = s.modLtu 1 fun l => { l with failed := true } := by
  have e : (s.modLtu 1 fun l => { l with failed := true }).hub0.ltu.failed = false := hf
  unfold ltuError
  simp only [e, Bool.false_and, Bool.false_eq_true, if_false]
  rfl

/-! ## DC_MODE (R56, R72) -/

/-- Whatever state a unit leaves for FREE_RUN, it takes its new state and keeps DC_MODE; outside WAIT its counters are continuous. -/
theorem toFreeRun_frame (s : State) (u : Hub) :
    ((toFreeRun s u).ltuOf u).st = .freeRun ∧ ((toFreeRun s u).ltuOf u).dcMode = (s.ltuOf u).dcMode ∧
      ((s.ltuOf u).st ≠ .wait →
        ((toFreeRun s u).ltuOf u).phase = (s.ltuOf u).phase ∧ ((toFreeRun s u).ltuOf u).cycle = (s.ltuOf u).cycle) ∧
      SameRest s (toFreeRun s u) := by
  have synced (h : (s.ltuOf u).st = .locked ∨ (s.ltuOf u).st = .slewing) :
      (toFreeRun s u).ltuOf u = { (s.ltuOf u).nominal with st := .freeRun } ∧ SameRest s (toFreeRun s u) := by
    rw [toFreeRun_synced h]
    exact ⟨by simp, (modLtu_sameRest s u _).trans (freeRunEntry_sameRest _ u)⟩
  have free (h : (s.ltuOf u).st = .freeRun ∨ (s.ltuOf u).st = .qualify) :
      (toFreeRun s u).ltuOf u = { (s.ltuOf u).nominal with st := .freeRun } ∧ SameRest s (toFreeRun s u) := by
    rw [toFreeRun_free h]
    exact ⟨by simp, modLtu_sameRest s u _⟩
  have running (h : (toFreeRun s u).ltuOf u = { (s.ltuOf u).nominal with st := .freeRun } ∧ SameRest s (toFreeRun s u)) :
      ((toFreeRun s u).ltuOf u).st = .freeRun ∧ ((toFreeRun s u).ltuOf u).dcMode = (s.ltuOf u).dcMode ∧
        ((s.ltuOf u).st ≠ .wait →
          ((toFreeRun s u).ltuOf u).phase = (s.ltuOf u).phase ∧ ((toFreeRun s u).ltuOf u).cycle = (s.ltuOf u).cycle) ∧
        SameRest s (toFreeRun s u) := by
    obtain ⟨hl, hr⟩ := h
    rw [hl]
    exact ⟨rfl, rfl, fun _ => ⟨rfl, rfl⟩, hr⟩
  cases e : (s.ltuOf u).st with
  | locked => exact e ▸ running (synced (.inl e))
  | slewing => exact e ▸ running (synced (.inr e))
  | freeRun => exact e ▸ running (free (.inl e))
  | qualify => exact e ▸ running (free (.inr e))
  | wait =>
    have kept := leaveWait_kept s u .freeRun
    rw [toFreeRun_wait e, freeRunEntry_ltuOf, modLtu_ltuOf, if_pos rfl]
    exact ⟨(congrArg Ltu.st kept :), (congrArg Ltu.dcMode kept :), fun n => absurd rfl n,
      (leaveWait_sameRest s u _).trans ((modLtu_sameRest _ u _).trans (freeRunEntry_sameRest _ u))⟩

/-- DC_MODE is set: the unit runs free (R72). -/
theorem dcWrite_true (s : State) (u : Hub) :
    ((dcWrite s u true).ltuOf u).dcMode = true ∧ ((dcWrite s u true).ltuOf u).st = .freeRun ∧
      ((s.ltuOf u).st ≠ .wait →
        ((dcWrite s u true).ltuOf u).phase = (s.ltuOf u).phase ∧ ((dcWrite s u true).ltuOf u).cycle = (s.ltuOf u).cycle) ∧
      SameRest s (dcWrite s u true) := by
  obtain ⟨t, ht⟩ : ∃ t, t = s.modLtu u fun l => { l with dcMode := true } := ⟨_, rfl⟩
  have hl : t.ltuOf u = { s.ltuOf u with dcMode := true } := by rw [ht, modLtu_ltuOf, if_pos rfl]
  have hr : SameRest s t := ht ▸ modLtu_sameRest s u _
  have e : dcWrite s u true = if (t.ltuOf u).st ≠ .freeRun then toFreeRun t u else t := by simp [dcWrite, ht]
  rw [e]
  by_cases h : (s.ltuOf u).st = .freeRun
  · rw [if_neg (by rw [hl]; exact fun n => n h), hl]
    exact ⟨rfl, h, fun _ => ⟨rfl, rfl⟩, hr⟩
  · obtain ⟨hst, hdc, hcnt, hk⟩ := toFreeRun_frame t u
    rw [hl] at hdc hcnt
    rw [if_pos (by rw [hl]; exact h)]
    exact ⟨hdc, hst, hcnt, hr.trans hk⟩
theorem dcWrite_false (s : State) (u : Hub) : dcWrite s u false = s.modLtu u fun l => { l with dcMode := false, lastCand := none } := by
  simp [dcWrite]

/-- Settles O9: H1 follows by `copyMessage_some` and takes over by `takeover_frame`; DC_MODE by `dcWrite_true` and `dcWrite_false`. -/
theorem standbyUnitAndDcMode : Obligations.StandbyUnitAndDcMode := by
  refine ⟨fun s hw ha h1 h0 => ⟨fun n => ⟨fun m hm => ?_, fun hm => ?_⟩, fun late => ?_, fun early => ?_, fun hd => ?_, fun hd => ?_⟩,
    fun s u hw => ⟨?_, ?_⟩⟩
  · have e : exec (.ltuCopyMessage n) s = .next (copyMessage s n) := congrArg Host.Outcome.next (whenAlive_of_works hw _)
    rw [copyMessage_some ha h1 h0 hm] at e
    obtain ⟨hmem, hwork, hstart⟩ := (modLtu_sameRest s 0 (Ltu.dropCopies · s.hub0.ltu.phase n)).trans
      (modLtu_sameRest _ 1 (Ltu.follow · m n s.hub0.ltu.lastLt))
    exact ⟨_, e, ltuNow_follow _ m n _, rfl, rfl, rfl, rfl, ⟨_, rfl⟩, hmem, hwork, hstart⟩
  · exact congrArg Host.Outcome.next ((whenAlive_of_works hw _).trans (copyMessage_none hm))
  · obtain ⟨hl1, hl0, hm, hk, hs⟩ := takeover_frame ha h1
    exact ⟨_, congrArg Host.Outcome.next ((whenAlive_of_works hw _).trans (if_pos late)), hl1, hl0, hm, hk, hs⟩
  · exact congrArg Host.Outcome.next ((whenAlive_of_works hw _).trans (if_neg (Nat.not_le.2 early)))
  · have e : exec (.ltuInternalError 0) s = .next (fatalEnd (ltuError s 0)) := congrArg Host.Outcome.next (whenAlive_of_works hw _)
    obtain ⟨hl1, hl0, hr⟩ := takeover_frame (s := s.modLtu 0 fun l => { l with failed := true }) ha h1
    have r := (modLtu_sameRest s 0 _).trans hr
    rw [ltuError_zero h1, fatalEnd_of_sameRest r hd] at e
    obtain ⟨hm, hk, hs⟩ := r
    exact ⟨_, e, hl1, hl0, hm, hk, hs⟩
  · have e : exec (.ltuInternalError 1) s = .next (fatalEnd (ltuError s 1)) := congrArg Host.Outcome.next (whenAlive_of_works hw _)
    rw [ltuError_one h0, fatalEnd_of_sameRest (modLtu_sameRest s 1 _) hd] at e
    exact ⟨_, e, rfl, rfl⟩
  · have e : exec (.dcModeWrite .prostoza u true) s = .next (dcWrite s u true) :=
      congrArg Host.Outcome.next ((whenAlive_of_works hw _).trans (pageAccess_dcMode s u true))
    obtain ⟨hdc, hst, hcnt, hm, hk, hs⟩ := dcWrite_true s u
    exact ⟨_, e, hdc, hst, hcnt, hm, hk, hs⟩
  · have e : exec (.dcModeWrite .prostoza u false) s = .next (dcWrite s u false) :=
      congrArg Host.Outcome.next ((whenAlive_of_works hw _).trans (pageAccess_dcMode s u false))
    rw [dcWrite_false] at e
    obtain ⟨hm, hk, hs⟩ := modLtu_sameRest s u fun l => { l with dcMode := false, lastCand := none }
    exact ⟨_, e, by rw [modLtu_ltuOf, if_pos rfl], hm, hk, hs⟩

end Sys2Proof.Machine
end

section
/-!
The governor's gate, and the events of the grid that use it (R86–R99, R492–R494).
-/

namespace Sys2Proof.Machine

/-! ## What the gate leaves as it is (R89–R92) -/

/-- A hub die but for reduced clocks and the command that runs with them. -/
def HubSt.gated (x : HubSt) : HubSt := { x with gov := { x.gov with slowed := false, slowCmd := none } }
/-- The state but for what the gate changes: the queues, page counters, reduced clocks. -/
def State.gated (s : State) : State := { s with hub0 := s.hub0.gated, hub1 := s.hub1.gated, queues := [], blks := [] }

theorem gated_hub (s : State) (h : Hub) : s.gated.hub h = (s.hub h).gated := by
  unfold State.hub
  split <;> rfl
theorem hub_gated {s t : State} (e : t.gated = s.gated) (h : Hub) : (t.hub h).gated = (s.hub h).gated := by
  rw [← gated_hub, ← gated_hub, e]
theorem sameMemory_of_gated {s t : State} (e : t.gated = s.gated) : SameMemory s t :=
  ⟨(congrArg State.mem e :), (congrArg State.caches e :), (congrArg State.poison e :)⟩
theorem sameStart_of_gated {s t : State} (e : t.gated = s.gated) : SameStart s t :=
  ⟨(congrArg State.boot e :), (congrArg State.pins e :), (congrArg State.doff e :), (congrArg State.mgt e :)⟩
theorem due_of_gated {s t : State} (e : t.gated = s.gated) : t.due = s.due := (congrArg State.due e :)
theorem cores_of_gated {s t : State} (e : t.gated = s.gated) : t.cores = s.cores := (congrArg State.cores e :)
theorem creels_of_gated {s t : State} (e : t.gated = s.gated) : t.creels = s.creels := (congrArg State.creels e :)
theorem qos_of_gated {s t : State} (e : t.gated = s.gated) (h : Hub) : (t.hub h).qos = (s.hub h).qos := (congrArg HubSt.qos (hub_gated e h) :)

theorem modHub_gated (s : State) (h : Hub) {f : HubSt → HubSt} (hf : ∀ x, (f x).gated = x.gated) : (s.modHub h f).gated = s.gated := by
  unfold State.modHub State.setHub State.hub
  split <;> simp [State.gated, hf]
@[simp] theorem putCmd_gated (s : State) (q : QIdx) (c : Cmd) : (putCmd s q c).gated = s.gated := rfl
@[simp] theorem count_gated (s : State) (p off n : Nat) : (s.count p off n).gated = s.gated := rfl
@[simp] theorem putThrottled_gated (s : State) (q : QIdx) (c : Cmd) : (putThrottled s q c).gated = s.gated := by
  unfold putThrottled
  split <;> rfl
@[simp] theorem hold_gated (s : State) (q : QIdx) (c : Cmd) : (hold s q c).gated = s.gated := by
  unfold hold
  split
  · rfl
  · exact putThrottled_gated ..
@[simp] theorem slowClocks_gated (s : State) (h : Hub) : (slowClocks s h).gated = s.gated := by
  unfold slowClocks
  split
  · rfl
  · refine (foldl_keeps State.gated _ _ _ fun t p => ?_).trans (modHub_gated s h fun _ => rfl)
    split
    · exact putThrottled_gated ..
    · rfl
@[simp] theorem runOversize_gated (s : State) (h : Hub) (q : QIdx) (c : Cmd) : (runOversize s h q c).gated = s.gated := by
  unfold runOversize
  split
  · rfl
  · exact (slowClocks_gated _ h).trans (modHub_gated s h fun _ => rfl)
@[simp] theorem dispatch_gated (s : State) (h : Hub) (q : QIdx) (c : Cmd) : (dispatch s h q c).gated = s.gated := runOversize_gated ..
@[simp] theorem dispatchHeld_gated (s : State) (h : Hub) : (dispatchHeld s h).gated = s.gated := by
  refine foldl_keeps (fun a : State × List Nat => a.1.gated) _ _ _ fun a p => ?_
  split
  · exact dispatch_gated ..
  · rfl
@[simp] theorem refreshReady_gated (s : State) (q : QIdx) : (refreshReady s q).gated = s.gated := by
  unfold refreshReady
  split
  · split
    · rfl
    · split
      · split <;> rfl
      · rfl
      · rfl
  · rfl
@[simp] theorem qosStalls_gated (s : State) (e : Nat) : (qosStalls s e).gated = s.gated := by
  refine foldl_keeps State.gated _ _ _ fun t p => ?_
  dsimp only
  repeat' split
  all_goals rfl
@[simp] theorem gateReady_gated (s : State) (q : QIdx) : (gateReady s q).gated = s.gated := by
  unfold gateReady
  dsimp only
  rw [qosStalls_gated]
  split
  · split
    · rw [hold_gated, refreshReady_gated]
    · exact refreshReady_gated s q
  · exact refreshReady_gated s q

/-! ## The governor update (R86–R88, R93, R98, R99) -/

@[simp] theorem modGov_hub (s : State) (h : Hub) (f : Gov → Gov) : ((s.modGov h f).hub h).gov = f (s.hub h).gov := by
  rw [State.modGov, State.modHub_hub, if_pos rfl]
@[simp] theorem modGov_queues (s : State) (h : Hub) (f : Gov → Gov) : (s.modGov h f).queues = s.queues := State.modHub_queues s h _
@[simp] theorem modGov_due (s : State) (h : Hub) (f : Gov → Gov) : (s.modGov h f).due = s.due := State.modHub_due s h _
theorem modGov_sameRest (s : State) (h : Hub) (f : Gov → Gov) : SameRest s (s.modGov h f) := modHub_sameRest s h _

/-- Running power depends on the queues and the background power. -/
theorem runningPower_congr {s t : State} {h : Hub} (hq : t.queues = s.queues) (hb : (t.hub h).gov.bg = (s.hub h).gov.bg) :
    runningPower t h = runningPower s h := by
  simp only [runningPower, hubCmds, hq, hb]
theorem demand_congr {s t : State} {h : Hub} (hq : t.queues = s.queues) (hb : (t.hub h).gov.bg = (s.hub h).gov.bg) : demand t h = demand s h := by
  simp only [demand, runningPower_congr hq hb, heldCmds, hubCmds, hq]

/-- Where ballast was off, it runs on exactly where FALL_EN is 1, no cut is in effect and running work lies low. -/
theorem govBallast_of_off {s : State} {h : Hub} (hb : (s.hub h).gov.ballast = false) :
    ((govBallast s h).hub h).gov = { (s.hub h).gov with
      ballast := (s.hub h).gov.fallEn && !(s.hub h).gov.cutActive && decide (runningPower s h < (s.hub h).gov.target - hankStep (s.hub h).gov) } := by
  unfold govBallast
  simp only [hb, Bool.false_or]
  split
  next e => rw [e, ← hb]
  next => rw [modGov_hub]
theorem govBallast_queues (s : State) (h : Hub) : (govBallast s h).queues = s.queues := by
  unfold govBallast
  dsimp only
  split
  · rfl
  · exact modGov_queues ..
theorem govBallast_due (s : State) (h : Hub) : (govBallast s h).due = s.due := by
  unfold govBallast
  dsimp only
  split
  · rfl
  · exact modGov_due ..
theorem govBallast_sameRest (s : State) (h : Hub) : SameRest s (govBallast s h) := by
  unfold govBallast
  dsimp only
  split
  · exact .refl s
  · exact modGov_sameRest s h _
/-- The same, said of the state after it. -/
theorem govBallast_ballast {s : State} {h : Hub} (hb : (s.hub h).gov.ballast = false) :
    let g := ((govBallast s h).hub h).gov
    g.ballast = (g.fallEn && !g.cutActive && decide (runningPower (govBallast s h) h < g.target - hankStep g)) := by
  have e := govBallast_of_off hb
  have hr : runningPower (govBallast s h) h = runningPower s h := runningPower_congr (govBallast_queues s h) (by rw [e])
  dsimp only
  rw [hr, e]
  rfl

/-- The governor's registers as an update finds them: the new background power and step, and a cut that no source asserts ended. -/
def Gov.updated (g : Gov) (bg : Nat) : Gov :=
  { g with bg := bg, ballast := false, fcStep := g.fcNext.getD g.fcStep, fcNext := none, cutActive := g.cutActive && cutAsserted g }

/-- The target rises by no more than the hank step (R88). -/
theorem nextTarget_le (g : Gov) (d : Nat) : min (ceiling g) (nextTarget g d) ≤ g.target + hankStep g := by
  unfold nextTarget
  dsimp only
  split
  · omega
  · split <;> omega

/-- What stays through an update's own changes: memory, work, start, and what is due. -/
def SameDue (s t : State) : Prop := SameRest s t ∧ t.due = s.due ∧ t.queues = s.queues
theorem SameDue.trans {s t u : State} (h : SameDue s t) (k : SameDue t u) : SameDue s u :=
  ⟨h.1.trans k.1, k.2.1.trans h.2.1, k.2.2.trans h.2.2⟩
theorem sameDue_modGov (s : State) (h : Hub) (f : Gov → Gov) : SameDue s (s.modGov h f) := ⟨modGov_sameRest s h f, modGov_due s h f, modGov_queues s h f⟩
theorem sameDue_event (s : State) (p i : Nat) : SameDue s (s.event p i) :=
  ⟨event_sameRest s p i, (event_notices s p i).due, (event_notices s p i).queues⟩
theorem sameDue_count (s : State) (p off n : Nat) : SameDue s (s.count p off n) := ⟨count_sameRest s p off n, rfl, rfl⟩

/-- The update's registers: the background power and the step that GOV_SET_STEP set; ballast ends with the half-cycle. -/
def updateStep (s : State) (h : Hub) (bg : Nat) : State :=
  let fc := (s.hub h).gov.fcNext
  let t := s.modGov h fun g => { g with bg := bg, ballast := false, fcStep := g.fcNext.getD g.fcStep, fcNext := none }
  if fc.isSome && decide (fc ≠ some (s.hub h).gov.fcStep) then t.event (govPage h) 2 else t
/-- A cut that no source asserts any more ends (R99). -/
def endCut (s : State) (h : Hub) : State :=
  let g := (s.hub h).gov
  if g.cutActive && !cutAsserted g then (s.modGov h fun g => { g with cutActive := false }).event (govPage h) 1 else s
/-- An update whose demand exceeds the target is counted. -/
def countRise (s : State) (h : Hub) : State := if (s.hub h).gov.target < demand s h then s.count (govPage h) 0x0A0 1 else s

/-- What an update does before the new target. -/
def updateBase (s : State) (h : Hub) (bg : Nat) : State := countRise (endCut (updateStep s h bg) h) h

theorem event_gov (s : State) (p i : Nat) (h : Hub) : ((s.event p i).hub h).gov = (s.hub h).gov := congrArg HubSt.gov ((event_notices s p i).hub h)
theorem updateStep_frame (s : State) (h : Hub) (bg : Nat) :
    SameDue s (updateStep s h bg) ∧ ((updateStep s h bg).hub h).gov =
      { (s.hub h).gov with bg := bg, ballast := false, fcStep := (s.hub h).gov.fcNext.getD (s.hub h).gov.fcStep, fcNext := none } := by
  unfold updateStep
  dsimp only
  split
  · exact ⟨(sameDue_modGov s h _).trans (sameDue_event ..), by rw [event_gov, modGov_hub]⟩
  · exact ⟨sameDue_modGov s h _, modGov_hub s h _⟩
theorem endCut_frame (s : State) (h : Hub) :
    SameDue s (endCut s h) ∧
      ((endCut s h).hub h).gov = { (s.hub h).gov with cutActive := (s.hub h).gov.cutActive && cutAsserted (s.hub h).gov } := by
  unfold endCut
  dsimp only
  split
  next e =>
    obtain ⟨ha, hn⟩ : (s.hub h).gov.cutActive = true ∧ cutAsserted (s.hub h).gov = false := by simpa using e
    exact ⟨(sameDue_modGov s h _).trans (sameDue_event ..), by rw [event_gov, modGov_hub, hn, Bool.and_false]⟩
  next e =>
    have hc : ((s.hub h).gov.cutActive && cutAsserted (s.hub h).gov) = (s.hub h).gov.cutActive := by
      cases ha : (s.hub h).gov.cutActive <;> simp_all
    exact ⟨⟨.refl s, rfl, rfl⟩, by rw [hc]⟩
theorem countRise_frame (s : State) (h : Hub) : SameDue s (countRise s h) ∧ ∀ k, (countRise s h).hub k = s.hub k := by
  unfold countRise
  split
  · exact ⟨sameDue_count .., fun _ => rfl⟩
  · exact ⟨⟨.refl s, rfl, rfl⟩, fun _ => rfl⟩

theorem updateBase_frame (s : State) (h : Hub) (bg : Nat) :
    SameDue s (updateBase s h bg) ∧ ((updateBase s h bg).hub h).gov = (s.hub h).gov.updated bg ∧
      demand (endCut (updateStep s h bg) h) h = demand (s.modGov h fun g => { g with bg := bg }) h := by
  obtain ⟨r1, g1⟩ := updateStep_frame s h bg
  obtain ⟨r2, g2⟩ := endCut_frame (updateStep s h bg) h
  obtain ⟨r3, g3⟩ := countRise_frame (endCut (updateStep s h bg) h) h
  have g : ((endCut (updateStep s h bg) h).hub h).gov = (s.hub h).gov.updated bg := by
    rw [g2, g1]
    rfl
  refine ⟨r1.trans (r2.trans r3), by rw [updateBase, g3, g], ?_⟩
  exact demand_congr ((r1.trans r2).2.2.trans (modGov_queues s h _).symm) (by rw [g, modGov_hub]; rfl)
/-- An update by its parts: the registers, the new target, then what waits is dispatched. -/
theorem govUpdate_eq (s : State) (h : Hub) (bg : Nat) :
    ∃ u m, govUpdate s h bg = govBallast (dispatchHeld u h) h ∧ SameDue s u ∧
      (u.hub h).gov = { (s.hub h).gov.updated bg with
        upd := m, target := min (ceiling ((s.hub h).gov.updated bg))
          (nextTarget ((s.hub h).gov.updated bg) (demand (s.modGov h fun g => { g with bg := bg }) h)) } := by
  obtain ⟨r, g, hd⟩ := updateBase_frame s h bg
  refine ⟨(updateBase s h bg).modGov h fun g =>
    { g with upd := some ((updateBase s h bg).lts, g.target, demand (endCut (updateStep s h bg) h) h)
             target := min (ceiling g) (nextTarget g (demand (endCut (updateStep s h bg) h) h)) },
    some ((updateBase s h bg).lts, ((s.hub h).gov.updated bg).target, demand (endCut (updateStep s h bg) h) h), rfl,
    r.trans (sameDue_modGov _ h _), ?_⟩
  rw [modGov_hub, g, hd]

/-- What the dispatch of held commands and ballast leave of a governor's registers. -/
theorem gov_of_gated {s t : State} (e : t.gated = s.gated) (h : Hub) :
    { (t.hub h).gov with slowed := false, slowCmd := none } = { (s.hub h).gov with slowed := false, slowCmd := none } :=
  (congrArg HubSt.gov (hub_gated e h) :)

theorem govUpdate_frame (s : State) (h : Hub) (bg : Nat) :
    let g := (s.hub h).gov
    let g' := ((govUpdate s h bg).hub h).gov
    g'.target = min (ceiling (g.updated bg)) (nextTarget (g.updated bg) (demand (s.modGov h fun g => { g with bg := bg }) h)) ∧
      g'.cutActive = (g.cutActive && cutAsserted g) ∧
      g'.ballast = (g'.fallEn && !g'.cutActive && decide (runningPower (govUpdate s h bg) h < g'.target - hankStep g')) ∧
      (govUpdate s h bg).due = s.due ∧ SameMemory s (govUpdate s h bg) ∧ SameStart s (govUpdate s h bg) ∧
      (govUpdate s h bg).cores = s.cores ∧ (govUpdate s h bg).creels = s.creels := by
  obtain ⟨u, m, e, ⟨hr, hdue, -⟩, hg⟩ := govUpdate_eq s h bg
  obtain ⟨hmem, ⟨-, hcores, hcreels, -⟩, hstart⟩ := hr
  have gated := dispatchHeld_gated u h
  have gov := gov_of_gated gated h
  have off : ((dispatchHeld u h).hub h).gov.ballast = false := (congrArg Gov.ballast gov :).trans (by rw [hg]; rfl)
  have target : ((dispatchHeld u h).hub h).gov.target = (u.hub h).gov.target := (congrArg Gov.target gov :)
  have cut : ((dispatchHeld u h).hub h).gov.cutActive = (u.hub h).gov.cutActive := (congrArg Gov.cutActive gov :)
  obtain ⟨bmem, ⟨-, bcores, bcreels, -⟩, bstart⟩ := govBallast_sameRest (dispatchHeld u h) h
  have gm := sameMemory_of_gated gated
  have gs := sameStart_of_gated gated
  dsimp only
  rw [e]
  refine ⟨?_, ?_, govBallast_ballast off, ?_, ?_, ?_, ?_, ?_⟩
  · rw [govBallast_of_off off, target, hg]
  · rw [govBallast_of_off off, cut, hg]
    rfl
  · rw [govBallast_due, due_of_gated gated, hdue]
  · exact hmem.trans (gm.trans bmem)
  · exact hstart.trans (gs.trans bstart)
  · rw [bcores, cores_of_gated gated, hcores]
  · rw [bcreels, creels_of_gated gated, hcreels]

/-! ## The clock and voltage change (R95) -/

/-- Reduced clocks end for the running commands of a hank. -/
def endSlow (s : State) (p : QIdx × Cmd) : State :=
  match p.2.stallNow with
  | some (k, _) => if k = cThrottleLine ∧ p.2.phase = .running then putCmd s p.1 (p.2.endStall s.now) else s
  | none => s
theorem endSlow_keeps {β : Type} (g : State → β) (hg : ∀ t q c, g (putCmd t q c) = g t) (s : State) (p : QIdx × Cmd) : g (endSlow s p) = g s := by
  unfold endSlow
  split
  · split
    · exact hg ..
    · rfl
  · rfl

theorem countCutUs_gov (s : State) (h : Hub) : ∃ n, ((countCutUs s h).hub h).gov = { (s.hub h).gov with cutUs := n } := by
  unfold countCutUs
  dsimp only
  split
  · exact ⟨_, rfl⟩
  · refine ⟨(s.now - (s.hub h).gov.cutSince) / 100, (foldl_keeps (fun t : State => (t.hub h).gov) _ _ _ fun t k => ?_).trans (modGov_hub s h _)⟩
    rfl

/-- Reduced clocks are restored where no cut is in effect and no command runs under R91. -/
theorem dvfsAct_frame (s : State) (h : Hub) :
    let g := (s.hub h).gov
    let g' := ((dvfsAct s h).hub h).gov
    g'.slowed = (g.slowed && (g.cutActive || g.slowCmd.isSome)) ∧ g'.target = g.target ∧ (dvfsAct s h).due = s.due ∧
      SameMemory s (dvfsAct s h) ∧ SameStart s (dvfsAct s h) ∧ (dvfsAct s h).cores = s.cores ∧ (dvfsAct s h).creels = s.creels := by
  unfold dvfsAct
  dsimp only
  split
  next stays =>
    refine ⟨?_, rfl, rfl, ⟨rfl, rfl, rfl⟩, ⟨rfl, rfl, rfl, rfl⟩, rfl, rfl⟩
    cases hs : (s.hub h).gov.slowed <;> simp_all
  next restored =>
    have hn : ((s.hub h).gov.cutActive || (s.hub h).gov.slowCmd.isSome) = false := by simp_all
    obtain ⟨t, ht⟩ : ∃ t, t = (countCutUs s h).modGov h fun g => { g with slowed := false, byCut := false } := ⟨_, rfl⟩
    rw [← ht]
    obtain ⟨n, hg⟩ := countCutUs_gov s h
    have gov : (((hubCmds t h).foldl endSlow t).hub h).gov = (t.hub h).gov :=
      foldl_keeps (fun t : State => (t.hub h).gov) _ _ _ fun t p => endSlow_keeps (fun t : State => (t.hub h).gov) (fun _ _ _ => rfl) t p
    have gated : ((hubCmds t h).foldl endSlow t).gated = t.gated :=
      foldl_keeps State.gated _ _ _ fun t p => endSlow_keeps State.gated (fun _ _ _ => rfl) t p
    have due : t.due = s.due := by rw [ht, modGov_due, countCutUs_due]
    obtain ⟨hmem, ⟨-, hcores, hcreels, -⟩, hstart⟩ : SameRest s t := ht ▸ (countCutUs_sameRest s h).trans (modGov_sameRest _ h _)
    refine ⟨?_, ?_, (due_of_gated gated).trans due, hmem.trans (sameMemory_of_gated gated), hstart.trans (sameStart_of_gated gated),
      (cores_of_gated gated).trans hcores, (creels_of_gated gated).trans hcreels⟩
    · refine (congrArg Gov.slowed gov).trans ?_
      rw [ht, modGov_hub, hn, Bool.and_false]
    · refine (congrArg Gov.target gov).trans ?_
      rw [ht, modGov_hub, hg]

/-! ## The budget refresh (R492, R494) -/

/-- Releases of class c on hub die h: its balance only falls, the others and the budgets stay. -/
structure Debited (h : Hub) (c : Nat) (s t : State) : Prop where
  budget : (t.hub h).qos.budget = (s.hub h).qos.budget
  others : ∀ k, k ≠ c → (t.hub h).qos.remainOf k = (s.hub h).qos.remainOf k
  lower  : mwf 0 (s.hub h).qos.remain = true → (t.hub h).qos.remainOf c ≤ (s.hub h).qos.remainOf c
  wf     : mwf 0 (s.hub h).qos.remain = true → mwf 0 (t.hub h).qos.remain = true
  mem    : SameMemory s t
  start  : SameStart s t
  due    : t.due = s.due

theorem Debited.trans {h : Hub} {c : Nat} {s t u : State} (a : Debited h c s t) (b : Debited h c t u) : Debited h c s u where
  budget := b.budget.trans a.budget
  others k n := (b.others k n).trans (a.others k n)
  lower w := (b.lower (a.wf w)).trans (a.lower w)
  wf w := b.wf (a.wf w)
  mem := a.mem.trans b.mem
  start := a.start.trans b.start
  due := b.due.trans a.due
theorem Debited.of_gated {s t : State} (e : t.gated = s.gated) (h : Hub) (c : Nat) : Debited h c s t where
  budget := by rw [qos_of_gated e]
  others _ _ := by rw [qos_of_gated e]
  lower _ := by rw [qos_of_gated e]
  wf w := by rw [qos_of_gated e, w]
  mem := sameMemory_of_gated e
  start := sameStart_of_gated e
  due := due_of_gated e
@[simp] theorem modQos_hub (s : State) (h : Hub) (f : Qos → Qos) : ((s.modQos h f).hub h).qos = f (s.hub h).qos := by
  rw [State.modQos, State.modHub_hub, if_pos rfl]
theorem modQos_sameRest (s : State) (h : Hub) (f : Qos → Qos) : SameRest s (s.modQos h f) := modHub_sameRest s h _
theorem modQos_due (s : State) (h : Hub) (f : Qos → Qos) : (s.modQos h f).due = s.due := State.modHub_due s h _
theorem debit_debited (s : State) (h : Hub) (c e : Nat) : Debited h c s (debit s h c e) := by
  unfold debit
  split
  · exact .of_gated rfl h c
  · obtain ⟨hm, -, hs⟩ := modQos_sameRest s h fun x => { x with remain := mput 0 c (x.remainOf c - e) x.remain }
    refine ⟨?_, fun k n => ?_, fun w => ?_, fun w => ?_, hm, hs, modQos_due ..⟩ <;> rw [modQos_hub]
    · exact mget_mput_ne _ _ _ (Ne.symm n)
    · rw [Qos.remainOf, mget_mput _ _ _ w, if_pos rfl]
      omega
    · exact mput_wf _ _ w
theorem releaseDeferred_debited (s : State) (h : Hub) (c : Nat) : Debited h c s (releaseDeferred s h c) := by
  refine List.foldlRecOn (motive := Debited h c s) _ _ (.of_gated rfl h c) fun t ht p _ => ?_
  dsimp only
  split
  · refine ht.trans ((debit_debited t h c p.2.cost).trans (.of_gated ?_ h c))
    rw [gateReady_gated, putCmd_gated]
  · exact ht
/-- Without deferred commands there is nothing to release. -/
theorem releaseDeferred_none {s : State} {h : Hub} (hn : ∀ p ∈ hubCmds s h, p.2.phase ≠ .deferred) (c : Nat) : releaseDeferred s h c = s := by
  have e : (hubCmds s h).filter (fun p => decide (p.2.phase = .deferred ∧ p.2.cls = c)) = [] := by
    rw [List.filter_eq_nil_iff]
    intro p hp
    simp [hn p hp]
  unfold releaseDeferred deferredCmds
  rw [e]
  rfl

/-- The balance of a class after the refresh, before releases. -/
def Qos.full (x : Qos) (c : Nat) : Int := min remainMax (min (x.budgetOf c : Int) (x.remainOf c + x.budgetOf c))
/-- The refresh of one class before releases. -/
def refill (s : State) (h : Hub) (c : Nat) : State := s.modQos h fun x => { x with remain := mput 0 c (x.full c) x.remain }
theorem qosRefresh_eq (s : State) (h : Hub) : qosRefresh s h = (List.range 4).foldl (fun s c => releaseDeferred (refill s h c) h c) s := rfl
theorem refill_sameRest (s : State) (h : Hub) (c : Nat) : SameRest s (refill s h c) := modQos_sameRest s h _
theorem refill_due (s : State) (h : Hub) (c : Nat) : (refill s h c).due = s.due := modQos_due s h _
theorem refill_queues (s : State) (h : Hub) (c : Nat) : (refill s h c).queues = s.queues := State.modHub_queues s h _
theorem refill_qos (s : State) (h : Hub) (c : Nat) : ((refill s h c).hub h).qos = { (s.hub h).qos with remain := mput 0 c ((s.hub h).qos.full c) (s.hub h).qos.remain } :=
  modQos_hub s h _

/-- The refresh of the classes of a list: each of them ends at its full balance or below, the others stay. -/
theorem refresh_frame {h : Hub} (l : List Nat) (nd : l.Nodup) {s : State} (w : mwf 0 (s.hub h).qos.remain = true) :
    let t := l.foldl (fun s c => releaseDeferred (refill s h c) h c) s
    (∀ c ∈ l, (t.hub h).qos.remainOf c ≤ (s.hub h).qos.full c) ∧ (∀ c, c ∉ l → (t.hub h).qos.remainOf c = (s.hub h).qos.remainOf c) ∧
      (t.hub h).qos.budget = (s.hub h).qos.budget ∧ SameMemory s t ∧ SameStart s t ∧ t.due = s.due := by
  induction l generalizing s with
  | nil => exact ⟨nofun, fun _ _ => rfl, rfl, ⟨rfl, rfl, rfl⟩, ⟨rfl, rfl, rfl, rfl⟩, rfl⟩
  | cons a l ih =>
    obtain ⟨ha, nd⟩ := List.nodup_cons.1 nd
    have q := refill_qos s h a
    have wr : mwf 0 ((refill s h a).hub h).qos.remain = true := by
      rw [q]
      exact mput_wf _ _ w
    have d := releaseDeferred_debited (refill s h a) h a
    obtain ⟨rm, -, rs⟩ := refill_sameRest s h a
    obtain ⟨low, keep, hb, hm, hs, hdue⟩ := ih nd (d.wf wr)
    have others (k : Nat) (n : k ≠ a) : ((releaseDeferred (refill s h a) h a).hub h).qos.remainOf k = (s.hub h).qos.remainOf k := by
      rw [d.others k n, q]
      exact mget_mput_ne _ _ _ (Ne.symm n)
    have budget : ((releaseDeferred (refill s h a) h a).hub h).qos.budget = (s.hub h).qos.budget := by rw [d.budget, q]
    have first : ((releaseDeferred (refill s h a) h a).hub h).qos.remainOf a ≤ (s.hub h).qos.full a := by
      refine (d.lower wr).trans (le_of_eq ?_)
      rw [q]
      exact (mget_mput _ _ _ w).trans (if_pos rfl)
    refine ⟨fun c hc => ?_, fun c hc => ?_, hb.trans budget, rm.trans (d.mem.trans hm), rs.trans (d.start.trans hs), hdue.trans (d.due.trans (refill_due ..))⟩
    · rcases List.mem_cons.1 hc with rfl | hc
      · exact (keep c ha).trans_le first
      · have n : c ≠ a := fun e => ha (e ▸ hc)
        have e : ((releaseDeferred (refill s h a) h a).hub h).qos.full c = (s.hub h).qos.full c := by
          simp only [Qos.full, Qos.budgetOf, budget, others c n]
        exact e ▸ low c hc
    · rw [List.mem_cons, not_or] at hc
      exact (keep c hc.2).trans (others c hc.1)

/-- With no command deferred, each class ends at its full balance, and what runs stays. -/
theorem refresh_none {h : Hub} (l : List Nat) (nd : l.Nodup) {s : State} (w : mwf 0 (s.hub h).qos.remain = true)
    (hn : ∀ p ∈ hubCmds s h, p.2.phase ≠ .deferred) :
    let t := l.foldl (fun s c => releaseDeferred (refill s h c) h c) s
    (∀ c ∈ l, (t.hub h).qos.remainOf c = (s.hub h).qos.full c) ∧ (∀ c, c ∉ l → (t.hub h).qos.remainOf c = (s.hub h).qos.remainOf c) ∧ SameWork s t := by
  induction l generalizing s with
  | nil => exact ⟨nofun, fun _ _ => rfl, rfl, rfl, rfl, rfl⟩
  | cons a l ih =>
    obtain ⟨ha, nd⟩ := List.nodup_cons.1 nd
    have q := refill_qos s h a
    have wr : mwf 0 ((refill s h a).hub h).qos.remain = true := by
      rw [q]
      exact mput_wf _ _ w
    have hr : ∀ p ∈ hubCmds (refill s h a) h, p.2.phase ≠ .deferred := by
      unfold hubCmds
      rw [refill_queues]
      exact hn
    have others (k : Nat) (n : k ≠ a) : ((refill s h a).hub h).qos.remainOf k = (s.hub h).qos.remainOf k := by
      rw [q]
      exact mget_mput_ne _ _ _ (Ne.symm n)
    have first : ((refill s h a).hub h).qos.remainOf a = (s.hub h).qos.full a := by
      rw [q]
      exact (mget_mput _ _ _ w).trans (if_pos rfl)
    obtain ⟨low, keep, hk⟩ := ih nd wr hr
    dsimp only
    rw [List.foldl_cons, releaseDeferred_none hr]
    refine ⟨fun c hc => ?_, fun c hc => ?_, (refill_sameRest s h a).2.1.trans hk⟩
    · rcases List.mem_cons.1 hc with rfl | hc
      · exact (keep c ha).trans first
      · have n : c ≠ a := fun e => ha (e ▸ hc)
        refine (low c hc).trans ?_
        simp only [Qos.full, Qos.budgetOf, others c n]
        rw [q]
    · rw [List.mem_cons, not_or] at hc
      exact (keep c hc.2).trans (others c hc.1)

/-- Settles O10: each event that is next in the order by its frame lemma; an event that is not due does nothing. -/
theorem gridEvents : Obligations.GridEvents := by
  refine ⟨fun s h bg rest hw hd => ?_, fun s h g bg hd => ?_, fun s h rest hw hd => ?_, fun s h rest hw hd w => ?_⟩
  · have e : exec (.governorUpdate h bg) s = .next (govUpdate { s with due := rest } h bg) :=
      congrArg Host.Outcome.next ((whenAlive_of_works hw _).trans (takeEvent_next hd _))
    obtain ⟨ht, hc, hb, hdue, hm, hs, hcores, hcreels⟩ := govUpdate_frame { s with due := rest } h bg
    have sameDemand : demand (({ s with due := rest } : State).modGov h fun g => { g with bg := bg }) h = demand (s.modGov h fun g => { g with bg := bg }) h :=
      demand_congr (by rw [modGov_queues, modGov_queues]) (by rw [modGov_hub, modGov_hub])
    rw [sameDemand] at ht
    exact ⟨_, e, ⟨ht, ht.trans_le (nextTarget_le _ _), hc⟩, hb, hdue, hm, hs, hcores, hcreels⟩
  · have none (e : GridEvent) (f : State → State) : s.whenAlive (takeEvent · e f) = s := whenAlive_takeEvent_not_due (by simp [hd]) f
    refine ⟨?_, ?_, ?_, ?_, ?_, ?_, ?_⟩ <;> exact congrArg Host.Outcome.next (none _ _)
  · have e : exec (.dvfsChange h) s = .next (dvfsAct { s with due := rest } h) :=
      congrArg Host.Outcome.next ((whenAlive_of_works hw _).trans (takeEvent_next hd _))
    exact ⟨_, e, dvfsAct_frame { s with due := rest } h⟩
  · have e : exec (.qosBudgetRefresh h) s = .next (qosRefresh { s with due := rest } h) :=
      congrArg Host.Outcome.next ((whenAlive_of_works hw _).trans (takeEvent_next hd _))
    obtain ⟨low, -, hb, hm, hs, hdue⟩ := refresh_frame (s := { s with due := rest }) (List.range 4) List.nodup_range w
    refine ⟨_, e, ⟨fun c hc => low c (List.mem_range.2 hc), fun hn => ?_⟩, hb, hdue, hm, hs⟩
    obtain ⟨full, -, hk⟩ := refresh_none (s := { s with due := rest }) (List.range 4) List.nodup_range w hn
    exact ⟨fun c hc => full c (List.mem_range.2 hc), hk⟩

end Sys2Proof.Machine
end

section
/-!
The end of a command: what it changes in its queue, and what it leaves as it is (R163, R175, R506).
-/

namespace Sys2Proof.Machine

/-! ## What the end of commands leaves as it is -/

/-- What stays of a hub die: its ledger, and what asserts a cut. -/
def HubSt.still (x : HubSt) : HubSt := { led := x.led, gov := { cutPwr := x.gov.cutPwr, cutActive := x.gov.cutActive } }
/-- What stays of the state: time, memory, start, doff, ledgers, cuts. -/
def State.still (s : State) : State :=
  { now := s.now, mem := s.mem, poison := s.poison, caches := s.caches, upsets := s.upsets, boot := s.boot, pins := s.pins
    doff := s.doff, mgt := s.mgt, hub0 := s.hub0.still, hub1 := s.hub1.still }

theorem still_hub (s : State) (h : Hub) : s.still.hub h = (s.hub h).still := by
  unfold State.hub
  split <;> rfl
theorem hub_of_still {s t : State} (e : t.still = s.still) (h : Hub) : (t.hub h).still = (s.hub h).still := by rw [← still_hub, ← still_hub, e]
theorem led_of_still {s t : State} (e : t.still = s.still) (h : Hub) : (t.hub h).led = (s.hub h).led := (congrArg HubSt.led (hub_of_still e h) :)
theorem cutPwr_of_still {s t : State} (e : t.still = s.still) (h : Hub) : (t.hub h).gov.cutPwr = (s.hub h).gov.cutPwr :=
  (congrArg (fun x : HubSt => x.gov.cutPwr) (hub_of_still e h) :)
theorem cutActive_of_still {s t : State} (e : t.still = s.still) (h : Hub) : (t.hub h).gov.cutActive = (s.hub h).gov.cutActive :=
  (congrArg (fun x : HubSt => x.gov.cutActive) (hub_of_still e h) :)
theorem sameMemory_of_still {s t : State} (e : t.still = s.still) : SameMemory s t :=
  ⟨(congrArg State.mem e :), (congrArg State.caches e :), (congrArg State.poison e :)⟩
theorem doff_of_still {s t : State} (e : t.still = s.still) : t.doff = s.doff := (congrArg State.doff e :)

theorem still_of_gated {s t : State} (e : t.gated = s.gated) : t.still = s.still := (congrArg State.still e :)
theorem notices_still {s t : State} (h : Notices s t) : t.still = s.still := by
  unfold Notices at h
  rw [h]
  rfl
theorem modHub_still (s : State) (h : Hub) {f : HubSt → HubSt} (hf : ∀ x, (f x).still = x.still) : (s.modHub h f).still = s.still := by
  unfold State.modHub State.setHub State.hub
  split <;> simp [State.still, hf]
theorem govBallast_still (s : State) (h : Hub) : (govBallast s h).still = s.still := by
  unfold govBallast
  dsimp only
  split
  · rfl
  · exact modHub_still s h fun _ => rfl

/-! ## Queues in their map -/

/-- The map of the queues is canonical, and its keys are queue numbers. -/
structure QueuesOk (s : State) : Prop where
  wf   : mwf {} s.queues = true
  keys : ∀ e ∈ s.queues, e.1 < 1024

theorem QueuesOk.of_queues {s t : State} (ok : QueuesOk s) (e : t.queues = s.queues) : QueuesOk t := ⟨e ▸ ok.wf, e ▸ ok.keys⟩
theorem QueuesOk.setQueue {s : State} (ok : QueuesOk s) (q : QIdx) (x : Queue) : QueuesOk (s.setQueue q x) where
  wf := mput_wf _ _ ok.wf
  keys e he := by
    rcases mem_mput he with rfl | he
    · exact q.isLt
    · exact ok.keys e he
theorem QueuesOk.modQueue {s : State} (ok : QueuesOk s) (q : QIdx) (f : Queue → Queue) : QueuesOk (s.modQueue q f) := ok.setQueue q _

/-- A map reads what it lists. -/
theorem mget_of_mem {β : Type} [DecidableEq β] {d : β} {m : SMap β} (w : mwf d m = true) {e : Nat × β} (he : e ∈ m) : mget d m e.1 = e.2 := by
  induction m with
  | nil => exact absurd he List.not_mem_nil
  | cons x m ih =>
    obtain ⟨k, v⟩ := x
    obtain ⟨-, hlt, wm⟩ := (mwf_cons' d k v m).1 w
    rcases List.mem_cons.1 he with rfl | he
    · simp [mget]
    · have n : k ≠ e.1 := Nat.ne_of_lt (hlt e he)
      simpa [mget, n] using ih wm he
/-- A key that a map does not list reads as the default. -/
theorem mget_of_not_mem {β : Type} {d : β} {m : SMap β} {k : Nat} (h : ∀ e ∈ m, e.1 ≠ k) : mget d m k = d := by
  induction m with
  | nil => rfl
  | cons x m ih =>
    have n : x.1 ≠ k := h x (by simp)
    simpa [mget, n] using ih fun e he => h e (List.mem_cons_of_mem _ he)
theorem QueuesOk.queue_of_mem {s : State} (ok : QueuesOk s) {e : Nat × Queue} (he : e ∈ s.queues) : s.queue (Fin.ofNat 1024 e.1) = e.2 := by
  have k : (Fin.ofNat 1024 e.1 : QIdx).val = e.1 := Nat.mod_eq_of_lt (ok.keys e he)
  rw [State.queue, k]
  exact mget_of_mem ok.wf he
/-- A queue that the state does not list is at its reset value. -/
theorem queue_of_not_listed {s : State} {q : QIdx} (h : q ∉ everyQueue s) : s.queue q = {} := by
  refine mget_of_not_mem fun e he k => h (List.mem_map.2 ⟨e, he, ?_⟩)
  rw [k]
  exact Fin.ofNat_val_eq_self q
/-- The state lists each of its queues once. -/
theorem QueuesOk.nodup {s : State} (ok : QueuesOk s) : (everyQueue s).Nodup := by
  have keysNodup : ∀ m : SMap Queue, mwf {} m = true → (∀ e ∈ m, e.1 < 1024) → (m.map fun e => (Fin.ofNat 1024 e.1 : QIdx)).Nodup := by
    intro m
    induction m with
    | nil => exact fun _ _ => List.nodup_nil
    | cons x m ih =>
      intro w k
      obtain ⟨-, hlt, wm⟩ := (mwf_cons' _ x.1 x.2 m).1 w
      refine List.nodup_cons.2 ⟨fun h => ?_, ih wm fun e he => k e (List.mem_cons_of_mem _ he)⟩
      obtain ⟨e, he, eq⟩ := List.mem_map.1 h
      have ke := k e (List.mem_cons_of_mem _ he)
      have kx := k x (by simp)
      have v : e.1 % 1024 = x.1 % 1024 := congrArg Fin.val eq
      rw [Nat.mod_eq_of_lt ke, Nat.mod_eq_of_lt kx] at v
      exact absurd v (Nat.ne_of_gt (hlt e he))
  exact keysNodup s.queues ok.wf ok.keys

/-! ## Steps on one queue -/

/-- What tells commands apart for their ends: number, phase, status, what a rulebook's header still has to write. -/
def Cmd.core (c : Cmd) : W32 × CmdPhase × Status × List (Nat × Acc × List Byte) := (c.seq, c.phase, c.status, c.head)
/-- A property of commands that only looks at their core. -/
def CoreClosed (P : Cmd → Prop) : Prop := ∀ a b : Cmd, b.core = a.core → P a → P b

/-- A step on queue q: the other queues stay, and what is still; where every command of q had P, every one then has Q. -/
structure CmdStep (q : QIdx) (P Q : Cmd → Prop) (s t : State) : Prop where
  ok     : QueuesOk t
  still  : t.still = s.still
  others : ∀ r, r ≠ q → t.queue r = s.queue r
  st     : (t.queue q).st = (s.queue q).st
  preDoff : (t.queue q).preDoff = (s.queue q).preDoff
  length : (t.queue q).cmds.length = (s.queue q).cmds.length
  cmds   : (∀ y ∈ (s.queue q).cmds, P y) → ∀ y ∈ (t.queue q).cmds, Q y

section
variable {q : QIdx} {P Q R : Cmd → Prop} {s t u : State}

theorem CmdStep.then (a : CmdStep q P Q s t) (b : QueuesOk t → CmdStep q Q R t u) : CmdStep q P R s u where
  ok := (b a.ok).ok
  still := (b a.ok).still.trans a.still
  others r n := ((b a.ok).others r n).trans (a.others r n)
  st := (b a.ok).st.trans a.st
  preDoff := (b a.ok).preDoff.trans a.preDoff
  length := (b a.ok).length.trans a.length
  cmds h := (b a.ok).cmds (a.cmds h)
theorem CmdStep.of_queues (ok : QueuesOk s) (e : t.queues = s.queues) (k : t.still = s.still) : CmdStep q P P s t := by
  have hq (r : QIdx) : t.queue r = s.queue r := by rw [State.queue, State.queue, e]
  exact ⟨ok.of_queues e, k, fun r _ => hq r, by rw [hq], by rw [hq], by rw [hq], by rw [hq]; exact id⟩
theorem CmdStep.refl (ok : QueuesOk s) : CmdStep q P P s s := .of_queues ok rfl rfl
theorem CmdStep.weaken (a : CmdStep q P Q s t) (h : ∀ y, Q y → R y) : CmdStep q P R s t :=
  { a with cmds := fun p y hy => h y (a.cmds p y hy) }
theorem CmdStep.of_notices (ok : QueuesOk s) (n : Notices s t) : CmdStep q P P s t := .of_queues ok n.queues (notices_still n)
theorem CmdStep.count (ok : QueuesOk s) (p off n : Nat) : CmdStep q P P s (s.count p off n) := .of_queues ok rfl rfl
theorem CmdStep.ite {c : Prop} [Decidable c] {a b : State} (h : CmdStep q P Q s a) (k : CmdStep q P Q s b) : CmdStep q P Q s (if c then a else b) := by
  split
  · exact h
  · exact k

/-- Commands of queue q changed one by one. -/
theorem CmdStep.mapCmds (ok : QueuesOk s) (f : Cmd → Cmd) (hf : (∀ y ∈ (s.queue q).cmds, P y) → ∀ y ∈ (s.queue q).cmds, Q (f y)) :
    CmdStep q P Q s (s.modQueue q fun x => { x with cmds := x.cmds.map f }) := by
  have e := State.modQueue_queue s q (fun x => { x with cmds := x.cmds.map f }) ok.wf
  refine ⟨ok.modQueue q _, rfl, fun r n => State.modQueue_queue_ne s q r _ n.symm, ?_, ?_, ?_, fun h y hy => ?_⟩
  · rw [e]
  · rw [e]
  · rw [e]
    exact List.length_map ..
  · rw [e] at hy
    obtain ⟨a, ha, rfl⟩ := List.mem_map.1 hy
    exact hf h a ha
/-- A change of queue q that leaves its commands and states. -/
theorem CmdStep.modQueue (ok : QueuesOk s) {f : Queue → Queue} (hc : ∀ x, (f x).cmds = x.cmds) (hs : ∀ x, (f x).st = x.st)
    (hp : ∀ x, (f x).preDoff = x.preDoff) : CmdStep q P P s (s.modQueue q f) := by
  have e := State.modQueue_queue s q f ok.wf
  exact ⟨ok.modQueue q _, rfl, fun r n => State.modQueue_queue_ne s q r _ n.symm, by rw [e, hs], by rw [e, hp], by rw [e, hc],
    by rw [e, hc]; exact id⟩
theorem CmdStep.modCmd (ok : QueuesOk s) (hP : CoreClosed P) (seq : W32) {f : Cmd → Cmd} (hf : ∀ y, (f y).core = y.core) :
    CmdStep q P P s (s.modCmd q seq f) := by
  refine .mapCmds ok _ fun h y hy => ?_
  split
  · exact hP y _ (hf y) (h y hy)
  · exact h y hy
/-- A command of the queue takes the place of those with its number, its core kept. -/
theorem CmdStep.putCmd_core (ok : QueuesOk s) (hP : CoreClosed P) {c d : Cmd} (hc : c ∈ (s.queue q).cmds) (hd : d.core = c.core) :
    CmdStep q P P s (putCmd s q d) := by
  refine .mapCmds ok _ fun h y hy => ?_
  split
  · exact hP c d hd (h c hc)
  · exact h y hy

theorem endStall_core (c : Cmd) (t : Nat) : (c.endStall t).core = c.core := by
  unfold Cmd.endStall
  split <;> rfl
theorem beginStall_core (c : Cmd) (k t : Nat) : (c.beginStall k t).core = c.core := by
  unfold Cmd.beginStall
  split
  · split
    · rfl
    · exact endStall_core c t
  · rfl
theorem refreshReady_step (ok : QueuesOk s) (hP : CoreClosed P) : CmdStep q P P s (refreshReady s q) := by
  unfold refreshReady
  split
  next c hc =>
    have hm : c ∈ (s.queue q).cmds := List.mem_of_find?_eq_some hc
    split
    · exact .refl ok
    · split
      · split
        · exact .refl ok
        · exact .putCmd_core ok hP hm (endStall_core c _)
      · exact .putCmd_core ok hP hm (beginStall_core c _ _)
      · exact .putCmd_core ok hP hm rfl
  next => exact .refl ok

/-! ## The end of a command -/

theorem tellEnd_step (ok : QueuesOk s) (c : Cmd) (b : Bool) : CmdStep q P P s (tellEnd s q c b) := by
  have grp (f : CbGrp → CbGrp) (g : Nat) : CmdStep q P P s (s.modCbGrp (qHub q) g f) :=
    .of_queues ok (State.modHub_queues ..) (modHub_still s _ fun _ => rfl)
  have mark : CmdStep q P P s (sendMark s q c false) := by
    unfold sendMark
    dsimp only
    split
    · exact .ite (.refl ok) (.of_queues ok rfl rfl)
    · exact .refl ok
  unfold tellEnd
  dsimp only
  refine .ite (.ite (.ite (grp _ _) ((grp _ _).then fun k => .of_notices k (event_notices _ _ _))) (.refl ok)) (.ite (.ite (.refl ok) mark) (.ite ?_ (.refl ok)))
  split
  · exact .ite (.refl ok) (.of_queues ok rfl rfl)
  · exact .refl ok
theorem closeLate_step (ok : QueuesOk s) (c : Cmd) : CmdStep q P P s (closeLate s c) := by
  unfold closeLate
  split
  · exact .count ok ..
  · exact .refl ok
theorem dropOrdEntries_step (ok : QueuesOk s) (c : Cmd) : CmdStep q P P s (dropOrdEntries s q c) := by
  unfold dropOrdEntries
  exact .ite (.of_queues ok rfl rfl) (.refl ok)
theorem acquire_step (ok : QueuesOk s) (hP : CoreClosed P) (c : Cmd) : CmdStep q P P s (acquire s q c) := by
  unfold acquire
  have read : CmdStep q P P s (s.modCmd q c.seq fun y => { y with didRead := false }) := .modCmd ok hP c.seq fun _ => rfl
  exact .ite (read.then fun k => .of_queues (t := gcAcquire _ _) k rfl rfl) (.refl ok)

/-- The end of a command: those with its number have ended with the status. -/
theorem endCmd_step (ok : QueuesOk s) (hP : CoreClosed P) (hQ : CoreClosed Q) {c : Cmd} {st : Status} (hh : c.head = [])
    (hkeep : ∀ y, P y → y.seq ≠ c.seq → Q y) (hnew : ∀ d : Cmd, d.core = (c.seq, .ended, st, []) → Q d) (cause : Nat) (idx : BitVec 16) (va ea : Nat) :
    CmdStep q P Q s (endCmd s q c st cause idx va ea) := by
  have head : closeHead s q c = s := by simp [closeHead, hh]
  unfold endCmd
  rw [head]
  extract_lets s0 late keep s1 s2 stalled c' s3 s4 s5 s6 s7 byPort s8
  have h1 : CmdStep q P P s s1 := .ite (.refl ok) (tellEnd_step ok c _)
  have h2 : CmdStep q P P s s2 := ((h1.then fun k => closeLate_step k c).then fun k => dropOrdEntries_step k c).then fun k => acquire_step k hP c
  have hc : c'.core = (c.seq, .ended, st, []) := by
    have e : (c.endStall s2.now).seq = c.seq := congrArg Prod.fst (endStall_core c s2.now)
    exact congrArg (·, CmdPhase.ended, st, []) e
  have h3 : CmdStep q P Q s s3 := h2.then fun k => .mapCmds k _ fun h y hy => by
    have seq : c'.seq = c.seq := congrArg Prod.fst hc
    split
    next => exact hnew c' hc
    next n => exact hkeep y (h y hy) (seq ▸ n)
  have h4 : CmdStep q P Q s s4 := h3.then fun k => .ite (.modQueue k (fun _ => rfl) (fun _ => rfl) fun _ => rfl) (.refl k)
  have h5 : CmdStep q P Q s s5 := h4.then fun k => .of_queues k (modGov_queues ..) (modHub_still _ _ fun x => by dsimp only; split <;> rfl)
  have h6 : CmdStep q P Q s s6 := h5.then fun k => .of_queues k (govBallast_queues ..) (govBallast_still ..)
  have h7 : CmdStep q P Q s s7 := h6.then fun k => .ite (.of_queues k rfl rfl) (.refl k)
  have h8 : CmdStep q P Q s s8 := h7.then fun k => .ite (.refl k) (.of_notices k (report_notices ..))
  exact h8.then fun k => refreshReady_step k hQ

end

end Sys2Proof.Machine
end

section
/-!
Admission stop and the doff deadline (R503, R506–R508, R513).
-/

namespace Sys2Proof.Machine

/-! ## One command ends DOFF (R506) -/

/-- A rulebook's header is written, or none is to be written. -/
def HeadEmpty (c : Cmd) : Prop := c.head = []
theorem headEmpty_closed : CoreClosed HeadEmpty := fun _ _ e h => (congrArg (fun x => x.2.2.2) e :).trans h

/-- What becomes of a command that a doff ends: an atomic whose update has been performed has ended all the same, any other DOFF. -/
def EndedDoff (c d : Cmd) : Prop := d.seq = c.seq ∧ d.phase = .ended ∧ d.head = [] ∧ (updated c = false → d.status = .doff)

section
variable {q : QIdx} {P Q : Cmd → Prop} {s : State}

/-- A doff ends a command that has not ended. -/
theorem stopCmd_doff {c : Cmd} (hp : c.phase ≠ .ended) (s : State) (q : QIdx) :
    ∃ c' st cause idx, stopCmd s q c .doff cDoff = endCmd s q c' st cause idx 0 0 ∧ c'.seq = c.seq ∧ c'.head = c.head ∧
      (updated c = false → st = .doff) := by
  unfold stopCmd
  rw [if_neg hp]
  by_cases hu : updated c = true
  · rw [if_pos hu, if_pos (by simp)]
    exact ⟨_, _, _, _, rfl, rfl, rfl, fun n => absurd hu (by simp [n])⟩
  · rw [if_neg hu]
    exact ⟨_, _, _, _, rfl, rfl, rfl, fun _ => rfl⟩
theorem stopCmd_step (ok : QueuesOk s) (hP : CoreClosed P) (hQ : CoreClosed Q) {c : Cmd} (hh : c.head = []) (hp : c.phase ≠ .ended)
    (hkeep : ∀ y, P y → y.seq ≠ c.seq → Q y) (hnew : ∀ d, EndedDoff c d → Q d) : CmdStep q P Q s (stopCmd s q c .doff cDoff) := by
  obtain ⟨c', st, cause, idx, e, hs, hc, hst⟩ := stopCmd_doff hp s q
  rw [e]
  refine endCmd_step ok hP hQ (hc.trans hh) (fun y h n => hkeep y h (hs ▸ n)) (fun d hd => hnew d ?_) ..
  obtain ⟨e1, e2, e3, e4⟩ : d.seq = c'.seq ∧ d.phase = .ended ∧ d.status = st ∧ d.head = [] := by simpa [Cmd.core] using hd
  exact ⟨e1.trans hs, e2, e4, fun n => e3.trans (hst n)⟩
theorem doffCmd_step (ok : QueuesOk s) (hP : CoreClosed P) (hQ : CoreClosed Q) {c : Cmd} (hh : c.head = []) (hp : c.phase ≠ .ended)
    (hkeep : ∀ y, P y → y.seq ≠ c.seq → Q y) (hnew : ∀ d, EndedDoff c d → Q d) : CmdStep q P Q s (doffCmd s q c) := by
  have counted : CmdStep q P P s (if c.startT.isSome && !updated c then s.count (ledPage (qHub q)) 0x0A8 1 else s) := .ite (.count ok ..) (.refl ok)
  exact counted.then fun k => stopCmd_step k hP hQ hh hp hkeep hnew
/-- A queue whose only command a doff ends has that command ended. -/
theorem doffCmd_single (ok : QueuesOk s) {c : Cmd} (hc : (s.queue q).cmds = [c]) (hh : c.head = []) (hp : c.phase ≠ .ended) :
    ∃ d, ((doffCmd s q c).queue q).cmds = [d] ∧ EndedDoff c d := by
  have sameSeq : CoreClosed (fun y => y.seq = c.seq) := fun _ _ e h => (congrArg Prod.fst e :).trans h
  have endedDoff : CoreClosed (EndedDoff c) := fun a b e ⟨h1, h2, h3, h4⟩ =>
    ⟨(congrArg Prod.fst e :).trans h1, (congrArg (fun x => x.2.1) e :).trans h2, (congrArg (fun x => x.2.2.2) e :).trans h3,
      fun n => (congrArg (fun x => x.2.2.1) e :).trans (h4 n)⟩
  have step := doffCmd_step (q := q) ok sameSeq endedDoff hh hp (fun y h n => absurd h n) fun d h => h
  have one : ((doffCmd s q c).queue q).cmds.length = 1 := step.length.trans (by rw [hc]; rfl)
  obtain ⟨d, hd⟩ := List.length_eq_one_iff.1 one
  refine ⟨d, hd, step.cmds ?_ d (by simp [hd])⟩
  intro y hy
  rw [hc] at hy
  rw [List.mem_singleton.1 hy]
theorem doffCmd_calm (ok : QueuesOk s) {c : Cmd} (hh : c.head = []) (hp : c.phase ≠ .ended) : CmdStep q HeadEmpty HeadEmpty s (doffCmd s q c) :=
  doffCmd_step ok headEmpty_closed headEmpty_closed hh hp (fun _ h _ => h) fun _ h => h.2.2.1
end

/-! ## Queue after queue -/

/-- A state that work on queues has led to from v: what is still is still, and no header is to be written. -/
structure Calm (v t : State) : Prop where
  ok    : QueuesOk t
  still : t.still = v.still
  heads : ∀ q, ∀ y ∈ (t.queue q).cmds, HeadEmpty y

theorem Calm.step {v t u : State} {q : QIdx} (h : Calm v t) (k : CmdStep q HeadEmpty HeadEmpty t u) : Calm v u where
  ok := k.ok
  still := k.still.trans h.still
  heads r := by
    by_cases e : r = q
    · exact e ▸ k.cmds (h.heads q)
    · rw [k.others r e]
      exact h.heads r

/-- A step on each queue of a list: a queue of the list is changed by its own step alone, the others stay. -/
theorem foldl_queue {f : State → QIdx → State} {I : State → Prop} (step : ∀ t q, I t → I (f t q) ∧ ∀ r, r ≠ q → (f t q).queue r = t.queue r)
    (l : List QIdx) (nd : l.Nodup) {s : State} (hs : I s) :
    I (l.foldl f s) ∧ (∀ q, q ∉ l → (l.foldl f s).queue q = s.queue q) ∧
      ∀ q ∈ l, ∃ t, I t ∧ t.queue q = s.queue q ∧ (l.foldl f s).queue q = (f t q).queue q := by
  induction l generalizing s with
  | nil => exact ⟨hs, fun _ _ => rfl, nofun⟩
  | cons a l ih =>
    obtain ⟨ha, nd⟩ := List.nodup_cons.1 nd
    obtain ⟨hi, hloc⟩ := step s a hs
    obtain ⟨hl, others, own⟩ := ih nd hi
    refine ⟨hl, fun q hq => ?_, fun q hq => ?_⟩
    · rw [List.mem_cons, not_or] at hq
      exact (others q hq.2).trans (hloc q hq.1)
    · rcases List.mem_cons.1 hq with rfl | hq
      · exact ⟨s, hs, rfl, others q ha⟩
      · obtain ⟨t, ht, e, r⟩ := own q hq
        exact ⟨t, ht, e.trans (hloc q fun n => ha (n ▸ hq)), r⟩

/-! ## Admission stop (R503, R506) -/

/-- The state of a queue once admission has stopped. -/
def stoppedSt : QState → QState
  | .running | .halted | .faultWait => .doff
  | y => y
/-- Queue q stops admission. -/
def stopAdmission (s : State) (q : QIdx) : State := s.setQueue q { s.queue q with preDoff := (s.queue q).st, st := stoppedSt (s.queue q).st }
/-- What admission stop does with one command of a queue. -/
def stopOne (q : QIdx) (s : State) (c : Cmd) : State :=
  if c.phase = .ended then s
  else if c.phase = .faultWait ∨ c.startT.isNone ∨ waitsOnEvent c then doffCmd s q c
  else if c.performed then s
  else if !s.doff.fatal && decide (s.now + remaining s c ≤ s.doff.tD (qHub q)) then s.count (ledPage (qHub q)) 0x0A0 1
  else doffCmd s q c
theorem stopQueue_eq (s : State) (q : QIdx) : stopQueue s q = (s.queue q).cmds.foldl (stopOne q) (stopAdmission s q) := rfl

theorem stopOne_calm {q : QIdx} {s : State} (ok : QueuesOk s) {c : Cmd} (hh : c.head = []) : CmdStep q HeadEmpty HeadEmpty s (stopOne q s c) := by
  unfold stopOne
  split
  next => exact .refl ok
  next hp =>
    exact .ite (doffCmd_calm ok hh hp) (.ite (.refl ok) (.ite (.count ok ..) (doffCmd_calm ok hh hp)))

theorem stopAdmission_queue {s : State} (ok : QueuesOk s) (q : QIdx) :
    (stopAdmission s q).queue q = { s.queue q with preDoff := (s.queue q).st, st := stoppedSt (s.queue q).st } := State.setQueue_queue s q _ ok.wf
theorem stopAdmission_calm {v s : State} (h : Calm v s) (q : QIdx) : Calm v (stopAdmission s q) where
  ok := h.ok.setQueue q _
  still := h.still
  heads r := by
    by_cases e : r = q
    · rw [e, stopAdmission_queue h.ok]
      exact h.heads q
    · rw [stopAdmission, State.setQueue_queue_ne _ _ _ _ (Ne.symm e)]
      exact h.heads r
theorem stopQueue_step {v s : State} (h : Calm v s) (q : QIdx) : CmdStep q HeadEmpty HeadEmpty (stopAdmission s q) (stopQueue s q) := by
  rw [stopQueue_eq]
  refine List.foldlRecOn (motive := CmdStep q HeadEmpty HeadEmpty (stopAdmission s q)) _ _ (.refl (stopAdmission_calm h q).ok) fun t ht c hc => ?_
  exact ht.then fun k => stopOne_calm k (h.heads q c hc)
theorem stopQueue_calm {v s : State} (h : Calm v s) (q : QIdx) :
    Calm v (stopQueue s q) ∧ ∀ r, r ≠ q → (stopQueue s q).queue r = s.queue r :=
  ⟨(stopAdmission_calm h q).step (stopQueue_step h q), fun r n =>
    ((stopQueue_step h q).others r n).trans (State.setQueue_queue_ne s q r _ n.symm)⟩
theorem stopQueue_states {v s : State} (h : Calm v s) (q : QIdx) :
    ((stopQueue s q).queue q).st = stoppedSt (s.queue q).st ∧ ((stopQueue s q).queue q).preDoff = (s.queue q).st := by
  have k := stopQueue_step h q
  rw [k.st, k.preDoff, stopAdmission_queue h.ok]
  exact ⟨rfl, rfl⟩
/-- A queue's only command, not started and not ended, ends. -/
theorem stopQueue_single {v s : State} (h : Calm v s) {q : QIdx} {c : Cmd} (hc : (s.queue q).cmds = [c]) (hn : c.startT = none) (hp : c.phase ≠ .ended) :
    ∃ d, ((stopQueue s q).queue q).cmds = [d] ∧ EndedDoff c d := by
  have e : stopQueue s q = doffCmd (stopAdmission s q) q c := by
    rw [stopQueue_eq, hc, List.foldl_cons, List.foldl_nil, stopOne, if_neg hp, if_pos (.inr (.inl (by simp [hn])))]
  rw [e]
  exact doffCmd_single (stopAdmission_calm h q).ok (by rw [stopAdmission_queue h.ok, hc]) (h.heads q c (by simp [hc])) hp

/-- The ledgers tell of the admission stop. -/
def announceStop (s : State) : State :=
  bothHubs.foldl (fun s h => (s.modLed h fun d => { d with st := .stopping, tStop := s.now - s.doff.tW }).event (ledPage h) 0)
    { s with doff := { s.doff with stopped := true } }
theorem doffStop_eq {s : State} (ha : s.doff.active = true) (hs : s.doff.stopped = false) :
    doffStop s = (everyQueue (announceStop s)).foldl stopQueue (announceStop s) := by
  unfold doffStop
  rw [if_neg (by simp [ha, hs])]
  rfl

theorem modLed_sameRest (s : State) (h : Hub) (f : Led → Led) : SameRest s (s.modLed h f) := modHub_sameRest s h _
theorem modLed_hub (s : State) (h k : Hub) (f : Led → Led) : ((s.modLed h f).hub k).led = if k = h then f (s.hub h).led else (s.hub k).led := by
  rw [State.modLed, State.modHub_hub]
  split <;> rfl
theorem event_led (s : State) (p i : Nat) (h : Hub) : ((s.event p i).hub h).led = (s.hub h).led := congrArg HubSt.led ((event_notices s p i).hub h)
theorem announceStop_frame (s : State) :
    SameMemory s (announceStop s) ∧ (announceStop s).queues = s.queues ∧ (announceStop s).doff = { s.doff with stopped := true } ∧
      ∀ h, ((announceStop s).hub h).led.tStop = s.now - s.doff.tW := by
  obtain ⟨t, ht⟩ : ∃ t : State, t = { s with doff := { s.doff with stopped := true } } := ⟨_, rfl⟩
  obtain ⟨a, ea⟩ : ∃ a, a = (t.modLed 0 fun d => { d with st := .stopping, tStop := t.now - t.doff.tW }).event (ledPage 0) 0 := ⟨_, rfl⟩
  have e : announceStop s = (a.modLed 1 fun d => { d with st := .stopping, tStop := a.now - a.doff.tW }).event (ledPage 1) 0 := by rw [ea, ht]; rfl
  have ra : SameRest t a := ea ▸ (modLed_sameRest t 0 _).trans (event_sameRest _ _ _)
  have rb : SameRest a (announceStop s) := e ▸ (modLed_sameRest a 1 _).trans (event_sameRest _ _ _)
  have now : a.now = s.now := by rw [ea, (event_notices _ _ _).now, ht]; rfl
  obtain ⟨hm, ⟨hq, -⟩, -, -, hd, -⟩ := ra.trans rb
  have doffA : a.doff = t.doff := ra.2.2.2.2.1
  have before : SameMemory s t := by
    rw [ht]
    exact ⟨rfl, rfl, rfl⟩
  refine ⟨before.trans hm, hq.trans (by rw [ht]), hd.trans (by rw [ht]), fun h => ?_⟩
  rw [e, event_led, modLed_hub]
  obtain rfl | rfl := hub_cases h
  · rw [if_neg (by decide), ea, event_led, modLed_hub, if_pos rfl, ht]
  · rw [if_pos rfl]
    dsimp only
    rw [now, doffA, ht]

/-- Admission stop of a doff (R503, R506). -/
theorem doffStop_frame {s : State} (ok : QueuesOk s) (ha : s.doff.active = true) (hs : s.doff.stopped = false)
    (hh : ∀ q, ∀ c ∈ (s.queue q).cmds, c.head = []) :
    (doffStop s).doff.stopped = true ∧ SameMemory s (doffStop s) ∧ (∀ h, ((doffStop s).hub h).led.tStop = s.now - s.doff.tW) ∧
      (∀ q, (s.queue q).st = .running ∨ (s.queue q).st = .halted ∨ (s.queue q).st = .faultWait →
        ((doffStop s).queue q).st = .doff ∧ ((doffStop s).queue q).preDoff = (s.queue q).st) ∧
      ∀ q c, (s.queue q).cmds = [c] → c.startT = none → c.phase ≠ .ended → ∃ d, ((doffStop s).queue q).cmds = [d] ∧ EndedDoff c d := by
  obtain ⟨hm, hq, hd, hl⟩ := announceStop_frame s
  have sq (q : QIdx) : (announceStop s).queue q = s.queue q := by rw [State.queue, State.queue, hq]
  have calm : Calm (announceStop s) (announceStop s) := ⟨ok.of_queues hq, rfl, fun q => by rw [sq]; exact hh q⟩
  obtain ⟨after, -, own⟩ := foldl_queue (I := Calm (announceStop s)) (fun t q h => stopQueue_calm h q) _ calm.ok.nodup calm
  rw [doffStop_eq ha hs]
  have listed (q : QIdx) (n : s.queue q ≠ {}) : q ∈ everyQueue (announceStop s) :=
    Classical.byContradiction fun h => n ((sq q).symm.trans (queue_of_not_listed h))
  refine ⟨?_, hm.trans (sameMemory_of_still after.still), fun h => ?_, fun q hst => ?_, fun q c hc hn hp => ?_⟩
  · rw [doff_of_still after.still, hd]
  · rw [led_of_still after.still, hl]
  · obtain ⟨t, ht, e, r⟩ := own q (listed q fun n => by rw [n] at hst; simp at hst)
    obtain ⟨h1, h2⟩ := stopQueue_states ht q
    rw [r, h1, h2, e, sq]
    exact ⟨by rcases hst with h | h | h <;> rw [h] <;> rfl, rfl⟩
  · obtain ⟨t, ht, e, r⟩ := own q (listed q fun n => by rw [n] at hc; cases hc)
    rw [r]
    exact stopQueue_single ht (by rw [e, sq, hc]) hn hp

end Sys2Proof.Machine
end

section
/-!
The doff deadline of a hub die (R507, R513).
-/

namespace Sys2Proof.Machine

/-! ## What runs on a queue ends -/

/-- What the deadline does with one command of queue q. -/
def expireOne (q : QIdx) (s : State) (c : Cmd) : State := if c.phase = .ended then s else doffCmd s q c
/-- What the deadline does with queue q. -/
def expireQueue (s : State) (q : QIdx) : State := (s.queue q).cmds.foldl (expireOne q) s

/-- A command that has not ended has the number of one that is yet to be ended. -/
def Pending (l : List Cmd) (y : Cmd) : Prop := HeadEmpty y ∧ (y.phase ≠ .ended → ∃ c ∈ l, c.phase ≠ .ended ∧ c.seq = y.seq)
theorem pending_closed (l : List Cmd) : CoreClosed (Pending l) := fun a b e ⟨hh, hp⟩ => by
  have seq : b.seq = a.seq := (congrArg Prod.fst e :)
  have phase : b.phase = a.phase := (congrArg (fun x => x.2.1) e :)
  exact ⟨headEmpty_closed a b e hh, fun n => by
    rw [seq]
    exact hp (phase ▸ n)⟩
theorem pending_nil {y : Cmd} (h : Pending [] y) : y.phase = .ended :=
  Classical.byContradiction fun n => by
    obtain ⟨c, hc, -⟩ := h.2 n
    exact List.not_mem_nil hc
theorem pending_self {l : List Cmd} (hh : ∀ c ∈ l, c.head = []) : ∀ y ∈ l, Pending l y := fun y hy => ⟨hh y hy, fun n => ⟨y, hy, n, rfl⟩⟩

theorem expire_foldl {q : QIdx} (l : List Cmd) {s : State} (ok : QueuesOk s) (hh : ∀ c ∈ l, c.head = []) :
    CmdStep q (Pending l) (Pending []) s (l.foldl (expireOne q) s) := by
  induction l generalizing s with
  | nil => exact .refl ok
  | cons a l ih =>
    have first : CmdStep q (Pending (a :: l)) (Pending l) s (expireOne q s a) := by
      unfold expireOne
      split
      next ended =>
        refine (CmdStep.refl ok).weaken fun y h => ⟨h.1, fun n => ?_⟩
        obtain ⟨c, hc, hp, hs⟩ := h.2 n
        rcases List.mem_cons.1 hc with rfl | hc
        · exact absurd ended hp
        · exact ⟨c, hc, hp, hs⟩
      next running =>
        refine doffCmd_step ok (pending_closed _) (pending_closed _) (hh a (by simp)) running (fun y h n => ⟨h.1, fun m => ?_⟩)
          fun d h => ⟨h.2.2.1, fun n => absurd h.2.1 n⟩
        obtain ⟨c, hc, hp, hs⟩ := h.2 m
        rcases List.mem_cons.1 hc with rfl | hc
        · exact absurd hs.symm n
        · exact ⟨c, hc, hp, hs⟩
    exact first.then fun k => ih k fun c hc => hh c (List.mem_cons_of_mem _ hc)

theorem expireQueue_calm {v s : State} (h : Calm v s) (q : QIdx) :
    Calm v (expireQueue s q) ∧ ∀ r, r ≠ q → (expireQueue s q).queue r = s.queue r := by
  have k : CmdStep q HeadEmpty HeadEmpty s (expireQueue s q) := by
    refine List.foldlRecOn (motive := CmdStep q HeadEmpty HeadEmpty s) _ _ (.refl h.ok) fun t ht c hc => ht.then fun k => ?_
    unfold expireOne
    split
    next => exact .refl k
    next hp => exact doffCmd_calm k (h.heads q c hc) hp
  exact ⟨h.step k, k.others⟩
theorem expireQueue_ended {v s : State} (h : Calm v s) (q : QIdx) : ∀ y ∈ ((expireQueue s q).queue q).cmds, y.phase = .ended := fun y hy =>
  pending_nil ((expire_foldl (s.queue q).cmds h.ok (h.heads q)).cmds (pending_self (h.heads q)) y hy)
theorem expireQueue_single {v s : State} (h : Calm v s) {q : QIdx} {c : Cmd} (hc : (s.queue q).cmds = [c]) (hp : c.phase ≠ .ended) :
    ∃ d, ((expireQueue s q).queue q).cmds = [d] ∧ EndedDoff c d := by
  have e : expireQueue s q = doffCmd s q c := by rw [expireQueue, hc, List.foldl_cons, List.foldl_nil, expireOne, if_neg hp]
  rw [e]
  exact doffCmd_single h.ok hc (h.heads q c (by simp [hc])) hp

/-! ## Fetches in flight fail (R408, R513) -/

/-- Since v, in which every command of hub die h had ended, the queues of h have stayed. -/
structure Past (h : Hub) (v t : State) : Prop where
  calm   : Calm v t
  queues : ∀ q, qHub q = h → t.queue q = v.queue q

theorem Past.of_queues {h : Hub} {v t u : State} (p : Past h v t) (e : u.queues = t.queues) (k : u.still = t.still) : Past h v u := by
  have hq (q : QIdx) : u.queue q = t.queue q := by rw [State.queue, State.queue, e]
  exact ⟨⟨p.calm.ok.of_queues e, k.trans p.calm.still, fun q => by rw [hq]; exact p.calm.heads q⟩, fun q hh => (hq q).trans (p.queues q hh)⟩
theorem Past.step {h : Hub} {v t u : State} (p : Past h v t) {q : QIdx} (k : CmdStep q HeadEmpty HeadEmpty t u) (n : qHub q ≠ h) : Past h v u :=
  ⟨p.calm.step k, fun r hr => (k.others r fun e => n (e ▸ hr)).trans (p.queues r hr)⟩

theorem engineClear_queues (s : State) (i : Nat) : (engineClear s i).queues = s.queues := by
  unfold engineClear
  dsimp only
  split <;> split <;> simp [State.modCreel]
theorem ite_still {c : Prop} [Decidable c] {s a b : State} (ha : a.still = s.still) (hb : b.still = s.still) : (if c then a else b).still = s.still := by
  split
  · exact ha
  · exact hb
theorem engineClear_still (s : State) (i : Nat) : (engineClear s i).still = s.still := by
  unfold engineClear
  extract_lets s1 s2 s3
  have h2 : s2.still = s.still := ite_still (modHub_still s1 _ fun _ => rfl) rfl
  exact ite_still (s := s) (a := s2.modCreel _ _) h2 h2

theorem disarmCheck_past {h : Hub} {v s : State} (hv : ∀ q, qHub q = h → ∀ c ∈ (v.queue q).cmds, c.phase = .ended) (p : Past h v s) (e : Fin 16) :
    Past h v (disarmCheck s e) := by
  unfold disarmCheck
  dsimp only
  split
  next =>
    obtain ⟨t, ht⟩ : ∃ t, t = s.queues.foldl (fun t (k, y) =>
        y.cmds.foldl (fun t c =>
          if c.lateCp.isSome ∧ c.phase = .running ∧ (metSlots s (Fin.ofNat 1024 k) c).any (fun p => decide (p.1 = e) && unfilled s p) then
            endCmd t (Fin.ofNat 1024 k) c .depFailed cFetchFailed 0xFFFF 0 0
          else t) t) s := ⟨_, rfl⟩
    have consumers : Past h v t := by
      rw [ht]
      refine List.foldlRecOn (motive := Past h v) _ _ p fun t pt x hx => ?_
      obtain ⟨k, y⟩ := x
      have hy : s.queue (Fin.ofNat 1024 k) = y := p.calm.ok.queue_of_mem hx
      refine List.foldlRecOn (motive := Past h v) _ _ pt fun t pt c hc => ?_
      have hc : c ∈ (s.queue (Fin.ofNat 1024 k)).cmds := hy ▸ hc
      split
      next waits =>
        have n : qHub (Fin.ofNat 1024 k) ≠ h := fun eh => by
          have ended := hv _ eh c (p.queues _ eh ▸ hc)
          rw [waits.2.1] at ended
          cases ended
        refine pt.step (endCmd_step pt.calm.ok headEmpty_closed headEmpty_closed (p.calm.heads _ c hc) (fun _ h _ => h) (fun d hd => ?_) ..) n
        exact (congrArg (fun x => x.2.2.2) hd :)
      next => exact pt
    rw [← ht]
    have free := consumers.of_queues (u := t.modCreel e fun x => { ({} : Creel) with selBuf := x.selBuf, selSlot := x.selSlot }) rfl rfl
    split
    · exact free.of_queues (engineClear_queues ..) (engineClear_still ..)
    · exact free
  next => exact p
theorem fetchFail_past {h : Hub} {v s : State} (hv : ∀ q, qHub q = h → ∀ c ∈ (v.queue q).cmds, c.phase = .ended) (p : Past h v s) (e : Fin 16)
    (k : Nat) (f : Fetch) (reason : Nat) : Past h v (fetchFail s e k f reason) := by
  unfold fetchFail
  refine disarmCheck_past hv ?_ e
  exact p.of_queues rfl rfl

/-- What the deadline does with the fetches of a creel. -/
def expireCreel (s : State) (e : Fin 16) : State :=
  (s.creel e).fetches.foldl (fun s p =>
    match p.2 with
    | some f => if f.st = .filling then fetchFail s e p.1 f 6 else s
    | none => s) s
theorem expireCreel_past {h : Hub} {v s : State} (hv : ∀ q, qHub q = h → ∀ c ∈ (v.queue q).cmds, c.phase = .ended) (p : Past h v s) (e : Fin 16) :
    Past h v (expireCreel s e) := by
  refine List.foldlRecOn (motive := Past h v) _ _ p fun t pt x _ => ?_
  split
  · split
    · exact fetchFail_past hv pt e ..
    · exact pt
  · exact pt

/-! ## The deadline -/

/-- The queues whose hub die has passed its deadline. -/
def lateQueues (s : State) : List QIdx := (everyQueue s).filter fun q => decide (s.doff.tD (qHub q) ≤ s.now)
theorem doffExpire_eq {s : State} (hs : s.doff.stopped = true) (hd : s.doff.done = false) :
    doffExpire s = ((List.finRange 16).filter fun e => decide (s.doff.tD (Fin.ofNat 2 (e.val / 8)) ≤ s.now)).foldl expireCreel
      ((lateQueues s).foldl expireQueue s) := by
  unfold doffExpire
  rw [if_neg (by simp [hs, hd])]
  rfl

/-- At its doff deadline every command of a hub die ends (R507). -/
theorem doffExpire_frame {s : State} (ok : QueuesOk s) {h : Hub} (hs : s.doff.stopped = true) (hd : s.doff.done = false) (late : s.doff.tD h ≤ s.now)
    (hh : ∀ q, ∀ c ∈ (s.queue q).cmds, c.head = []) :
    (∀ q, qHub q = h → ∀ c ∈ ((doffExpire s).queue q).cmds, c.phase = .ended) ∧
      (∀ q c, qHub q = h → (s.queue q).cmds = [c] → c.phase ≠ .ended → ∃ d, ((doffExpire s).queue q).cmds = [d] ∧ EndedDoff c d) ∧
      SameMemory s (doffExpire s) := by
  obtain ⟨after, others, own⟩ := foldl_queue (I := Calm s) (fun t q h => expireQueue_calm h q) (lateQueues s) (ok.nodup.filter _) ⟨ok, rfl, hh⟩
  have listed (q : QIdx) (hq : qHub q = h) (n : s.queue q ≠ {}) : q ∈ lateQueues s := by
    refine List.mem_filter.2 ⟨Classical.byContradiction fun m => n (queue_of_not_listed m), ?_⟩
    rw [hq]
    exact decide_eq_true late
  obtain ⟨v, hv⟩ : ∃ v, v = (lateQueues s).foldl expireQueue s := ⟨_, rfl⟩
  rw [← hv] at after others own
  have ended (q : QIdx) (hq : qHub q = h) : ∀ c ∈ (v.queue q).cmds, c.phase = .ended := by
    by_cases m : q ∈ lateQueues s
    · obtain ⟨t, ht, -, r⟩ := own q m
      rw [r]
      exact expireQueue_ended ht q
    · have e : s.queue q = {} := Classical.byContradiction fun n => m (listed q hq n)
      rw [others q m, e]
      exact fun c hc => absurd (show c ∈ ([] : List Cmd) from hc) List.not_mem_nil
  have past : Past h v (doffExpire s) := by
    rw [doffExpire_eq hs hd, ← hv]
    exact List.foldlRecOn (motive := Past h v) _ _ ⟨⟨after.ok, rfl, after.heads⟩, fun _ _ => rfl⟩ fun t pt e _ => expireCreel_past ended pt e
  refine ⟨fun q hq => ?_, fun q c hq hc hp => ?_, sameMemory_of_still (past.calm.still.trans after.still)⟩
  · rw [past.queues q hq]
    exact ended q hq
  · obtain ⟨t, ht, e, r⟩ := own q (listed q hq fun n => by rw [n] at hc; cases hc)
    rw [past.queues q hq, r]
    exact expireQueue_single ht (e ▸ hc) hp

/-- Before both deadlines nothing expires. -/
theorem doffExpire_early {s : State} (h0 : s.now < s.doff.tD 0) (h1 : s.now < s.doff.tD 1) : doffExpire s = s := by
  have early (h : Hub) : decide (s.doff.tD h ≤ s.now) = false := by
    obtain rfl | rfl := hub_cases h
    · exact decide_eq_false (Nat.not_le.2 h0)
    · exact decide_eq_false (Nat.not_le.2 h1)
  unfold doffExpire
  simp only [early, List.filter_false, List.foldl_nil, ite_self]

end Sys2Proof.Machine
end

section
/-!
PWR_WARN: the cut and the doff it starts, and its clear (R97, R99, R502, R518–R520, R532).
-/

namespace Sys2Proof.Machine

/-! ## PWR_WARN asserts a cut (R97) -/

/-- What a change of hub die h's governor leaves: memory, doff, ledgers, and the other hub die's cut. -/
structure SameButCut (h : Hub) (s t : State) : Prop where
  mem    : SameMemory s t
  doff   : t.doff = s.doff
  led    : ∀ k, (t.hub k).led = (s.hub k).led
  others : ∀ k, k ≠ h → (t.hub k).gov.cutPwr = (s.hub k).gov.cutPwr ∧ (t.hub k).gov.cutActive = (s.hub k).gov.cutActive
/-- Hub die h is cut by PWR_WARN. -/
structure CutOn (h : Hub) (s t : State) : Prop extends SameButCut h s t where
  pwr : (t.hub h).gov.cutPwr = true
  act : (t.hub h).gov.cutActive = true

section
variable {h : Hub} {s t u : State}

theorem SameButCut.trans (a : SameButCut h s t) (b : SameButCut h t u) : SameButCut h s u where
  mem := a.mem.trans b.mem
  doff := b.doff.trans a.doff
  led k := (b.led k).trans (a.led k)
  others k n := ⟨(b.others k n).1.trans (a.others k n).1, (b.others k n).2.trans (a.others k n).2⟩
theorem SameButCut.of_still (e : t.still = s.still) : SameButCut h s t where
  mem := sameMemory_of_still e
  doff := doff_of_still e
  led := led_of_still e
  others k _ := ⟨cutPwr_of_still e k, cutActive_of_still e k⟩
theorem modGov_hub_ne (s : State) {h k : Hub} (n : k ≠ h) (f : Gov → Gov) : (s.modGov h f).hub k = s.hub k := by
  rw [State.modGov, State.modHub_hub, if_neg n]
theorem modGov_led (s : State) (h k : Hub) (f : Gov → Gov) : ((s.modGov h f).hub k).led = (s.hub k).led := by
  rw [State.modGov, State.modHub_hub]
  split
  next e => rw [e]
  next => rfl
theorem SameButCut.modGov (s : State) (h : Hub) (f : Gov → Gov) : SameButCut h s (s.modGov h f) where
  mem := (modGov_sameRest s h f).1
  doff := (modGov_sameRest s h f).2.2.2.2.1
  led k := modGov_led s h k f
  others k n := by rw [modGov_hub_ne s n]; exact ⟨rfl, rfl⟩
theorem CutOn.of_still (a : CutOn h s t) (e : u.still = t.still) : CutOn h s u where
  toSameButCut := a.toSameButCut.trans (.of_still e)
  pwr := (cutPwr_of_still e h).trans a.pwr
  act := (cutActive_of_still e h).trans a.act
theorem CutOn.after (a : SameButCut h s t) (b : CutOn h t u) : CutOn h s u where
  toSameButCut := a.trans b.toSameButCut
  pwr := b.pwr
  act := b.act

/-- Work on the governor that leaves what asserts a cut and whether one is in effect. -/
theorem modGov_still (s : State) (h : Hub) {f : Gov → Gov} (hp : ∀ g, (f g).cutPwr = g.cutPwr) (ha : ∀ g, (f g).cutActive = g.cutActive) :
    (s.modGov h f).still = s.still := modHub_still s h fun x => by simp only [HubSt.still, hp, ha]
theorem event_still (s : State) (p i : Nat) : (s.event p i).still = s.still := notices_still (event_notices s p i)

/-- A cut that PWR_WARN asserts is in effect. -/
theorem cutApply_cutOn (hp : (s.hub h).gov.cutPwr = true) : CutOn h s (cutApply s h) := by
  have asserted : ¬ ((!cutAsserted (s.hub h).gov && !(s.hub h).gov.cutActive) = true) := by simp [cutAsserted, hp]
  unfold cutApply
  rw [if_neg asserted]
  extract_lets entering s1 s2
  have h1 : CutOn h s s1 := ⟨.modGov s h _, by rw [modGov_hub]; exact hp, by rw [modGov_hub]⟩
  have h2 : CutOn h s s2 := h1.of_still (ite_still (a := (s1.event (govPage h) 0).count (govPage h) 0x098 1) (event_still s1 _ _) rfl)
  split
  · refine h2.of_still ((modGov_still _ h (fun g => ?_) fun g => ?_).trans (still_of_gated (slowClocks_gated s2 h)))
    · split <;> rfl
    · split <;> rfl
  · exact h2

theorem regate_still (s : State) (h : Hub) : (regate s h).still = s.still := by
  refine foldl_keeps State.still _ _ _ fun t p => ?_
  split
  · exact still_of_gated (hold_gated ..)
  · rfl
theorem cutPower_cutOn (s : State) (h : Hub) : CutOn h s (cutPower s h) := by
  unfold cutPower
  extract_lets g s1
  have h1 : SameButCut h s s1 := .modGov s h _
  have hp : (s1.hub h).gov.cutPwr = true := by rw [modGov_hub]
  split
  · split
    · exact .after h1 (cutApply_cutOn hp)
    · extract_lets g1 s2 s3
      have e : s3.still = s1.still := by
        refine (regate_still _ h).trans ((modGov_still _ h (fun _ => ?_) fun _ => ?_).trans (ite_still ?_ ?_)) <;> rfl
      have hp3 : (s3.hub h).gov.cutPwr = true := (cutPwr_of_still e h).trans hp
      exact .after (h1.trans (.of_still e)) ((cutApply_cutOn hp3).of_still (still_of_gated (dispatchHeld_gated _ h)))
  · exact .after h1 (cutApply_cutOn hp)

end

/-- Both hub dies are cut. -/
def cutBoth (s : State) : State := bothHubs.foldl cutPower s
theorem cutBoth_frame (s : State) :
    SameMemory s (cutBoth s) ∧ (cutBoth s).doff = s.doff ∧ (∀ h, ((cutBoth s).hub h).led = (s.hub h).led) ∧
      ∀ h, ((cutBoth s).hub h).gov.cutPwr = true ∧ ((cutBoth s).hub h).gov.cutActive = true := by
  have a := cutPower_cutOn s 0
  have b : CutOn 1 (cutPower s 0) (cutBoth s) := cutPower_cutOn _ 1
  refine ⟨a.mem.trans b.mem, b.doff.trans a.doff, fun h => (b.led h).trans (a.led h), fun h => ?_⟩
  obtain rfl | rfl := hub_cases h
  · obtain ⟨e1, e2⟩ := b.others 0 (by decide)
    exact ⟨e1.trans a.pwr, e2.trans a.act⟩
  · exact ⟨b.pwr, b.act⟩

/-! ## The doff begins (R502) -/

/-- Both ledgers are stopping. -/
def stopLedgers (s : State) : State := bothHubs.foldl (fun s h => (s.modLed h fun d => { d with st := .stopping }).count (ledPage h) 0x080 1) s
theorem stopLedgers_frame (s : State) :
    SameMemory s (stopLedgers s) ∧ (stopLedgers s).doff = s.doff ∧ ∀ h, ((stopLedgers s).hub h).led.st = .stopping := by
  have one (t : State) (h : Hub) : SameRest t ((t.modLed h fun d => { d with st := .stopping }).count (ledPage h) 0x080 1) :=
    (modLed_sameRest t h _).trans (count_sameRest ..)
  obtain ⟨hm, -, -, -, hd, -⟩ := (one s 0).trans (one _ 1)
  refine ⟨hm, hd, fun h => ?_⟩
  have e : ((stopLedgers s).hub h).led = (((((s.modLed 0 fun d => { d with st := .stopping }).count (ledPage 0) 0x080 1).modLed 1
    fun d => { d with st := .stopping })).hub h).led := rfl
  rw [e, modLed_hub]
  obtain rfl | rfl := hub_cases h
  · rw [if_neg (by decide)]
    have e0 := modLed_hub s 0 0 fun d => { d with st := .stopping }
    rw [if_pos rfl] at e0
    exact congrArg Led.st e0
  · rw [if_pos rfl]

/-- The doff of a state that PWR_WARN starts. -/
def startedDoff (s : State) : Doff :=
  { active := true, warned := true, tW := s.now, tD0 := s.now + us s.hub0.led.deadline, tD1 := s.now + us s.hub1.led.deadline, fatal := s.doff.fatal }
theorem startedDoff_tD (s : State) (h : Hub) : (startedDoff s).tD h = s.now + us (s.hub h).led.deadline := by
  obtain rfl | rfl := hub_cases h <;> rfl
theorem doffBegin_unready {s : State} (hr : s.boot.ready = false) : doffBegin s = cutBoth s := by
  unfold doffBegin
  rw [if_pos (by simp [hr])]
  rfl
theorem doffBegin_ready {s : State} (hr : s.boot.ready = true) (ha : s.doff.active = false) (hd : s.doff.done = false) :
    doffBegin s = cutBoth (stopLedgers { s with doff := startedDoff s }) := by
  unfold doffBegin
  simp only [hr, ha, hd, Bool.not_true, Bool.false_eq_true, if_false]
  rfl
theorem doffBegin_done {s : State} (hr : s.boot.ready = true) (hd : s.doff.done = true) (hw : s.doff.warned = false) :
    doffBegin s = { s with doff := { s.doff with warned := true }, pins := { s.pins with doffDone := .high } } := by
  unfold doffBegin
  simp only [hr, hd, hw, Bool.not_true, Bool.false_eq_true, if_false, if_true]

/-! ## The clear (R519, R520) -/

/-- The states of all queues stay. -/
structure SameSt (s t : State) : Prop where
  keep : QueuesOk s → QueuesOk t ∧ ∀ r, (t.queue r).st = (s.queue r).st

section
variable {s t u : State}
theorem SameSt.refl (s : State) : SameSt s s := ⟨fun ok => ⟨ok, fun _ => rfl⟩⟩
theorem SameSt.trans (a : SameSt s t) (b : SameSt t u) : SameSt s u where
  keep ok := by
    obtain ⟨o1, e1⟩ := a.keep ok
    obtain ⟨o2, e2⟩ := b.keep o1
    exact ⟨o2, fun r => (e2 r).trans (e1 r)⟩
theorem putCmd_sameSt (s : State) (q : QIdx) (c : Cmd) : SameSt s (putCmd s q c) where
  keep ok := by
    refine ⟨ok.modQueue q _, fun r => ?_⟩
    by_cases e : q = r
    · rw [← e, putCmd, State.modQueue_queue s q _ ok.wf]
    · rw [putCmd, State.modQueue_queue_ne s q r _ e]
theorem count_sameSt (s : State) (p off n : Nat) : SameSt s (s.count p off n) := ⟨fun ok => ⟨ok.of_queues rfl, fun _ => rfl⟩⟩
theorem hold_sameSt (s : State) (q : QIdx) (c : Cmd) : SameSt s (hold s q c) := by
  unfold hold putThrottled
  split
  · exact .refl s
  · split
    · exact (putCmd_sameSt ..).trans (count_sameSt ..)
    · exact putCmd_sameSt ..
theorem refreshReady_sameSt (s : State) (q : QIdx) : SameSt s (refreshReady s q) := by
  unfold refreshReady
  split
  · split
    · exact .refl s
    · split
      · split
        · exact .refl s
        · exact putCmd_sameSt ..
      · exact putCmd_sameSt ..
      · exact putCmd_sameSt ..
  · exact .refl s
theorem qosStalls_sameSt (s : State) (e : Nat) : SameSt s (qosStalls s e) := by
  refine List.foldlRecOn (motive := SameSt s) _ _ (.refl s) fun t ht p _ => ht.trans ?_
  dsimp only
  repeat' split
  · exact putCmd_sameSt ..
  · exact putCmd_sameSt ..
  · exact .refl t
  · exact .refl t
  · exact .refl t
theorem gateReady_sameSt (s : State) (q : QIdx) : SameSt s (gateReady s q) := by
  unfold gateReady
  dsimp only
  refine .trans ?_ (qosStalls_sameSt _ _)
  split
  · split
    · exact (refreshReady_sameSt s q).trans (hold_sameSt ..)
    · exact refreshReady_sameSt s q
  · exact refreshReady_sameSt s q

/-- A step on queue q that leaves the other queues, that does not lead to DOFF, and that adds no command. -/
structure ClearStep (q : QIdx) (s t : State) : Prop where
  ok     : QueuesOk t
  still  : t.still = s.still
  others : ∀ r, r ≠ q → t.queue r = s.queue r
  st     : (s.queue q).st ≠ .doff → (t.queue q).st ≠ .doff
  empty  : (s.queue q).cmds = [] → (t.queue q).cmds = []
  wf     : mwf {} s.blks = true → mwf {} t.blks = true

variable {q : QIdx}
theorem ClearStep.then (a : ClearStep q s t) (b : QueuesOk t → ClearStep q t u) : ClearStep q s u where
  ok := (b a.ok).ok
  still := (b a.ok).still.trans a.still
  others r n := ((b a.ok).others r n).trans (a.others r n)
  st n := (b a.ok).st (a.st n)
  empty n := (b a.ok).empty (a.empty n)
  wf w := (b a.ok).wf (a.wf w)
theorem ClearStep.of_queues (ok : QueuesOk s) (e : t.queues = s.queues) (k : t.still = s.still) (w : mwf {} s.blks = true → mwf {} t.blks = true) :
    ClearStep q s t := by
  have hq (r : QIdx) : t.queue r = s.queue r := by rw [State.queue, State.queue, e]
  exact ⟨ok.of_queues e, k, fun r _ => hq r, by rw [hq]; exact id, by rw [hq]; exact id, w⟩
theorem ClearStep.refl (ok : QueuesOk s) : ClearStep q s s := .of_queues ok rfl rfl id
theorem ClearStep.count (ok : QueuesOk s) (p off n : Nat) : ClearStep q s (s.count p off n) := .of_queues ok rfl rfl fun w => count_wf w _ _ _
theorem ClearStep.modHub (ok : QueuesOk s) (h : Hub) {f : HubSt → HubSt} (hf : ∀ x, (f x).still = x.still) : ClearStep q s (s.modHub h f) :=
  .of_queues ok (State.modHub_queues ..) (modHub_still s h hf) fun w => by rwa [State.modHub_blks]
theorem ClearStep.setQueue (ok : QueuesOk s) {x : Queue} (hx : (s.queue q).st ≠ .doff → x.st ≠ .doff) (hc : (s.queue q).cmds = [] → x.cmds = []) :
    ClearStep q s (s.setQueue q x) := by
  have e := State.setQueue_queue s q x ok.wf
  exact ⟨ok.setQueue q x, rfl, fun r n => State.setQueue_queue_ne s q r x n.symm, by rw [e]; exact hx, by rw [e]; exact hc, id⟩
theorem ClearStep.ite {c : Prop} [Decidable c] {a b : State} (h : ClearStep q s a) (k : ClearStep q s b) : ClearStep q s (if c then a else b) := by
  split
  · exact h
  · exact k

theorem stepEndCheck_clear (ok : QueuesOk s) (h : Hub) (g : Fin 16) : ClearStep q s (stepEndCheck s h g) := by
  have grp : ClearStep q s (s.modGrp h g fun x => { x with st := .awaiting }) := .modHub ok h fun _ => rfl
  unfold stepEndCheck
  exact .ite (.ite (grp.then fun k => .count k ..) grp) (.refl ok)
theorem leaveSteps_clear (ok : QueuesOk s) : ClearStep q s (leaveSteps s q) := by
  unfold leaveSteps
  exact .ite ((ClearStep.setQueue ok (x := { s.queue q with stepIn := false }) id id).then fun k => stepEndCheck_clear k _ _) (.refl ok)
theorem disabled_ne_doff : QState.disabled ≠ .doff := by decide
theorem resetDone_clear (ok : QueuesOk s) : ClearStep q s (resetDone s q) := by
  unfold resetDone
  extract_lets x s1 s2
  have h1 : ClearStep q s s1 := .setQueue ok (fun _ => disabled_ne_doff) fun _ => rfl
  have h2 : ClearStep q s s2 := h1.then fun k => .ite (.of_queues k rfl rfl id) (.refl k)
  exact h2.then fun k => leaveSteps_clear k
/-- Settling a queue. -/
theorem settle_clear (ok : QueuesOk s) : ClearStep q s (settle s q) := by
  have disabled : ClearStep q s (leaveSteps (s.setQueue q { s.queue q with st := .disabled }) q) :=
    (ClearStep.setQueue ok (x := { s.queue q with st := .disabled }) (fun _ => disabled_ne_doff) id).then fun k => leaveSteps_clear k
  unfold settle
  extract_lets x s1
  have h1 : ClearStep q s s1 := by
    show ClearStep q s (match (s.queue q).st with | .draining => _ | .error => _ | .reset => _ | _ => s)
    split
    · exact disabled
    · exact .ite (.refl ok) disabled
    · exact resetDone_clear ok
    · exact .refl ok
  have h2 : ClearStep q s (zeroingCheck s1 (qHub q)) := h1.then fun k => .ite (.modHub k _ fun _ => rfl) (.refl k)
  exact .ite (.refl ok) (h2.then fun k => .ite (.modHub k _ fun _ => rfl) (.refl k))
end

/-- The state in which a queue leaves DOFF. -/
def resumedSt (x : Queue) : QState :=
  match x.preDoff with
  | .halted => if x.enable then .halted else .draining
  | _ => runState x
theorem resumedSt_ne_doff (x : Queue) : resumedSt x ≠ .doff := by
  unfold resumedSt runState
  split <;> split <;> decide
/-- What the clear does with a queue. -/
def clearQueue (s : State) (q : QIdx) : State :=
  if (s.queue q).st = .doff then gateReady (settle (s.setQueue q { s.queue q with st := resumedSt (s.queue q) }) q) q else s
theorem clearQueue_frame {s : State} (ok : QueuesOk s) (q : QIdx) :
    QueuesOk (clearQueue s q) ∧ (clearQueue s q).still = s.still ∧ (∀ r, (s.queue r).st ≠ .doff → ((clearQueue s q).queue r).st = (s.queue r).st) ∧
      ((clearQueue s q).queue q).st ≠ .doff := by
  unfold clearQueue
  split
  next hd =>
    have k : ClearStep q (s.setQueue q { s.queue q with st := resumedSt (s.queue q) })
        (settle (s.setQueue q { s.queue q with st := resumedSt (s.queue q) }) q) := settle_clear (ok.setQueue q _)
    obtain ⟨ok', sameSt⟩ := (gateReady_sameSt _ q).keep k.ok
    refine ⟨ok', (still_of_gated (gateReady_gated _ q)).trans k.still, fun r n => ?_, ?_⟩
    · have hr : r ≠ q := fun e => n (e ▸ hd)
      rw [sameSt, k.others r hr, State.setQueue_queue_ne s q r _ hr.symm]
    · rw [sameSt]
      refine k.st ?_
      rw [State.setQueue_queue s q _ ok.wf]
      exact resumedSt_ne_doff _
  next hd => exact ⟨ok, rfl, fun _ _ => rfl, hd⟩
theorem clearQueue_foldl (l : List QIdx) {s : State} (ok : QueuesOk s) :
    (l.foldl clearQueue s).still = s.still ∧ (∀ r, (s.queue r).st ≠ .doff → ((l.foldl clearQueue s).queue r).st = (s.queue r).st) ∧
      ∀ q ∈ l, ((l.foldl clearQueue s).queue q).st ≠ .doff := by
  induction l generalizing s with
  | nil => exact ⟨rfl, fun _ _ => rfl, nofun⟩
  | cons a l ih =>
    obtain ⟨ok', still, keep, own⟩ := clearQueue_frame ok a
    obtain ⟨still', keep', own'⟩ := ih ok'
    have stays (r : QIdx) (n : (s.queue r).st ≠ .doff) : ((l.foldl clearQueue (clearQueue s a)).queue r).st = (s.queue r).st := by
      rw [keep' r (by rw [keep r n]; exact n), keep r n]
    refine ⟨still'.trans still, stays, fun q hq => ?_⟩
    rcases List.mem_cons.1 hq with rfl | hq
    · rw [List.foldl_cons, keep' q own]
      exact own
    · exact own' q hq

/-- Both ledgers and governors after the clear. -/
def clearHub (s : State) (h : Hub) : State :=
  (((s.modLed h fun d => { d with st := .normal }).modGov h fun g => { g with cutPwr := false }).count (ledPage h) 0x088 1).event (ledPage h) 2
theorem clearHub_frame (s : State) (h : Hub) :
    SameRest s (clearHub s h) ∧ ((clearHub s h).hub h).led.st = .normal ∧ ((clearHub s h).hub h).gov.cutPwr = false ∧
      ∀ k, k ≠ h → (clearHub s h).hub k = s.hub k := by
  have e (k : Hub) : (clearHub s h).hub k = ((s.modLed h fun d => { d with st := .normal }).modGov h fun g => { g with cutPwr := false }).hub k :=
    (event_notices ((((s.modLed h fun d => { d with st := .normal }).modGov h fun g => { g with cutPwr := false }).count (ledPage h) 0x088 1)) _ 2).hub k
  refine ⟨(modLed_sameRest s h _).trans ((modGov_sameRest _ h _).trans ((count_sameRest _ _ _ _).trans (event_sameRest _ _ _))), ?_, ?_, fun k n => ?_⟩
  · rw [e, modGov_led, modLed_hub, if_pos rfl]
  · rw [e, modGov_hub]
  · rw [e, modGov_hub_ne _ n, State.modLed, State.modHub_hub, if_neg n]

theorem doffClear_idle {s : State} (ha : s.doff.active = false) (hd : s.doff.done = false) :
    doffClear s = (s.modGov 0 fun g => { g with cutPwr := false }).modGov 1 fun g => { g with cutPwr := false } := by
  unfold doffClear
  rw [if_pos (by simp [ha, hd])]
  rfl
theorem doffClear_done {s : State} (ha : s.doff.active = false) (hd : s.doff.done = true) : doffClear s = s := by
  unfold doffClear
  rw [if_neg (by simp [hd]), if_pos (by simp [ha])]
theorem doffClear_active {s : State} (ha : s.doff.active = true) (hf : s.doff.fatal = false) (hm : s.mgt.fatal = false) (h0 : commitBegun s 0 = false)
    (h1 : commitBegun s 1 = false) (hc : s.hub0.led.clearAct = false) :
    doffClear s = (everyQueue (clearHub (clearHub { s with doff := {} } 0) 1)).foldl clearQueue (clearHub (clearHub { s with doff := {} } 0) 1) := by
  unfold doffClear
  rw [if_neg (by simp [ha]), if_neg (by simp [ha, hf, hm, h0, h1, hc])]
  rfl

/-- The clear before the first commit: normal operation (R519). -/
theorem doffClear_frame {s : State} (ok : QueuesOk s) (ha : s.doff.active = true) (hf : s.doff.fatal = false) (hm : s.mgt.fatal = false)
    (h0 : commitBegun s 0 = false) (h1 : commitBegun s 1 = false) (hc : s.hub0.led.clearAct = false) :
    (doffClear s).doff = {} ∧ (∀ k, ((doffClear s).hub k).led.st = .normal ∧ ((doffClear s).hub k).gov.cutPwr = false) ∧
      (∀ q, (s.queue q).st = .doff → ((doffClear s).queue q).st ≠ .doff) ∧
      (∀ q, (s.queue q).st ≠ .doff → ((doffClear s).queue q).st = (s.queue q).st) ∧ SameMemory s (doffClear s) := by
  rw [doffClear_active ha hf hm h0 h1 hc]
  obtain ⟨u, hu⟩ : ∃ u, u = clearHub (clearHub { s with doff := {} } 0) 1 := ⟨_, rfl⟩
  obtain ⟨r0, l0, g0, -⟩ := clearHub_frame { s with doff := {} } 0
  obtain ⟨r1, l1, g1, k1⟩ := clearHub_frame (clearHub { s with doff := {} } 0) 1
  rw [← hu] at r1 l1 g1 k1 ⊢
  obtain ⟨mem, ⟨queues, -⟩, -, -, doff, -⟩ := r0.trans r1
  have mem : SameMemory s u := mem
  have queues : u.queues = s.queues := queues
  have sq (q : QIdx) : u.queue q = s.queue q := by rw [State.queue, State.queue, queues]
  have hubs (k : Hub) : (u.hub k).led.st = .normal ∧ (u.hub k).gov.cutPwr = false := by
    obtain rfl | rfl := hub_cases k
    · rw [k1 0 (by decide)]
      exact ⟨l0, g0⟩
    · exact ⟨l1, g1⟩
  obtain ⟨still, keep, own⟩ := clearQueue_foldl (everyQueue u) (ok.of_queues queues)
  refine ⟨(doff_of_still still).trans doff, fun k => ?_, fun q hq => own q ?_, fun q hq => ?_, mem.trans (sameMemory_of_still still)⟩
  · rw [led_of_still still, cutPwr_of_still still]
    exact hubs k
  · refine Classical.byContradiction fun n => ?_
    rw [← sq, queue_of_not_listed n] at hq
    exact absurd hq disabled_ne_doff
  · rw [keep q (by rw [sq]; exact hq), sq]

/-! ## A view is released (R532) -/

theorem pageAccess_viewRel (s : State) (h : Hub) : pageAccess s .prostoza (ledPage h) 0x148 4 1 = viewRelease s h (mget 0 (s.hub h).led.viewSel 0) := by
  have act (k : Hub) {w : Wr} (ho : w.off = 0x148) (hw : w.wm ≠ 0) (hs : w.sets 0 = true) (c : Nat) : ledAct s k 0 c w = viewRelease s k c := by
    simp [ledAct, ho, hw, hs]
  obtain rfl | rfl := hub_cases h
  · refine (pageAccess_hub_prostoza s 0 (by decide) ixLed 0x148 1 (by decide) (by decide) rfl (.led 0) rfl rfl (by decide) (by decide) (by decide)).trans ?_
    exact act 0 rfl (show fieldsMask (fieldsOf (.led 0) 0x148) ≠ 0 by decide) rfl _
  · refine (pageAccess_hub_prostoza s 1 (by decide) ixLed 0x148 1 (by decide) (by decide) rfl (.led 1) rfl rfl (by decide) (by decide) (by decide)).trans ?_
    exact act 1 rfl (show fieldsMask (fieldsOf (.led 1) 0x148) ≠ 0 by decide) rfl _

end Sys2Proof.Machine
end

section
/-!
The commit of a hub die (R511, R515–R518).
-/

namespace Sys2Proof.Machine

/-! ## Writes of memory where nothing is cached, poisoned or decayed -/

/-- No cache holds a line or is enabled, nothing is poisoned, no bit has changed by itself. -/
structure Clean (s : State) : Prop where
  caches : s.caches = []
  poison : s.poison = []
  upsets : s.upsets = []

/-- A write has changed memory, reservations and counters, and nothing else. -/
structure Wrote (s t : State) : Prop where
  eq : t = { s with mem := t.mem, cores := t.cores, blks := t.blks }
  wf : mwf {} s.blks = true → mwf {} t.blks = true

section
variable {s t u : State}
theorem Wrote.refl (s : State) : Wrote s s := ⟨rfl, id⟩
theorem Wrote.trans (a : Wrote s t) (b : Wrote t u) : Wrote s u where
  eq := by
    rw [b.eq, a.eq]
  wf w := b.wf (a.wf w)
theorem Wrote.hub (a : Wrote s t) (h : Hub) : t.hub h = s.hub h := by
  rw [a.eq]
  rfl
theorem Wrote.queues (a : Wrote s t) : t.queues = s.queues := by rw [a.eq]
theorem Wrote.clean (a : Wrote s t) (c : Clean s) : Clean t := by
  rw [a.eq]
  exact ⟨c.caches, c.poison, c.upsets⟩
theorem Clean.cache (c : Clean s) (i : Nat) : s.cache i = {} := by
  rw [State.cache, c.caches]
  rfl

theorem wrThrough_wrote (c : Clean s) (i o : Nat) (bs : List Byte) : Wrote s (wrThrough s i o bs) := by
  have e : (s.store (cacheBase i + o) bs).cache i = {} := c.cache i
  unfold wrThrough
  dsimp only
  rw [e]
  exact ⟨rfl, id⟩
theorem wrSector_wrote (c : Clean s) (i : Nat) (a : Acc) (o : Nat) (bs : List Byte) : Wrote s (wrSector s i a o bs) := by
  have e : wrSector s i a o bs = wrThrough s i o bs := by
    unfold wrSector
    dsimp only
    rw [c.cache i]
    exact ite_self _
  rw [e]
  exact wrThrough_wrote c i o bs
theorem poisonOnWrite_clean (c : Clean s) (o n : Nat) : poisonOnWrite s o n = s := by
  have held (i k : Nat) : findLine (s.cache i) k = none := by
    rw [c.cache]
    rfl
  have poison : poisoned s (granule o) = false := by
    rw [poisoned, c.poison]
    rfl
  unfold poisonOnWrite
  dsimp only
  rw [poison]
  split
  · rw [held]
    rfl
  · rfl
theorem mergeErrors_clean (c : Clean s) (a : Acc) (o n : Nat) : mergeErrors s a o n = s := by
  unfold mergeErrors
  rw [c.upsets]
  rfl
theorem wrPiece_wrote (c : Clean s) (w : Option CoreId) (a : Acc) (o : Nat) (bs : List Byte) : Wrote s (wrPiece s w a o bs) := by
  have lost : Wrote s (loseResv s w (granule o)) := ⟨rfl, id⟩
  have c' := lost.clean c
  unfold wrPiece
  dsimp only
  rw [mergeErrors_clean c', poisonOnWrite_clean c']
  split
  · exact List.foldlRecOn (motive := Wrote s) _ _ lost fun t ht x _ => ht.trans (wrSector_wrote (ht.clean c) ..)
  · split
    · exact lost.trans ⟨rfl, fun w => count_wf w _ _ _⟩
    · exact lost.trans ⟨rfl, fun w => count_wf w _ _ _⟩
    · exact lost.trans ⟨rfl, id⟩
theorem writeMem_wrote (c : Clean s) (w : Option CoreId) (a : Acc) (o : Nat) (bs : List Byte) : Wrote s (writeMem s w a o bs) :=
  List.foldlRecOn (motive := Wrote s) _ _ (.refl s) fun _ ht _ _ => ht.trans (wrPiece_wrote (ht.clean c) ..)
theorem writeCopy_wrote (c : Clean s) (h : Hub) (b : Bool) : Wrote s (writeCopy s h b) := by
  have next : ∀ (t : State) (o : Nat) (bs : List Byte), Wrote s t → Wrote s (writeMem t none {} o bs) :=
    fun t o bs k => k.trans (writeMem_wrote (k.clean c) none {} o bs)
  -- the choice of the copy and the writes are abstracted, so that no step of the proof evaluates a copy's bytes
  obtain ⟨write, hw⟩ : ∃ f, f = writeCopy := ⟨_, rfl⟩
  rw [← hw]
  delta writeCopy at hw
  generalize validCopy = valid at hw
  generalize writeMem = put at next hw
  subst hw
  beta_reduce
  generalize valid s h = copy
  cases copy
  · exact next _ _ _ (next _ _ _ (.refl s))
  · exact next _ _ _ (next _ _ _ (.refl s))
end

/-! ## What a commit leaves -/

/-- What stays of the state through a commit, the hub dies left out. -/
def State.plain (s : State) : State := { s.still with mem := [], hub0 := {}, hub1 := {} }

/-- A state on the way of hub die h's commit from s, with no command in its queues. -/
structure Committing (h : Hub) (s t : State) : Prop where
  ok    : QueuesOk t
  plain : t.plain = s.plain
  other : (t.hub (1 - h)).led = (s.hub (1 - h)).led
  empty : ∀ q, qHub q = h → (t.queue q).cmds = []
  wf    : mwf {} t.blks = true

section
variable {h : Hub} {s t u : State}
theorem Committing.clean (a : Committing h s t) (c : Clean s) : Clean t where
  caches := (congrArg State.caches a.plain :).trans c.caches
  poison := (congrArg State.poison a.plain :).trans c.poison
  upsets := (congrArg State.upsets a.plain :).trans c.upsets
theorem Committing.doff (a : Committing h s t) : t.doff = s.doff := (congrArg State.doff a.plain :)
theorem Committing.mgt (a : Committing h s t) : t.mgt = s.mgt := (congrArg State.mgt a.plain :)
theorem Committing.of_queues (a : Committing h s t) (e : u.queues = t.queues) (p : u.plain = t.plain) (o : (u.hub (1 - h)).led = (t.hub (1 - h)).led)
    (w : mwf {} u.blks = true) : Committing h s u where
  ok := a.ok.of_queues e
  plain := p.trans a.plain
  other := o.trans a.other
  empty q hq := by
    rw [State.queue, e]
    exact a.empty q hq
  wf := w
theorem Committing.wrote (a : Committing h s t) (b : Wrote t u) : Committing h s u := by
  refine a.of_queues b.queues ?_ (congrArg HubSt.led (b.hub _)) (b.wf a.wf)
  rw [b.eq]
  rfl
theorem hub_other_ne : ∀ h : Hub, 1 - h ≠ h := by decide
theorem modHub_plain (s : State) (h : Hub) (f : HubSt → HubSt) : (s.modHub h f).plain = s.plain := by
  unfold State.modHub State.setHub
  split <;> rfl
theorem Committing.modHub (a : Committing h s t) (f : HubSt → HubSt) : Committing h s (t.modHub h f) := by
  refine a.of_queues (State.modHub_queues ..) (modHub_plain t h f) ?_ (by rw [State.modHub_blks]; exact a.wf)
  rw [State.modHub_hub, if_neg (hub_other_ne h)]
theorem Committing.clear (a : Committing h s t) {q : QIdx} (hq : qHub q = h) (k : ClearStep q t u) : Committing h s u where
  ok := k.ok
  plain := (congrArg State.plain k.still :).trans a.plain
  other := (led_of_still k.still _).trans a.other
  empty r hr := by
    by_cases e : r = q
    · rw [e]
      exact k.empty (a.empty q hq)
    · rw [k.others r e]
      exact a.empty r hr
  wf := k.wf a.wf

/-- The journal drains its n oldest entries; of the hub die nothing else changes. -/
theorem drainJournal_frame (c : Clean s) (n : Nat) (a : Committing h s t) :
    Committing h s (drainJournal t h n) ∧
      ((drainJournal t h n).hub h).led = { (t.hub h).led with journal := (t.hub h).led.journal.drop n } := by
  induction n generalizing t with
  | zero => exact ⟨a, rfl⟩
  | succ n ih =>
    unfold drainJournal
    split
    next e =>
      refine ⟨a, ?_⟩
      rw [e, List.drop_nil, ← e]
    next o b rest e =>
      have a1 := a.modHub fun x => { x with led := { x.led with journal := rest } }
      have w := wrPiece_wrote (a1.clean c) none {} o [b]
      obtain ⟨a2, hl⟩ := ih (a1.wrote w)
      refine ⟨a2, ?_⟩
      rw [hl, w.hub, State.modHub_hub, if_pos rfl, e]
      rfl

/-- A queue without commands has no records to write; at most it settles. -/
theorem completeAll_committing (a : Committing h s t) {q : QIdx} (hq : qHub q = h) (n : Nat) : Committing h s (completeAll t q n) := by
  have one {t : State} (a : Committing h s t) : Committing h s (completeOne t q) := by
    unfold completeOne
    dsimp only
    rw [a.empty q hq]
    dsimp only
    split
    · exact a.clear hq (settle_clear a.ok)
    · exact a
  induction n generalizing t with
  | zero => exact a
  | succ n ih =>
    unfold completeAll
    dsimp only
    split
    · exact one a
    · exact ih (one a)
end

/-! ## The commit (R511, R515) -/

theorem qHub_of_listed {s : State} {h : Hub} {q : QIdx} (hq : q ∈ listedQueues s h) : qHub q = h := by simpa using (List.mem_filter.1 hq).2

/-- What remains is ended: nothing, where the queues hold no command. -/
theorem endRemaining_none {s : State} {h : Hub} (he : ∀ q, qHub q = h → (s.queue q).cmds = []) :
    (listedQueues s h).foldl (fun s q => (s.queue q).cmds.foldl (expireOne q) s) s = s := by
  refine List.foldlRecOn (motive := fun t => t = s) _ _ rfl fun t ht q hq => ?_
  rw [ht, he q (qHub_of_listed hq)]
  rfl
/-- The records that are outstanding. -/
def writeRecords (s : State) (h : Hub) : State :=
  (listedQueues s h).foldl (fun s q => completeAll (drainJournal s h (s.hub h).led.journal.length) q 256) s
/-- The journal and the knot unit of a hub die whose ledger is committing. -/
def closeLedger (s : State) (h : Hub) : State :=
  let s := s.modLed h fun d => { d with st := .committing }
  knotEnd (drainJournal s h (s.hub h).led.journal.length) h
/-- The commit point. -/
def commitPoint (s : State) (h : Hub) : State := (s.modLed h fun d => { d with committed := true, views := allCtx }).event (ledPage h) 1
theorem commitHub_eq {s : State} {h : Hub} (hs : s.doff.stopped = true) (hb : commitBegun s h = false) (he : ∀ q, qHub q = h → (s.queue q).cmds = []) :
    commitHub s h = commitPoint (writeCopy (closeLedger (writeRecords s h) h) h true) h := by
  have ended : hankEnded s h = true := List.all_eq_true.2 fun q hq => by
    rw [he q (qHub_of_listed hq)]
    rfl
  unfold commitHub
  rw [if_neg (by simp [hs, hb, ended])]
  show commitPoint (writeCopy (closeLedger (writeRecords ((listedQueues s h).foldl (fun s q => (s.queue q).cmds.foldl (expireOne q) s) s) h) h) h true) h = _
  rw [endRemaining_none he]

theorem ledPage_offPorts : ∀ h, OffPorts (ledPage h) := by unfold OffPorts; decide
theorem knotEnd_led (s : State) (h : Hub) : ((knotEnd s h).hub h).led = (s.hub h).led := by
  rw [knotEnd, State.modHub_hub, if_pos rfl, knotFlush, State.modHub_hub, if_pos rfl]
theorem knotEnd_seqs (s : State) (h : Hub) : ((knotEnd s h).hub h).flk.knot.seqs = [] := by
  rw [knotEnd, State.modHub_hub, if_pos rfl, knotFlush, State.modHub_hub, if_pos rfl]
theorem knotEnd_committing {h : Hub} {s t : State} (a : Committing h s t) : Committing h s (knotEnd t h) := by
  unfold knotEnd knotFlush
  exact (a.modHub _).modHub _
theorem closeLedger_frame {h : Hub} {s t : State} (c : Clean s) (a : Committing h s t) :
    Committing h s (closeLedger t h) ∧ ((closeLedger t h).hub h).led.journal = [] ∧ ((closeLedger t h).hub h).led.st = .committing ∧
      ((closeLedger t h).hub h).flk.knot.seqs = [] := by
  have a1 : Committing h s (t.modLed h fun d => { d with st := .committing }) := a.modHub _
  have l1 : ((t.modLed h fun d => { d with st := .committing }).hub h).led.st = .committing := by rw [modLed_hub, if_pos rfl]
  obtain ⟨a2, hl⟩ := drainJournal_frame c (((t.modLed h fun d => { d with st := .committing }).hub h).led.journal.length) a1
  refine ⟨knotEnd_committing a2, ?_, ?_, knotEnd_seqs _ h⟩
  · rw [closeLedger, knotEnd_led, hl]
    exact List.drop_length
  · rw [closeLedger, knotEnd_led, hl]
    exact l1

/-- What a commit does (R511, R515). -/
theorem commitHub_frame {s : State} {h : Hub} (ok : QueuesOk s) (w : mwf {} s.blks = true) (c : Clean s) (hs : s.doff.stopped = true)
    (hb : commitBegun s h = false) (he : ∀ q, qHub q = h → (s.queue q).cmds = []) :
    let t := commitHub s h
    (t.hub h).led.committed = true ∧ (t.hub h).led.views = allCtx ∧ (t.hub h).led.journal = [] ∧ (t.hub h).led.st = .committing ∧
      (t.hub h).flk.knot.seqs = [] ∧ (t.blk (ledPage h)).intStat.getLsbD 1 = true ∧ (t.hub (1 - h)).led = (s.hub (1 - h)).led ∧
      t.doff = s.doff ∧ t.mgt = s.mgt := by
  have a0 : Committing h s s := ⟨ok, rfl, rfl, he, w⟩
  have a1 : Committing h s (writeRecords s h) :=
    List.foldlRecOn (motive := Committing h s) _ _ a0 fun t a q hq => completeAll_committing (drainJournal_frame c _ a).1 (qHub_of_listed hq) 256
  obtain ⟨a2, journal, st, seqs⟩ := closeLedger_frame c a1
  have wrote := writeCopy_wrote (a2.clean c) h true
  have a3 := a2.wrote wrote
  obtain ⟨x, hx⟩ : ∃ x, x = (writeCopy (closeLedger (writeRecords s h) h) h true).modLed h fun d => { d with committed := true, views := allCtx } := ⟨_, rfl⟩
  have a4 : Committing h s x := hx ▸ a3.modHub _
  have led : (x.hub h).led = { ((closeLedger (writeRecords s h) h).hub h).led with committed := true, views := allCtx } := by
    rw [hx, modLed_hub, if_pos rfl, wrote.hub]
  have flk : (x.hub h).flk = ((closeLedger (writeRecords s h) h).hub h).flk := by
    rw [hx, State.modLed, State.modHub_hub, if_pos rfl, wrote.hub]
  have n := event_notices x (ledPage h) 1
  have e : commitHub s h = x.event (ledPage h) 1 := by rw [commitHub_eq hs hb he, commitPoint, ← hx]
  dsimp only
  rw [e, n.hub, n.hub, n.doff, n.mgt, led, flk]
  exact ⟨rfl, rfl, journal, st, seqs, event_intStat a4.wf (ledPage_offPorts h) (by decide), a4.other, a4.doff, a4.mgt⟩

/-! ## Both commit points (R517, R518) -/

theorem commitDone_none {s : State} {h : Hub} (hc : (s.hub h).led.committed = false) : commitDone s = s := by
  have e : (s.hub0.led.committed && s.hub1.led.committed) = false := by
    obtain rfl | rfl := hub_cases h
    · exact (congrArg (· && _) hc).trans (Bool.false_and _)
    · exact (congrArg (_ && ·) hc).trans (Bool.and_false _)
  unfold commitDone
  rw [e]
  rfl
/-- Once both hub dies have committed the package is DOFFED. -/
theorem commitDone_both {s : State} (hc : ∀ k, (s.hub k).led.committed = true) (hd : s.doff.done = false) :
    ∃ t : Hub → Nat, (∀ k, ((commitDone s).hub k).led = { (s.hub k).led with st := .doffed, tCommit := t k } ∧ ((commitDone s).hub k).flk = (s.hub k).flk) ∧
      (commitDone s).blks = s.blks ∧ (commitDone s).doff = { s.doff with done := true } ∧ (commitDone s).mgt = s.mgt ∧
      (s.doff.warned = true → (commitDone s).pins.doffDone = .high) := by
  have h0 : s.hub0.led.committed = true := hc 0
  have h1 : s.hub1.led.committed = true := hc 1
  unfold commitDone
  rw [if_pos (by simp [h0, h1, hd])]
  refine ⟨fun k => if s.doff.warned then s.now - s.doff.tW else (s.hub k).led.tCommit, fun k => ?_, rfl, rfl, rfl, fun hw => ?_⟩
  · obtain rfl | rfl := hub_cases k <;> exact ⟨rfl, rfl⟩
  · exact (congrArg Pins.doffDone (if_pos hw) :)

end Sys2Proof.Machine
end

section
/-!
The doff from PWR_WARN to DOFF_DONE, or back (R502–R520).
-/

namespace Sys2Proof.Machine

theorem Canonical.queuesOk {s : State} (c : Canonical s) : QueuesOk s := ⟨c.queues, c.keys⟩
theorem QueuesOk.toTime {s : State} (ok : QueuesOk s) (t : Nat) : QueuesOk (s.toTime t) := ok.of_queues rfl
/-- A step at cycle t of a package that works, whose effect does not depend on how it is reached. -/
theorem onwardAt_of_works {s : State} (hw : Works s) (t : Nat) (f : State → State) : onwardAt s t f = .next (f (s.toTime t)) :=
  congrArg Host.Outcome.next (atTime_of_works hw t f)

/-! ## PWR_WARN and admission stop -/

/-- PWR_WARN of a package that is not READY cuts alone. -/
theorem pwrWarn_unready {s : State} (hr : s.boot.ready = false) :
    (doffBegin s).doff = s.doff ∧ SameMemory s (doffBegin s) ∧
      ∀ h, ((doffBegin s).hub h).gov.cutPwr = true ∧ ((doffBegin s).hub h).gov.cutActive = true := by
  obtain ⟨hm, hd, -, hc⟩ := cutBoth_frame s
  rw [doffBegin_unready hr]
  exact ⟨hd, hm, hc⟩
/-- PWR_WARN of a package that is READY starts the doff, each hub die with its own deadline. -/
theorem pwrWarn_ready {s : State} (hr : s.boot.ready = true) (ha : s.doff.active = false) (hd : s.doff.done = false) :
    (doffBegin s).doff = startedDoff s ∧ SameMemory s (doffBegin s) ∧
      ∀ h, ((doffBegin s).hub h).led.st = .stopping ∧ ((doffBegin s).hub h).gov.cutPwr = true ∧ ((doffBegin s).hub h).gov.cutActive = true := by
  obtain ⟨lm, ld, ls⟩ := stopLedgers_frame { s with doff := startedDoff s }
  obtain ⟨cm, cd, cl, cc⟩ := cutBoth_frame (stopLedgers { s with doff := startedDoff s })
  have start : SameMemory s (stopLedgers { s with doff := startedDoff s }) := lm
  rw [doffBegin_ready hr ha hd]
  exact ⟨cd.trans ld, start.trans cm, fun h => ⟨by rw [cl, ls], cc h⟩⟩

/-! ## The commit -/

theorem hub_eq_other : ∀ {h k : Hub}, k ≠ h → k = 1 - h := by decide

/-- What the commit of a hub die whose queues are empty does, with what follows once both have committed (R511, R515–R518). -/
theorem ledgerCommit_frame {s : State} {h : Hub} (ok : QueuesOk s) (w : mwf {} s.blks = true) (c : Clean s) (hs : s.doff.stopped = true)
    (hd : s.doff.done = false) (hf : s.mgt.fatal = false) (hb : commitBegun s h = false) (he : ∀ q, qHub q = h → (s.queue q).cmds = []) :
    let t := fatalEnd (commitDone (commitHub s h))
    (t.hub h).led.committed = true ∧ (t.hub h).led.views = allCtx ∧ (t.hub h).led.journal = [] ∧ (t.knot h).seqs = [] ∧
      (t.blk (ledPage h)).intStat.getLsbD 1 = true ∧
      ((s.hub (1 - h)).led.committed = false → (t.hub h).led.st = .committing ∧ t.doff.done = false) ∧
      ((s.hub (1 - h)).led.committed = true → (t.hub h).led.st = .doffed ∧ (t.hub (1 - h)).led.st = .doffed ∧ t.doff.done = true ∧
        (s.doff.warned = true → t.pins.doffDone = .high)) := by
  obtain ⟨committed, views, journal, st, seqs, irq, other, doff, mgt⟩ := commitHub_frame ok w c hs hb he
  have fatal : (commitHub s h).mgt.fatal = false := by rw [mgt, hf]
  cases ho : (s.hub (1 - h)).led.committed with
  | false =>
    have e : fatalEnd (commitDone (commitHub s h)) = commitHub s h := by
      rw [commitDone_none (h := 1 - h) (by rw [other, ho]), fatalEnd_none fun n => absurd n (by simp [fatal])]
    dsimp only
    rw [e]
    exact ⟨committed, views, journal, seqs, irq, fun _ => ⟨st, by rw [doff, hd]⟩, fun n => absurd n (by decide)⟩
  | true =>
    have both (k : Hub) : ((commitHub s h).hub k).led.committed = true := by
      by_cases e : k = h
      · rw [e, committed]
      · rw [hub_eq_other e, other, ho]
    obtain ⟨t, hubs, blks, doff', mgt', pin⟩ := commitDone_both both (by rw [doff, hd])
    have e : fatalEnd (commitDone (commitHub s h)) = commitDone (commitHub s h) := fatalEnd_none fun n => absurd n (by simp [mgt', fatal])
    dsimp only
    rw [e, (hubs h).1, (hubs (1 - h)).1, doff', State.blk, blks, State.knot, (hubs h).2]
    exact ⟨committed, views, journal, seqs, irq, fun n => absurd n (by decide), fun _ => ⟨rfl, rfl, rfl, fun n => pin (by rw [doff, n])⟩⟩

/-- Settles O50: each of its steps by its frame lemma. -/
theorem doffing : Obligations.Doffing := by
  refine ⟨fun s t hw hc => ⟨fun hr => ?_, fun hr ha hd => ?_, fun hr hd hn => ?_, fun ha => ?_, fun ha hs hh => ?_⟩,
    fun s h t hw hc => ⟨fun hs hd late hh => ?_, fun early0 early1 => ?_, fun hs hd hf hp hcc hu hb he => ?_, fun hs hf hn => ?_,
      fun ha hf hm h0 h1 hcl => ?_, fun ha hd => ?_, fun ha hd => ?_, ?_⟩⟩
  · obtain ⟨hd, hm, hcut⟩ := pwrWarn_unready (s := s.toTime t) hr
    exact ⟨_, onwardAt_of_works hw t _, hd, hm, hcut⟩
  · obtain ⟨e, hm, hcut⟩ := pwrWarn_ready (s := s.toTime t) hr ha hd
    refine ⟨_, onwardAt_of_works hw t _, by rw [e]; rfl, by rw [e]; rfl, by rw [e]; rfl, hm, fun h => ?_⟩
    rw [e]
    exact ⟨startedDoff_tD (s.toTime t) h, hcut h⟩
  · have e := onwardAt_of_works hw t doffBegin
    rw [doffBegin_done (s := s.toTime t) hr hd hn] at e
    exact ⟨_, e, rfl, ⟨rfl, rfl, rfl⟩, rfl, rfl, rfl, rfl⟩
  · have idle : doffStop (s.toTime t) = s.toTime t := by
      unfold doffStop
      rw [if_pos (by simp [State.toTime, ha])]
    exact (onwardAt_of_works hw t doffStop).trans (congrArg _ idle)
  · obtain ⟨hst, hm, hl, hq, h1⟩ := doffStop_frame (s := s.toTime t) (hc.queuesOk.toTime t) ha hs hh
    refine ⟨_, onwardAt_of_works hw t _, hst, hm, hl, hq, fun q c hcs hn hp hu => ?_⟩
    obtain ⟨d, hd, e1, e2, -, e4⟩ := h1 q c hcs hn hp
    exact ⟨d, hd, e1, e2, e4 hu⟩
  · obtain ⟨hall, h1, hm⟩ := doffExpire_frame (s := s.toTime t) (hc.queuesOk.toTime t) hs hd late hh
    refine ⟨_, onwardAt_of_works hw t _, hall, fun q c hq hcs hp hu => ?_, hm⟩
    obtain ⟨d, hd, -, -, -, e4⟩ := h1 q c hq hcs hp
    exact ⟨d, hd, e4 hu⟩
  · exact (onwardAt_of_works hw t doffExpire).trans (congrArg _ (doffExpire_early early0 early1))
  · exact ⟨_, onwardAt_of_works hw t _, ledgerCommit_frame (s := s.toTime t) (hc.queuesOk.toTime t) hc.blks ⟨hcc, hp, hu⟩ hs hd hf hb he⟩
  · have e : fatalEnd (commitDone (commitHub (s.toTime t) h)) = s.toTime t := by
      have stays : commitHub (s.toTime t) h = s.toTime t := if_pos (by simp [State.toTime, hs])
      rw [stays, commitDone_none (s := s.toTime t) hn, fatalEnd_none (s := s.toTime t) fun n => absurd n (by simp [State.toTime, hf])]
    exact (onwardAt_of_works hw t _).trans (congrArg _ e)
  · exact ⟨_, onwardAt_of_works hw t _, doffClear_frame (s := s.toTime t) (hc.queuesOk.toTime t) ha hf hm h0 h1 hcl⟩
  · have e := onwardAt_of_works hw t doffClear
    rw [doffClear_idle (s := s.toTime t) ha hd] at e
    obtain ⟨hm, hk, -, -, hdf, -⟩ := (modGov_sameRest (s.toTime t) 0 fun g => { g with cutPwr := false }).trans
      (modGov_sameRest _ 1 fun g => { g with cutPwr := false })
    refine ⟨_, e, fun k => ?_, hdf, hm, hk⟩
    obtain rfl | rfl := hub_cases k <;> rfl
  · exact (onwardAt_of_works hw t doffClear).trans (congrArg _ (doffClear_done (s := s.toTime t) ha hd))
  · have e : exec (.ledViewRel .prostoza h) s = .next (viewRelease s h (mget 0 (s.hub h).led.viewSel 0)) :=
      congrArg Host.Outcome.next ((whenAlive_of_works hw _).trans (pageAccess_viewRel s h))
    obtain ⟨hm, hk, -⟩ := modLed_sameRest s h fun d => { d with views := d.views.filter fun x => x ≠ mget 0 (s.hub h).led.viewSel 0 }
    refine ⟨_, e, ?_, hm, hk⟩
    rw [viewRelease, modLed_hub, if_pos rfl]

end Sys2Proof.Machine
end

section
/-!
Translation contexts and invalidations (R138–R140, R652, R653), and memory after reset (R554).
-/

namespace Sys2Proof.Machine

/-! ## Memory after reset -/

theorem coherentByte_reset (o : Nat) : coherentByte State.reset o = 0 := by
  unfold coherentByte
  split <;> rfl

/-- Settles O3: no byte is stored and no cache has a line. -/
theorem resetMemoryIsCanonical : Obligations.ResetMemoryIsCanonical :=
  ⟨reset_mem_wf,
    { mem := reset_mem_wf, map := rfl
      lines := fun _ _ _ hl => absurd hl List.not_mem_nil
      once := fun _ _ => List.Pairwise.nil },
    coherentByte_reset⟩

/-! ## Prostoza writes a register of 8 bytes -/

/-- A writer of every field, which writes all bits of them, has the fields take what it writes. -/
theorem mergeFields_whole (cur written v : Nat) (l : List Field) (h : ∀ f ∈ l, f.mask &&& written = f.mask) :
    mergeFields (fun _ => true) cur written v l = (v &&& fieldsMask l, fieldsMask l, false) := by
  induction l with
  | nil => simp [mergeFields, fieldsMask]
  | cons f l ih =>
    have hf : f.mask &&& written = f.mask := h f (by simp)
    have i := ih fun g hg => h g (List.mem_cons_of_mem _ hg)
    cases ha : f.act <;> simp only [mergeFields, i, hf, ha, if_true, Nat.sub_self, Nat.or_zero, Bool.false_eq_true, if_false] <;>
      simp [fieldsMask, Nat.and_or_distrib_left]

/-- Prostoza's 8-byte write of a register of 8 bytes of a block page of a hub die. -/
theorem pageAccess_hub_wide (s : State) (d : DieId) (hd : d.val < 2) (i o v : Nat) (hi : i < 4096) (ho : o < 4096) (h8 : o % 8 = 0)
    (k : PageKind) (hk : pageAt d.val i = k) (hw : wide (fieldsOf k o) = true) (hb : 0x100 ≤ o)
    (hf : ∀ f ∈ fieldsOf k o, f.mask &&& (2 ^ 64 - 1) = f.mask) :
    pageAccess s .prostoza (pgKey d.val i) o 8 v =
      blockAct s k 0 (ledCtx s (dieHub d.val) (.self .prostoza)) []
        { off := o, v := (v % 2 ^ 64) &&& fieldsMask (fieldsOf k o), wm := fieldsMask (fieldsOf k o) } := by
  have hm : regsMet (fieldsOf k) o 8 = [(o, 8)] := by simp [regsMet, h8, hw]
  have r := regWrite_reg s (.self .prostoza) (pgOff (pgKey d.val i) + o) o i 8 (v % 2 ^ (8 * 8)) [] d (i * 4096 + o)
    (regionOf_page s d i o hi ho) (by omega) (by omega) k hk (o, 8) hm
  simp only [pageAccess, regAccess, isReg_page d i o hi ho, mustWait_prostoza_hub false hd (regionOf_page s d i o hi ho), Bool.not_true,
    Bool.or_false, Bool.false_eq_true, if_false, physCheck_prostoza s d i o 8 hi ho (.inr ⟨rfl, h8⟩)]
  rw [r]
  simp [mayWrite_prostoza, mergeFields_whole _ 18446744073709551615 _ _ hf, RegWho.bank, RegWho.isProstoza, Nat.not_lt.2 hb, bits]

/-! ## Translation contexts of an XLT -/

theorem modXlt_sameRest (s : State) (h : Hub) (f : Xlt → Xlt) : SameRest s (s.modXlt h f) := modHub_sameRest s h _
@[simp] theorem modXlt_xlt (s : State) (h : Hub) (f : Xlt → Xlt) : ((s.modXlt h f).hub h).xlt = f (s.hub h).xlt := by simp [State.modXlt]
@[simp] theorem modCtx_xlt (s : State) (h : Hub) (c : Nat) (f : Ctx → Ctx) :
    ((s.modCtx h c f).hub h).xlt = { (s.hub h).xlt with ctxs := mput {} c (f (mget {} (s.hub h).xlt.ctxs c)) (s.hub h).xlt.ctxs } :=
  modXlt_xlt s h _
theorem modCtx_congr {s : State} {h : Hub} {c : Nat} {f g : Ctx → Ctx}
    (e : f (mget {} (s.hub h).xlt.ctxs c) = g (mget {} (s.hub h).xlt.ctxs c)) : s.modCtx h c f = s.modCtx h c g := by
  simp only [State.modCtx, State.modXlt, State.modHub, e]
theorem modCtx_sameRest (s : State) (h : Hub) (c : Nat) (f : Ctx → Ctx) : SameRest s (s.modCtx h c f) := modXlt_sameRest s h _

theorem xltPage_offPorts : ∀ h, OffPorts (xltPage h) := by unfold OffPorts; decide

/-- A field of a word keeps its value under a mask that covers it. -/
theorem bits_and_of_covered {m lo n : Nat} (h : bits m lo n = 2 ^ n - 1) (v : Nat) : bits (v &&& m) lo n = bits v lo n := by
  unfold bits at *
  rw [Nat.shiftRight_and_distrib, Nat.and_mod_two_pow, h, Nat.and_two_pow_sub_one_eq_mod, Nat.mod_mod]
/-- A bit of a word keeps its value under a mask that has it. -/
theorem bit_and_of_covered {m i : Nat} (h : bit m i = true) (v : Nat) : bit (v &&& m) i = bit v i := by
  unfold bit at *
  rw [Nat.testBit_and, h, Bool.and_true]

theorem xltAct_root (s : State) (h : Hub) (bank : Nat) {w : Wr} (ho : w.off = 0x108) (hw : w.wm ≠ 0) :
    xltAct s h bank w = ctxWrite s h (mget 0 (s.hub h).xlt.csel bank) (bit w.v 0) (BitVec.ofNat 40 (w.f 12 40)) := by
  simp [xltAct, ho, hw]
/-- Prostoza's write of XLT_CTX_ROOT of the context that it has selected. -/
theorem pageAccess_ctxRoot (s : State) (h : Hub) (v : Nat) :
    pageAccess s .prostoza (xltPage h) 0x108 8 v =
      ctxWrite s h (mget 0 (s.hub h).xlt.csel 0) (bit v 0) (BitVec.ofNat 40 (bits v 12 40)) := by
  have en : bit (v % 2 ^ 64 &&& fieldsMask (fieldsOf (.xlt 0) 0x108)) 0 = bit v 0 := by
    rw [bit_and_of_covered (by decide), bit, bit, Nat.testBit_mod_two_pow]
    rfl
  have root : bits (v % 2 ^ 64 &&& fieldsMask (fieldsOf (.xlt 0) 0x108)) 12 40 = bits v 12 40 := by
    rw [bits_and_of_covered (by decide)]
    simp only [bits, Nat.shiftRight_eq_div_pow]
    omega
  rw [← en, ← root]
  obtain rfl | rfl := hub_cases h
  · exact (pageAccess_hub_wide s 0 (by decide) ixXlt 0x108 v (by decide) (by decide) rfl (.xlt 0) rfl rfl (by decide) (by decide)).trans
      (xltAct_root s 0 0 rfl (show fieldsMask (fieldsOf (.xlt 0) 0x108) ≠ 0 by decide))
  · exact (pageAccess_hub_wide s 1 (by decide) ixXlt 0x108 v (by decide) (by decide) rfl (.xlt 1) rfl rfl (by decide) (by decide)).trans
      (xltAct_root s 1 0 rfl (show fieldsMask (fieldsOf (.xlt 1) 0x108) ≠ 0 by decide))

theorem ctxWrite_enable {s : State} {h : Hub} {c : Nat} (he : (mget {} (s.hub h).xlt.ctxs c).en = false)
    (hd : (mget {} (s.hub h).xlt.ctxs c).disabling = false) (root : BitVec 40) :
    ctxWrite s h c true root = s.modCtx h c fun x => { x with en := true, root := root } :=
  modCtx_congr <| by rw [he, hd]; rfl
theorem ctxWrite_disable {s : State} {h : Hub} {c : Nat} (he : (mget {} (s.hub h).xlt.ctxs c).en = true) (root : BitVec 40) :
    ctxWrite s h c false root = s.modCtx h c fun x => { x with en := false, disabling := true } :=
  modCtx_congr <| by rw [he]; rfl

/-- A change of context c of a table in canonical form is what c reads, and leaves every other context. -/
theorem modCtx_ctxs {s : State} {h : Hub} (w : mwf {} (s.hub h).xlt.ctxs = true) (c : Nat) (f : Ctx → Ctx) :
    mget {} ((s.modCtx h c f).hub h).xlt.ctxs c = f (mget {} (s.hub h).xlt.ctxs c) ∧
      ∀ k, k ≠ c → mget {} ((s.modCtx h c f).hub h).xlt.ctxs k = mget {} (s.hub h).xlt.ctxs k := by
  rw [modCtx_xlt]
  exact ⟨mget_mput_self _ _ w, fun k hk => mget_mput_ne _ _ _ (Ne.symm hk)⟩

/-! ## Invalidations -/

/-- The operands of an invalidation, as XLT_INV_CTL takes them, and the invalidation that starts on them. -/
theorem xltAct_invalidate (s : State) (h : Hub) (bank : Nat) {w : Wr} (ho : w.off = 0x118) (hs : w.sets 31 = true) :
    xltAct s h bank w = invStart (s.modXlt h fun x =>
      { x with invCtx := BitVec.ofNat 6 (w.f 0 6), invAll := bit w.v 8, overrun := x.overrun && !w.sets 16 }) h := by
  have hw : w.wm ≠ 0 := fun e => by simp [Wr.sets, bit, e] at hs
  simp [xltAct, ho, hw, hs]

/-- Prostoza's start of an invalidation of a whole context. -/
theorem pageAccess_invalidateAll (s : State) (h : Hub) (k : Fin 64) :
    pageAccess s .prostoza (xltPage h) 0x118 4 (k.val + 256 * b2n true + 2 ^ 31) =
      invStart (s.modXlt h fun x => { x with invCtx := BitVec.ofNat 6 k.val, invAll := true }) h := by
  have hv : k.val + 256 * b2n true + 2 ^ 31 < 2 ^ 32 := by have := k.isLt; simp only [b2n, if_true]; omega
  -- the word of XLT_INV_CTL that the fields take, by its fields
  have taken : ∀ k : Fin 64, let v := (k.val + 256 * b2n true + 2 ^ 31) &&& fieldsMask (fieldsOf (.xlt 0) 0x118)
      bits v 0 6 = k.val ∧ bit v 8 = true ∧ bit v 16 = false ∧ bit v 31 = true := by decide
  obtain ⟨hctx, hall, hover, hstart⟩ := taken k
  have act (u : Hub) : xltAct s u 0
      { off := 0x118, v := (k.val + 256 * b2n true + 2 ^ 31) &&& fieldsMask (fieldsOf (.xlt 0) 0x118), wm := fieldsMask (fieldsOf (.xlt 0) 0x118) } =
      invStart (s.modXlt u fun x => { x with invCtx := BitVec.ofNat 6 k.val, invAll := true }) u := by
    rw [xltAct_invalidate _ _ _ rfl (by simp only [Wr.sets, hstart]; decide)]
    simp only [Wr.f, Wr.sets, hctx, hall, hover, Bool.and_false, Bool.not_false, Bool.and_true]
  obtain rfl | rfl := hub_cases h
  · refine (pageAccess_hub_prostoza s 0 (by decide) ixXlt 0x118 _ (by decide) (by decide) rfl (.xlt 0) rfl rfl (by decide) hv (by decide)).trans ?_
    exact act 0
  · refine (pageAccess_hub_prostoza s 1 (by decide) ixXlt 0x118 _ (by decide) (by decide) rfl (.xlt 1) rfl rfl (by decide) hv (by decide)).trans ?_
    exact act 1

/-- An invalidation of a whole context starts where none runs. -/
theorem invStart_all {s : State} {h : Hub} (hn : (s.hub h).xlt.inv = none) (ha : (s.hub h).xlt.invAll = true) :
    ((invStart s h).hub h).xlt.inv =
        some ((s.hub h).xlt.invCtx.toNat, true, (s.hub h).xlt.invVa.toNat, (s.hub h).xlt.invLen.toNat) ∧ SameRest s (invStart s h) := by
  refine ⟨?_, modXlt_sameRest s h _⟩
  rw [invStart, modXlt_xlt]
  simp [hn, ha]

theorem invEnd_busy {s : State} {h : Hub} {k va n : Nat} {all : Bool} (hi : (s.hub h).xlt.inv = some (k, all, va, n))
    (hb : ctxBusy s h k = true) : invEnd s h = s := by
  simp [invEnd, hi, hb]
/-- A running invalidation with no access under way that its context has translated comes to its end. -/
theorem invEnd_idle {s : State} {h : Hub} {k va n : Nat} {all : Bool} (w : mwf {} s.blks = true)
    (hi : (s.hub h).xlt.inv = some (k, all, va, n)) (hb : ctxBusy s h k = false) :
    ((invEnd s h).hub h).xlt.inv = none ∧ ((invEnd s h).blk (xltPage h)).intStat.getLsbD 0 = true ∧
      ((invEnd s h).hub h).xlt.ctxs = (s.hub h).xlt.ctxs ∧ SameRest s (invEnd s h) := by
  obtain ⟨t, ht⟩ : ∃ t, t = (dropHeld s h k all va n).modXlt h fun x => { x with inv := none } := ⟨_, rfl⟩
  have e : invEnd s h = (t.count (xltPage h) 0x0A0 1).event (xltPage h) 0 := by simp [invEnd, hi, hb, ht]
  have hx : (t.hub h).xlt.inv = none ∧ (t.hub h).xlt.ctxs = (s.hub h).xlt.ctxs := by
    rw [ht, modXlt_xlt, dropHeld, modXlt_xlt]
    exact ⟨rfl, rfl⟩
  have hb : t.blks = s.blks := by simp [ht, dropHeld, State.modXlt]
  have hr : SameRest s t := ht ▸ (modXlt_sameRest s h _).trans (modXlt_sameRest _ h _)
  rw [e, (event_notices _ _ _).hub]
  exact ⟨hx.1, event_intStat (count_wf (hb ▸ w) _ _ _) (xltPage_offPorts h) (by decide), hx.2,
    (hr.trans (count_sameRest _ _ _ _)).trans (event_sameRest _ _ _)⟩

/-! ## The disabling of a context -/

theorem ctxDisabled_early {s : State} {h : Hub} {c : Nat}
    (hb : (mget {} (s.hub h).xlt.ctxs c).disabling = false ∨ ctxBusy s h c = true) : ctxDisabled s h c = s := by
  refine if_neg fun n => ?_
  obtain ⟨hd, hn⟩ := (Bool.and_eq_true_iff).1 n
  rcases hb with e | e
  · exact absurd hd (by rw [e]; decide)
  · exact absurd hn (by rw [e]; decide)
/-- A context whose disabling comes to its end: no translation of it is held any more. -/
theorem ctxDisabled_idle {s : State} {h : Hub} {c : Nat} (w : mwf {} (s.hub h).xlt.ctxs = true)
    (hd : (mget {} (s.hub h).xlt.ctxs c).disabling = true) (hb : ctxBusy s h c = false) :
    mget {} ((ctxDisabled s h c).hub h).xlt.ctxs c = { mget {} (s.hub h).xlt.ctxs c with disabling := false } ∧
      (∀ e ∈ ((ctxDisabled s h c).hub h).xlt.held, e.ctx ≠ c) ∧ SameRest s (ctxDisabled s h c) := by
  have e : ctxDisabled s h c = (dropHeld s h c true 0 0).modCtx h c fun x => { x with disabling := false } :=
    if_pos (by rw [hd, hb]; rfl)
  have hc : ((dropHeld s h c true 0 0).hub h).xlt.ctxs = (s.hub h).xlt.ctxs := by rw [dropHeld, modXlt_xlt]
  rw [e]
  refine ⟨?_, ?_, (modXlt_sameRest s h _).trans (modCtx_sameRest _ h c _)⟩
  · rw [(modCtx_ctxs (by rw [hc]; exact w) c _).1, hc]
  · rw [modCtx_xlt, dropHeld, modXlt_xlt]
    intro x hx
    simpa using (List.mem_filter.1 hx).2

/-- Settles O58: the writes of XLT_CTX_ROOT and XLT_INV_CTL by `pageAccess_ctxRoot` and `pageAccess_invalidateAll`, the ends by
`ctxDisabled_idle` and `invEnd_idle`; what is busy goes on. -/
theorem translationContexts : Obligations.TranslationContexts := by
  intro s h hw hc w
  refine ⟨fun root he hd => ?_, fun he => ?_, fun k hd hb => ?_, fun k hn => ?_, fun k hb => ?_, fun k all va n hi hb => ?_,
    fun k all va n hi hb => ?_⟩
  · have hroot : BitVec.ofNat 40 (bits (1 + 4096 * root.toNat) 12 40) = root := by
      have := root.isLt
      refine BitVec.eq_of_toNat_eq ?_
      simp only [bits, Nat.shiftRight_eq_div_pow, BitVec.toNat_ofNat]
      omega
    have hen : bit (1 + 4096 * root.toNat) 0 = true := by
      simp only [bit, Nat.testBit_zero]
      simp; omega
    have e : exec (.xltContextEnable .prostoza h root) s = .next _ :=
      congrArg Host.Outcome.next ((whenAlive_of_works hw _).trans (pageAccess_ctxRoot s h _))
    rw [hen, hroot, ctxWrite_enable he hd] at e
    obtain ⟨hself, hother⟩ := modCtx_ctxs w (mget 0 (s.hub h).xlt.csel 0) fun x => { x with en := true, root := root }
    obtain ⟨hm, hk, hs⟩ := modCtx_sameRest s h (mget 0 (s.hub h).xlt.csel 0) fun x => { x with en := true, root := root }
    exact ⟨_, e, (congrArg Ctx.en hself :), (congrArg Ctx.root hself :), hother, hm, hk, hs⟩
  · have hen : ∀ v, bit (v - v % 2) 0 = false := fun v => by
      simp only [bit, Nat.testBit_zero]
      simp; omega
    have e : exec (.xltContextDisable .prostoza h) s = .next _ :=
      congrArg Host.Outcome.next ((whenAlive_of_works hw _).trans (pageAccess_ctxRoot s h _))
    rw [hen, ctxWrite_disable he] at e
    obtain ⟨hself, hother⟩ := modCtx_ctxs w (mget 0 (s.hub h).xlt.csel 0) fun x => { x with en := false, disabling := true }
    obtain ⟨hm, hk, hs⟩ := modCtx_sameRest s h (mget 0 (s.hub h).xlt.csel 0) fun x => { x with en := false, disabling := true }
    exact ⟨_, e, hself, hother, hm, hk, hs⟩
  · obtain ⟨hself, hheld, hm, hk, hs⟩ := ctxDisabled_idle w hd hb
    exact ⟨_, congrArg Host.Outcome.next (whenAlive_of_works hw _), hself, hheld, hm, hk, hs⟩
  · obtain ⟨hi, hr⟩ := invStart_all (s := s.modXlt h fun x => { x with invCtx := BitVec.ofNat 6 k.val, invAll := true }) (h := h)
      (by rw [modXlt_xlt]; exact hn) (by rw [modXlt_xlt])
    obtain ⟨hm, hk, hs⟩ := (modXlt_sameRest s h _).trans hr
    refine ⟨_, congrArg Host.Outcome.next ((whenAlive_of_works hw _).trans (pageAccess_invalidateAll s h k)), ?_, hm, hk, hs⟩
    rw [hi, modXlt_xlt]
    simp
  · exact congrArg Host.Outcome.next ((whenAlive_of_works hw _).trans (ctxDisabled_early hb))
  · exact congrArg Host.Outcome.next ((whenAlive_of_works hw _).trans (invEnd_busy hi hb))
  · obtain ⟨hi', hirq, hctx, hm, hk, hs⟩ := invEnd_idle hc.blks hi hb
    exact ⟨_, congrArg Host.Outcome.next (whenAlive_of_works hw _), hi', hirq, hctx, hm, hk, hs⟩

end Sys2Proof.Machine
end

section
/-!
What a coherent observer sees of memory and caches (R130, R131), and when one state shows what another shows but for the bytes of a write.
-/

namespace Sys2Proof.Machine

/-! ## The ranges that the caches serve (R348) -/

/-- The bytes of the range that cache i serves. -/
def cacheSpan (i : Nat) : Nat := if i < 8 then hbmStack else 0x8000000000

/-- The cache whose range holds a package offset, and the offset in that range. -/
def rangeOf (x : Nat) : Option (Nat × Nat) :=
  if x < 0x8000000000 then some (x / 0x1000000000, x % 0x1000000000)
  else if x < 0x10000000000 then none
  else if x < 0x20000000000 then some (8 + (x - 0x10000000000) / 0x8000000000, (x - 0x10000000000) % 0x8000000000)
  else none

theorem rangeOf_eq_some {x i r : Nat} : rangeOf x = some (i, r) ↔ i < 10 ∧ r < cacheSpan i ∧ x = cacheBase i + r := by
  have span : cacheSpan i = if i < 8 then 0x1000000000 else 0x8000000000 := rfl
  have base : cacheBase i = if i < 8 then i * 0x1000000000 else 0x10000000000 + (i - 8) * 0x8000000000 := rfl
  rw [span, base]
  unfold rangeOf
  by_cases h : i < 8
  · simp only [h, if_true]
    split_ifs <;> simp only [Option.some.injEq, Prod.mk.injEq, false_iff] <;> omega
  · simp only [h, if_false]
    split_ifs <;> simp only [Option.some.injEq, Prod.mk.injEq, false_iff] <;> omega

theorem rangeOf_base {i r : Nat} (hi : i < 10) (hr : r < cacheSpan i) : rangeOf (cacheBase i + r) = some (i, r) :=
  rangeOf_eq_some.2 ⟨hi, hr, rfl⟩

/-- Whole lines, and so whole granules, make up a cache's range. -/
theorem cacheSpan_mod (i : Nat) : cacheSpan i % 256 = 0 := by
  unfold cacheSpan hbmStack
  split <;> rfl
theorem cacheBase_mod (i : Nat) : cacheBase i % 256 = 0 := by
  have base : cacheBase i = if i < 8 then i * 0x1000000000 else 0x10000000000 + (i - 8) * 0x8000000000 := rfl
  rw [base]
  split <;> omega

/-- Whether an offset lies in the range of a hub cache above the populated GDDR of its hub die, where it is unmapped (R108, R110). -/
def inGap (s : State) (x : Nat) : Bool :=
  decide (0x10000000000 ≤ x ∧ x < 0x20000000000 ∧ gddrSize s ≤ (x - 0x10000000000) % 0x8000000000)

/-- The region of an offset in the range of a hub cache. -/
theorem regionOf_hubRange (s : State) {x : Nat} (hl : 0x10000000000 ≤ x) (hu : x < 0x20000000000) :
    regionOf s x = if inGap s x then .unmapped
      else .gddr (Fin.ofNat 2 ((x - 0x10000000000) / 0x8000000000)) ((x - 0x10000000000) % 0x8000000000) := by
  have b0 : gddrBase 0 = 0x10000000000 := rfl
  have b1 : gddrBase 1 = 0x18000000000 := rfl
  have h1 : ¬ x < 0x8000000000 := by omega
  have h2 : ¬ x < 0x10000000000 := by omega
  by_cases h4 : x < 0x18000000000
  · have num : (x - 0x10000000000) / 0x8000000000 = 0 := by omega
    have off : (x - 0x10000000000) % 0x8000000000 = x - 0x10000000000 := by omega
    by_cases g : x - 0x10000000000 < gddrSize s
    · have gap : inGap s x = false := decide_eq_false (by omega)
      simp [regionOf, h1, h2, hu, h4, b0, b1, g, gap, num, off]
    · have gap : inGap s x = true := decide_eq_true (by omega)
      simp [regionOf, h1, h2, hu, h4, b0, b1, g, gap]
  · have num : (x - 0x10000000000) / 0x8000000000 = 1 := by omega
    have off : (x - 0x10000000000) % 0x8000000000 = x - 0x18000000000 := by omega
    by_cases g : x - 0x18000000000 < gddrSize s
    · have gap : inGap s x = false := decide_eq_false (by omega)
      simp [regionOf, h1, h2, hu, h4, b1, g, gap, num, off]
    · have gap : inGap s x = true := decide_eq_true (by omega)
      simp [regionOf, h1, h2, hu, h4, b1, g, gap]

theorem inGap_of_mapped {s : State} {x : Nat} (h : regionOf s x ≠ .unmapped) : inGap s x = false := by
  by_contra g
  have gap : inGap s x = true := by simpa using g
  obtain ⟨hl, hu, -⟩ := of_decide_eq_true gap
  exact h (by rw [regionOf_hubRange s hl hu, if_pos gap])

/-- The cache that serves an offset is that of its range, but for unmapped GDDR. -/
theorem cacheOfRegion_regionOf (s : State) (x : Nat) : cacheOfRegion (regionOf s x) = if inGap s x then none else rangeOf x := by
  by_cases h1 : x < 0x8000000000
  · have gap : inGap s x = false := decide_eq_false (by omega)
    have num : x / 0x1000000000 % 8 = x / 0x1000000000 := by omega
    simp [regionOf, rangeOf, h1, gap, cacheOfRegion, show hbmStack = 0x1000000000 from rfl, num]
  by_cases h2 : x < 0x10000000000
  · simp [regionOf, rangeOf, h1, h2, cacheOfRegion]
  by_cases h3 : x < 0x20000000000
  · have num : (x - 0x10000000000) / 0x8000000000 % 2 = (x - 0x10000000000) / 0x8000000000 := by omega
    rw [regionOf_hubRange s (by omega) h3]
    split
    · rfl
    · simp [cacheOfRegion, rangeOf, h1, h2, h3, num]
  · have range : rangeOf x = none := by simp [rangeOf, h1, h2, h3]
    rw [range, ite_self]
    simp only [regionOf, h1, h2, h3, if_false]
    split_ifs <;> rfl

/-! ## What is shown -/

/-- The byte that memory and the caches show at an offset, unmapped GDDR read through its cache like the rest. -/
def shownByte (s : State) (x : Nat) : Byte :=
  match rangeOf x with
  | some (i, r) => peekByte s i r
  | none => rawByte s x

theorem shownByte_base (s : State) {i r : Nat} (hi : i < 10) (hr : r < cacheSpan i) : shownByte s (cacheBase i + r) = peekByte s i r := by
  rw [shownByte, rangeOf_base hi hr]
theorem shownByte_uncached (s : State) {x : Nat} (h : rangeOf x = none) : shownByte s x = rawByte s x := by
  rw [shownByte, h]

theorem coherentByte_eq (s : State) (x : Nat) : coherentByte s x = if inGap s x then rawByte s x else shownByte s x := by
  unfold coherentByte
  rw [cacheOfRegion_regionOf]
  cases inGap s x <;> rfl
theorem coherentByte_of_not_gap {s : State} {x : Nat} (h : inGap s x = false) : coherentByte s x = shownByte s x := by
  rw [coherentByte_eq, h]
  rfl

/-! ## A function changed on a run of offsets -/

/-- f, but for the bytes bs from offset o. -/
def patch (f : Nat → Byte) (o : Nat) (bs : List Byte) (x : Nat) : Byte := if o ≤ x ∧ x < o + bs.length then bs.getD (x - o) 0 else f x

@[simp] theorem patch_nil (f : Nat → Byte) (o x : Nat) : patch f o [] x = f x := if_neg (by simp)
theorem patch_outside (f : Nat → Byte) {o : Nat} {bs : List Byte} {x : Nat} (h : x < o ∨ o + bs.length ≤ x) : patch f o bs x = f x :=
  if_neg (by omega)
theorem patch_congr {f g : Nat → Byte} {x : Nat} (h : f x = g x) (o : Nat) (bs : List Byte) : patch f o bs x = patch g o bs x := by
  unfold patch
  rw [h]
theorem patch_at (f : Nat → Byte) (o : Nat) {bs : List Byte} {j : Nat} (h : j < bs.length) : patch f o bs (o + j) = bs[j] := by
  rw [patch, if_pos (by omega), Nat.add_sub_cancel_left, List.getD_eq_getElem _ _ h]
/-- A patch seen from an offset further on. -/
theorem patch_shift (f : Nat → Byte) (b o : Nat) (bs : List Byte) (x : Nat) : patch f (b + o) bs (b + x) = patch (fun y => f (b + y)) o bs x := by
  unfold patch
  simp only [Nat.add_le_add_iff_left, Nat.add_assoc, Nat.add_lt_add_iff_left, Nat.add_sub_add_left]
/-- Two patches, one after the other, are one. -/
theorem patch_append (f : Nat → Byte) (o : Nat) (bs cs : List Byte) (x : Nat) :
    patch (patch f o bs) (o + bs.length) cs x = patch f o (bs ++ cs) x := by
  unfold patch
  simp only [List.length_append]
  by_cases h : o + bs.length ≤ x
  · rw [List.getD_append_right _ _ _ _ (by omega)]
    simp only [show ¬ x < o + bs.length by omega, and_false, if_false, h, show o ≤ x by omega, true_and, ← Nat.add_assoc, Nat.sub_sub]
  · rw [if_neg (by omega)]
    by_cases k : o ≤ x
    · rw [List.getD_append _ _ _ _ (by omega), if_pos (by omega), if_pos (by omega)]
    · rw [if_neg (by omega), if_neg (by omega)]

theorem mget_memPut_eq_patch {m : SMap Byte} (h : mwf 0 m = true) (o : Nat) (bs : List Byte) (x : Nat) :
    mget 0 (memPut m o bs) x = patch (mget 0 m) o bs x := by
  unfold patch
  split
  · next hx =>
    have e : o + (x - o) = x := by omega
    rw [List.getD_eq_getElem _ _ (show x - o < bs.length by omega), ← mget_memPut o (x - o) bs h (by omega), e]
  · exact mget_memPut_ne _ _ _ _ (by omega)
theorem rawByte_store_eq_patch {s : State} (h : Memory.wf s.mem = true) (o : Nat) (bs : List Byte) (x : Nat) :
    rawByte (s.store o bs) x = patch (rawByte s) o bs x := mget_memPut_eq_patch h o bs x

/-- The data of a line take bytes as memory does. -/
theorem putBytes_eq_memPut (d : SMap Byte) (o : Nat) (bs : List Byte) : putBytes d o bs = memPut d o bs := by
  induction bs generalizing d o with
  | nil => rfl
  | cons b bs ih => exact ih _ _
theorem putBytes_wf {d : SMap Byte} (h : mwf 0 d = true) (o : Nat) (bs : List Byte) : mwf 0 (putBytes d o bs) = true := by
  rw [putBytes_eq_memPut]
  exact memPut_wf o bs h
theorem mget_putBytes {d : SMap Byte} (h : mwf 0 d = true) (o : Nat) (bs : List Byte) (x : Nat) :
    mget 0 (putBytes d o bs) x = patch (mget 0 d) o bs x := by
  rw [putBytes_eq_memPut]
  exact mget_memPut_eq_patch h o bs x

/-! ## States that show the same but for a write -/

/-- State t is as well formed as s and shows what s shows, but for the bytes bs at offset o. -/
structure Becomes (s t : State) (o : Nat) (bs : List Byte) : Prop where
  ok      : CachesOk t
  shown   : ∀ x, shownByte t x = patch (shownByte s) o bs x
  memtype : t.boot.memtype = s.boot.memtype

/-- State t shows what s shows. -/
abbrev Keeps (s t : State) : Prop := Becomes s t 0 []

section
variable {s t u : State} {o : Nat} {bs cs : List Byte}

theorem Keeps.refl (ok : CachesOk s) : Keeps s s := ⟨ok, fun _ => (patch_nil _ _ _).symm, rfl⟩
theorem Becomes.byte (h : Keeps s t) (x : Nat) : shownByte t x = shownByte s x := (h.shown x).trans (patch_nil _ _ _)
theorem Becomes.peek (h : Keeps s t) {i r : Nat} (hi : i < 10) (hr : r < cacheSpan i) : peekByte t i r = peekByte s i r := by
  rw [← shownByte_base t hi hr, h.byte, shownByte_base s hi hr]
theorem Becomes.then (h : Keeps s t) (k : Becomes t u o bs) : Becomes s u o bs :=
  ⟨k.ok, fun x => by rw [k.shown, funext h.byte], k.memtype.trans h.memtype⟩
theorem Becomes.keeps (h : Becomes s t o bs) (k : Keeps t u) : Becomes s u o bs :=
  ⟨k.ok, fun x => (k.byte x).trans (h.shown x), k.memtype.trans h.memtype⟩
theorem Becomes.append (h : Becomes s t o bs) (k : Becomes t u (o + bs.length) cs) : Becomes s u o (bs ++ cs) :=
  ⟨k.ok, fun x => by rw [k.shown, funext h.shown, patch_append], k.memtype.trans h.memtype⟩
theorem Becomes.inGap (h : Becomes s t o bs) (x : Nat) : inGap t x = inGap s x := by
  unfold Machine.inGap gddrSize
  rw [h.memtype]
end

/-- What changes neither memory nor caches shows the same. -/
structure SameStored (s t : State) : Prop where
  mem     : t.mem = s.mem
  caches  : t.caches = s.caches
  memtype : t.boot.memtype = s.boot.memtype

section
variable {s t u : State}
theorem SameStored.refl (s : State) : SameStored s s := ⟨rfl, rfl, rfl⟩
theorem SameStored.trans (h : SameStored s t) (k : SameStored t u) : SameStored s u :=
  ⟨k.mem.trans h.mem, k.caches.trans h.caches, k.memtype.trans h.memtype⟩
theorem SameStored.of_notices (h : Notices s t) : SameStored s t := ⟨h.mem, h.caches, congrArg Boot.memtype h.boot⟩
theorem SameStored.cache (h : SameStored s t) (i : Nat) : t.cache i = s.cache i := by rw [State.cache, State.cache, h.caches]
theorem SameStored.raw (h : SameStored s t) (x : Nat) : rawByte t x = rawByte s x := by rw [rawByte, rawByte, h.mem]
theorem SameStored.peek (h : SameStored s t) (i r : Nat) : peekByte t i r = peekByte s i r := by
  unfold peekByte
  rw [h.cache, h.raw]
/-- What a line has to hold depends on memory alone. -/
theorem LineOk.of_raw {i : Nat} {l : Line} (k : LineOk s i l) (h : ∀ x, rawByte t x = rawByte s x) : LineOk t i l :=
  ⟨k.inRange, k.data, fun n hn hv hd j hj => (k.clean n hn hv hd j hj).trans (h _).symm⟩
theorem SameStored.lineOk (h : SameStored s t) {i : Nat} {l : Line} (k : LineOk s i l) : LineOk t i l := k.of_raw h.raw
theorem SameStored.cachesOk (h : SameStored s t) (k : CachesOk s) : CachesOk t where
  mem := h.mem ▸ k.mem
  map := h.caches ▸ k.map
  lines i hi l hl := h.lineOk (k.lines i hi l (h.cache i ▸ hl))
  once i hi := h.cache i ▸ k.once i hi
theorem SameStored.keeps (h : SameStored s t) (k : CachesOk s) : Keeps s t where
  ok := h.cachesOk k
  shown x := by
    rw [patch_nil, shownByte, shownByte]
    cases rangeOf x with
    | none => exact h.raw x
    | some p => exact h.peek p.1 p.2
  memtype := h.memtype
end

end Sys2Proof.Machine
end

section
/-!
Operations on errors, poison, counters and reservations, which leave what is stored and cached (R276, R354, R386–R392).
-/

namespace Sys2Proof.Machine

theorem count_sameStored (s : State) (p off n : Nat) : SameStored s (s.count p off n) := ⟨rfl, rfl, rfl⟩
theorem event_sameStored (s : State) (p i : Nat) : SameStored s (s.event p i) := .of_notices (event_notices s p i)
theorem corrected_sameStored (s : State) (d : Nat) : SameStored s (corrected s d) := .of_notices (corrected_notices s d)
theorem report_sameStored (s : State) (p cls code detail : Nat) (t : ReqTag) (e a : Nat) : SameStored s (report s p cls code detail t e a) :=
  .of_notices (report_notices ..)
theorem tick_sameStored (s : State) : SameStored s s.tick.2 := ⟨rfl, rfl, rfl⟩
theorem loseResv_sameStored (s : State) (w : Option CoreId) (g : Nat) : SameStored s (loseResv s w g) := ⟨rfl, rfl, rfl⟩
theorem clearPoison_sameStored (s : State) (g : Nat) : SameStored s (clearPoison s g) := ⟨rfl, rfl, rfl⟩
theorem ctlCount_sameStored (s : State) (r : Region) (off n : Nat) : SameStored s (ctlCount s r off n) := by
  unfold ctlCount
  split <;> exact ⟨rfl, rfl, rfl⟩
theorem clearUpset_sameStored (s : State) (k : Nat) : SameStored s (clearUpset s k) := by
  unfold clearUpset
  split <;> exact ⟨rfl, rfl, rfl⟩

/-- A fatal error notes itself, and fails the start or begins the fatal stop. -/
theorem raiseFatal_sameStored (s : State) (code p : Nat) : SameStored s (raiseFatal s code p) := by
  have noted := report_sameStored s p 4 code 0 {} 0 0
  unfold raiseFatal
  dsimp only
  split
  · split <;> exact ⟨rfl, rfl, rfl⟩
  · split
    · exact noted
    · split <;> exact noted.trans ⟨rfl, rfl, rfl⟩
theorem setPoison_sameStored (s : State) (g : Nat) : SameStored s (setPoison s g) := by
  unfold setPoison
  split
  · exact .refl s
  · split
    · split
      · exact raiseFatal_sameStored ..
      · exact ⟨rfl, rfl, rfl⟩
    · exact ⟨rfl, rfl, rfl⟩
theorem eccUe_sameStored (s : State) (o : Nat) : SameStored s (eccUe s o) := by
  unfold eccUe
  dsimp only
  split
  · exact ((setPoison_sameStored ..).trans (count_sameStored ..)).trans (report_sameStored ..)
  · exact (count_sameStored ..).trans (report_sameStored ..)
theorem eccRead_sameStored (s : State) (o : Nat) : SameStored s (eccRead s o) := by
  have found := clearUpset_sameStored s (granule o)
  unfold eccRead
  dsimp only
  split
  · exact .refl s
  · split
    · exact found
    · split
      · exact found
      · split
        · exact found.trans ((count_sameStored ..).trans (corrected_sameStored ..))
        · exact found.trans (eccUe_sameStored ..)
/-- The arrays of a cache that meet an error note it; what they do to the line is what `lineErrors` answers. -/
theorem lineErrors_sameStored (s : State) (i : Nat) (l : Line) (k : Nat) : SameStored s (lineErrors s i l k).1 := by
  unfold lineErrors
  dsimp only
  split
  · exact .refl s
  · exact (clearUpset_sameStored ..).trans ((count_sameStored ..).trans (corrected_sameStored ..))
  · split
    · exact (clearUpset_sameStored ..).trans ((count_sameStored ..).trans ((event_sameStored ..).trans (report_sameStored ..)))
    · exact clearUpset_sameStored ..

end Sys2Proof.Machine
end

section
/-!
One line of a cache beside the memory behind it (R348–R351): what a change of both may do, and that a change which keeps the line's bytes
shows nothing.
-/

namespace Sys2Proof.Machine

/-! ## Sector masks -/

theorem getLsbD_setBit8 (m : Byte) {k : Nat} (hk : k < 8) (v : Bool) (j : Nat) :
    (setBit8 m k v).getLsbD j = if j = k then v else m.getLsbD j := by
  unfold setBit8
  by_cases hj : j < 8
  · interval_cases k <;> interval_cases j <;> cases v <;> simp
  · rw [BitVec.getLsbD_of_ge _ _ (by omega), BitVec.getLsbD_of_ge _ _ (by omega), if_neg (by omega)]

/-! ## Lines in a cache -/

theorem findLine_some {c : Cache} {n : Nat} {l : Line} (h : findLine c n = some l) : l ∈ c.lines ∧ l.num = n :=
  ⟨List.mem_of_find?_eq_some h, by simpa using List.find?_some h⟩
theorem findLine_none {c : Cache} {n : Nat} (h : findLine c n = none) : ∀ l ∈ c.lines, l.num ≠ n := by
  simpa [findLine] using h
/-- A line of a cache that has each number once is found by its number. -/
theorem findLine_of_mem {c : Cache} {l : Line} (once : c.lines.Pairwise fun a b => a.num ≠ b.num) (h : l ∈ c.lines) :
    findLine c l.num = some l := by
  cases e : findLine c l.num with
  | none => exact absurd rfl (findLine_none e l h)
  | some m =>
    obtain ⟨hm, hn⟩ := findLine_some e
    by_contra ne
    have : Std.Symm fun a b : Line => a.num ≠ b.num := ⟨fun _ _ q => q.symm⟩
    exact once.forall hm h (fun q => ne (congrArg some q)) hn

theorem mem_putLine {c : Cache} {l m : Line} (h : m ∈ (putLine c l).lines) : m = l ∨ (m ∈ c.lines ∧ m.num ≠ l.num) := by
  have rest : m ∈ c.lines.filter (fun x => x.num ≠ l.num) → m ∈ c.lines ∧ m.num ≠ l.num := fun q => by simpa using q
  unfold putLine at h
  dsimp only at h
  split at h
  · exact .inr (rest h)
  · exact (List.mem_cons.1 h).imp id rest
theorem putLine_once {c : Cache} (l : Line) (once : c.lines.Pairwise fun a b => a.num ≠ b.num) :
    (putLine c l).lines.Pairwise fun a b => a.num ≠ b.num := by
  have rest := once.filter (fun x => x.num ≠ l.num)
  unfold putLine
  dsimp only
  split
  · exact rest
  · exact List.pairwise_cons.2 ⟨fun m hm => Ne.symm (by simpa using (List.mem_filter.1 hm).2), rest⟩
theorem findLine_putLine (c : Cache) (l : Line) (n : Nat) :
    findLine (putLine c l) n = if n = l.num then (if l.valid = 0 then none else some l) else findLine c n := by
  have rest : (c.lines.filter fun x => x.num ≠ l.num).find? (fun x => x.num = n) = if n = l.num then none else findLine c n := by
    rw [List.find?_filter]
    split
    · next e => simp [e]
    · next e =>
      refine List.find?_congr fun x _ => ?_
      by_cases q : x.num = n <;> simp [q, e]
  unfold putLine findLine
  dsimp only
  split
  · rw [rest]
    rfl
  · rw [List.find?_cons, rest]
    by_cases e : n = l.num
    · simp [e]
    · simp [e, Ne.symm e, findLine]

/-! ## A line beside the memory behind it -/

/-- The first package offset of a line of cache i. -/
def lineBase (i : Nat) (l : Line) : Nat := cacheBase i + 256 * l.num
/-- What a line of cache i shows at offset j of it: what it holds, and the memory where it holds nothing. -/
def lineByte (s : State) (i : Nat) (l : Line) (j : Nat) : Byte :=
  if l.has (j / 32) then mget 0 l.data j else rawByte s (lineBase i l + j)
/-- Sector k of the line, if it is valid, holds what memory holds. -/
def Current (s : State) (i : Nat) (l : Line) (k : Nat) : Prop :=
  l.has k = true → ∀ j < 32, mget 0 l.data (32 * k + j) = rawByte s (lineBase i l + (32 * k + j))

theorem LineOk.current {s : State} {i : Nat} {l : Line} (h : LineOk s i l) {k : Nat} (hk : k < 8) (hd : l.isDirty k = false) :
    Current s i l k := fun hv j hj => by
  rw [h.clean k hk hv hd j hj, lineBase]
  congr 1
  omega
theorem LineOk.mk' {s : State} {i : Nat} {l : Line} (inRange : 256 * l.num + 256 ≤ cacheSpan i) (data : mwf 0 l.data = true)
    (clean : ∀ k < 8, l.isDirty k = false → Current s i l k) : LineOk s i l :=
  ⟨inRange, data, fun k hk hv hd j hj => by
    rw [clean k hk hd hv j hj, lineBase]
    congr 1
    omega⟩
theorem lineByte_of_current {s : State} {i : Nat} {l : Line} {j : Nat} (h : Current s i l (j / 32)) :
    lineByte s i l j = rawByte s (lineBase i l + j) := by
  unfold lineByte
  split
  · next hv =>
    have := h hv (j % 32) (Nat.mod_lt _ (by decide))
    rwa [Nat.div_add_mod] at this
  · rfl
theorem LineOk.span {s : State} {i : Nat} {l : Line} (h : LineOk s i l) : 256 * l.num + 256 ≤ cacheSpan i := h.inRange

theorem store_caches (s : State) (o : Nat) (bs : List Byte) : (s.store o bs).caches = s.caches := rfl
theorem store_boot (s : State) (o : Nat) (bs : List Byte) : (s.store o bs).boot = s.boot := rfl

/-- A line of cache i and the memory behind it, l in state s, have become l' in s': the line shows what it showed but for the bytes bs at
offset o of it; no other byte of memory and no cache has changed. -/
structure Alters (i : Nat) (s : State) (l : Line) (s' : State) (l' : Line) (o : Nat) (bs : List Byte) : Prop where
  wf      : Memory.wf s'.mem = true
  line    : LineOk s' i l'
  num     : l'.num = l.num
  bytes   : ∀ j < 256, lineByte s' i l' j = patch (lineByte s i l) o bs j
  raw     : ∀ x, (x < lineBase i l ∨ lineBase i l + 256 ≤ x) → rawByte s' x = rawByte s x
  caches  : s'.caches = s.caches
  memtype : s'.boot.memtype = s.boot.memtype

section
variable {i : Nat} {s s1 s2 : State} {l l1 l2 : Line} {o : Nat} {bs : List Byte}

theorem Alters.base (h : Alters i s l s1 l1 o bs) : lineBase i l1 = lineBase i l := by rw [lineBase, lineBase, h.num]
theorem Alters.then (h : Alters i s l s1 l1 0 []) (k : Alters i s1 l1 s2 l2 o bs) : Alters i s l s2 l2 o bs where
  wf := k.wf
  line := k.line
  num := k.num.trans h.num
  bytes j hj := by
    rw [k.bytes j hj]
    exact patch_congr ((h.bytes j hj).trans (patch_nil _ _ _)) _ _
  raw x hx := (k.raw x (by rwa [h.base])).trans (h.raw x hx)
  caches := k.caches.trans h.caches
  memtype := k.memtype.trans h.memtype
/-- The line alone changes. -/
theorem alters_line (hm : Memory.wf s.mem = true) (hl : LineOk s i l1) (hn : l1.num = l.num)
    (hb : ∀ j < 256, lineByte s i l1 j = patch (lineByte s i l) o bs j) : Alters i s l s l1 o bs :=
  ⟨hm, hl, hn, hb, fun _ _ => rfl, rfl, rfl⟩
theorem Alters.refl (hm : Memory.wf s.mem = true) (hl : LineOk s i l) : Alters i s l s l 0 [] :=
  alters_line hm hl rfl fun _ _ => (patch_nil _ _ _).symm
/-- Neither line nor memory changes. -/
theorem SameStored.alters (h : SameStored s s1) (hm : Memory.wf s.mem = true) (hl : LineOk s i l) : Alters i s l s1 l 0 [] where
  wf := h.mem ▸ hm
  line := h.lineOk hl
  num := rfl
  bytes j _ := by rw [patch_nil, lineByte, lineByte, h.raw]
  raw x _ := h.raw x
  caches := h.caches
  memtype := h.memtype

theorem sector_lt {j : Nat} (hj : j < 256) : j / 32 < 8 := by omega

/-- Age, priority, poison and dirty marks show nothing; a mark goes from a sector that memory holds. -/
theorem mark_alters (hm : Memory.wf s.mem = true) (hl : LineOk s i l) (way prio stamp : Nat) (d p : Byte)
    (hd : ∀ k < 8, d.getLsbD k = false → Current s i l k) :
    Alters i s l s { l with way := way, prio := prio, stamp := stamp, dirty := d, poison := p } 0 [] :=
  alters_line hm (.mk' hl.span hl.data hd) rfl fun _ _ => (patch_nil _ _ _).symm

/-- A sector that memory holds leaves the line. -/
theorem drop_alters (hm : Memory.wf s.mem = true) (hl : LineOk s i l) {k : Nat} (hk : k < 8) (hc : Current s i l k) (p : Byte) :
    Alters i s l s { l with valid := setBit8 l.valid k false, poison := p } 0 [] := by
  have has (n : Nat) : Line.has { l with valid := setBit8 l.valid k false, poison := p } n = if n = k then false else l.has n :=
    getLsbD_setBit8 _ hk _ _
  refine alters_line hm (.mk' hl.span hl.data fun n hn hd hv => ?_) rfl fun j hj => ?_
  · rw [has] at hv
    split at hv
    · cases hv
    · exact hl.current hn hd hv
  · rw [patch_nil]
    by_cases e : j / 32 = k
    · rw [lineByte_of_current (l := l) (e ▸ hc), lineByte, has, if_pos e]
      rfl
    · rw [lineByte, has, if_neg e]
      rfl

theorem getD_rawBytes (s : State) (a : Nat) {n j : Nat} (hj : j < n) : (rawBytes s a n).getD j 0 = rawByte s (a + j) := by
  simp [rawBytes, List.getD_eq_getElem?_getD, hj]
theorem length_rawBytes (s : State) (a n : Nat) : (rawBytes s a n).length = n := by simp [rawBytes]

/-- A sector that the line does not hold is filled from memory. -/
theorem load_alters (hm : Memory.wf s.mem = true) (hl : LineOk s i l) {k : Nat} (hk : k < 8) (hv : l.has k = false) :
    Alters i s l s { l with valid := setBit8 l.valid k true, data := putBytes l.data (32 * k) (rawBytes s (lineBase i l + 32 * k) 32) } 0 [] := by
  obtain ⟨d, hd⟩ : ∃ d, d = putBytes l.data (32 * k) (rawBytes s (lineBase i l + 32 * k) 32) := ⟨_, rfl⟩
  rw [← hd]
  have has (n : Nat) : Line.has { l with valid := setBit8 l.valid k true, data := d } n = if n = k then true else l.has n :=
    getLsbD_setBit8 _ hk _ _
  have wf : mwf 0 d = true := by
    rw [hd]
    exact putBytes_wf hl.data _ _
  have data (j : Nat) : mget 0 d j = if j / 32 = k then rawByte s (lineBase i l + j) else mget 0 l.data j := by
    rw [hd, mget_putBytes hl.data, patch, length_rawBytes]
    by_cases e : j / 32 = k
    · rw [if_pos (by omega), if_pos e, getD_rawBytes s _ (by omega)]
      congr 1
      omega
    · rw [if_neg (by omega), if_neg e]
  refine alters_line hm (.mk' hl.span wf fun n hn hc hx j hj => ?_) rfl fun j hj => ?_
  · refine (data _).trans ?_
    rw [show (32 * n + j) / 32 = n by omega]
    split
    · rfl
    · next e =>
      rw [has, if_neg e] at hx
      exact hl.current hn hc hx j hj
  · rw [patch_nil, lineByte, lineByte, has]
    by_cases e : j / 32 = k
    · rw [if_pos e, e, hv, if_pos rfl]
      exact (data j).trans (if_pos e)
    · rw [if_neg e]
      exact congrArg (if l.has (j / 32) = true then · else _) ((data j).trans (if_neg e))

/-- The line's bytes of a valid sector go to memory. -/
theorem store_alters (hm : Memory.wf s.mem = true) (hl : LineOk s i l) {k : Nat} (hk : k < 8) (hv : l.has k = true) :
    Alters i s l (s.store (lineBase i l + 32 * k) (l.bytes (32 * k) 32)) l 0 [] ∧
      Current (s.store (lineBase i l + 32 * k) (l.bytes (32 * k) 32)) i l k := by
  obtain ⟨t, ht⟩ : ∃ t, t = s.store (lineBase i l + 32 * k) (l.bytes (32 * k) 32) := ⟨_, rfl⟩
  rw [← ht]
  have len : (l.bytes (32 * k) 32).length = 32 := by simp [Line.bytes]
  have raw (x : Nat) : rawByte t x = patch (rawByte s) (lineBase i l + 32 * k) (l.bytes (32 * k) 32) x := by
    rw [ht]
    exact rawByte_store_eq_patch hm _ _ x
  have away (x : Nat) (h : x < lineBase i l + 32 * k ∨ lineBase i l + 32 * k + 32 ≤ x) : rawByte t x = rawByte s x :=
    (raw x).trans (patch_outside _ (by omega))
  have current : Current t i l k := fun _ j hj => by
    rw [raw, ← Nat.add_assoc, patch_at _ _ (len.symm ▸ hj)]
    simp [Line.bytes]
  have line : LineOk t i l := .mk' hl.span hl.data fun n hn hd => by
    by_cases e : n = k
    · exact e ▸ current
    · intro hx j hj
      rw [hl.current hn hd hx j hj, away _ (by omega)]
  refine ⟨⟨by rw [ht]; exact store_wf s _ _ hm, line, rfl, fun j hj => ?_, fun x hx => away x (by omega), by rw [ht, store_caches],
    by rw [ht, store_boot]⟩, current⟩
  rw [patch_nil, lineByte, lineByte]
  split
  · rfl
  · next hx =>
    have ne : j / 32 ≠ k := fun e => hx (e ▸ hv)
    exact away _ (by omega)

/-! ## The bytes of a write -/

/-- Bytes within sector o / 32 of a line. -/
structure InSector (o : Nat) (bs : List Byte) : Prop where
  here : o < 256
  fits : o % 32 + bs.length ≤ 32

/-- Bytes are merged into a sector that the line holds, or that they fill (R350). -/
theorem merge_alters (hm : Memory.wf s.mem = true) (hl : LineOk s i l) (ho : InSector o bs) (hv : l.has (o / 32) = true ∨ bs.length = 32) :
    Alters i s l s (mergeSector l o bs) o bs := by
  obtain ⟨here, fits⟩ := ho
  have has (n : Nat) : (mergeSector l o bs).has n = if n = o / 32 then true else l.has n := getLsbD_setBit8 _ (sector_lt here) _ _
  have dirty (n : Nat) : (mergeSector l o bs).isDirty n = if n = o / 32 then true else l.isDirty n := getLsbD_setBit8 _ (sector_lt here) _ _
  have data (j : Nat) : mget 0 (mergeSector l o bs).data j = patch (mget 0 l.data) o bs j := mget_putBytes hl.data _ _ _
  refine alters_line hm (.mk' hl.span (putBytes_wf hl.data _ _) fun n hn hd hx j hj => ?_) rfl fun j hj => ?_
  · rw [dirty] at hd
    have ne : n ≠ o / 32 := fun e => by simp [e] at hd
    rw [if_neg ne] at hd
    rw [has, if_neg ne] at hx
    rw [data, patch_outside _ (by omega)]
    exact hl.current hn hd hx j hj
  · rw [lineByte, has]
    by_cases e : j / 32 = o / 32
    · rw [if_pos e, if_pos rfl, data]
      unfold patch
      split
      · rfl
      · next out =>
        have held : l.has (j / 32) = true := by
          rw [e]
          exact hv.resolve_right fun whole => out (by omega)
        rw [lineByte, if_pos held]
    · rw [if_neg e, data, patch_outside _ (by omega), patch_outside _ (by omega)]
      rfl

/-- Memory behind a line after a store within one sector of it. -/
theorem rawByte_store_line (hm : Memory.wf s.mem = true) (j : Nat) :
    rawByte (s.store (lineBase i l + o) bs) (lineBase i l + j) = patch (fun y => rawByte s (lineBase i l + y)) o bs j :=
  (rawByte_store_eq_patch hm _ _ _).trans (patch_shift _ _ _ _ _)
theorem current_store (hm : Memory.wf s.mem = true) (ho : InSector o bs) {n : Nat} (hn : n ≠ o / 32) (h : Current s i l n) :
    Current (s.store (lineBase i l + o) bs) i l n := fun hx j hj => by
  have fits := ho.fits
  rw [rawByte_store_line hm, patch_outside _ (by omega)]
  exact h hx j hj

/-- Bytes go to memory beneath a sector that the line does not hold. -/
theorem beneath_alters (hm : Memory.wf s.mem = true) (hl : LineOk s i l) (ho : InSector o bs) (hv : l.has (o / 32) = false) :
    Alters i s l (s.store (lineBase i l + o) bs) l o bs where
  wf := store_wf s _ _ hm
  line := .mk' hl.span hl.data fun n hn hd => by
    by_cases e : n = o / 32
    · exact fun hx => absurd hx (by rw [e, hv]; decide)
    · exact current_store hm ho e (hl.current hn hd)
  num := rfl
  bytes j hj := by
    have fits := ho.fits
    rw [lineByte, rawByte_store_line hm]
    by_cases e : j / 32 = o / 32
    · have held : lineByte s i l j = rawByte s (lineBase i l + j) := by
        rw [lineByte, e, hv]
        rfl
      rw [e, hv, if_neg Bool.false_ne_true]
      exact patch_congr held.symm _ _
    · rw [patch_outside _ (by omega), patch_outside _ (by omega)]
      rfl
  raw x hx := by
    obtain ⟨here, fits⟩ := ho
    rw [rawByte_store_eq_patch hm, patch_outside _ (by omega)]
  caches := rfl
  memtype := rfl

/-- Bytes go to memory and to the line that holds their sector (R131). -/
theorem through_alters (hm : Memory.wf s.mem = true) (hl : LineOk s i l) (ho : InSector o bs) (hv : l.has (o / 32) = true) :
    Alters i s l (s.store (lineBase i l + o) bs) { l with data := putBytes l.data o bs } o bs where
  wf := store_wf s _ _ hm
  line := .mk' hl.span (putBytes_wf hl.data _ _) fun n hn hd hx j hj => by
    refine (mget_putBytes hl.data _ _ _).trans ((Eq.trans ?_ (rawByte_store_line (l := l) hm _).symm))
    exact patch_congr (hl.current hn hd hx j hj) _ _
  num := rfl
  bytes j hj := by
    have fits := ho.fits
    by_cases e : l.has (j / 32) = true
    · refine (if_pos e).trans ((mget_putBytes hl.data _ _ _).trans ?_)
      unfold patch
      rw [lineByte, if_pos e]
    · have ne : j / 32 ≠ o / 32 := fun q => e (q ▸ hv)
      refine (if_neg e).trans ((rawByte_store_line (l := l) hm _).trans ?_)
      rw [patch_outside _ (by omega), patch_outside _ (by omega), lineByte, if_neg e]
  raw x hx := by
    obtain ⟨here, fits⟩ := ho
    rw [rawByte_store_eq_patch hm, patch_outside _ (by omega)]
  caches := rfl
  memtype := rfl
end

end Sys2Proof.Machine
end

section
/-!
Fills, errors of the arrays and writebacks keep what a line shows (R349, R351, R354, R355, R664).
-/

namespace Sys2Proof.Machine

variable {i : Nat} {s t : State} {l l1 : Line} {k : Nat}

/-- A sector that shows what memory holds. -/
theorem current_iff : Current s i l k ↔ ∀ j < 32, lineByte s i l (32 * k + j) = rawByte s (lineBase i l + (32 * k + j)) := by
  have sector : ∀ j < 32, (32 * k + j) / 32 = k := fun j hj => by omega
  constructor
  · exact fun h j hj => lineByte_of_current (by rwa [sector j hj])
  · intro h hv j hj
    have e := h j hj
    rwa [lineByte, sector j hj, if_pos hv] at e
/-- A change that shows nothing leaves the sectors that memory holds, where the memory behind them stays. -/
theorem Alters.current (h : Alters i s l t l1 0 []) {n : Nat} (hn : n < 8)
    (hr : ∀ j < 32, rawByte t (lineBase i l + (32 * n + j)) = rawByte s (lineBase i l + (32 * n + j))) (hc : Current s i l n) :
    Current t i l1 n :=
  current_iff.2 fun j hj => by rw [h.bytes _ (by omega), patch_nil, current_iff.1 hc j hj, h.base, hr j hj]

/-! ## Poison and fills -/

/-- The other sector of the granule that sector k lies in. -/
def pairSector (k : Nat) : Nat := if k % 2 = 0 then k + 1 else k - 1
theorem pairSector_lt (hk : k < 8) : pairSector k < 8 := by
  unfold pairSector
  split <;> omega

/-- The line with the other sector of k's granule filled, where it is not held. -/
def pairFilled (s : State) (i : Nat) (l : Line) (k : Nat) : Line :=
  if l.has (pairSector k) then l
  else { l with
    valid := setBit8 l.valid (pairSector k) true
    data := putBytes l.data (32 * pairSector k) (rawBytes s (lineBase i l + 32 * pairSector k) 32) }
theorem pairFilled_alters (hm : Memory.wf s.mem = true) (hl : LineOk s i l) (hk : k < 8) : Alters i s l s (pairFilled s i l k) 0 [] := by
  unfold pairFilled
  split
  · exact .refl hm hl
  · next hv => exact load_alters hm hl (pairSector_lt hk) (by simpa using hv)
theorem pairFilled_has (hk : k < 8) (hv : l.has k = true) : (pairFilled s i l k).has k = true := by
  unfold pairFilled
  split
  · exact hv
  · refine (getLsbD_setBit8 _ (pairSector_lt hk) _ _).trans ?_
    split
    · rfl
    · exact hv

theorem poisonPair_eq (s : State) (i : Nat) (l : Line) (k : Nat) : poisonPair s i l k = { pairFilled s i l k with
    dirty := setBit8 (setBit8 (pairFilled s i l k).dirty k true) (pairSector k) true
    poison := setBit8 (setBit8 (pairFilled s i l k).poison k true) (pairSector k) true } := rfl
/-- Both sectors of a poisoned granule stay as they show (R664). -/
theorem poisonPair_alters (hm : Memory.wf s.mem = true) (hl : LineOk s i l) (hk : k < 8) : Alters i s l s (poisonPair s i l k) 0 [] := by
  have filled := pairFilled_alters hm hl hk
  rw [poisonPair_eq]
  refine filled.then (mark_alters hm filled.line _ _ _ _ _ fun n hn hd => ?_)
  rw [getLsbD_setBit8 _ (pairSector_lt hk), getLsbD_setBit8 _ hk] at hd
  split at hd
  · cases hd
  · split at hd
    · cases hd
    · exact filled.line.current hn hd
theorem poisonPair_has (hk : k < 8) (hv : l.has k = true) : (poisonPair s i l k).has k = true := pairFilled_has (s := s) (i := i) hk hv

/-- A sector that the line does not hold is filled from memory, poisoned or not (R349, R355). -/
theorem fillSector_alters (hm : Memory.wf s.mem = true) (hl : LineOk s i l) (hk : k < 8) (hv : l.has k = false) :
    Alters i s l s (fillSector s i l k) 0 [] := by
  have filled := load_alters hm hl hk hv
  unfold fillSector
  dsimp only
  split
  · exact filled.then (poisonPair_alters hm filled.line hk)
  · exact filled
theorem fillSector_has (s : State) (i : Nat) (l : Line) (hk : k < 8) : (fillSector s i l k).has k = true := by
  have filled (d : SMap Byte) : Line.has { l with valid := setBit8 l.valid k true, data := d } k = true :=
    (getLsbD_setBit8 _ hk _ _).trans (if_pos rfl)
  unfold fillSector
  dsimp only
  split
  · exact poisonPair_has hk (filled _)
  · exact filled _

/-! ## Errors in the arrays (R354) -/

/-- Errors in the arrays that hold a line show nothing: a clean sector goes, a dirty one is poisoned. -/
theorem lineErrors_alters (hm : Memory.wf s.mem = true) (hl : LineOk s i l) (hk : k < 8) :
    Alters i s l (lineErrors s i l k).1 (lineErrors s i l k).2 0 [] := by
  obtain ⟨u, hu⟩ : ∃ u, u = clearUpset s (arrayKey i (256 * l.num + 32 * k)) := ⟨_, rfl⟩
  have seen : SameStored s u := hu ▸ clearUpset_sameStored s _
  have hmu : Memory.wf u.mem = true := seen.mem ▸ hm
  have cleared := seen.alters hm hl
  unfold lineErrors
  dsimp only
  split
  · exact .refl hm hl
  · exact ((clearUpset_sameStored ..).trans ((count_sameStored ..).trans (corrected_sameStored ..))).alters hm hl
  · rw [← hu]
    split
    · have pair := poisonPair_alters hmu cleared.line hk
      exact cleared.then (pair.then (((count_sameStored ..).trans ((event_sameStored ..).trans (report_sameStored ..))).alters hmu pair.line))
    · next hd => exact cleared.then (drop_alters hmu cleared.line hk (cleared.line.current hk (by simpa using hd)) _)
theorem lineErrors_has (hk : k < 8) (hv : l.has k = true) (hd : l.isDirty k = true) : (lineErrors s i l k).2.has k = true := by
  unfold lineErrors
  dsimp only
  split
  · exact hv
  · exact hv
  · rw [if_pos hd]
    exact poisonPair_has hk hv

/-! ## Writebacks (R351, R391) -/

/-- What a writeback does: it shows nothing, and memory holds afterwards the sectors that it wrote and those that it held. -/
structure WritesBack (i : Nat) (s : State) (l : Line) (t : State) (m : Line) (wrote : Nat → Prop) : Prop where
  alters  : Alters i s l t m 0 []
  current : ∀ n < 8, wrote n ∨ Current s i l n → Current t i m n

/-- A sector goes to memory, with its mark. -/
def flushSector (s : State) (i : Nat) (l : Line) (k : Nat) : State × Line :=
  let t := (eccRead s (lineBase i l + 32 * k)).store (lineBase i l + 32 * k) (l.bytes (32 * k) 32)
  ((if l.isPoison k then setPoison t (granule (lineBase i l + 32 * k)) else t).count (cachePage i) 0x098 1,
    { l with dirty := setBit8 l.dirty k false })
theorem writeBack_eq (s : State) (i : Nat) (l : Line) (k : Nat) :
    writeBack s i l k = if l.has k && l.isDirty k then flushSector (lineErrors s i l k).1 i (lineErrors s i l k).2 k else (s, l) := rfl

theorem flushSector_writesBack (hm : Memory.wf s.mem = true) (hl : LineOk s i l) (hk : k < 8) (hv : l.has k = true) :
    WritesBack i s l (flushSector s i l k).1 (flushSector s i l k).2 (· = k) := by
  have read := (eccRead_sameStored s (lineBase i l + 32 * k)).alters hm hl
  obtain ⟨stored, written⟩ := store_alters read.wf read.line hk hv
  have others : ∀ n < 8, n ≠ k → Current s i l n →
      Current ((eccRead s (lineBase i l + 32 * k)).store (lineBase i l + 32 * k) (l.bytes (32 * k) 32)) i l n := fun n hn e hc =>
    current_store read.wf ⟨by omega, by simp [Line.bytes]⟩ (by omega) (read.current hn (fun j _ => (eccRead_sameStored s _).raw _) hc)
  unfold flushSector
  dsimp only
  generalize (eccRead s (lineBase i l + 32 * k)).store (lineBase i l + 32 * k) (l.bytes (32 * k) 32) = t at stored written others
  have counted : SameStored t ((if l.isPoison k then setPoison t (granule (lineBase i l + 32 * k)) else t).count (cachePage i) 0x098 1) := by
    split
    · exact (setPoison_sameStored ..).trans (count_sameStored ..)
    · exact count_sameStored ..
  generalize (if l.isPoison k then setPoison t (granule (lineBase i l + 32 * k)) else t).count (cachePage i) 0x098 1 = u at counted
  have last := counted.alters stored.wf stored.line
  have current : ∀ n < 8, n = k ∨ Current s i l n → Current u i l n := fun n hn hc => by
    refine last.current hn (fun j _ => counted.raw _) ?_
    by_cases e : n = k
    · exact e ▸ written
    · exact others n hn e (hc.resolve_left e)
  exact ⟨(read.then stored).then (last.then (mark_alters last.wf last.line _ _ _ _ _ fun n hn hd => by
    rw [getLsbD_setBit8 _ hk] at hd
    split at hd
    · next e => exact current n hn (.inl e)
    · exact last.line.current hn hd)), current⟩

theorem writeBack_writesBack (hm : Memory.wf s.mem = true) (hl : LineOk s i l) (hk : k < 8) :
    WritesBack i s l (writeBack s i l k).1 (writeBack s i l k).2 (· = k) := by
  rw [writeBack_eq]
  split
  · next h =>
    obtain ⟨hv, hd⟩ := Bool.and_eq_true_iff.1 h
    have errors := lineErrors_alters hm hl hk
    obtain ⟨flushed, current⟩ := flushSector_writesBack errors.wf errors.line hk (lineErrors_has hk hv hd)
    exact ⟨errors.then flushed, fun n hn hc => current n hn
      (hc.imp id (errors.current hn fun j _ => (lineErrors_sameStored s i l k).raw _))⟩
  · next h =>
    refine ⟨.refl hm hl, fun n hn hc => hc.elim (fun e => ?_) id⟩
    subst e
    exact fun hv => hl.current hk (by simpa [hv] using h) hv

/-- Every sector of a line is written back. -/
theorem writeBackLine_writesBack (hm : Memory.wf s.mem = true) (hl : LineOk s i l) :
    WritesBack i s l (writeBackLine s i l).1 (writeBackLine s i l).2 (· < 8) := by
  have all (ks : List Nat) (h8 : ∀ k ∈ ks, k < 8) : ∀ p : State × Line, Memory.wf p.1.mem = true → LineOk p.1 i p.2 →
      WritesBack i p.1 p.2 (ks.foldl (fun p k => writeBack p.1 i p.2 k) p).1 (ks.foldl (fun p k => writeBack p.1 i p.2 k) p).2 (· ∈ ks) := by
    induction ks with
    | nil => exact fun p hm hl => ⟨.refl hm hl, fun n _ hc => hc.resolve_left List.not_mem_nil⟩
    | cons k ks ih =>
      intro p hm hl
      obtain ⟨first, current⟩ := writeBack_writesBack hm hl (h8 k List.mem_cons_self)
      obtain ⟨rest, currents⟩ := ih (fun x hx => h8 x (List.mem_cons_of_mem _ hx)) _ first.wf first.line
      refine ⟨first.then rest, fun n hn hc => currents n hn ?_⟩
      rcases hc with hc | hc
      · rcases List.mem_cons.1 hc with e | hc
        · exact .inr (current n hn (.inl e))
        · exact .inl hc
      · exact .inr (current n hn (.inr hc))
  obtain ⟨alters, current⟩ := all (List.range 8) (fun k hk => List.mem_range.1 hk) (s, l) hm hl
  exact ⟨alters, fun n hn hc => current n hn (hc.imp List.mem_range.2 id)⟩

end Sys2Proof.Machine
end

section
/-!
A changed line put into its cache again, an eviction, an allocation: what the package shows then (R351–R353).
-/

namespace Sys2Proof.Machine

/-! ## Lines do not meet -/

/-- Offsets of two ranges that are one offset are one place. -/
theorem base_inj {i j r q : Nat} (hi : i < 10) (hr : r < cacheSpan i) (hj : j < 10) (hq : q < cacheSpan j)
    (e : cacheBase i + r = cacheBase j + q) : i = j ∧ r = q := by
  have h := rangeOf_base hi hr
  rw [e, rangeOf_base hj hq] at h
  injection h with h
  injection h with h1 h2
  exact ⟨h1.symm, h2.symm⟩

variable {i : Nat} {s t : State} {l m : Line} {o : Nat} {bs : List Byte}

/-- A place of a cache's range lies in another line than l, or beside the line's bytes. -/
theorem outside_line (hi : i < 10) (hl : 256 * l.num + 256 ≤ cacheSpan i) {j r : Nat} (hj : j < 10) (hr : r < cacheSpan j)
    (h : ¬ (j = i ∧ r / 256 = l.num)) : cacheBase j + r < lineBase i l ∨ lineBase i l + 256 ≤ cacheBase j + r := by
  by_contra n
  have e : cacheBase j + r = cacheBase i + (256 * l.num + (cacheBase j + r - lineBase i l)) := by
    unfold lineBase at n ⊢
    omega
  have d : cacheBase j + r - lineBase i l < 256 := by omega
  obtain ⟨h1, h2⟩ := base_inj hj hr hi (by omega) e
  exact h ⟨h1, by omega⟩

/-- A line of the state that a change of line l has not met. -/
theorem lineOk_beside (hi : i < 10) (hl : 256 * l.num + 256 ≤ cacheSpan i)
    (hr : ∀ x, (x < lineBase i l ∨ lineBase i l + 256 ≤ x) → rawByte t x = rawByte s x) {j : Nat} (hj : j < 10) (hm : LineOk s j m)
    (h : ¬ (j = i ∧ m.num = l.num)) : LineOk t j m := by
  refine .mk' hm.span hm.data fun k hk hd hv b hb => ?_
  have span := hm.span
  have away := outside_line hi hl hj (r := 256 * m.num + (32 * k + b)) (by omega) (by rwa [show (256 * m.num + (32 * k + b)) / 256 = m.num by omega])
  rw [hm.current hk hd hv b hb, lineBase, Nat.add_assoc, hr _ away]

/-! ## What a state shows of a line -/

/-- Line l stands for its number in cache i of s: it is the line of that number, or there is none and l holds nothing. -/
def Stands (s : State) (i : Nat) (l : Line) : Prop :=
  findLine (s.cache i) l.num = some l ∨ (findLine (s.cache i) l.num = none ∧ l.valid = 0)

theorem Stands.peek (h : Stands s i l) {j : Nat} (hj : j < 256) : peekByte s i (256 * l.num + j) = lineByte s i l j := by
  have num : (256 * l.num + j) / 256 = l.num := by omega
  have off : (256 * l.num + j) % 256 = j := by omega
  unfold peekByte
  rw [num, off, lineByte, lineBase, Nat.add_assoc]
  rcases h with h | ⟨h, hv⟩
  · rw [h]
  · have none : l.has (j / 32) = false := by simp [Line.has, hv]
    rw [h, none]
    rfl

theorem shownByte_line (s : State) (hi : i < 10) (hl : 256 * l.num + 256 ≤ cacheSpan i) {j : Nat} (hj : j < 256) :
    shownByte s (lineBase i l + j) = peekByte s i (256 * l.num + j) := by
  rw [← shownByte_base s hi (by omega), lineBase, Nat.add_assoc]

/-- States that differ in one line of one cache, and the memory behind it. -/
theorem becomes_of_line (hi : i < 10) (hl : 256 * l.num + 256 ≤ cacheSpan i) (ok : CachesOk t)
    (hr : ∀ x, (x < lineBase i l ∨ lineBase i l + 256 ≤ x) → rawByte t x = rawByte s x)
    (others : ∀ j < 10, ∀ n, ¬ (j = i ∧ n = l.num) → findLine (t.cache j) n = findLine (s.cache j) n)
    (bytes : ∀ j < 256, peekByte t i (256 * l.num + j) = patch (fun j => peekByte s i (256 * l.num + j)) o bs j)
    (fits : o + bs.length ≤ 256) (memtype : t.boot.memtype = s.boot.memtype) : Becomes s t (lineBase i l + o) bs := by
  refine ⟨ok, fun x => ?_, memtype⟩
  cases e : rangeOf x with
  | none =>
    have away : x < lineBase i l ∨ lineBase i l + 256 ≤ x := by
      by_contra n
      have here := rangeOf_base hi (r := 256 * l.num + (x - lineBase i l)) (by omega)
      rw [show cacheBase i + (256 * l.num + (x - lineBase i l)) = x by unfold lineBase at n ⊢; omega, e] at here
      cases here
    rw [patch_outside _ (by omega), shownByte_uncached _ e, shownByte_uncached _ e, hr x away]
  | some p =>
    obtain ⟨j, r⟩ := p
    obtain ⟨hj, hr', rfl⟩ := rangeOf_eq_some.1 e
    by_cases h : j = i ∧ r / 256 = l.num
    · obtain ⟨rfl, hn⟩ := h
      have at_ : cacheBase j + r = lineBase j l + r % 256 := by unfold lineBase; omega
      rw [at_, patch_shift, shownByte_line t hi hl (by omega), bytes _ (by omega)]
      exact patch_congr (shownByte_line s hi hl (by omega)).symm _ _
    · have away := outside_line hi hl hj hr' h
      rw [patch_outside _ (by omega), shownByte_base _ hj hr', shownByte_base _ hj hr']
      unfold peekByte
      rw [others j hj _ h, hr _ away]

/-! ## The end of a change of a line -/

/-- Line l of cache i in a state whose caches hold what memory would. -/
structure OnLine (s : State) (i : Nat) (l : Line) : Prop where
  ok     : CachesOk s
  here   : i < 10
  stands : Stands s i l
  line   : LineOk s i l

theorem onLine_of_found (ok : CachesOk s) (hi : i < 10) {n : Nat} (h : findLine (s.cache i) n = some l) : OnLine s i l := by
  obtain ⟨hl, rfl⟩ := findLine_some h
  exact ⟨ok, hi, .inl h, ok.lines i hi l hl⟩
theorem OnLine.refl (a : OnLine s i l) : Alters i s l s l 0 [] := .refl a.ok.mem a.line

theorem Stands.bytes (h : Stands s i l) {n : Nat} (hb : ∀ j < 256, peekByte t i (256 * l.num + j) = patch (lineByte s i l) o bs j) (hn : n < 256) :
    peekByte t i (256 * l.num + n) = patch (fun j => peekByte s i (256 * l.num + j)) o bs n :=
  (hb n hn).trans (patch_congr (h.peek hn).symm _ _)

theorem Alters.cache (h : Alters i s l t m o bs) (j : Nat) : t.cache j = s.cache j := by rw [State.cache, State.cache, h.caches]
theorem Alters.put_cache (h : Alters i s l t m o bs) (ok : CachesOk s) :
    (t.modCache i fun c => putLine c m).cache i = putLine (s.cache i) m := by
  rw [State.modCache_cache _ _ _ (h.caches ▸ ok.map), h.cache]
theorem Alters.put_cache_ne (h : Alters i s l t m o bs) {j : Nat} (hj : j ≠ i) :
    (t.modCache i fun c => putLine c m).cache j = s.cache j := by
  rw [State.modCache_cache_ne _ _ _ _ hj.symm, h.cache]
theorem rawByte_modCache (s : State) (i : Nat) (f : Cache → Cache) (x : Nat) : rawByte (s.modCache i f) x = rawByte s x := rfl

/-- A changed line takes its place: the caches hold what memory would. -/
theorem Alters.put_ok (h : Alters i s l t m o bs) (a : OnLine s i l) : CachesOk (t.modCache i fun c => putLine c m) := by
  obtain ⟨ok, hi, -, hl⟩ := a
  have beside {j : Nat} (hj : j < 10) {x : Line} (hx : x ∈ (s.cache j).lines) (ne : ¬ (j = i ∧ x.num = l.num)) :
      LineOk (t.modCache i fun c => putLine c m) j x :=
    (lineOk_beside hi hl.span h.raw hj (ok.lines j hj x hx) ne).of_raw (rawByte_modCache t i _)
  refine ⟨h.wf, mput_wf _ _ (h.caches ▸ ok.map), fun j hj x hx => ?_, fun j hj => ?_⟩ <;> by_cases e : j = i
  · subst e
    rw [h.put_cache ok] at hx
    rcases mem_putLine hx with rfl | ⟨hx, ne⟩
    · exact h.line.of_raw (rawByte_modCache t j _)
    · exact beside hj hx fun q => ne (q.2.trans h.num.symm)
  · rw [h.put_cache_ne e] at hx
    exact beside hj hx fun q => e q.1
  · subst e
    rw [h.put_cache ok]
    exact putLine_once m (ok.once j hj)
  · rw [h.put_cache_ne e]
    exact ok.once j hj
/-- A changed line takes its place, and the package shows the change. -/
theorem Alters.put (h : Alters i s l t m o bs) (a : OnLine s i l) (fits : o + bs.length ≤ 256) :
    Becomes s (t.modCache i fun c => putLine c m) (lineBase i l + o) bs := by
  have stands : Stands (t.modCache i fun c => putLine c m) i m := by
    unfold Stands
    rw [h.put_cache a.ok, findLine_putLine, if_pos rfl]
    by_cases hv : m.valid = 0
    · exact .inr ⟨if_pos hv, hv⟩
    · exact .inl (if_neg hv)
  have bytes : ∀ j < 256, peekByte (t.modCache i fun c => putLine c m) i (256 * l.num + j) = patch (lineByte s i l) o bs j := fun j hj => by
    rw [← h.num, stands.peek hj, ← h.bytes j hj, lineByte, lineByte, rawByte_modCache]
  refine becomes_of_line a.here a.line.span (h.put_ok a) h.raw (fun j hj n hn => ?_) (fun n hn => a.stands.bytes bytes hn) fits h.memtype
  by_cases e : j = i
  · subst e
    rw [h.put_cache a.ok, findLine_putLine, if_neg fun q => hn ⟨rfl, q.trans h.num⟩]
  · rw [h.put_cache_ne e]

/-- The line itself stays; the memory behind it has changed. -/
theorem Alters.stay (h : Alters i s l t l o bs) (a : OnLine s i l) (fits : o + bs.length ≤ 256) : Becomes s t (lineBase i l + o) bs := by
  obtain ⟨ok, hi, hs, hl⟩ := a
  have hl := hl.span
  have lines : ∀ j < 10, ∀ x ∈ (t.cache j).lines, LineOk t j x := by
    intro j hj x hx
    rw [h.cache] at hx
    by_cases e : j = i ∧ x.num = l.num
    · obtain ⟨rfl, e⟩ := e
      have found := findLine_of_mem (ok.once j hj) hx
      rcases hs with hs | ⟨hs, -⟩
      · rw [e, hs] at found
        injection found with found
        exact found ▸ h.line
      · rw [e, hs] at found
        cases found
    · exact lineOk_beside hi hl h.raw hj (ok.lines j hj x hx) e
  have stands : Stands t i l := by rwa [Stands, h.cache]
  exact becomes_of_line hi hl ⟨h.wf, h.caches ▸ ok.map, lines, fun j hj => h.cache j ▸ ok.once j hj⟩ h.raw
    (fun j _ n _ => by rw [h.cache]) (fun n hn => hs.bytes (fun j hj => (stands.peek hj).trans (h.bytes j hj)) hn) fits h.memtype

theorem Becomes.of_nil (h : Becomes s t o []) : Keeps s t :=
  ⟨h.ok, fun x => by rw [h.shown, patch_nil, patch_nil], h.memtype⟩
theorem Alters.putKeeps (h : Alters i s l t m 0 []) (a : OnLine s i l) : Keeps s (t.modCache i fun c => putLine c m) :=
  (h.put a (by decide)).of_nil
theorem Alters.stayKeeps (h : Alters i s l t l 0 []) (a : OnLine s i l) : Keeps s t := (h.stay a (by decide)).of_nil

/-! ## Evictions and allocations -/

/-- A line of which memory holds all may go. -/
theorem empty_alters (hm : Memory.wf s.mem = true) (hl : LineOk s i l) (hc : ∀ k < 8, Current s i l k) :
    Alters i s l s { l with valid := 0 } 0 [] := by
  have none (k : Nat) : Line.has { l with valid := 0 } k = false := by simp [Line.has]
  refine alters_line hm (.mk' hl.span hl.data fun k _ _ hv => ?_) rfl fun j hj => ?_
  · rw [none] at hv
    cases hv
  · rw [patch_nil, lineByte_of_current (hc _ (sector_lt hj)), lineByte, none]
    rfl

theorem evict_eq (s : State) (i : Nat) (l : Line) :
    evict s i l = (writeBackLine s i l).1.modCache i fun c => putLine c { (writeBackLine s i l).2 with valid := 0 } := rfl
/-- An eviction shows nothing (R351). -/
theorem evict_keeps (a : OnLine s i l) : Keeps s (evict s i l) := by
  obtain ⟨written, current⟩ := writeBackLine_writesBack a.ok.mem a.line
  exact (written.then (empty_alters written.wf written.line fun k hk => current k hk (.inl hk))).putKeeps a
theorem evict_findLine (a : OnLine s i l) {n : Nat} (h : findLine (s.cache i) n = none) : findLine ((evict s i l).cache i) n = none := by
  obtain ⟨written, -⟩ := writeBackLine_writesBack a.ok.mem a.line
  have cache : (writeBackLine s i l).1.cache i = s.cache i := by rw [State.cache, State.cache, written.caches]
  rw [evict_eq, State.modCache_cache _ _ _ (written.caches ▸ a.ok.map), findLine_putLine, cache]
  split
  · rfl
  · exact h

/-- An empty line of a number that the cache does not hold. -/
theorem onLine_empty (ok : CachesOk s) (hi : i < 10) (hn : findLine (s.cache i) l.num = none) (hl : 256 * l.num + 256 ≤ cacheSpan i)
    (hv : l.valid = 0) (hd : l.data = []) : OnLine s i l where
  ok := ok
  here := hi
  stands := .inr ⟨hn, hv⟩
  line := .mk' hl (by rw [hd]; rfl) fun k _ _ h => by simp [Line.has, hv] at h

/-- An allocation shows nothing, and answers an empty line (R353). -/
theorem allocLine_keeps (ok : CachesOk s) (hi : i < 10) {num prio : Nat} (hn : findLine (s.cache i) num = none)
    (hl : 256 * num + 256 ≤ cacheSpan i) (e : allocLine s i num prio = some (t, l)) :
    Keeps s t ∧ OnLine t i l ∧ l.num = num ∧ l.valid = 0 := by
  unfold allocLine at e
  obtain ⟨w, -, e⟩ := Option.map_eq_some_iff.1 e
  have finish {u : State} (k : Keeps s u) (hu : findLine (u.cache i) num = none) (e : (u.tick.2, Line.mk num w 0 0 0 prio u.stamp []) = (t, l)) :
      Keeps s t ∧ OnLine t i l ∧ l.num = num ∧ l.valid = 0 := by
    cases e
    have ticked := tick_sameStored u
    exact ⟨k.then (ticked.keeps k.ok), onLine_empty (ticked.cachesOk k.ok) hi (by rw [ticked.cache]; exact hu) hl rfl rfl, rfl, rfl⟩
  cases h : lineAt (s.cache i) i (setOf i num) w with
  | none =>
    rw [h] at e
    exact finish (.refl ok) hn e
  | some old =>
    rw [h] at e
    have a := onLine_of_found ok hi (findLine_of_mem (ok.once i hi) (List.mem_of_find?_eq_some h))
    exact finish (evict_keeps a) (evict_findLine a hn) e

end Sys2Proof.Machine
end

section
/-!
Reads and writes of a sector through a cache, whatever the cache holds and whatever the access asks of it (R349–R356, R387, R391).
-/

namespace Sys2Proof.Machine

variable {i : Nat} {s t u : State} {l m : Line} {o : Nat} {bs : List Byte}

theorem Becomes.stored (k : Becomes s t o bs) (h : SameStored t u) : Becomes s u o bs := k.keeps (h.keeps k.ok)
theorem SameStored.then (h : SameStored s t) (ok : CachesOk s) (k : Becomes t u o bs) : Becomes s u o bs := (h.keeps ok).then k
theorem ite_keeps {c : Prop} [Decidable c] (h : Keeps s t) (k : Keeps s u) : Keeps s (if c then t else u) := by split <;> assumption

theorem SameStored.onLine (h : SameStored s t) (a : OnLine s i l) : OnLine t i l :=
  ⟨h.cachesOk a.ok, a.here, by rw [Stands, h.cache]; exact a.stands, h.lineOk a.line⟩
theorem OnLine.found (ok : CachesOk s) (hi : i < 10) (h : findLine (s.cache i) (o / 256) = some l) :
    OnLine s i l ∧ lineBase i l + o % 256 = cacheBase i + o := by
  refine ⟨onLine_of_found ok hi h, ?_⟩
  rw [lineBase, (findLine_some h).2]
  omega
theorem sectorIndex_lt (o : Nat) : o % 256 / 32 < 8 := by omega

/-- A line's place in the orders of replacement shows nothing (R352, R353). -/
theorem touch_alters (hm : Memory.wf s.mem = true) (hl : LineOk s i l) (prio stamp : Nat) :
    Alters i s l s { l with prio := prio, stamp := stamp } 0 [] :=
  mark_alters hm hl l.way prio stamp l.dirty l.poison fun _ hn hd => hl.current hn hd

/-- The line after sector k has been written back and has left it (R352). -/
def purged (s : State) (i : Nat) (l : Line) (k : Nat) : Line :=
  let m := (writeBack s i l k).2
  { m with valid := setBit8 m.valid k false, poison := setBit8 m.poison k false }
theorem purged_alters (hm : Memory.wf s.mem = true) (hl : LineOk s i l) {k : Nat} (hk : k < 8) :
    Alters i s l (writeBack s i l k).1 (purged s i l k) 0 [] := by
  obtain ⟨written, current⟩ := writeBack_writesBack hm hl hk
  exact written.then (drop_alters written.wf written.line hk (current _ hk (.inl rfl)) _)
theorem purged_has (s : State) (i : Nat) (l : Line) {k : Nat} (hk : k < 8) : (purged s i l k).has k = false :=
  (getLsbD_setBit8 _ hk _ _).trans (if_pos rfl)

/-! ## What has changed by itself (R354, R387, R391) -/

/-- The arrays that hold a sector read it, and the line takes what they find. -/
def readArrays (s : State) (i n k : Nat) : State :=
  match findLine (s.cache i) n with
  | some l =>
    let r := lineErrors s i l k
    if r.2 = l then r.1 else r.1.modCache i fun c => putLine c r.2
  | none => s
theorem readArrays_keeps (ok : CachesOk s) (hi : i < 10) (n : Nat) {k : Nat} (hk : k < 8) : Keeps s (readArrays s i n k) := by
  unfold readArrays
  split
  · next l h =>
    have a := onLine_of_found ok hi h
    have errors := lineErrors_alters ok.mem a.line hk
    dsimp only
    split
    · next e =>
      rw [e] at errors
      exact errors.stayKeeps a
    · exact errors.putKeeps a
  · exact .refl ok
theorem findErrors_keeps (ok : CachesOk s) (hi : i < 10) (o : Nat) : Keeps s (findErrors s i o) := by
  have pair {c : Prop} [Decidable c] : Keeps s (if c then s else clearUpset s (arrayKey i (pairOff o))) :=
    ite_keeps (.refl ok) ((clearUpset_sameStored ..).keeps ok)
  unfold findErrors
  split
  · exact .refl ok
  · have arrays {c d : Prop} [Decidable c] [Decidable d] :=
      pair.then (ite_keeps (c := d) (readArrays_keeps (pair (c := c)).ok hi (o / 256) (sectorIndex_lt o))
        ((clearUpset_sameStored _ (arrayKey i o)).keeps pair.ok))
    exact ite_keeps arrays (arrays.stored (eccRead_sameStored ..))
theorem writeErrors_keeps (ok : CachesOk s) (hi : i < 10) (a : Acc) (o n : Nat) : Keeps s (writeErrors s i a o n) := by
  have arrays : Keeps s (if n = 32 then clearUpset s (arrayKey i o) else findErrors s i o) :=
    ite_keeps ((clearUpset_sameStored ..).keeps ok) (findErrors_keeps ok hi o)
  exact ite_keeps arrays (arrays.stored (eccRead_sameStored ..))

/-! ## A read within a sector -/

theorem rdSector_answer (s : State) (i : Nat) (a : Acc) (o n : Nat) :
    (rdSector s i a o n).1 = (List.range n).map fun j => peekByte s i (o + j) := by
  unfold rdSector
  dsimp only
  repeat' split
  all_goals rfl

/-- A read within a sector shows nothing. -/
theorem rdSector_keeps (ok : CachesOk s) (hi : i < 10) (ho : o < cacheSpan i) (a : Acc) (n : Nat) : Keeps s (rdSector s i a o n).2.2 := by
  have hk := sectorIndex_lt o
  have span : 256 * (o / 256) + 256 ≤ cacheSpan i := by have := cacheSpan_mod i; omega
  have counted (x : Nat) : SameStored s (s.count (cachePage i) x 1) := count_sameStored ..
  have count (x : Nat) : Keeps s (s.count (cachePage i) x 1) := (counted x).keeps ok
  have twice (x y : Nat) : Keeps s ((s.count (cachePage i) x 1).count (cachePage i) y 1) := (count x).stored (count_sameStored ..)
  unfold rdSector
  dsimp only
  split
  · exact .refl ok
  split
  · exact .refl ok
  · exact .refl ok
  · split
    · exact count _
    · exact count _
  · split
    · next l h =>
      have found := onLine_of_found ok hi h
      split
      · have at_ := (counted 0x080).onLine found
        split
        · exact ((count _).then ((purged_alters at_.ok.mem at_.line hk).putKeeps at_)).stored (count_sameStored ..)
        · have at_ := (tick_sameStored _).onLine at_
          exact (count _).then (((tick_sameStored _).keeps (count _).ok).then ((touch_alters at_.ok.mem at_.line _ _).putKeeps at_))
      · next hv =>
        have at_ := (tick_sameStored _).onLine ((counted 0x088).onLine found)
        have touched := touch_alters at_.ok.mem at_.line (hitPrio a.hint l.prio) (s.count (cachePage i) 0x088 1).tick.1
        split
        · exact twice _ _
        · split
          · exact count _
          · exact (count _).then (((tick_sameStored _).keeps (count _).ok).then
              ((touched.then (fillSector_alters touched.wf touched.line hk (Bool.eq_false_iff.2 hv))).putKeeps at_))
    · next h =>
      split
      · exact twice _ _
      · split
        · exact count _
        · split
          · exact twice _ _
          · next e =>
            obtain ⟨alloc, at_, -, hv⟩ := allocLine_keeps (count _).ok hi (by rw [(counted _).cache]; exact h) span e
            exact (count _).then (alloc.then ((fillSector_alters at_.ok.mem at_.line hk (by simp [Line.has, hv])).putKeeps at_))

/-! ## A write within a sector -/

/-- A write past the caches reaches memory, and the line that holds the sector (R131). -/
theorem wrThrough_becomes (ok : CachesOk s) (hi : i < 10) (ho : o < cacheSpan i) (fits : o % 32 + bs.length ≤ 32) :
    Becomes s (wrThrough s i o bs) (cacheBase i + o) bs := by
  have sector : InSector (o % 256) bs := ⟨by omega, by omega⟩
  have inLine : o % 256 + bs.length ≤ 256 := by omega
  have span : 256 * (o / 256) + 256 ≤ cacheSpan i := by have := cacheSpan_mod i; omega
  unfold wrThrough
  dsimp only
  have cache : (s.store (cacheBase i + o) bs).cache i = s.cache i := rfl
  rw [cache]
  cases h : findLine (s.cache i) (o / 256) with
  | some l =>
    obtain ⟨a, at_⟩ := OnLine.found ok hi h
    rw [← at_]
    dsimp only
    split
    · next hv => exact (through_alters ok.mem a.line sector hv).put a inLine
    · next hv => exact (beneath_alters ok.mem a.line sector (Bool.eq_false_iff.2 hv)).stay a inLine
  | none =>
    have a : OnLine s i (Line.mk (o / 256) 0 0 0 0 0 0 []) := onLine_empty ok hi h span rfl rfl
    have at_ : lineBase i (Line.mk (o / 256) 0 0 0 0 0 0 []) + o % 256 = cacheBase i + o := by
      show cacheBase i + 256 * (o / 256) + o % 256 = _
      omega
    rw [← at_]
    exact (beneath_alters ok.mem a.line sector (by simp [Line.has])).stay a inLine

/-- The bytes of a write go into a line of the cache, which is filled from memory where they do not fill the sector (R350). -/
def mergeInto (s : State) (i p g : Nat) (l : Line) (o : Nat) (bs : List Byte) : State :=
  if l.has (o / 32) then s.modCache i fun c => putLine c (mergeSector l o bs)
  else if bs.length = 32 then
    s.modCache i fun c => putLine c (mergeSector (if poisoned s g then fillSector s i l (o / 32) else l) o bs)
  else (s.modCache i fun c => putLine c (mergeSector (fillSector s i l (o / 32)) o bs)).count p 0x090 1
theorem mergeInto_becomes (a : OnLine s i l) (touch : Alters i s l s m 0 []) (ho : InSector o bs) (p g : Nat) :
    Becomes s (mergeInto s i p g m o bs) (lineBase i l + o) bs := by
  obtain ⟨here, fits⟩ := id ho
  have inLine : o + bs.length ≤ 256 := by omega
  have merged {x : Line} (h : Alters i s l s x 0 []) (hv : x.has (o / 32) = true ∨ bs.length = 32) :
      Becomes s (s.modCache i fun c => putLine c (mergeSector x o bs)) (lineBase i l + o) bs :=
    (h.then (merge_alters h.wf h.line ho hv)).put a inLine
  unfold mergeInto
  split
  · next hv => exact merged touch (.inl hv)
  · next hv =>
    have filled := touch.then (fillSector_alters touch.wf touch.line (sector_lt here) (Bool.eq_false_iff.2 hv))
    split
    · next whole =>
      split
      · exact merged filled (.inr whole)
      · exact merged touch (.inr whole)
    · exact (merged filled (.inl (fillSector_has s i m (sector_lt here)))).stored (count_sameStored ..)

/-- A write within a sector shows its bytes, and nothing else. -/
theorem wrSector_becomes (ok : CachesOk s) (hi : i < 10) (ho : o < cacheSpan i) (fits : o % 32 + bs.length ≤ 32) (a : Acc) :
    Becomes s (wrSector s i a o bs) (cacheBase i + o) bs := by
  have hk := sectorIndex_lt o
  have sector : InSector (o % 256) bs := ⟨by omega, by omega⟩
  have inLine : o % 256 + bs.length ≤ 256 := by omega
  have span : 256 * (o / 256) + 256 ≤ cacheSpan i := by have := cacheSpan_mod i; omega
  have counted (x : Nat) : SameStored s (s.count (cachePage i) x 1) := count_sameStored ..
  have count (x : Nat) : Keeps s (s.count (cachePage i) x 1) := (counted x).keeps ok
  have past {t : State} (k : Keeps s t) : Becomes s (wrThrough t i o bs) (cacheBase i + o) bs := k.then (wrThrough_becomes k.ok hi ho fits)
  unfold wrSector
  dsimp only
  split
  · exact past (.refl ok)
  split
  · exact past (.refl ok)
  · exact past (.refl ok)
  · split
    · exact past (count _)
    · exact past (count _)
  · split
    · next l h =>
      obtain ⟨found, at_⟩ := OnLine.found ok hi h
      have on (x : Nat) := (counted x).onLine found
      split
      · split
        · have gone := purged_alters (on 0x080).ok.mem (on 0x080).line hk
          have stored := (gone.then (beneath_alters gone.wf gone.line sector (purged_has _ i l hk))).put (on 0x080) inLine
          rw [gone.base, at_] at stored
          exact (count _).then (stored.stored (count_sameStored ..))
        · exact past (count _)
      · have on := (tick_sameStored _).onLine (on (if l.has (o % 256 / 32) then 0x080 else 0x088))
        have touched := touch_alters on.ok.mem on.line (hitPrio a.hint l.prio) s.stamp
        have merged := mergeInto_becomes on touched sector (cachePage i) (granule (cacheBase i + o))
        rw [at_] at merged
        exact (count _).then ((tick_sameStored _).then (count _).ok merged)
    · next h =>
      split
      · exact past (count _)
      · split
        · exact past ((count _).stored (count_sameStored ..))
        · next l e =>
          obtain ⟨alloc, on, num, -⟩ := allocLine_keeps (count _).ok hi (by rw [(counted _).cache]; exact h) span e
          have at_ : lineBase i l + o % 256 = cacheBase i + o := by
            rw [lineBase, num]
            omega
          have merged := mergeInto_becomes on on.refl sector (cachePage i) (granule (cacheBase i + o))
          rw [at_] at merged
          exact (count _).then (alloc.then merged)

end Sys2Proof.Machine
end

section
/-!
Reads and writes within a granule (R130, R131, R297, R350, R351): what O5 and O6 say, for every offset that is mapped.
-/

namespace Sys2Proof.Machine

variable {i : Nat} {s t : State} {o : Nat} {bs : List Byte}

/-! ## Granules lie in one range -/

theorem rangeOf_granule {j : Nat} (h : o % 64 + j < 64) : rangeOf (o + j) = (rangeOf o).map fun p => (p.1, p.2 + j) := by
  unfold rangeOf
  split_ifs <;> simp only [Option.map_some, Option.map_none, Option.some.injEq, Prod.mk.injEq, reduceCtorEq] <;> omega
theorem inGap_granule (s : State) {j : Nat} (h : o % 64 + j < 64) : inGap s (o + j) = inGap s o := by
  have size : gddrSize s % 64 = 0 := by
    unfold gddrSize
    split <;> rfl
  exact decide_eq_decide.2 (by omega)
theorem range_fits {r n : Nat} (hr : rangeOf o = some (i, r)) (h : o % 64 + n ≤ 64) : i < 10 ∧ r + n ≤ cacheSpan i ∧ cacheBase i + r = o := by
  obtain ⟨hi, hr, rfl⟩ := rangeOf_eq_some.1 hr
  have := cacheSpan_mod i
  have := cacheBase_mod i
  exact ⟨hi, by omega, rfl⟩

/-! ## Access parts, in order -/

theorem becomes_nil (ok : CachesOk s) (o : Nat) : Becomes s s o [] := ⟨ok, fun _ => (patch_nil _ _ _).symm, rfl⟩

/-- The parts of a write of bytes bs at range offset r, from the part at d on. -/
theorem wrSectors_becomes (hi : i < 10) (a : Acc) (r : Nat) (bs : List Byte) (span : r + bs.length ≤ cacheSpan i) (fuel : Nat) :
    ∀ (s : State) (d n : Nat), CachesOk s → n ≤ fuel → d + n = bs.length →
      Becomes s ((cuts 32 fuel (r + d) n).foldl (fun s c => wrSector s i a c.1 (slice bs (c.1 - r) c.2)) s) (cacheBase i + (r + d)) (bs.drop d) := by
  induction fuel with
  | zero =>
    intro s d n ok hn hd
    rw [List.drop_eq_nil_of_le (by omega)]
    exact becomes_nil ok _
  | succ fuel ih =>
    intro s d n ok hn hd
    unfold cuts
    split
    · rw [List.drop_eq_nil_of_le (by omega)]
      exact becomes_nil ok _
    · obtain ⟨k, hk⟩ : ∃ k, k = min n (32 - (r + d) % 32) := ⟨_, rfl⟩
      dsimp only
      rw [← hk, List.foldl_cons]
      have len : (slice bs d k).length = k := by
        simp only [slice, List.length_take, List.length_drop]
        omega
      have first : Becomes s (wrSector s i a (r + d) (slice bs (r + d - r) k)) (cacheBase i + (r + d)) (slice bs d k) := by
        rw [Nat.add_sub_cancel_left]
        exact wrSector_becomes ok hi (by omega) (by omega) a
      have rest := ih _ (d + k) (n - k) first.ok (by omega) (by omega)
      have place : cacheBase i + (r + d + k) = cacheBase i + (r + d) + (slice bs d k).length := by omega
      have whole : slice bs d k ++ bs.drop (d + k) = bs.drop d := by rw [slice, ← List.drop_drop, List.take_append_drop]
      rw [← Nat.add_assoc r d k, place] at rest
      rw [← whole]
      exact first.append rest

/-- The parts of a read of n bytes at range offset r, each after what it meets. -/
theorem rdSectors_keeps (hi : i < 10) (a : Acc) (fuel : Nat) :
    ∀ (acc : List Byte × Bool × State) (r n : Nat), Keeps s acc.2.2 → n ≤ fuel → r + n ≤ cacheSpan i →
      let res := (cuts 32 fuel r n).foldl (fun (acc : List Byte × Bool × State) c =>
        (acc.1 ++ (rdSector (findErrors acc.2.2 i c.1) i a c.1 c.2).1, acc.2.1 || (rdSector (findErrors acc.2.2 i c.1) i a c.1 c.2).2.1,
          (rdSector (findErrors acc.2.2 i c.1) i a c.1 c.2).2.2)) acc
      res.1 = acc.1 ++ (List.range n).map (fun j => shownByte s (cacheBase i + (r + j))) ∧ Keeps s res.2.2 := by
  induction fuel with
  | zero =>
    intro acc r n k hn _
    obtain rfl : n = 0 := by omega
    exact ⟨(List.append_nil _).symm, k⟩
  | succ fuel ih =>
    intro acc r n keeps hn span
    unfold cuts
    split
    · next h =>
      subst h
      exact ⟨(List.append_nil _).symm, keeps⟩
    · obtain ⟨k, hk⟩ : ∃ k, k = min n (32 - r % 32) := ⟨_, rfl⟩
      dsimp only
      rw [← hk, List.foldl_cons]
      have met := keeps.then (findErrors_keeps keeps.ok hi r)
      have read := met.then (rdSector_keeps (o := r) met.ok hi (by omega) a k)
      obtain ⟨bytes, last⟩ := ih (acc.1 ++ (rdSector (findErrors acc.2.2 i r) i a r k).1,
        acc.2.1 || (rdSector (findErrors acc.2.2 i r) i a r k).2.1, (rdSector (findErrors acc.2.2 i r) i a r k).2.2)
        (r + k) (n - k) read (by omega) (by omega)
      refine ⟨bytes.trans ?_, last⟩
      have here : (rdSector (findErrors acc.2.2 i r) i a r k).1 = (List.range k).map fun j => shownByte s (cacheBase i + (r + j)) := by
        rw [rdSector_answer]
        refine List.map_congr_left fun j hj => ?_
        have hj := List.mem_range.1 hj
        rw [met.peek hi (by omega), shownByte_base s hi (by omega)]
      have split : List.range n = List.range k ++ (List.range (n - k)).map (k + ·) := by
        rw [← List.range_add]
        congr 1
        omega
      rw [here, split, List.map_append, List.map_map, List.append_assoc]
      simp only [Function.comp_def, Nat.add_assoc]

/-! ## Poison and errors of a piece -/

theorem poisonOnWrite_keeps (ok : CachesOk s) (o n : Nat) : Keeps s (poisonOnWrite s o n) := by
  have cleared : SameStored s (ctlCount (clearPoison s (granule o)) (regionOf s o) 0x098 1) :=
    (clearPoison_sameStored ..).trans (ctlCount_sameStored ..)
  have here {i r : Nat} (h : cacheOfRegion (regionOf s o) = some (i, r)) : i < 10 := by
    rw [cacheOfRegion_regionOf] at h
    split at h
    · cases h
    · exact (rangeOf_eq_some.1 h).1
  unfold poisonOnWrite
  dsimp only
  refine ite_keeps (.refl ok) (ite_keeps ?_ ((ctlCount_sameStored ..).keeps ok))
  split
  · next h =>
    split
    · next e =>
      have a := onLine_of_found (cleared.cachesOk ok) (here h) e
      exact cleared.then ok ((mark_alters a.ok.mem a.line _ _ _ _ _ fun k hk hd => a.line.current hk hd).putKeeps a)
    · exact cleared.keeps ok
  · exact cleared.keeps ok
theorem mergeErrors_keeps (ok : CachesOk s) (a : Acc) (o n : Nat) : Keeps s (mergeErrors s a o n) := by
  unfold mergeErrors
  split
  · exact .refl ok
  · split
    · next i r h =>
      split
      · exact (((clearUpset_sameStored ..).trans (clearUpset_sameStored ..)).trans (clearUpset_sameStored ..)).keeps ok
      · rw [cacheOfRegion_regionOf] at h
        split at h
        · cases h
        · have hi := (rangeOf_eq_some.1 h).1
          exact List.foldlRecOn (motive := Keeps s) _ _ (.refl ok) fun t k c _ => k.then (writeErrors_keeps k.ok hi a _ _)
    · exact ite_keeps ((clearUpset_sameStored ..).keeps ok) ((eccRead_sameStored ..).keeps ok)

/-! ## Pieces -/

/-- Bytes stored where no cache looks. -/
theorem store_becomes (ok : CachesOk s) (h : ∀ j < bs.length, rangeOf (o + j) = none) : Becomes s (s.store o bs) o bs := by
  have raw (x : Nat) : rawByte (s.store o bs) x = patch (rawByte s) o bs x := rawByte_store_eq_patch ok.mem o bs x
  have away {x : Nat} (hx : rangeOf x ≠ none) : x < o ∨ o + bs.length ≤ x := by
    by_contra n
    exact hx (by rw [← h (x - o) (by omega)]; congr 1; omega)
  refine ⟨⟨store_wf s _ _ ok.mem, ok.map, fun j hj l hl => ?_, ok.once⟩, fun x => ?_, rfl⟩
  · have line := ok.lines j hj l hl
    have span := line.span
    refine .mk' span line.data fun k hk hd hv b hb => ?_
    have cached : rangeOf (lineBase j l + (32 * k + b)) ≠ none := by
      rw [lineBase, Nat.add_assoc, rangeOf_base hj (by omega)]
      exact Option.some_ne_none _
    rw [line.current hk hd hv b hb, raw, patch_outside _ (away cached)]
  · cases e : rangeOf x with
    | none =>
      rw [shownByte_uncached _ e, raw]
      exact patch_congr (shownByte_uncached s e).symm _ _
    | some p =>
      have out := away (x := x) (by rw [e]; exact Option.some_ne_none _)
      obtain ⟨j, r⟩ := p
      obtain ⟨hj, hr, rfl⟩ := rangeOf_eq_some.1 e
      rw [patch_outside _ out, shownByte_base _ hj hr, shownByte_base _ hj hr, peekByte, peekByte, raw, patch_outside _ out]
      rfl

/-- A piece that the scratchpad or a carve-out serves is counted (R396). -/
def scratchCount (s : State) (r : Region) (off n : Nat) : State :=
  match r with
  | .sram _ _ | .scrCarve _ _ => s.count (ctlPage r) off n
  | _ => s
theorem scratchCount_sameStored (s : State) (r : Region) (off n : Nat) : SameStored s (scratchCount s r off n) := by
  unfold scratchCount
  split
  · exact count_sameStored ..
  · exact count_sameStored ..
  · exact .refl s

/-- A write within a granule that is mapped shows its bytes, and nothing else. -/
theorem wrPiece_becomes (ok : CachesOk s) (w : Option CoreId) (a : Acc) (hg : inGap s o = false) (fits : o % 64 + bs.length ≤ 64) :
    Becomes s (wrPiece s w a o bs) o bs := by
  have lost := (loseResv_sameStored s w (granule o)).keeps ok
  have merged := lost.then (mergeErrors_keeps lost.ok a o bs.length)
  have before := merged.then (poisonOnWrite_keeps merged.ok o bs.length)
  have region := cacheOfRegion_regionOf s o
  rw [hg] at region
  change _ = rangeOf o at region
  unfold wrPiece
  dsimp only
  split
  · next i r h =>
    obtain ⟨hi, span, at_⟩ := range_fits (region.symm.trans h) fits
    have parts := wrSectors_becomes hi a r bs span bs.length _ 0 bs.length before.ok (by omega) (by omega)
    rw [Nat.add_zero, at_, List.drop_zero] at parts
    exact before.then parts
  · next h =>
    have none : ∀ j < bs.length, rangeOf (o + j) = none := fun j hj => by
      rw [rangeOf_granule (by omega), region.symm.trans h]
      rfl
    have counted := before.stored (scratchCount_sameStored _ (regionOf s o) 0x088 bs.length)
    exact counted.then (store_becomes counted.ok none)

/-- A read within a granule shows nothing. -/
theorem rdPiece_keeps (ok : CachesOk s) (a : Acc) {n : Nat} (fits : o % 64 + n ≤ 64) : Keeps s (rdPiece s a o n).2.2 := by
  have region := cacheOfRegion_regionOf s o
  have counted {t : State} (k : Keeps s t) (p : Bool) : Keeps s (if p then ctlCount t (regionOf s o) 0x090 1 else t) :=
    ite_keeps (k.stored (ctlCount_sameStored ..)) k
  unfold rdPiece
  dsimp only
  split
  · next i r h =>
    rw [h] at region
    split at region
    · cases region
    · obtain ⟨hi, span, -⟩ := range_fits region.symm fits
      exact counted (rdSectors_keeps hi a n ([], false, s) r n (.refl ok) le_rfl span).2 _
  · exact counted (((scratchCount_sameStored s (regionOf s o) 0x080 n).trans (eccRead_sameStored ..)).keeps ok) _

/-- Whether an offset lies in the poison list of a hub die's MRAM, which does not read as what is stored there (R389). -/
def inPoisonList (s : State) (o : Nat) : Bool :=
  match regionOf s o with
  | .mram _ x => decide (0x2210000 ≤ x ∧ x < 0x2230000)
  | _ => false

/-- A read within a granule, but of the poison list, answers the coherent bytes. -/
theorem rdPiece_answer (ok : CachesOk s) (a : Acc) {n : Nat} (hg : inGap s o = false) (hp : inPoisonList s o = false) (fits : o % 64 + n ≤ 64) :
    (rdPiece s a o n).1 = coherentBytes s o n := by
  have region := cacheOfRegion_regionOf s o
  rw [hg] at region
  change _ = rangeOf o at region
  have coherent : ∀ j < n, coherentByte s (o + j) = shownByte s (o + j) := fun j hj =>
    coherentByte_of_not_gap ((inGap_granule s (by omega)).trans hg)
  unfold rdPiece
  dsimp only
  split
  · next i r h =>
    obtain ⟨hi, span, at_⟩ := range_fits (region.symm.trans h) fits
    refine (rdSectors_keeps hi a n ([], false, s) r n (.refl ok) le_rfl span).1.trans (List.map_congr_left fun j hj => ?_)
    rw [coherent j (List.mem_range.1 hj), ← Nat.add_assoc, at_]
  · next h =>
    have stored (t : State) (same : SameStored s t) : rawBytes t o n = coherentBytes s o n := List.map_congr_left fun j hj => by
      have hj := List.mem_range.1 hj
      have none : rangeOf (o + j) = none := by
        rw [rangeOf_granule (by omega), region.symm.trans h]
        rfl
      rw [same.raw, coherent j hj, shownByte_uncached s none]
    have read := stored _ ((scratchCount_sameStored s (regionOf s o) 0x080 n).trans (eccRead_sameStored _ o))
    split
    · next e =>
      rw [inPoisonList, e] at hp
      exact (if_neg (of_decide_eq_false hp)).trans read
    · exact read

/-! ## What O5 and O6 say, where it holds -/

/-- A write within a granule that is mapped keeps the caches as they should be and changes exactly its bytes, for every coherent observer of
a mapped offset (R130, R131, R350, R351). -/
theorem wrPiece_coherent (ok : CachesOk s) (w : Option CoreId) (a : Acc) (hg : inGap s o = false) (fits : o % 64 + bs.length ≤ 64) :
    CachesOk (wrPiece s w a o bs) ∧ (∀ j, (h : j < bs.length) → coherentByte (wrPiece s w a o bs) (o + j) = bs[j]) ∧
      ∀ x, inGap s x = false → (x < o ∨ o + bs.length ≤ x) → coherentByte (wrPiece s w a o bs) x = coherentByte s x := by
  have written := wrPiece_becomes ok w a hg fits
  refine ⟨written.ok, fun j h => ?_, fun x hx out => ?_⟩
  · have gap : inGap s (o + j) = false := (inGap_granule s (by omega)).trans hg
    rw [coherentByte_of_not_gap ((written.inGap _).trans gap), written.shown, patch_at _ _ h]
  · rw [coherentByte_of_not_gap ((written.inGap x).trans hx), coherentByte_of_not_gap hx, written.shown, patch_outside _ out]

/-- A read within a granule keeps the caches as they should be and changes no byte of a mapped offset; but for the poison list it answers
the coherent bytes of one that is mapped (R130, R131, R351). -/
theorem rdPiece_coherent (ok : CachesOk s) (a : Acc) {n : Nat} (fits : o % 64 + n ≤ 64) :
    (inGap s o = false → inPoisonList s o = false → (rdPiece s a o n).1 = coherentBytes s o n) ∧ CachesOk (rdPiece s a o n).2.2 ∧
      ∀ x, inGap s x = false → coherentByte (rdPiece s a o n).2.2 x = coherentByte s x := by
  have read := rdPiece_keeps ok a fits
  refine ⟨fun hg hp => rdPiece_answer ok a hg hp fits, read.ok, fun x hx => ?_⟩
  rw [coherentByte_of_not_gap ((read.inGap x).trans hx), coherentByte_of_not_gap hx, read.byte]

end Sys2Proof.Machine
end

section
/-!
Two statements of the address space that do not hold as they stand, each with the state that refutes it; `wrPiece_coherent` and
`rdPiece_coherent` say how far they hold.
-/

namespace Sys2Proof.Machine

/-! ## A line behind no memory -/

/-- A clean line of the hub cache of H0 above the populated GDDR: the cache range is 2^39 bytes (R348), the GDDR of a hub die 2^36
(R110). -/
def gapLine : Line := { num := 0x10000000, way := 0, valid := 1, dirty := 0, poison := 0, prio := 0, stamp := 0, data := [] }
/-- The state after reset, but for a line that lies behind no memory. -/
def gapState : State := { State.reset with caches := [(8, { lines := [gapLine] })] }
/-- The first byte above the populated GDDR of H0. -/
def gapByte : Nat := gddrBase 0 + 0x1000000000

theorem gapState_cache : ∀ i < 10, i ≠ 8 → (gapState.cache i).lines = [] := by
  intro i _ h
  have : mget {} gapState.caches i = ({} : Cache) := by simp [gapState, mget, h.symm]
  exact congrArg Cache.lines this

theorem gapState_cachesOk : CachesOk gapState where
  mem := rfl
  map := rfl
  lines i hi l hl := by
    by_cases h : i = 8
    · subst h
      obtain rfl : l = gapLine := List.mem_singleton.1 hl
      exact ⟨by decide, rfl, fun _ _ _ _ _ _ => rfl⟩
    · rw [gapState_cache i hi h] at hl
      exact absurd hl List.not_mem_nil
  once i hi := by
    by_cases h : i = 8
    · subst h
      exact List.pairwise_singleton _ _
    · rw [gapState_cache i hi h]
      exact .nil

/-- Refutes O5: `CachesOk` lets a clean line lie above the populated GDDR of its hub die, where an offset is unmapped and a write passes the
cache by; the line then holds what memory does not. -/
theorem not_cachedWriteChangesExactlyItsBytes : ¬ Obligations.CachedWriteChangesExactlyItsBytes := by
  intro h
  obtain ⟨ok, -, -⟩ := h gapState none {} gapByte [1] gapState_cachesOk (by decide) (by decide)
  have line : gapLine ∈ ((wrPiece gapState none {} gapByte [1]).cache 8).lines := by decide +kernel
  have clean := (ok.lines 8 (by decide) gapLine line).clean 0 (by decide) (by decide) (by decide) 0 (by decide)
  have wrote : rawByte (wrPiece gapState none {} gapByte [1]) (cacheBase 8 + 256 * gapLine.num + 32 * 0 + 0) = 1 := by decide +kernel
  rw [wrote] at clean
  exact absurd clean (by decide)

/-- In the same state a write of mapped memory is what O5 says. -/
theorem gapState_mappedWrite : coherentByte (wrPiece gapState none {} 60 [1, 2, 3, 4]) 62 = 3 :=
  (wrPiece_coherent gapState_cachesOk none {} (o := 60) (by decide) (by decide)).2.1 2 (by decide)

/-! ## The poison list in MRAM -/

/-- The first byte of the poison list of H0 in its MRAM (R389). -/
def listByte : Nat := mramBase 0 + 0x2210000
/-- The state after reset, but for a byte that a write has stored beneath the empty poison list (log entry 55). -/
def listState : State := { State.reset with mem := [(listByte, 1)] }

theorem listState_cachesOk : CachesOk listState :=
  { mem := rfl, map := rfl, lines := fun _ _ _ hl => absurd hl List.not_mem_nil, once := fun _ _ => .nil }

/-- Refutes O6: where the poison list lies (R389) a read answers the list's entries, and not the bytes stored beneath, which are what
`coherentByte` shows. -/
theorem not_cachedReadAnswersMemory : ¬ Obligations.CachedReadAnswersMemory := by
  intro h
  obtain ⟨answer, -⟩ := h listState {} listByte 1 listState_cachesOk (by decide) (by decide)
  have read : (rdPiece listState {} listByte 1).1 = [0] := by decide +kernel
  have stored : coherentBytes listState listByte 1 = [1] := by decide +kernel
  rw [read, stored] at answer
  exact absurd answer (by decide)

/-- In the same state a read before the list is what O6 says. -/
theorem listState_readBeforeList : (rdPiece listState {} (listByte - 64) 64).1 = coherentBytes listState (listByte - 64) 64 :=
  (rdPiece_coherent listState_cachesOk {} (by decide)).1 (by decide) (by decide)

end Sys2Proof.Machine
end

section
/-!
Every arm of the dispatch answers a next state.
-/

namespace Sys2Proof.Machine

/-- Settles O2: each arm of `exec` is a next state, whatever its condition. -/
theorem everyCommandAnswersNext : Obligations.EveryCommandAnswersNext := by
  intro c s
  cases c <;> exact ⟨_, rfl⟩

end Sys2Proof.Machine
end

section
/-!
Two statements that let no byte of the package change but those of one access, and that fail where that access takes an allocation from a
dirty line behind no memory (as in `gapState`): the line is written back, and an observer of the gap sees its bytes.
-/

namespace Sys2Proof.Machine

/-- A dirty line of the hub cache of H0 above the populated GDDR, whose first byte is 1. -/
def dirtyGapLine : Line := { gapLine with dirty := 1, data := [(0, 1)] }
/-- An enabled cache of which way 0 alone takes allocations; the line above holds it in set 0. -/
def gapCache : Cache := { st := .enabled, lock := 0xFFFFFE, lines := [dirtyGapLine] }
/-- A hub die whose context 32 maps 0x200000 onto the start of the GDDR of H0, by the tables of `gapPackage`. -/
def gapHub : HubSt :=
  { part := { hank := .owned, zeroed := false, parts := [(0, { hanks := 3 })] }, xlt := { ctxs := [(32, { en := true, root := 0x100 })] }
    gov := { target := 12000 }, ltu := { st := .locked } }
/-- A package in operation whose queue q, in context 32, runs command c and has its completion ring at 0x200000. -/
def gapPackage (q : QIdx) (c : Cmd) : State :=
  { boot := { power := true, step := 7, ready := true, feat := 3 }, hub0 := gapHub, hub1 := gapHub, caches := [(8, gapCache)]
    queues := [(q.val, { ctx := 32, bound := true, ringBase := 0x8000, cmplBase := 0x200000, dx2 := true, policy := .skip, enable := true
                         st := .running, prod := 1, cons := 1, cmds := [c] })]
    mem := [(0x100000, 1), (0x100001, 0x10), (0x100002, 0x10), (0x101000, 1), (0x101001, 0x20), (0x101002, 0x10), (0x102008, 0x0F),
            (0x10200D, 1)] }

theorem gapPackage_works (q : QIdx) (c : Cmd) : Works (gapPackage q c) := rfl

theorem gapPackage_hub (q : QIdx) (c : Cmd) (h : Hub) : (gapPackage q c).hub h = gapHub := by
  unfold State.hub
  split <;> rfl

theorem gapPackage_cache (q : QIdx) (c : Cmd) (i : Nat) :
    ((gapPackage q c).cache i).lines = if i = 8 then [dirtyGapLine] else [] := by
  unfold State.cache
  rw [show (gapPackage q c).caches = [(8, gapCache)] from rfl]
  by_cases h : i = 8
  · subst h; rfl
  · simp [mget, h, Ne.symm h]

theorem gapPackage_cachesOk (q : QIdx) (c : Cmd) : CachesOk (gapPackage q c) where
  mem := rfl
  map := rfl
  lines i _ l hl := by
    rw [gapPackage_cache] at hl
    split at hl
    case isFalse => exact absurd hl List.not_mem_nil
    case isTrue h8 =>
      obtain rfl : l = dirtyGapLine := List.mem_singleton.1 hl
      subst h8
      refine ⟨by decide, rfl, fun k hk has clean => absurd clean ?_⟩
      interval_cases k <;> revert has <;> decide
  once i _ := by
    rw [gapPackage_cache]
    split
    · exact List.pairwise_singleton _ _
    · exact .nil

theorem gapPackage_noPoison (q : QIdx) (c : Cmd) : NoPoison (gapPackage q c) := by
  refine ⟨rfl, fun i _ l hl => ?_, rfl⟩
  rw [gapPackage_cache] at hl
  split at hl
  · obtain rfl : l = dirtyGapLine := List.mem_singleton.1 hl
    rfl
  · exact absurd hl List.not_mem_nil

theorem gapPackage_canonical (q : QIdx) (c : Cmd) (hq : mwf {} (gapPackage q c).queues = true) : Canonical (gapPackage q c) := by
  constructor
  case queues => exact hq
  case keys =>
    intro e he
    obtain rfl := List.mem_singleton.1 he
    exact q.isLt
  case cnt => exact fun _ => rfl
  case grps | ports | cbGrps | seqs => intro h; rw [gapPackage_hub]; rfl
  all_goals rfl

theorem heldCurrent_of_held_nil {s : State} {h : Hub} (e : (s.hub h).xlt.held = []) (ctx : Nat) : HeldCurrent s h ctx := by
  intro va rd wr
  simp [oldAnswers, e]

/-! ## A completion record -/

/-- A command that has ended. -/
def endedNop : Cmd := { entry := List.replicate 64 0, dx2 := true, phase := .ended, startT := some 5, body := some [] }

theorem gapRecord_ready : RecordReady ((gapPackage 216 endedNop).toTime 9) 216 endedNop { pa := gddrBase 0, n := 32, acc := {} } := by
  refine ⟨⟨[], ?_⟩, ?_, ?_, ?_, ?_, ?_, ?_, ?_, ?_⟩ <;> decide +kernel

theorem gapRecord_evicts : coherentByte (gapPackage 216 endedNop) gapByte = 0 ∧
    ∃ t, exec (.commandCompletion 216 9) (gapPackage 216 endedNop) = .next t ∧ coherentByte t gapByte = 1 :=
  ⟨by decide +kernel, _, rfl, by decide +kernel⟩

/-- Refutes O18: the record of a command goes to the GDDR through the hub cache, where it takes the way of a dirty line that lies behind no
memory; the write-back changes a byte outside the record, from 0 to 1. -/
theorem not_recordsAreWritten : ¬ Obligations.RecordsAreWritten := by
  rintro ⟨h, -⟩
  obtain ⟨s', next, -, frame, -⟩ := h (gapPackage 216 endedNop) 216 9 endedNop _ (gapPackage_works _ _)
    (gapPackage_canonical _ _ (by decide +kernel)) (gapPackage_cachesOk _ _) (gapPackage_noPoison _ _) gapRecord_ready rfl (by decide +kernel)
  obtain ⟨before, t, next', after⟩ := gapRecord_evicts
  obtain rfl : s' = t := Host.Outcome.next.inj (next.symm.trans next')
  have same := frame gapByte (.inr (by decide +kernel))
  rw [after, before] at same
  exact absurd same (by decide)

/-! ## A row of a matrix -/

/-- A VEC between its two boundaries: the row of D is kept, and D lies at the start of the GDDR of H0. -/
def keptRow : Cmd :=
  { entry := (BitVec.ofNat 8 opVec :: List.replicate 63 0).set 3 1, dx2 := true, phase := .running, startT := some 5, readyT := some 5
    body := some [0x1000, 0x4000010001, 0x1080, 0x4000010001, 0x200000, 0x4000010001], acc := [0, 0, 0x40, 0x40, 0] }

theorem keptRow_runs : Runs ((gapPackage 128 keptRow).toTime 9) 128 keptRow where
  target := by decide +kernel
  found := by decide +kernel
  phase := rfl
  begun := rfl
  onward := by decide +kernel
  taking := by decide +kernel
  body := rfl
  taken := by decide +kernel
  legal := by decide +kernel
  creel := .inr (by decide +kernel)
  notice := .inl (by decide +kernel)
  alone := by decide +kernel
  sound := by decide +kernel
  before := by decide +kernel
  head := .inr rfl
  leaves := heldCurrent_of_held_nil (congrArg (·.xlt.held) (gapPackage_hub 128 keptRow _)) _

/-- Where the row goes. -/
def keptRowSpan : Span := { pa := gddrBase 0, n := 4, acc := { hint := 0 } }

theorem keptRow_writesTo : WritesTo ((gapPackage 128 keptRow).toTime 9) 128 keptRow 0x200000 4 [keptRowSpan] := by
  refine ⟨?_, ?_, ?_, ⟨?_, ?_, ?_⟩⟩ <;> decide +kernel

theorem keptRow_lands : Lands ((gapPackage 128 keptRow).toTime 9) 128 keptRow [keptRowSpan] := by
  refine ⟨?_, ?_, ?_⟩ <;> decide +kernel

theorem keptRow_evicts : coherentByte (gapPackage 128 keptRow) gapByte = 0 ∧
    ∃ t, exec (.vec 128 1 9) (gapPackage 128 keptRow) = .next t ∧ coherentByte t gapByte = 1 :=
  ⟨by decide +kernel, _, rfl, by decide +kernel⟩

/-- Refutes O25: a row of D that VEC writes to the GDDR takes the way of a dirty line behind no memory in the hub cache; the write-back
changes a byte outside the row. -/
theorem not_matrixCommands : ¬ Obligations.MatrixCommands := by
  rintro ⟨h, -⟩
  obtain ⟨-, -, row⟩ := h (gapPackage 128 keptRow) 128 9 keptRow (gapPackage_works _ _)
    (gapPackage_canonical _ _ (by decide +kernel)) (gapPackage_cachesOk _ _) (gapPackage_noPoison _ _) keptRow_runs ⟨⟨rfl, rfl⟩, rfl⟩
  obtain ⟨s', next, -, -, frame, -⟩ := row 0 [keptRowSpan] (.vec 128 1 9) rfl (by decide) (by decide +kernel) (by decide +kernel)
    (.inr ⟨by decide +kernel, rfl⟩) keptRow_writesTo keptRow_lands
  obtain ⟨before, t, next', after⟩ := keptRow_evicts
  obtain rfl : s' = t := Host.Outcome.next.inj (next.symm.trans next')
  have same := frame gapByte (by decide +kernel)
  rw [after, before] at same
  exact absurd same (by decide)

end Sys2Proof.Machine
end

section
/-!
An access to memory leaves the clock and the queues as they are.
-/

namespace Sys2Proof.Machine

section
variable {s t : State}

/-- The clock and the queues: what an access to memory leaves alone. -/
def State.agenda (s : State) : Nat × SMap Queue := (s.now, s.queues)
theorem now_of_agenda (e : t.agenda = s.agenda) : t.now = s.now := (congrArg Prod.fst e :)
theorem queues_of_agenda (e : t.agenda = s.agenda) : t.queues = s.queues := (congrArg Prod.snd e :)
theorem Notices.agenda (h : Notices s t) : t.agenda = s.agenda := Prod.ext h.now h.queues
theorem ite_agenda {c : Prop} [Decidable c] {u : State} (a : t.agenda = s.agenda) (b : u.agenda = s.agenda) : (if c then t else u).agenda = s.agenda := by
  split
  · exact a
  · exact b

/-! ## Errors -/

theorem count_agenda (s : State) (p off n : Nat) : (s.count p off n).agenda = s.agenda := rfl
theorem clearUpset_agenda (s : State) (k : Nat) : (clearUpset s k).agenda = s.agenda := ite_agenda rfl rfl
theorem ctlCount_agenda (s : State) (r : Region) (off n : Nat) : (ctlCount s r off n).agenda = s.agenda := by
  unfold ctlCount
  split <;> rfl
theorem raiseFatal_agenda (s : State) (k p : Nat) : (raiseFatal s k p).agenda = s.agenda := by
  have reported := (report_notices s p 4 k 0 {} 0 0).agenda
  unfold raiseFatal
  exact ite_agenda (ite_agenda rfl rfl) (ite_agenda reported (ite_agenda reported reported))
theorem setPoison_agenda (s : State) (g : Nat) : (setPoison s g).agenda = s.agenda := by
  unfold setPoison
  refine ite_agenda rfl ?_
  split
  · exact ite_agenda (raiseFatal_agenda ..) rfl
  · rfl
theorem eccUe_agenda (s : State) (o : Nat) : (eccUe s o).agenda = s.agenda := by
  unfold eccUe
  refine (report_notices ..).agenda.trans ?_
  split
  · exact setPoison_agenda s _
  · rfl
theorem eccRead_agenda (s : State) (o : Nat) : (eccRead s o).agenda = s.agenda := by
  have cleared : (clearUpset s (granule o)).agenda = s.agenda := clearUpset_agenda ..
  unfold eccRead
  refine ite_agenda rfl ?_
  dsimp only
  split
  · exact cleared
  · exact ite_agenda cleared (ite_agenda ((corrected_notices ..).agenda.trans cleared) ((eccUe_agenda ..).trans cleared))
theorem lineErrors_agenda (s : State) (i : Nat) (l : Line) (k : Nat) : (lineErrors s i l k).1.agenda = s.agenda := by
  have cleared := clearUpset_agenda s (arrayKey i (256 * l.num + 32 * k))
  unfold lineErrors
  dsimp only
  split
  · rfl
  · exact (corrected_notices ..).agenda.trans cleared
  · split
    · exact (report_notices ..).agenda.trans ((event_notices ..).agenda.trans cleared)
    · exact cleared
theorem findErrors_agenda (s : State) (i o : Nat) : (findErrors s i o).agenda = s.agenda := by
  unfold findErrors
  refine ite_agenda rfl ?_
  extract_lets held s1 s2
  have first : s1.agenda = s.agenda := ite_agenda rfl (clearUpset_agenda ..)
  have second : s2.agenda = s.agenda := by
    refine (ite_agenda ?_ (clearUpset_agenda ..)).trans first
    split
    · exact ite_agenda (lineErrors_agenda ..) (lineErrors_agenda ..)
    · rfl
  exact (ite_agenda rfl (eccRead_agenda ..)).trans second

/-! ## A read -/

theorem writeBack_agenda (s : State) (i : Nat) (l : Line) (k : Nat) : (writeBack s i l k).1.agenda = s.agenda := by
  unfold writeBack
  split
  · have stored (o : Nat) (bs : List Byte) : ((eccRead (lineErrors s i l k).1 o).store o bs).agenda = s.agenda :=
      (eccRead_agenda ..).trans (lineErrors_agenda ..)
    dsimp only
    rw [count_agenda]
    exact ite_agenda ((setPoison_agenda ..).trans (stored _ _)) (stored _ _)
  · rfl
theorem evict_agenda (s : State) (i : Nat) (l : Line) : (evict s i l).agenda = s.agenda :=
  show (writeBackLine s i l).1.agenda = s.agenda from
    foldl_keeps (fun p : State × Line => p.1.agenda) (fun p k => writeBack p.1 i p.2 k) _ (s, l) fun p k => writeBack_agenda p.1 i p.2 k
theorem allocLine_agenda {i num prio : Nat} {l : Line} (e : allocLine s i num prio = some (t, l)) : t.agenda = s.agenda := by
  unfold allocLine at e
  obtain ⟨w, -, e⟩ := Option.map_eq_some_iff.1 e
  cases e
  cases lineAt (s.cache i) i (setOf i num) w with
  | none => rfl
  | some old => exact evict_agenda s i old
theorem rdSector_agenda (s : State) (i : Nat) (a : Acc) (o n : Nat) : (rdSector s i a o n).2.2.agenda = s.agenda := by
  unfold rdSector
  dsimp only
  repeat' split
  all_goals try rfl
  · exact writeBack_agenda ..
  · next e =>
    have allocated := allocLine_agenda e
    exact allocated
theorem rdPiece_agenda (s : State) (a : Acc) (o n : Nat) : (rdPiece s a o n).2.2.agenda = s.agenda := by
  unfold rdPiece
  dsimp only
  split
  · refine (ite_agenda (ctlCount_agenda ..) rfl).trans ?_
    exact foldl_keeps (fun p : List Byte × Bool × State => p.2.2.agenda) _ _ ([], false, s) fun p _ =>
      (rdSector_agenda ..).trans (findErrors_agenda ..)
  · refine (ite_agenda (ctlCount_agenda ..) rfl).trans ((eccRead_agenda ..).trans ?_)
    split <;> rfl

/-! ## A write -/

theorem loseResv_agenda (s : State) (w : Option CoreId) (g : Nat) : (loseResv s w g).agenda = s.agenda := rfl
theorem writeErrors_agenda (s : State) (i : Nat) (a : Acc) (o n : Nat) : (writeErrors s i a o n).agenda = s.agenda := by
  have arrays : (if n = 32 then clearUpset s (arrayKey i o) else findErrors s i o).agenda = s.agenda :=
    ite_agenda (clearUpset_agenda ..) (findErrors_agenda ..)
  exact ite_agenda arrays ((eccRead_agenda ..).trans arrays)
theorem mergeErrors_agenda (s : State) (a : Acc) (o n : Nat) : (mergeErrors s a o n).agenda = s.agenda := by
  unfold mergeErrors
  refine ite_agenda rfl ?_
  split
  · refine ite_agenda ?_ (foldl_keeps State.agenda _ _ _ fun t c => writeErrors_agenda ..)
    rw [clearUpset_agenda, clearUpset_agenda, clearUpset_agenda]
  · exact ite_agenda (clearUpset_agenda ..) (eccRead_agenda ..)
theorem poisonOnWrite_agenda (s : State) (o n : Nat) : (poisonOnWrite s o n).agenda = s.agenda := by
  have cleared (r : Region) : (ctlCount (clearPoison s (granule o)) r 0x098 1).agenda = s.agenda := ctlCount_agenda ..
  unfold poisonOnWrite
  refine ite_agenda rfl (ite_agenda ?_ (ctlCount_agenda ..))
  dsimp only
  repeat' split
  all_goals exact cleared _
theorem wrThrough_agenda (s : State) (i o : Nat) (bs : List Byte) : (wrThrough s i o bs).agenda = s.agenda := by
  unfold wrThrough
  dsimp only
  repeat' split
  all_goals rfl
theorem wrSector_agenda (s : State) (i : Nat) (a : Acc) (o : Nat) (bs : List Byte) : (wrSector s i a o bs).agenda = s.agenda := by
  unfold wrSector
  extract_lets p num k whole c into
  have put (t : State) (l : Line) : (into t l).agenda = t.agenda := ite_agenda rfl (ite_agenda rfl rfl)
  have through (t : State) (h : t.agenda = s.agenda) : (wrThrough t i o bs).agenda = s.agenda := (wrThrough_agenda ..).trans h
  refine ite_agenda (through s rfl) ?_
  split
  · exact through s rfl
  · exact through s rfl
  · split <;> exact through _ rfl
  · split
    · exact ite_agenda (ite_agenda (writeBack_agenda ..) (through _ rfl)) (put ..)
    · refine ite_agenda (through _ rfl) ?_
      split
      · exact through _ rfl
      · next allocated => exact (put ..).trans (allocLine_agenda allocated :)
theorem wrPiece_agenda (s : State) (w : Option CoreId) (a : Acc) (o : Nat) (bs : List Byte) : (wrPiece s w a o bs).agenda = s.agenda := by
  have ready := (poisonOnWrite_agenda (mergeErrors (loseResv s w (granule o)) a o bs.length) o bs.length).trans (mergeErrors_agenda ..)
  unfold wrPiece
  dsimp only
  split
  · exact (foldl_keeps State.agenda _ _ _ fun t c => wrSector_agenda ..).trans ready
  · refine Eq.trans ?_ ready
    split <;> rfl
theorem writeMem_agenda (s : State) (w : Option CoreId) (a : Acc) (o : Nat) (bs : List Byte) : (writeMem s w a o bs).agenda = s.agenda :=
  foldl_keeps State.agenda _ _ _ fun _ _ => wrPiece_agenda ..
theorem snoopBytes_agenda (s : State) (o n : Nat) : (snoopBytes s o n).agenda = s.agenda :=
  foldl_keeps State.agenda _ _ _ fun _ _ => foldl_keeps State.agenda _ _ _ fun _ _ => ite_agenda rfl rfl
theorem sharedWait_agenda {l : List Span} (h : sharedWait s l = some t) : t.agenda = s.agenda := by
  unfold sharedWait at h
  dsimp only at h
  split at h
  · cases h
  · cases h
    exact foldl_keeps State.agenda _ _ _ fun _ _ => snoopBytes_agenda ..
/-- What a command has kept for its end is written (R164). -/
theorem closeHead_agenda (s : State) (q : QIdx) (c : Cmd) : (closeHead s q c).agenda = s.agenda :=
  foldl_keeps State.agenda _ _ _ fun _ _ => ite_agenda rfl (ite_agenda rfl (wrPiece_agenda ..))

/-! ## Faults -/

theorem modHub_agenda (s : State) (h : Hub) (f : HubSt → HubSt) : (s.modHub h f).agenda = s.agenda := Prod.ext (State.modHub_now ..) (State.modHub_queues ..)
theorem fwViolation_agenda (s : State) (h : Hub) (kind : Nat) (t : ReqTag) (addr : Nat) : (fwViolation s h kind t addr).agenda = s.agenda := by
  unfold fwViolation
  extract_lets s1 p s2
  have violated : s2.agenda = s.agenda := (event_notices ..).agenda.trans (modHub_agenda ..)
  split
  · exact (mgmtIrq_notices ..).agenda.trans violated
  · exact violated
theorem logFw_agenda (s : State) (h : Hub) (fabric : Bool) (kind addr : Nat) (r : Requester) : (logFw s h fabric kind addr r).agenda = s.agenda := by
  have violated := fwViolation_agenda s h kind (reqTag s (reqHub s r) r) addr
  unfold logFw
  extract_lets s1 s2
  have reported : s2.agenda = s.agenda := by
    unfold s2
    split
    · exact (report_notices ..).agenda.trans violated
    · exact violated
  exact ite_agenda reported reported
theorem xltFault_agenda (s : State) (q : QIdx) (k a : Nat) : (xltFault s q k a).agenda = s.agenda := ite_agenda (report_notices ..).agenda rfl

/-! ## The read of an entry (R132, R147) -/

theorem holdLeaf_agenda (s : State) (h : Hub) (ctx va : Nat) : (holdLeaf s h ctx va).agenda = s.agenda := by
  unfold holdLeaf
  split
  · exact ite_agenda rfl (modHub_agenda ..)
  · rfl
theorem countWalks_agenda (s : State) (h : Hub) (ctx va n : Nat) (fault : Bool) : (countWalks s h ctx va n fault).agenda = s.agenda := by
  unfold countWalks
  extract_lets p pages old s1 s2 s3
  have held : s1.agenda = s.agenda := foldl_keeps State.agenda _ _ _ fun t c => holdLeaf_agenda t h ctx c.1
  have fresh : s2.agenda = s1.agenda := ite_agenda rfl rfl
  refine Eq.trans ?_ (fresh.trans held)
  exact ite_agenda rfl rfl
theorem qmRead_agenda {q : QIdx} {got : SMap (Option Byte)} {va n : Nat} {bs : List Byte} {p : Bool} (h : qmRead s q got va n = (.ok bs p, t)) :
    t.agenda = s.agenda := by
  unfold qmRead at h
  dsimp only at h
  split at h
  · cases h
  · cases h
  · split at h
    · cases h
    · cases h
      refine (foldl_keeps (fun p : List Byte × Bool × State => p.2.2.agenda) _ _ _ fun p x => ?_).trans (countWalks_agenda ..)
      split
      · exact rdPiece_agenda ..
      · rfl
end

end Sys2Proof.Machine
end

section
/-!
The commands of one number in a queue, what a queue is beside its commands, and what the gate and the end of a command do to them.
-/

namespace Sys2Proof.Machine

/-! ## The commands of a number -/

/-- Queue q lists a command with number n, and Q holds of each that it lists. -/
structure AllNumbered (s : State) (q : QIdx) (n : W32) (Q : Cmd → Prop) : Prop where
  wf     : mwf {} s.queues = true
  listed : ∃ y ∈ (s.queue q).cmds, y.seq = n
  all    : ∀ y ∈ (s.queue q).cmds, y.seq = n → Q y

section
variable {s t : State} {q r : QIdx} {n : W32} {Q R : Cmd → Prop} {c d : Cmd}

theorem seq_of_findCmd (h : findCmd s q n = some c) : c.seq = n := by simpa using List.find?_some h
theorem mem_of_findCmd (h : findCmd s q n = some c) : c ∈ (s.queue q).cmds := List.mem_of_find?_eq_some h
theorem mem_of_target (h : (s.queue q).target = some c) : c ∈ (s.queue q).cmds := List.mem_of_find?_eq_some h
/-- A target has not ended. -/
theorem live_of_target (h : (s.queue q).target = some c) : c.phase ≠ .ended := by
  have live := List.find?_some h
  simp only [Bool.and_eq_true, decide_eq_true_eq] at live
  exact live.1
theorem queue_congr (e : t.queues = s.queues) (r : QIdx) : t.queue r = s.queue r := by rw [State.queue, State.queue, e]
theorem findCmd_congr (e : t.queues = s.queues) : findCmd t q n = findCmd s q n := by rw [findCmd, findCmd, queue_congr e]

theorem AllNumbered.find (h : AllNumbered s q n Q) : ∃ d, findCmd s q n = some d ∧ Q d := by
  obtain ⟨y, hy, hn⟩ := h.listed
  obtain ⟨d, hd⟩ := Option.isSome_iff_exists.1 (show (findCmd s q n).isSome from List.find?_isSome.2 ⟨y, hy, by simpa using hn⟩)
  exact ⟨d, hd, h.all d (mem_of_findCmd hd) (seq_of_findCmd hd)⟩
theorem AllNumbered.weaken (h : AllNumbered s q n Q) (hQ : ∀ y, Q y → R y) : AllNumbered s q n R :=
  ⟨h.wf, h.listed, fun y hy e => hQ y (h.all y hy e)⟩
theorem AllNumbered.of_cmds (h : AllNumbered s q n Q) (w : mwf {} t.queues = true) (e : (t.queue q).cmds = (s.queue q).cmds) : AllNumbered t q n Q := by
  obtain ⟨-, listed, all⟩ := h
  rw [← e] at listed all
  exact ⟨w, listed, all⟩
theorem AllNumbered.of_queues (h : AllNumbered s q n Q) (e : t.queues = s.queues) : AllNumbered t q n Q :=
  h.of_cmds (e ▸ h.wf) (by rw [queue_congr e])

/-- Commands of the queue changed one by one, their numbers kept. -/
theorem AllNumbered.mapCmds (w : mwf {} s.queues = true) (listed : ∃ y ∈ (s.queue q).cmds, y.seq = n) {f : Cmd → Cmd} (hf : ∀ y, (f y).seq = y.seq)
    (hQ : ∀ y ∈ (s.queue q).cmds, y.seq = n → Q (f y)) : AllNumbered (s.modQueue q fun x => { x with cmds := x.cmds.map f }) q n Q := by
  have e := State.modQueue_queue s q (fun x => { x with cmds := x.cmds.map f }) w
  refine ⟨mput_wf _ _ w, ?_, fun z hz hn => ?_⟩
  · obtain ⟨y, hy, hn⟩ := listed
    rw [e]
    exact ⟨f y, List.mem_map_of_mem hy, (hf y).trans hn⟩
  · rw [e] at hz
    obtain ⟨y, hy, rfl⟩ := List.mem_map.1 hz
    exact hQ y hy ((hf y).symm.trans hn)
/-- A change beside the commands. -/
theorem AllNumbered.modQueue (h : AllNumbered s q n Q) {f : Queue → Queue} (hf : ∀ x, (f x).cmds = x.cmds) : AllNumbered (s.modQueue r f) q n Q := by
  refine h.of_cmds (mput_wf _ _ h.wf) ?_
  by_cases e : r = q
  · subst e
    rw [State.modQueue_queue s r f h.wf, hf]
  · rw [State.modQueue_queue_ne s r q f e]
theorem putCmd_queue_ne (s : State) (d : Cmd) (h : q ≠ r) : (putCmd s q d).queue r = s.queue r := State.modQueue_queue_ne s q r _ h
theorem putIf_seq (d y : Cmd) : (if y.seq = d.seq then d else y).seq = y.seq := by
  split
  next k => exact k.symm
  next => rfl
/-- A command put into its queue takes the place of those with its number. -/
theorem putCmd_allNumbered (w : mwf {} s.queues = true) (listed : ∃ y ∈ (s.queue q).cmds, y.seq = d.seq) (hd : Q d) :
    AllNumbered (putCmd s q d) q d.seq Q :=
  .mapCmds w listed (putIf_seq d) fun y _ e => by rwa [if_pos e]
/-- A command put into a queue leaves those of another number. -/
theorem AllNumbered.putCmd (h : AllNumbered s q n Q) (hd : r = q → d.seq = n → Q d) : AllNumbered (putCmd s r d) q n Q := by
  by_cases e : r = q
  · subst e
    refine .mapCmds h.wf h.listed (putIf_seq d) fun y hy hn => ?_
    split
    next k => exact hd rfl (k.symm.trans hn)
    next => exact h.all y hy hn
  · exact h.of_cmds (mput_wf _ _ h.wf) (congrArg Queue.cmds (State.modQueue_queue_ne s r q _ e))
theorem findCmd_modCmd (w : mwf {} s.queues = true) {f : Cmd → Cmd} (hf : ∀ y, (f y).seq = y.seq) (h : findCmd s q n = some c) :
    findCmd (s.modCmd q n f) q n = some (f c) := by
  have keep (y : Cmd) : (if y.seq = n then f y else y).seq = y.seq := by
    split
    · exact hf y
    · rfl
  have same : (fun c : Cmd => decide (c.seq = n)) ∘ (fun y => if y.seq = n then f y else y) = fun c => decide (c.seq = n) := by
    funext y
    simp only [Function.comp_apply, keep]
  unfold findCmd State.modCmd
  rw [State.modQueue_queue s q _ w]
  dsimp only
  rw [List.find?_map, same, show (s.queue q).cmds.find? (fun c => decide (c.seq = n)) = some c from h, Option.map_some, if_pos (seq_of_findCmd h)]

/-! ## A queue beside its commands -/

/-- A queue without its commands. -/
def Queue.shell (x : Queue) : Queue := { x with cmds := [] }
/-- Nothing of a queue but its commands has changed. -/
structure ShellsKept (s t : State) : Prop where
  wf    : mwf {} t.queues = true
  shell : ∀ r, (t.queue r).shell = (s.queue r).shell

theorem ShellsKept.refl (w : mwf {} s.queues = true) : ShellsKept s s := ⟨w, fun _ => rfl⟩
theorem ShellsKept.trans {u : State} (h : ShellsKept s t) (k : ShellsKept t u) : ShellsKept s u := ⟨k.wf, fun r => (k.shell r).trans (h.shell r)⟩
theorem ShellsKept.of_queues {u : State} (h : ShellsKept s t) (e : u.queues = t.queues) : ShellsKept s u :=
  ⟨e ▸ h.wf, fun r => by rw [queue_congr e, h.shell]⟩
theorem ShellsKept.mapCmds {u : State} (h : ShellsKept s u) (f : Cmd → Cmd) : ShellsKept s (u.modQueue q fun x => { x with cmds := x.cmds.map f }) := by
  refine ⟨mput_wf _ _ h.wf, fun r => ?_⟩
  rw [← h.shell r]
  by_cases e : q = r
  · subst e
    rw [State.modQueue_queue u q _ h.wf]
    rfl
  · rw [State.modQueue_queue_ne u q r _ e]
theorem ShellsKept.putCmd (h : ShellsKept s t) (q : QIdx) (d : Cmd) : ShellsKept s (putCmd t q d) := h.mapCmds _
theorem ShellsKept.st (h : ShellsKept s t) (q : QIdx) : (t.queue q).st = (s.queue q).st := (congrArg Queue.st (h.shell q) :)
theorem ShellsKept.cons (h : ShellsKept s t) (q : QIdx) : (t.queue q).cons = (s.queue q).cons := (congrArg Queue.cons (h.shell q) :)
theorem ShellsKept.done (h : ShellsKept s t) (q : QIdx) : (t.queue q).done = (s.queue q).done := (congrArg Queue.done (h.shell q) :)
theorem ShellsKept.enable (h : ShellsKept s t) (q : QIdx) : (t.queue q).enable = (s.queue q).enable := (congrArg Queue.enable (h.shell q) :)
end

/-! ## The gate (R89, R168, R182, R494, R496) -/

/-- A command but for what the gate writes: its account of delays, and how far it has come towards its start. -/
def Cmd.book (c : Cmd) : Cmd := { c with phase := .ready, stall := [], stallNow := none, readyT := none, granted := false, thr := false }
@[simp] theorem endStall_book (c : Cmd) (t : Nat) : (c.endStall t).book = c.book := by
  unfold Cmd.endStall
  split <;> rfl
@[simp] theorem endStall_readyT (c : Cmd) (t : Nat) : (c.endStall t).readyT = c.readyT := by
  unfold Cmd.endStall
  split <;> rfl
@[simp] theorem beginStall_book (c : Cmd) (k t : Nat) : (c.beginStall k t).book = c.book := by
  unfold Cmd.beginStall
  split
  · split
    · rfl
    · exact endStall_book c t
  · rfl
@[simp] theorem beginStall_readyT (c : Cmd) (k t : Nat) : (c.beginStall k t).readyT = c.readyT := by
  unfold Cmd.beginStall
  split
  · split
    · rfl
    · exact endStall_readyT c t
  · rfl

/-- What holds of a state and stays through commands put into queues, for those that A lets in, and through the governor's count of them. -/
structure PutClosed (A : QIdx → Cmd → Prop) (I : State → Prop) : Prop where
  count : ∀ {s : State} (q : QIdx), I s → I (s.count (govPage (qHub q)) 0x080 1)
  put   : ∀ {s : State} {r : QIdx} {c : Cmd}, A r c → I s → I (putCmd s r c)

theorem shellsKept_closed (s : State) : PutClosed (fun _ _ => True) (ShellsKept s) :=
  ⟨fun _ h => h.of_queues (State.count_queues ..), fun _ h => h.putCmd _ _⟩
theorem allNumbered_closed (q : QIdx) (n : W32) (Q : Cmd → Prop) : PutClosed (fun r c => r = q → c.seq = n → Q c) (AllNumbered · q n Q) :=
  ⟨fun _ h => h.of_queues (State.count_queues ..), fun a h => h.putCmd a⟩

section
variable {A : QIdx → Cmd → Prop} {I : State → Prop} {s : State} {q : QIdx}

theorem refreshReady_keeps (hI : PutClosed A I)
    (hA : ∀ c d : Cmd, (s.queue q).target = some c → c.startT = none → d.book = c.book → A q d) (h : I s) : I (refreshReady s q) := by
  unfold refreshReady
  split
  next c hc =>
    split
    next => exact h
    next n =>
      rw [not_or, Bool.not_eq_true, Option.isSome_eq_false_iff, Option.isNone_iff_eq_none] at n
      have put (d : Cmd) (e : d.book = c.book) : I (putCmd s q d) := hI.put (hA c d hc n.1 e) h
      split
      · split
        · exact h
        · exact put _ (endStall_book c s.now)
      · exact put _ (beginStall_book c _ s.now)
      · exact put _ rfl
  next => exact h
theorem putThrottled_keeps (hI : PutClosed A I) {c : Cmd} (hA : A q c) (hT : A q { c with thr := true }) (h : I s) : I (putThrottled s q c) := by
  unfold putThrottled
  split
  · exact hI.count q (hI.put hT h)
  · exact hI.put hA h
theorem hold_keeps (hI : PutClosed A I) {c : Cmd} (hA : ∀ d : Cmd, d.book = c.book → d.readyT = c.readyT → A q d) (h : I s) : I (hold s q c) := by
  have book := beginStall_book c cThrottleLine s.now
  have ready := beginStall_readyT c cThrottleLine s.now
  unfold hold
  split
  · exact h
  · exact putThrottled_keeps hI (hA _ book ready) (hA _ book ready) h
theorem qosStalls_keeps (hI : PutClosed A I) (e : Nat)
    (hA : ∀ r c, (r, c) ∈ engineTargets s e → isReady c = true → ∀ d : Cmd, d.book = c.book → d.readyT = c.readyT → A r d) (h : I s) :
    I (qosStalls s e) := by
  refine List.foldlRecOn (motive := I) _ _ h fun t ht p hp => ?_
  dsimp only
  split
  next ready =>
    have put (d : Cmd) (b : d.book = p.2.book) (k : d.readyT = p.2.readyT) : I (putCmd t p.1 d) := hI.put (hA p.1 p.2 hp ready d b k) ht
    split
    · exact put _ (beginStall_book _ _ _) (beginStall_readyT _ _ _)
    · split
      · split
        · exact put _ (endStall_book _ _) (endStall_readyT _ _)
        · exact ht
      · exact ht
  next => exact ht

/-- The commands that arbitration looks at are the next of their queues. -/
theorem target_of_engineTargets (ok : QueuesOk s) {e : Nat} {r : QIdx} {c : Cmd} (h : (r, c) ∈ engineTargets s e) : (s.queue r).target = some c := by
  obtain ⟨⟨k, x⟩, hx, hc⟩ := List.mem_filterMap.1 h
  have listed := ok.queue_of_mem hx
  dsimp only at hc listed
  split at hc
  · obtain ⟨d, hd, e⟩ := Option.map_eq_some_iff.1 hc
    obtain ⟨rfl, rfl⟩ := Prod.mk.injEq .. ▸ e
    rw [listed, hd]
  · cases hc
/-- The commands that the gate may write, in a state that has I: any as the next of its queue that has not started. -/
def GateMay (A : QIdx → Cmd → Prop) (I : State → Prop) : Prop :=
  ∀ {t r c d}, I t → (t.queue r).target = some c → c.startT = none → Cmd.book d = c.book → A r d

theorem queuesOk_closed : PutClosed (fun _ _ => True) QueuesOk := ⟨fun _ h => h.of_queues (State.count_queues ..), fun _ h => h.modQueue _ _⟩
theorem PutClosed.withOk (hI : PutClosed A I) : PutClosed A fun t => QueuesOk t ∧ I t :=
  ⟨fun q h => ⟨h.1.of_queues (State.count_queues ..), hI.count q h.2⟩, fun a h => ⟨h.1.modQueue _ _, hI.put a h.2⟩⟩
theorem isReady_startT {c : Cmd} (h : isReady c = true) : c.startT = none := by
  simp only [isReady, Bool.and_eq_true, Option.isNone_iff_eq_none] at h
  exact h.1.1
/-- The same of commands whose readiness stays. -/
def HoldMay (A : QIdx → Cmd → Prop) (I : State → Prop) : Prop :=
  ∀ {t r c d}, I t → (t.queue r).target = some c → c.startT = none → Cmd.book d = c.book → d.readyT = c.readyT → A r d
theorem GateMay.holdMay (hA : GateMay A I) : HoldMay A I := fun h ht hn hb _ => hA h ht hn hb
theorem refreshReady_ok (ok : QueuesOk s) (q : QIdx) : QueuesOk (refreshReady s q) :=
  refreshReady_keeps queuesOk_closed (fun _ _ _ _ _ => trivial) ok

/-- The steps of the gate: readiness, the hold of a ready command that does not pass, and what arbitration attributes. -/
theorem gateReady_steps (hI : PutClosed A I) (h : I (refreshReady s q))
    (hold : ∀ {c d : Cmd}, ((refreshReady s q).queue q).target = some c → c.startT = none → d.book = c.book → d.readyT = c.readyT → A q d)
    (stalls : ∀ {t : State} {r c d}, I t → (r, c) ∈ engineTargets t (qEng q) → c.startT = none → Cmd.book d = c.book → d.readyT = c.readyT → A r d) :
    I (gateReady s q) := by
  unfold gateReady
  extract_lets s1 s2
  have held : I s2 := by
    unfold s2
    split
    next c hc =>
      split
      next k => exact hold_keeps hI (fun d hb hr => hold hc (isReady_startT k.1) hb hr) h
      next => exact h
    next => exact h
  exact qosStalls_keeps hI _ (fun r c ht hr d hb hk => stalls held ht (isReady_startT hr) hb hk) held
/-- What holds once readiness is told, and stays through the commands that a hold or arbitration may write, holds after the gate. -/
theorem gateReady_keeps_after (hI : PutClosed A I) (hA : HoldMay A I) (ok : QueuesOk s) (h : I (refreshReady s q)) : I (gateReady s q) :=
  (gateReady_steps hI.withOk ⟨refreshReady_ok ok q, h⟩ (fun ht hn hb hk => hA h ht hn hb hk)
    fun k ht hn hb hk => hA k.2 (target_of_engineTargets k.1 ht) hn hb hk).2
/-- What stays through the commands that the gate may write stays through the gate. -/
theorem gateReady_keeps (hI : PutClosed A I) (hA : GateMay A I) (ok : QueuesOk s) (h : I s) : I (gateReady s q) :=
  gateReady_keeps_after hI hA.holdMay ok (refreshReady_keeps hI (fun _ _ ht hn hb => hA h ht hn hb) h)

theorem refreshReady_shells (w : mwf {} s.queues = true) (q : QIdx) : ShellsKept s (refreshReady s q) :=
  refreshReady_keeps (shellsKept_closed s) (fun _ _ _ _ _ => trivial) (.refl w)
theorem gateReady_shells (w : mwf {} s.queues = true) (q : QIdx) : ShellsKept s (gateReady s q) :=
  gateReady_steps (shellsKept_closed s) (refreshReady_shells w q) (fun _ _ _ _ => trivial) fun _ _ _ _ _ => trivial

/-- Q tells of commands that the gate leaves alone, or nothing of what the gate writes. -/
def GateProof (Q : Cmd → Prop) : Prop := ∀ c, Q c → c.phase = .ended ∨ c.startT ≠ none ∨ ∀ d : Cmd, d.book = c.book → Q d
theorem GateProof.gateMay {Q : Cmd → Prop} (hQ : GateProof Q) (p : QIdx) (n : W32) :
    GateMay (fun r c => r = p → c.seq = n → Q c) (AllNumbered · p n Q) := by
  intro t r c d h ht hn hb hr hd
  subst hr
  have seq : c.seq = n := (congrArg Cmd.seq hb :).symm.trans hd
  rcases hQ c (h.all c (mem_of_target ht) seq) with e | e | e
  · exact absurd e (live_of_target ht)
  · exact absurd hn e
  · exact e d hb
theorem AllNumbered.gateReady {Q : Cmd → Prop} {p : QIdx} {n : W32} (h : AllNumbered s p n Q) (hQ : GateProof Q) (ok : QueuesOk s) (q : QIdx) :
    AllNumbered (gateReady s q) p n Q := gateReady_keeps (allNumbered_closed p n Q) (hQ.gateMay p n) ok h
theorem AllNumbered.refreshReady {Q : Cmd → Prop} {p : QIdx} {n : W32} (h : AllNumbered s p n Q) (hQ : GateProof Q) (q : QIdx) :
    AllNumbered (refreshReady s q) p n Q :=
  refreshReady_keeps (allNumbered_closed p n Q) (fun _ _ ht hn hb => hQ.gateMay p n h ht hn hb) h
theorem AllNumbered.qosStalls {Q : Cmd → Prop} {p : QIdx} {n : W32} (h : AllNumbered s p n Q) (hQ : GateProof Q) (ok : QueuesOk s) (e : Nat) :
    AllNumbered (qosStalls s e) p n Q :=
  qosStalls_keeps (allNumbered_closed p n Q) e
    (fun _ _ ht hr _ hb _ => hQ.gateMay p n h (target_of_engineTargets ok ht) (isReady_startT hr) hb) h
end

/-! ## The end of a command (R163, R175, R203, R564) -/

/-- What command c has become at its end with a status and a cause. -/
structure EndOf (c : Cmd) (st : Status) (cause : Nat) (d : Cmd) : Prop where
  seq     : d.seq = c.seq
  ended   : d.phase = .ended
  status  : d.status = st
  cause   : d.cause = cause
  unacked : d.unacked = []
  head    : d.head = []
  entry   : d.entry = c.entry
  admitted : d.cls = c.cls ∧ d.pwr = c.pwr ∧ d.admitT = c.admitT

theorem endOf_gateProof (c : Cmd) (st : Status) (cause : Nat) : GateProof (EndOf c st cause) := fun _ h => .inl h.ended

@[simp] theorem event_queues (s : State) (p i : Nat) : (s.event p i).queues = s.queues := (event_notices s p i).queues
@[simp] theorem modCbGrp_queues (s : State) (h : Hub) (g : Nat) (f : CbGrp → CbGrp) : (s.modCbGrp h g f).queues = s.queues := State.modHub_queues s h _
theorem sendMark_queues (s : State) (q : QIdx) (c : Cmd) (b : Bool) : (sendMark s q c b).queues = s.queues := by
  unfold sendMark
  dsimp only
  split
  · split <;> rfl
  · rfl
theorem tellEnd_queues (s : State) (q : QIdx) (c : Cmd) (b : Bool) : (tellEnd s q c b).queues = s.queues := by
  unfold tellEnd
  dsimp only
  repeat' split
  all_goals simp [sendMark_queues]
theorem gcAcquire_queues (s : State) (e : Nat) : (gcAcquire s e).queues = s.queues := rfl
theorem closeLate_queues (s : State) (c : Cmd) : (closeLate s c).queues = s.queues := by
  unfold closeLate
  split <;> rfl
theorem dropOrdEntries_queues (s : State) (q : QIdx) (c : Cmd) : (dropOrdEntries s q c).queues = s.queues := by
  unfold dropOrdEntries
  split <;> rfl

/-- The steps of a command's end: what holds before it, what holds from where its command has ended. -/
theorem endCmd_keeps {I J : State → Prop} {s : State} {q : QIdx} {c : Cmd} {st : Status} {cause : Nat}
    (hI : ∀ {t u : State}, u.queues = t.queues → I t → I u) (hJ : ∀ {t u : State}, u.queues = t.queues → J t → J u)
    (read : ∀ {t}, I t → I (t.modCmd q c.seq fun y => { y with didRead := false }))
    (put : ∀ {t d}, EndOf c st cause d → I t → J (putCmd t q d))
    (late : c.unacked ≠ [] → ∀ {t} (n : Nat) (g : Queue → List (Nat × Nat)), J t →
      J (t.modQueue q fun x => { x with lateUntil := max x.lateUntil n, lateW := g x }))
    (refresh : ∀ {t}, J t → J (refreshReady t q)) (h : I s) (idx : BitVec 16) (va ea : Nat) : J (endCmd s q c st cause idx va ea) := by
  have h0 : I (closeHead s q c) := hI (queues_of_agenda (closeHead_agenda ..)) h
  unfold endCmd
  extract_lets s0 owes keep s1 s2 stalled c' s3 s4 s5 s6 s7 byPort s8
  have h1 : I s1 := by
    unfold s1
    split
    · exact h0
    · exact hI (tellEnd_queues ..) h0
  have h2 : I s2 := by
    have dropped : I (dropOrdEntries (closeLate s1 c) q c) := hI (dropOrdEntries_queues ..) (hI (closeLate_queues ..) h1)
    unfold s2 acquire
    split
    · exact hI (gcAcquire_queues ..) (read dropped)
    · exact dropped
  have hc : EndOf c st cause c' := by
    have e : (c.endStall s2.now).book = c.book := endStall_book c s2.now
    exact ⟨(congrArg Cmd.seq e :), rfl, rfl, rfl, rfl, rfl, (congrArg Cmd.entry e :), (congrArg Cmd.cls e :), (congrArg Cmd.pwr e :), (congrArg Cmd.admitT e :)⟩
  have h3 : J s3 := put hc h2
  have h4 : J s4 := by
    unfold s4
    split
    next w => exact late (of_decide_eq_true w) _ _ h3
    next => exact h3
  have h6 : J s6 := hJ (govBallast_queues ..) (hJ (modGov_queues ..) h4)
  have h7 : J s7 := by
    unfold s7
    split
    · exact hJ (t := s6) rfl h6
    · exact h6
  have h8 : J s8 := by
    unfold s8
    split
    · exact h7
    · exact hJ (report_notices ..).queues h7
  exact refresh h8

/-- A command that its queue lists has ended with the status and the cause given. -/
theorem endCmd_allNumbered {s : State} {q : QIdx} {c : Cmd} (ok : QueuesOk s) (listed : ∃ y ∈ (s.queue q).cmds, y.seq = c.seq)
    (st : Status) (cause : Nat) (idx : BitVec 16) (va ea : Nat) : AllNumbered (endCmd s q c st cause idx va ea) q c.seq (EndOf c st cause) := by
  refine endCmd_keeps (I := (AllNumbered · q c.seq fun _ => True)) (J := (AllNumbered · q c.seq (EndOf c st cause)))
    (fun e h => h.of_queues e) (fun e h => h.of_queues e) (fun h => .mapCmds h.wf h.listed (fun y => ?_) fun _ _ _ => trivial)
    (fun {t d} hd h => ?_) (fun _ _ _ _ h => h.modQueue fun _ => rfl) (fun h => h.refreshReady (endOf_gateProof c st cause) q)
    ⟨ok.wf, listed, fun _ _ _ => trivial⟩ idx va ea
  · split <;> rfl
  · have k := putCmd_allNumbered (Q := EndOf c st cause) h.wf (hd.seq ▸ h.listed) hd
    rwa [hd.seq] at k
/-- The end of a command without unacknowledged writes changes nothing of its queue but its commands. -/
theorem endCmd_shells {s : State} {q : QIdx} {c : Cmd} (hu : c.unacked = []) (w : mwf {} s.queues = true)
    (st : Status) (cause : Nat) (idx : BitVec 16) (va ea : Nat) : ShellsKept s (endCmd s q c st cause idx va ea) :=
  endCmd_keeps (I := ShellsKept s) (J := ShellsKept s) (fun e h => h.of_queues e) (fun e h => h.of_queues e) (fun h => h.mapCmds _)
    (fun _ h => h.putCmd _ _) (fun n => absurd hu n) (fun h => h.trans (refreshReady_shells h.wf q)) (.refl w) idx va ea

theorem sameStart_of_still {s t : State} (e : t.still = s.still) : SameStart s t :=
  ⟨(congrArg State.boot e :), (congrArg State.pins e :), (congrArg State.doff e :), (congrArg State.mgt e :)⟩
theorem endCmd_still {s : State} {q : QIdx} {c : Cmd} (hh : c.head = []) (ok : QueuesOk s) (st : Status) (cause : Nat) (idx : BitVec 16) (va ea : Nat) :
    QueuesOk (endCmd s q c st cause idx va ea) ∧ (endCmd s q c st cause idx va ea).still = s.still := by
  have any : CoreClosed fun _ => True := fun _ _ _ _ => trivial
  have step := endCmd_step (q := q) ok any any (st := st) hh (fun _ _ _ => trivial) (fun _ _ => trivial) cause idx va ea
  exact ⟨step.ok, step.still⟩
theorem qosStalls_still (s : State) (e : Nat) : (qosStalls s e).still = s.still := still_of_gated (qosStalls_gated s e)

end Sys2Proof.Machine
end

section
/-!
Answers of remote transfers (R164, R317, R324, R574).
-/

namespace Sys2Proof.Machine

/-! ## What an answer does -/

section
variable {s : State} {q : QIdx} {n : W32} {c : Cmd}

/-- An answer reaches the execution of a running command that it names (R574). -/
theorem answered_running {gen : Nat} (h : findCmd s q n = some c) (hp : c.phase = .running) (hg : c.gen = gen) : answered s q n gen = some c := by
  simp [answered, h, underWay, hp, hg]
/-- It reaches no other. -/
theorem answered_none {gen : Nat} (h : ∀ c, findCmd s q n = some c → c.phase ≠ .running ∨ c.gen ≠ gen) : answered s q n gen = none := by
  unfold answered
  split
  next c hc =>
    refine if_neg fun ⟨hu, hg⟩ => ?_
    rcases h c hc with hn | hn
    · exact hn (of_decide_eq_true hu)
    · exact hn hg
  next => rfl

/-- Data of the length that the one open read of a command asked for is kept, and the read is over (R324). -/
theorem cmdData_kept {gen a : Nat} {p : Nat × Nat} {data : List Byte} (w : mwf {} s.queues = true) (h : findCmd s q n = some c)
    (hp : c.phase = .running) (hg : c.gen = gen) (hn : c.need = [p]) (ha : p.1 = a) (hd : data.length = p.2) :
    (cmdData s q n gen a .ok data).still = s.still ∧
      findCmd (cmdData s q n gen a .ok data) q n = some { c with need := [], rdata := keepBytes c.rdata a data } := by
  have opened : ((answered s q n gen).bind fun c => c.need.find? fun p => p.1 = a) = some p := by
    simp [answered_running h hp hg, hn, ha]
  have fits : fitsLen .ok data p.2 = true := by simp [fitsLen, hd]
  unfold cmdData
  rw [opened]
  simp only [fits, Bool.not_true, Bool.false_eq_true, if_false]
  refine ⟨rfl, ?_⟩
  refine (findCmd_modCmd w (by intro; rfl) h).trans ?_
  simp [hn]

theorem timerRace_queues (s : State) (q : QIdx) (c : Cmd) : (timerRace s q c).queues = s.queues := by
  unfold timerRace
  split <;> rfl
theorem timerRace_still (s : State) (q : QIdx) (c : Cmd) : (timerRace s q c).still = s.still := by
  unfold timerRace
  split <;> rfl
theorem gcDrop_queues (s : State) (e pa n : Nat) : (gcDrop s e pa n).queues = s.queues := by
  unfold gcDrop
  split <;> rfl
theorem gcDrop_still (s : State) (e pa n : Nat) : (gcDrop s e pa n).still = s.still := by
  unfold gcDrop
  split <;> rfl

/-- A command that has ended with status OK is one. -/
theorem endedOk_of_allNumbered {x : Cmd} {cause : Nat} (h : AllNumbered s q n (EndOf x .ok cause)) : EndedOk s q n := by
  obtain ⟨d, hd, he⟩ := h.find
  exact ⟨d, hd, he.ended, he.status⟩

/-- A command all of whose accesses are performed and acknowledged ends with its status (R164). -/
theorem ackEnd_ends (ok : QueuesOk s) (h : findCmd s q n = some c) (hp : c.phase = .running) (hf : c.performed = true) (hu : c.unacked = [])
    (hst : c.status = .ok) (hh : c.head = []) : (ackEnd s q n).still = s.still ∧ EndedOk (ackEnd s q n) q n := by
  have raced := ok.of_queues (timerRace_queues s q c)
  have seq := seq_of_findCmd h
  have listed : ∃ y ∈ ((timerRace s q c).queue q).cmds, y.seq = c.seq := by
    rw [queue_congr (timerRace_queues s q c)]
    exact ⟨c, mem_of_findCmd h, rfl⟩
  have e : ackEnd s q n = qosStalls (endCmd (timerRace s q c) q c c.status c.cause c.fidx c.faultVa.toNat c.faultEa) (qEng q) := by
    unfold ackEnd
    rw [h]
    exact if_pos ⟨hp, hf, by simp [hu]⟩
  rw [e, hst]
  obtain ⟨ok', still⟩ := endCmd_still hh raced (.ok) c.cause c.fidx c.faultVa.toNat c.faultEa
  have ended := (endCmd_allNumbered raced listed .ok c.cause c.fidx c.faultVa.toNat c.faultEa).qosStalls (endOf_gateProof _ _ _) ok' (qEng q)
  rw [seq] at ended
  exact ⟨(qosStalls_still _ _).trans (still.trans (timerRace_still s q c)), endedOk_of_allNumbered ended⟩
/-- The acknowledgement of the last write of such a command ends it. -/
theorem cmdAck_last {gen a : Nat} {u : Nat × Nat × Nat × Nat} (ok : QueuesOk s) (h : findCmd s q n = some c) (hp : c.phase = .running)
    (hg : c.gen = gen) (hf : c.performed = true) (hu : c.unacked = [u]) (ha : u.1 = a) (hst : c.status = .ok) (hh : c.head = []) :
    (cmdAck s q n gen a .ok).still = s.still ∧ EndedOk (cmdAck s q n gen a .ok) q n := by
  have dropped := gcDrop_queues s (qEng q) u.1 u.2.1
  have found : (c.unacked.find? fun u => u.1 = a) = some u := by simp [hu, ha]
  have kept := findCmd_modCmd (s := gcDrop s (qEng q) u.1 u.2.1) (f := fun y => { y with unacked := y.unacked.erase u }) (dropped ▸ ok.wf)
    (fun _ => rfl) ((findCmd_congr dropped).trans h)
  have e : cmdAck s q n gen a .ok = ackEnd ((gcDrop s (qEng q) u.1 u.2.1).modCmd q n fun y => { y with unacked := y.unacked.erase u }) q n := by
    simp only [cmdAck, answered_running h hp hg, found, decide_true, Bool.true_or, if_true]
  rw [e]
  obtain ⟨still, ended⟩ := ackEnd_ends ((ok.of_queues dropped).modQueue q _) kept hp hf (by simp [hu]) hst hh
  exact ⟨still.trans (gcDrop_still s _ _ _), ended⟩
end

/-- Settles O29: data is kept by `cmdData_kept`, a last acknowledgement ends its command by `cmdAck_last`, and an answer that `answered`
gives to no command is discarded. -/
theorem remoteAnswersReachTheirCommand : Obligations.RemoteAnswersReachTheirCommand := by
  intro s q n gen a t data hw hc hgen
  have ok := hc.queuesOk.toTime t
  have some_gen : gen ≠ 0 := Nat.ne_of_gt hgen
  have read : exec (.remoteReadResponse (.cmd q n gen) a .ok data t) s = .next (cmdData (s.toTime t) q n gen a .ok data) :=
    (onwardAt_of_works hw t _).trans (congrArg _ (if_neg some_gen))
  have ack : exec (.remoteWriteAck (.cmd q n gen) a .ok t) s = .next (cmdAck (s.toTime t) q n gen a .ok) :=
    (onwardAt_of_works hw t _).trans (congrArg _ (if_neg some_gen))
  rw [read, ack]
  refine ⟨fun c p hf hp hg hn ha hd => ?_, fun c u hf hp hg hperf hu ha hst hh => ?_, fun hno => ?_⟩
  · obtain ⟨still, found⟩ := cmdData_kept (s := s.toTime t) ok.wf hf hp hg hn ha hd
    exact ⟨_, _, rfl, found, rfl, rfl, hp, sameMemory_of_still (s := s.toTime t) still, sameStart_of_still (s := s.toTime t) still⟩
  · obtain ⟨still, ended⟩ := cmdAck_last ok hf hp hg hperf hu ha hst hh
    exact ⟨_, rfl, ended, sameMemory_of_still (s := s.toTime t) still, sameStart_of_still (s := s.toTime t) still⟩
  · have none_answered := answered_none (s := s.toTime t) hno
    simp [cmdData, cmdAck, none_answered]

end Sys2Proof.Machine
end

section
/-!
The timers of commands, preemption, and the window of late writes (R163, R489, R496, R573, R575).
-/

namespace Sys2Proof.Machine

section
variable {s : State} {q : QIdx} {n : W32} {c : Cmd}

/-! ## Command timeout (R163, R573) -/

/-- The stop of a command that has not ended, and is no atomic whose update has been performed, is its end. -/
theorem stopCmd_eq (hp : c.phase ≠ .ended) (hu : updated c = false) (st : Status) (cause : Nat) :
    ∃ w idx, stopCmd s q c st cause = endCmd s q { c with waited := w } st cause idx 0 0 := by
  unfold stopCmd
  rw [if_neg hp, if_neg (by simp [hu])]
  exact ⟨_, _, rfl⟩
/-- It ends the command with the status and the cause. -/
theorem stopCmd_ends (ok : QueuesOk s) (h : findCmd s q c.seq = some c) (hp : c.phase ≠ .ended) (hu : updated c = false) (hh : c.head = [])
    (st : Status) (cause : Nat) :
    QueuesOk (stopCmd s q c st cause) ∧ (stopCmd s q c st cause).still = s.still ∧
      ∃ x, AllNumbered (stopCmd s q c st cause) q c.seq (EndOf x st cause) := by
  obtain ⟨w, idx, e⟩ := stopCmd_eq (s := s) (q := q) hp hu st cause
  rw [e]
  obtain ⟨ok', still⟩ := endCmd_still (c := { c with waited := w }) hh ok st cause idx 0 0
  exact ⟨ok', still, _, endCmd_allNumbered (c := { c with waited := w }) ok ⟨c, mem_of_findCmd h, rfl⟩ st cause idx 0 0⟩

/-- Before the timer has expired nothing happens. -/
theorem cmdExpire_early {e : Nat} (h : findCmd s q n = some c) (he : expiry (s.queue q) c = some e) (ht : s.now ≤ e) : cmdExpire s q n = s := by
  simp [cmdExpire, h, he, ht]
/-- Once it has, the command ends (R163, R573). -/
theorem cmdExpire_late {e : Nat} (ok : QueuesOk s) (h : findCmd s q c.seq = some c) (he : expiry (s.queue q) c = some e) (ht : e < s.now)
    (hp : c.phase = .running) (hst : (s.queue q).st ≠ .faultWait) (hu : updated c = false) (hh : c.head = []) :
    (cmdExpire s q c.seq).still = s.still ∧ ∃ d, findCmd (cmdExpire s q c.seq) q c.seq = some d ∧ d.phase = .ended ∧
      d.status = (if onBadLink s q c then .timeoutLink else .timeout) ∧ d.cause = (if onBadLink s q c then 0x4C else 0x4B) ∧ d.unacked = [] := by
  have live : c.phase ≠ .ended := by simp [hp]
  have e : cmdExpire s q c.seq = qosStalls (stopCmd s q c (if onBadLink s q c then .timeoutLink else .timeout)
      (if onBadLink s q c then 0x4C else 0x4B)) (qEng q) := by
    simp only [cmdExpire, h, he]
    rw [if_neg (by simp [hp, hst, hu, ht])]
    split <;> rfl
  obtain ⟨ok', still, x, all⟩ := stopCmd_ends ok h live hu hh (if onBadLink s q c then .timeoutLink else .timeout)
    (if onBadLink s q c then 0x4C else 0x4B)
  rw [e]
  obtain ⟨d, hd, ended⟩ := (all.qosStalls (endOf_gateProof _ _ _) ok' (qEng q)).find
  exact ⟨(qosStalls_still _ _).trans still, d, hd, ended.ended, ended.status, ended.cause, ended.unacked⟩

/-! ## Preemption (R489) -/

/-- A running command is paused for a class-0 command of its engine. -/
theorem preempt_paused (w : mwf {} s.queues = true) (ht : (s.queue q).target = some c) (hp : c.phase = .running) (hn : c.paused = false)
    (hw : c.waiting = false) (hc : 0 < c.cls) (h0 : classZeroOn s (qEng q) = true) :
    (preempt s q).still = s.still ∧ (∀ p, p ≠ q → (preempt s q).queue p = s.queue p) ∧
      ∃ d, findCmd (preempt s q) q c.seq = some d ∧ d.paused = true ∧ d.phase = .running ∧ d.prog = c.prog := by
  have core := beginStall_core c cThrottleQos s.now
  have book := beginStall_book c cThrottleQos s.now
  have e : preempt s q = (putCmd s q { c.beginStall cThrottleQos s.now with paused := true }).count (qmPage q) 0x0B8 1 := by
    simp only [preempt, ht]
    exact if_pos (by simp [hp, hn, hw, hc, h0])
  have seq : ({ c.beginStall cThrottleQos s.now with paused := true } : Cmd).seq = c.seq := (congrArg Prod.fst core :)
  have put := putCmd_allNumbered (q := q) (Q := fun d => d.paused = true ∧ d.phase = .running ∧ d.prog = c.prog)
    (d := { c.beginStall cThrottleQos s.now with paused := true }) w ⟨c, mem_of_target ht, seq.symm⟩
    ⟨rfl, (congrArg (fun x => x.2.1) core :).trans hp, (congrArg Cmd.prog book :)⟩
  rw [seq] at put
  rw [e]
  exact ⟨rfl, fun p hpq => (queue_congr (State.count_queues ..) p).trans (putCmd_queue_ne s _ hpq.symm), (put.of_queues (State.count_queues ..)).find⟩
/-- There is no pause without one. -/
theorem preempt_none (h0 : classZeroOn s (qEng q) = false) : preempt s q = s := by
  unfold preempt
  split
  · exact if_neg (by simp [h0])
  · rfl

/-! ## A command that nothing holds back any more (R496, R575) -/

/-- A command that has not started becomes ready, and the gate leaves it so. -/
theorem gateReady_ready (ok : QueuesOk s) (ht : (s.queue q).target = some c) (hp : c.phase = .ready) (hs : c.startT = none) (hr : c.readyT = none)
    (hh : startHold s q c = .no) : ∃ d, findCmd (gateReady s q) q c.seq = some d ∧ d.readyT = some s.now := by
  have seq : ({ c.endStall s.now with readyT := some s.now } : Cmd).seq = c.seq := (congrArg Prod.fst (endStall_core c s.now) :)
  have e : refreshReady s q = putCmd s q { c.endStall s.now with readyT := some s.now } := by
    simp [refreshReady, ht, hp, hs, hr, hh]
  have put := putCmd_allNumbered (q := q) (Q := fun d => d.readyT = some s.now)
    (d := { c.endStall s.now with readyT := some s.now }) ok.wf ⟨c, mem_of_target ht, seq.symm⟩ rfl
  rw [seq, ← e] at put
  refine (gateReady_keeps_after (allNumbered_closed q c.seq _) (fun {t r x d} h hx hn hb hk hrq hd => ?_) ok put).find
  subst hrq
  rw [hk]
  exact h.all x (mem_of_target hx) ((congrArg Cmd.seq hb :).symm.trans hd)
end

/-- Settles O19: the timer by `cmdExpire_early` and `cmdExpire_late`, the pause by `preempt_paused`, readiness by `gateReady_ready`. -/
theorem timersOfCommands : Obligations.TimersOfCommands := by
  refine ⟨fun s q t e c hw hc hf hp he hst hh => ⟨fun early => ?_, fun late hu => ?_⟩, fun s q t c hw hc ht hf => ⟨fun hp hn hwt hcl => ?_, fun hp hs hr => ?_⟩⟩
  · exact (onwardAt_of_works hw t _).trans (congrArg _ (cmdExpire_early (s := s.toTime t) hf he early))
  · obtain ⟨still, d, hd, h⟩ := cmdExpire_late (s := s.toTime t) (hc.queuesOk.toTime t) hf he late hp hst hu hh
    exact ⟨_, d, onwardAt_of_works hw t _, hd, h.1, h.2.1, h.2.2.1, h.2.2.2, sameMemory_of_still (s := s.toTime t) still,
      sameStart_of_still (s := s.toTime t) still⟩
  · split
    next h0 =>
      obtain ⟨still, others, d, hd, h⟩ := preempt_paused (s := s.toTime t) hc.queues ht hp hn hwt hcl h0
      exact ⟨_, d, onwardAt_of_works hw t _, hd, h.1, h.2.1, h.2.2, others, sameMemory_of_still (s := s.toTime t) still,
        sameStart_of_still (s := s.toTime t) still⟩
    next h0 => exact (onwardAt_of_works hw t _).trans (congrArg _ (preempt_none (s := s.toTime t) (by simpa using h0)))
  · split
    next late =>
      intro hh
      obtain ⟨d, hd, h⟩ := gateReady_ready (s := s.toTime t) (hc.queuesOk.toTime t) ht hp hs hr hh
      have gated := gateReady_gated (s.toTime t) q
      have e : exec (.lateWriteWindowEnd q t) s = .next (gateReady (s.toTime t) q) :=
        (onwardAt_of_works hw t _).trans (congrArg _ (if_pos late))
      exact ⟨_, d, e, hd, h, sameMemory_of_gated (s := s.toTime t) gated, sameStart_of_gated (s := s.toTime t) gated⟩
    next late => exact (onwardAt_of_works hw t _).trans (congrArg _ (if_neg late))

end Sys2Proof.Machine
end

section
/-!
What a change of one queue leaves as it is: the steps of its group, its settling and its reset (R154–R157, R181, R557).
-/

namespace Sys2Proof.Machine

/-! ## One queue alone -/

/-- Queue q may have changed; the other queues, memory, start, management and the cores have not. -/
structure OnlyQueue (q : QIdx) (s t : State) : Prop where
  wf     : mwf {} t.queues = true
  still  : t.still = s.still
  cores  : t.cores = s.cores
  others : ∀ p, p ≠ q → t.queue p = s.queue p

section
variable {s t u : State} {q : QIdx}

theorem OnlyQueue.refl (w : mwf {} s.queues = true) : OnlyQueue q s s := ⟨w, rfl, rfl, fun _ _ => rfl⟩
theorem OnlyQueue.trans (h : OnlyQueue q s t) (k : OnlyQueue q t u) : OnlyQueue q s u :=
  ⟨k.wf, k.still.trans h.still, k.cores.trans h.cores, fun p n => (k.others p n).trans (h.others p n)⟩
theorem OnlyQueue.beside (h : OnlyQueue q s t) (e : u.queues = t.queues) (k : u.still = t.still) (c : u.cores = t.cores) : OnlyQueue q s u :=
  ⟨e ▸ h.wf, k.trans h.still, c.trans h.cores, fun p n => (queue_congr e p).trans (h.others p n)⟩
theorem OnlyQueue.setQueue (h : OnlyQueue q s t) (x : Queue) : OnlyQueue q s (t.setQueue q x) :=
  ⟨mput_wf _ _ h.wf, h.still, h.cores, fun p n => (State.setQueue_queue_ne t q p x n.symm).trans (h.others p n)⟩
theorem OnlyQueue.modQueue (h : OnlyQueue q s t) (f : Queue → Queue) : OnlyQueue q s (t.modQueue q f) := h.setQueue _
theorem OnlyQueue.memory (h : OnlyQueue q s t) : SameMemory s t := sameMemory_of_still h.still
theorem OnlyQueue.start (h : OnlyQueue q s t) : SameStart s t := sameStart_of_still h.still
/-- A part of a hub die that is neither its ledger nor its cuts changes. -/
theorem OnlyQueue.modHub (h : OnlyQueue q s t) (k : Hub) {f : HubSt → HubSt} (hf : ∀ x, (f x).still = x.still) : OnlyQueue q s (t.modHub k f) :=
  h.beside (State.modHub_queues ..) (modHub_still t k hf) (State.modHub_cores ..)

/-! ## Steps of a group (R181, R183) -/

theorem stepEndCheck_only (h : OnlyQueue q s t) (k : Hub) (g : Fin 16) :
    OnlyQueue q s (stepEndCheck t k g) ∧ (stepEndCheck t k g).queues = t.queues := by
  have closed : OnlyQueue q s (t.modGrp k g fun x => { x with st := .awaiting }) := h.modHub k fun _ => rfl
  have queues : (t.modGrp k g fun x => { x with st := .awaiting }).queues = t.queues := State.modGrp_queues ..
  unfold stepEndCheck
  dsimp only
  split
  · split
    · exact ⟨closed.beside rfl rfl rfl, (State.count_queues ..).trans queues⟩
    · exact ⟨closed, queues⟩
  · exact ⟨h, rfl⟩
/-- A queue that leaves the steps of its group is as before but for its membership. -/
theorem leaveSteps_only (h : OnlyQueue q s t) :
    OnlyQueue q s (leaveSteps t q) ∧ ∃ b, (leaveSteps t q).queue q = { t.queue q with stepIn := b } := by
  unfold leaveSteps
  dsimp only
  split
  · obtain ⟨only, queues⟩ := stepEndCheck_only (h.setQueue { t.queue q with stepIn := false }) (qHub q) (t.queue q).stepGrp
    refine ⟨only, false, ?_⟩
    rw [queue_congr queues, State.setQueue_queue t q _ h.wf]
  · exact ⟨h, (t.queue q).stepIn, rfl⟩
/-- One that joins them is as before but for its steps and those of its commands. -/
theorem joinSteps_only (h : OnlyQueue q s t) :
    OnlyQueue q s (joinSteps t q) ∧ ∃ b i j k l, (joinSteps t q).queue q =
      { t.queue q with stepIn := b, segJoin := i, segDone := j, segNext := k, cmds := l } := by
  unfold joinSteps
  dsimp only
  split
  · exact ⟨h, _, _, _, _, _, rfl⟩
  · exact ⟨h.setQueue _, _, _, _, _, _, State.setQueue_queue t q _ h.wf⟩

/-! ## Settling and reset (R156, R557) -/

theorem zeroingCheck_only (h : OnlyQueue q s t) (k : Hub) : OnlyQueue q s (zeroingCheck t k) ∧ (zeroingCheck t k).queues = t.queues := by
  unfold zeroingCheck
  split
  · exact ⟨h.modHub k fun _ => rfl, State.modHub_queues ..⟩
  · exact ⟨h, rfl⟩
theorem partRstCheck_only (h : OnlyQueue q s t) (k : Hub) : OnlyQueue q s (partRstCheck t k) ∧ (partRstCheck t k).queues = t.queues := by
  unfold partRstCheck
  split
  · exact ⟨h.modHub k fun _ => rfl, State.modHub_queues ..⟩
  · exact ⟨h, rfl⟩
/-- What a queue's settling tells its hank and partition. -/
theorem settleChecks_only (h : OnlyQueue q s t) (k : Hub) :
    OnlyQueue q s (partRstCheck (zeroingCheck t k) k) ∧ (partRstCheck (zeroingCheck t k) k).queues = t.queues := by
  obtain ⟨zeroed, e⟩ := zeroingCheck_only h k
  obtain ⟨reset, e'⟩ := partRstCheck_only zeroed k
  exact ⟨reset, e'.trans e⟩

/-- The queue's value at its reset: the doorbell page at its reset values, the descriptor as it stands (R557). -/
def Queue.afterReset (x : Queue) (stepIn : Bool) : Queue :=
  { ctx := x.ctx, bound := x.bound, part := x.part, classFloor := x.classFloor, suspend := x.suspend, stepGrp := x.stepGrp, stepEn := x.stepEn
    lateUntil := x.lateUntil, stepIn := stepIn, segJoin := x.segJoin, segDone := x.segDone }
theorem resetDone_only (h : OnlyQueue q s t) :
    OnlyQueue q s (resetDone t q) ∧ ∃ b, (resetDone t q).queue q = (t.queue q).afterReset b := by
  unfold resetDone
  extract_lets x s1 s2
  have h1 : OnlyQueue q s s1 := h.setQueue _
  have e1 : s1.queue q = x.afterReset x.stepIn := State.setQueue_queue t q _ h.wf
  have e2 : s2.queues = s1.queues := by
    unfold s2
    split <;> rfl
  have h2 : OnlyQueue q s s2 := by
    unfold s2
    split
    · exact h1.beside rfl rfl rfl
    · exact h1
  obtain ⟨only, b, e⟩ := leaveSteps_only h2
  refine ⟨only, b, e.trans ?_⟩
  rw [queue_congr e2, e1]
  rfl

/-- A queue with outstanding commands does not settle. -/
theorem settle_busy (h : (t.queue q).cmds ≠ []) : settle t q = t := by
  unfold settle
  exact if_pos (by simpa using h)
/-- One that runs, stands or is disabled stays as it is. -/
theorem settle_idle (h : OnlyQueue q s t) (hd : (t.queue q).st ≠ .draining) (he : (t.queue q).st ≠ .error) (hr : (t.queue q).st ≠ .reset) :
    OnlyQueue q s (settle t q) ∧ (settle t q).queue q = t.queue q := by
  unfold settle
  extract_lets x s1
  split
  · exact ⟨h, rfl⟩
  · have same : s1 = t := by
      unfold s1
      split
      next e => exact absurd e hd
      next e => exact absurd e he
      next e => exact absurd e hr
      next => rfl
    obtain ⟨only, e⟩ := settleChecks_only h (qHub q)
    rw [same]
    exact ⟨only, queue_congr e q⟩
/-- One that drains and has nothing outstanding is disabled (R156). -/
theorem settle_draining (h : OnlyQueue q s t) (hc : (t.queue q).cmds = []) (hd : (t.queue q).st = .draining) :
    OnlyQueue q s (settle t q) ∧ ∃ b, (settle t q).queue q = { t.queue q with st := .disabled, stepIn := b } := by
  obtain ⟨away, b, e⟩ := leaveSteps_only (h.setQueue { t.queue q with st := .disabled })
  obtain ⟨only, e'⟩ := settleChecks_only away (qHub q)
  rw [State.setQueue_queue t q _ h.wf] at e
  unfold settle
  extract_lets x s1
  have gone : s1 = leaveSteps (t.setQueue q { t.queue q with st := .disabled }) q := by
    unfold s1
    rw [show x.st = .draining from hd]
  rw [if_neg (by simp [x, hc]), gone]
  exact ⟨only, b, (queue_congr e' q).trans e⟩
/-- One in reset is reset (R557). -/
theorem settle_reset (h : OnlyQueue q s t) (hc : (t.queue q).cmds = []) (hr : (t.queue q).st = .reset) :
    OnlyQueue q s (settle t q) ∧ ∃ b, (settle t q).queue q = (t.queue q).afterReset b := by
  obtain ⟨done, b, e⟩ := resetDone_only h
  obtain ⟨only, e'⟩ := settleChecks_only done (qHub q)
  unfold settle
  simp only [hc, hr, List.isEmpty_nil, Bool.not_true, Bool.false_eq_true, if_false]
  exact ⟨only, b, (queue_congr e' q).trans e⟩
end

end Sys2Proof.Machine
end

section
/-!
Writes of a doorbell page: the doorbell, ENABLE, RESUME and QSW_CLR (R144, R152, R154, R156, R157, R175, R176).
-/

namespace Sys2Proof.Machine

section
variable {s t : State} {q : QIdx} {r : Requester}

/-! ## The doorbell (R154, R157) -/

theorem fieldMask_word (o : Nat) (h : o = 0x000 ∨ o = 0x058) : ∀ f ∈ bellFields o, f.mask &&& (2 ^ 32 - 1) = f.mask := by
  rcases h with rfl | rfl <;> decide

/-- A requester that is let in and need not wait writes the doorbell or Q_CTL. -/
theorem regAccess_bellWord {o v : Nat} (ho : o = 0x000 ∨ o = 0x058) (ha : bellAllows s r q = true)
    (hm : mustWait s r false (bellOff q + o) = false) (hv : v < 2 ^ 32) :
    regAccess s r (bellOff q + o) 4 v = bellAct s q { off := o, v := v &&& fieldsMask (bellFields o), wm := fieldsMask (bellFields o) } := by
  have small : o < 4096 ∧ o % 4 = 0 ∧ wide (bellFields (o - o % 8)) = false := by rcases ho with rfl | rfl <;> decide
  rw [regAccess_bell s r q o v small.1 small.2.1 small.2.2 ha hm]
  simp only [mergeFields_word _ _ _ (fieldMask_word o ho), Nat.mod_eq_of_lt hv]

theorem exec_doorbell (hw : Works s) (ha : bellAllows s r q = true) (hm : mustWait s r false (bellOff q) = false) (v : W32) :
    exec (.doorbell r q v) s = .next (ringBell s q v) := by
  have e : regAccess s r (bellOff q) 4 v.toNat = ringBell s q v := by
    refine (regAccess_bellWord (.inl rfl) ha hm v.isLt).trans ?_
    have mask : fieldsMask (bellFields 0x000) = 2 ^ 32 - 1 := by decide
    unfold bellAct
    simp only [mask, Nat.and_two_pow_sub_one_eq_mod, Nat.mod_eq_of_lt v.isLt, BitVec.ofNat_toNat, BitVec.setWidth_eq]
    rfl
  exact congrArg Host.Outcome.next ((whenAlive_of_works hw _).trans e)

/-! ## Queue errors (R157, R160) -/

theorem queueIrq_beside (s : State) (q : QIdx) : (queueIrq s q).queues = s.queues ∧ (queueIrq s q).still = s.still := by
  unfold queueIrq
  dsimp only
  split
  · exact ⟨(raiseMsix_notices ..).queues, notices_still (raiseMsix_notices ..)⟩
  · exact ⟨rfl, rfl⟩
theorem leaveWait_shell (x : Queue) (now : Nat) : (x.leaveWait now).shell = x.shell := by
  unfold Queue.leaveWait
  split <;> rfl
theorem leaveWait_nil {x : Queue} (h : x.cmds = []) (now : Nat) : (x.leaveWait now).cmds = [] := by
  unfold Queue.leaveWait
  split
  · exact h
  · simp [h]
/-- A queue error: ERROR and its code; the ring's numbers stay, a command in FAULT_WAIT goes on waiting. -/
theorem queueError_frame (w : mwf {} s.queues = true) (hr : (s.queue q).st ≠ .reset) (code : Nat) (seq : W32) (idx : BitVec 16) (st cause va : Nat) :
    let t := queueError s q code seq idx st cause va
    (t.queue q).st = .error ∧ (t.queue q).err = code ∧ (t.queue q).prod = (s.queue q).prod ∧ (t.queue q).cons = (s.queue q).cons ∧
      (t.queue q).cmds = ((s.queue q).leaveWait s.now).cmds ∧ (∀ p, p ≠ q → t.queue p = s.queue p) ∧ SameMemory s t := by
  have shell := leaveWait_shell (s.queue q) s.now
  unfold queueError
  extract_lets x s1 s2 t
  have h1 : s1.queue q = { x with st := if x.st = .reset then .reset else .error, err := code, fiSeq := seq, fiIdx := idx, fiCause := cause,
                                  fiStatus := st, fiVa := BitVec.ofNat 64 va } := State.setQueue_queue s q _ w
  have h2 : Notices s1 s2 := report_notices ..
  have ht : t.queues = s1.queues ∧ t.still = s.still := by
    unfold t
    split
    · exact ⟨(queueIrq_beside s2 q).1.trans h2.queues, (queueIrq_beside s2 q).2.trans ((notices_still h2).trans rfl)⟩
    · exact ⟨h2.queues, (notices_still h2).trans rfl⟩
  have error : (if x.st = .reset then QState.reset else .error) = .error := if_neg ((congrArg Queue.st shell :) ▸ hr)
  rw [queue_congr ht.1, h1, error]
  exact ⟨rfl, rfl, (congrArg Queue.prod shell :), (congrArg Queue.cons shell :), rfl,
    fun p n => (queue_congr ht.1 p).trans (State.setQueue_queue_ne s q p _ n.symm), sameMemory_of_still ht.2⟩

/-- Settles O15: a doorbell write is `ringBell`, whose branches are the rule's; beyond the ring it is a queue error. -/
theorem doorbellWrite : Obligations.DoorbellWrite := by
  intro s r q v hw w ha hm
  rw [exec_doorbell hw ha hm]
  refine ⟨fun hs h0 hd hv => ?_, fun hs hd => ?_, fun hs h0 => ?_, fun hs => ?_, fun hs h0 hd hv => ⟨_, rfl, ?_⟩, ?_⟩
  · rw [ringBell, if_neg hs, if_neg h0, if_neg (Nat.not_lt.2 hd), if_pos hv]
  · rw [ringBell, if_neg hs, if_neg (Nat.ne_of_gt (Nat.lt_trans (by decide) hd)), if_pos hd]
  · rw [ringBell, if_neg hs, if_pos h0]
  · rw [ringBell, if_pos hs]
  · rw [ringBell, if_neg hs, if_neg h0, if_neg (Nat.not_lt.2 hd), if_neg (Nat.not_le.2 hv)]
    exact queueError_frame w hs errOverflow v 0 0 0 0
  · obtain ⟨-, b, e⟩ := resetDone_only (OnlyQueue.refl (q := q) w)
    rw [e]
    rfl
end

/-! ## Q_CTL (R152, R156, R175) -/

section
variable {s t : State} {q : QIdx} {r : Requester}

/-- RESUME_ACT and QSW_CLR as a write of Q_CTL leaves them. -/
def ctlFlags (s : State) (q : QIdx) (act clr : Bool) : State :=
  let s := s.modQueue q fun x => { x with resumeAct := act }
  if clr then s.modQueue q fun x => { x with refuseSeen := 0 } else s
/-- What ENABLE does as it is written. -/
def ctlEnable (s : State) (q : QIdx) (en : Bool) : State :=
  if en then (if (s.queue q).enable ∧ (s.queue q).st ≠ .disabled then s else enableQueue s q) else disableQueue s q

/-- A write of Q_CTL: the flags, then RESUME, then ENABLE. -/
theorem qCtl_eq (ha : bellAllows s r q = true) (hm : mustWait s r false (bellOff q + 0x058) = false) (en resume act clr : Bool) :
    qCtl s r q en resume act clr =
      ctlEnable (if resume then resumeQueue (ctlFlags s q act clr) q else ctlFlags s q act clr) q en := by
  have bits : ∀ a b c d : Bool,
      (∀ i < 4, bit (fieldsMask (bellFields 0x058)) i = true) ∧ b2n a + 2 * b2n b + 4 * b2n c + 8 * b2n d < 2 ^ 32 ∧
        bit (b2n a + 2 * b2n b + 4 * b2n c + 8 * b2n d) 0 = a ∧ bit (b2n a + 2 * b2n b + 4 * b2n c + 8 * b2n d) 1 = b ∧
        bit (b2n a + 2 * b2n b + 4 * b2n c + 8 * b2n d) 2 = c ∧ bit (b2n a + 2 * b2n b + 4 * b2n c + 8 * b2n d) 3 = d := by decide
  obtain ⟨covered, small, b0, b1, b2, b3⟩ := bits en resume act clr
  unfold qCtl
  rw [regAccess_bellWord (.inr rfl) ha hm small]
  have c0 := covered 0 (by decide)
  have c1 := covered 1 (by decide)
  have c2 := covered 2 (by decide)
  have c3 := covered 3 (by decide)
  have mask : fieldsMask (bellFields 0x058) ≠ 0 := by decide
  unfold bellAct
  simp only [mask, if_false, Nat.reduceEqDiff, if_true, Wr.sets, Wr.hits, bit_and_of_covered c0, bit_and_of_covered c1, bit_and_of_covered c2,
    bit_and_of_covered c3, c0, c1, c3, b0, b1, b2, b3, Bool.true_and]
  rfl
end

end Sys2Proof.Machine
end

section
/-!
ENABLE, RESUME, QSW_CLR and the queue reset, each as a change of one queue (R144, R152, R156, R157, R175, R176, R557).
-/

namespace Sys2Proof.Machine

section
variable {s t : State} {q : QIdx} {r : Requester}

/-! ## The flags of Q_CTL -/

theorem ctlFlags_only (w : mwf {} s.queues = true) (act clr : Bool) :
    OnlyQueue q s (ctlFlags s q act clr) ∧ (ctlFlags s q act clr).queue q =
      { s.queue q with resumeAct := act, refuseSeen := if clr then 0 else (s.queue q).refuseSeen } := by
  have h := (OnlyQueue.refl (q := q) w).modQueue fun x => { x with resumeAct := act }
  have e := State.modQueue_queue s q (fun x => { x with resumeAct := act }) w
  unfold ctlFlags
  extract_lets s1
  cases clr
  case false => exact ⟨h, e⟩
  case true =>
    rw [if_pos rfl]
    refine ⟨h.modQueue _, ?_⟩
    rw [State.modQueue_queue s1 q _ h.wf, e]
    rfl

/-- ENABLE written 1 to a queue that has it and is not disabled changes nothing. -/
theorem ctlEnable_enabled (he : (t.queue q).enable = true) (hd : (t.queue q).st ≠ .disabled) : ctlEnable t q true = t := by
  rw [ctlEnable, if_pos rfl, if_pos ⟨he, hd⟩]

/-! ## ENABLE written 1 (R144, R156) -/

/-- Whether a queue may be enabled does not depend on its control flags. -/
theorem enableOk_congr {act en : Bool} {seen : BitVec 3} (hub : ∀ h, t.hub h = s.hub h)
    (e : t.queue q = { s.queue q with resumeAct := act, refuseSeen := seen, enable := en }) : enableOk t q = enableOk s q := by
  unfold enableOk hankOwner
  dsimp only
  rw [hub, e]
  rfl
theorem enableQueue_frame (w : mwf {} s.queues = true) (hd : (s.queue q).st = .disabled) :
    OnlyQueue q s (enableQueue s q) ∧ ((enableQueue s q).queue q).enable = true ∧
      if enableOk (s.setQueue q { s.queue q with enable := true }) q then ((enableQueue s q).queue q).st = .running ∧ ((enableQueue s q).queue q).err = 0
      else ((enableQueue s q).queue q).st = .disabled ∧ ((enableQueue s q).queue q).err = 4 := by
  have h := (OnlyQueue.refl (q := q) w).setQueue { s.queue q with enable := true }
  unfold enableQueue
  extract_lets y x s1
  rw [if_neg (by simp [x, y, hd])]
  split
  next =>
    obtain ⟨only, b, i, j, k, l, e⟩ := joinSteps_only (h.setQueue { x with st := .running, err := 0 })
    rw [State.setQueue_queue _ q _ h.wf] at e
    refine ⟨only, by rw [e], ?_⟩
    rw [e]
    exact ⟨rfl, rfl⟩
  next =>
    have e := State.setQueue_queue s1 q { x with err := errConfig } h.wf
    refine ⟨h.setQueue _, by rw [e], ?_⟩
    rw [e]
    exact ⟨hd, rfl⟩

/-! ## ENABLE written 0 (R156) -/

theorem leaveWait_flags (x : Queue) (now : Nat) (act : Bool) (seen : BitVec 3) :
    ({ x with resumeAct := act, refuseSeen := seen } : Queue).leaveWait now = { x.leaveWait now with resumeAct := act, refuseSeen := seen } := by
  unfold Queue.leaveWait
  split <;> rfl
theorem leaveWait_cmds_nil (x : Queue) (now : Nat) : (x.leaveWait now).cmds = [] ↔ x.cmds = [] := by
  unfold Queue.leaveWait
  split
  · rfl
  · exact List.map_eq_nil_iff
theorem disableQueue_frame (w : mwf {} s.queues = true)
    (hs : (s.queue q).st = .running ∨ (s.queue q).st = .halted ∨ (s.queue q).st = .faultWait) :
    OnlyQueue q s (disableQueue s q) ∧ ((disableQueue s q).queue q).enable = false ∧
      ((disableQueue s q).queue q).cmds = ((s.queue q).leaveWait s.now).cmds ∧
      ((disableQueue s q).queue q).st = (if (s.queue q).cmds = [] then .disabled else .draining) := by
  have shell := leaveWait_shell (s.queue q) s.now
  have st : ((s.queue q).leaveWait s.now).st = (s.queue q).st := (congrArg Queue.st shell :)
  have h (x : Queue) := (OnlyQueue.refl (q := q) w).setQueue x
  unfold disableQueue
  extract_lets x st'
  have drains : st' = .draining := by
    unfold st' x
    rw [st]
    rcases hs with e | e | e <;> rw [e]
  have e := State.setQueue_queue s q { x with enable := false, st := st' } w
  by_cases hc : (s.queue q).cmds = []
  · have idle : ((s.setQueue q { x with enable := false, st := st' }).queue q).cmds = [] := by
      rw [e]
      exact leaveWait_nil hc _
    obtain ⟨only, b, e'⟩ := settle_draining (h _) idle (by rw [e, drains])
    rw [e', e, if_pos hc]
    exact ⟨only, rfl, rfl, rfl⟩
  · have busy : ((s.setQueue q { x with enable := false, st := st' }).queue q).cmds ≠ [] := by
      rw [e]
      exact mt (leaveWait_cmds_nil _ _).1 hc
    rw [settle_busy busy, e, if_neg hc]
    exact ⟨h _, rfl, rfl, drains⟩

/-! ## RESUME (R175, R176) -/

/-- A halted queue of which no command waits in FAULT_WAIT runs on. -/
theorem resumeQueue_halted (w : mwf {} s.queues = true) (he : (s.queue q).enable = true) (hs : (s.queue q).st = .halted)
    (hc : ∀ c ∈ (s.queue q).cmds, c.phase ≠ .faultWait) :
    let t := resumeQueue s q
    (t.queue q).st = .running ∧ (t.queue q).enable = true ∧ (t.queue q).cons = (s.queue q).cons ∧ (t.queue q).done = (s.queue q).done ∧
      SameMemory s t ∧ SameStart s t := by
  have none_waits : ((s.queue q).cmds.any fun c => decide (c.phase = .faultWait)) = false := by simpa using hc
  have e : resumeQueue s q = gateReady (settle (s.setQueue q { s.queue q with st := .running }) q) q := by
    unfold resumeQueue
    simp only [none_waits, Bool.false_eq_true, if_false, hs, if_true, runState, he]
  have h := (OnlyQueue.refl (q := q) w).setQueue { s.queue q with st := .running }
  have run := State.setQueue_queue s q { s.queue q with st := .running } w
  obtain ⟨only, same⟩ := settle_idle h (by rw [run]; simp) (by rw [run]; simp) (by rw [run]; simp)
  have gate := gateReady_shells only.wf q
  have gated := gateReady_gated (settle (s.setQueue q { s.queue q with st := .running }) q) q
  dsimp only
  rw [e, gate.st, gate.enable, gate.cons, gate.done, same, run]
  exact ⟨rfl, he, rfl, rfl, only.memory.trans (sameMemory_of_gated gated), only.start.trans (sameStart_of_gated gated)⟩

/-- The commands of a queue that leaves FAULT_WAIT differ from before in their accounts of delays alone. -/
theorem leaveWait_cmds (x : Queue) (now : Nat) : ∃ f : Cmd → Cmd, (x.leaveWait now).cmds = x.cmds.map f ∧
    ∀ c, (f c).seq = c.seq ∧ (f c).phase = c.phase ∧ (f c).prog = c.prog ∧ (f c).fidx = c.fidx ∧ (f c).body = c.body := by
  unfold Queue.leaveWait
  split
  · exact ⟨id, by simp, fun _ => ⟨rfl, rfl, rfl, rfl, rfl⟩⟩
  · refine ⟨_, rfl, fun c => ?_⟩
    have core := endStall_core c now
    have book := endStall_book c now
    split
    · exact ⟨(congrArg Prod.fst core :), (congrArg (fun x => x.2.1) core :), (congrArg Cmd.prog book :), (congrArg Cmd.fidx book :),
        (congrArg Cmd.body book :)⟩
    · split <;> exact ⟨rfl, rfl, rfl, rfl, rfl⟩
/-- What the command that waited in FAULT_WAIT becomes when it is taken up again (R176). -/
def Retried (c d : Cmd) : Prop :=
  d.phase = .running ∧ d.status = .ok ∧ d.prog = (if c.fidx = 0xFFFF then c.prog else c.fidx.toNat) ∧ d.body = c.body
/-- A command that waits in FAULT_WAIT, taken up from the element that faulted. -/
def Cmd.retried (c : Cmd) : Cmd :=
  { c with phase := .running, waiting := true, status := .ok, cause := 0, fidx := 0xFFFF
           prog := if c.fidx = 0xFFFF then c.prog else c.fidx.toNat }
theorem faultRetry_frame {c : Cmd} (w : mwf {} s.queues = true) (he : (s.queue q).enable = true) (hs : (s.queue q).st = .faultWait)
    (hc : ((s.queue q).cmds.find? fun c => decide (c.phase = .faultWait)) = some c) :
    OnlyQueue q s (faultRetry s q) ∧ ((faultRetry s q).queue q).st = .running ∧ ((faultRetry s q).queue q).enable = true ∧
      ∃ d, findCmd (faultRetry s q) q c.seq = some d ∧ Retried c d := by
  obtain ⟨f, cmds, hf⟩ := leaveWait_cmds (s.queue q) s.now
  have shell := leaveWait_shell (s.queue q) s.now
  have en : ((s.queue q).leaveWait s.now).enable = true := (congrArg Queue.enable shell :).trans he
  have ended : (endWaitState s q).queue q = { (s.queue q).leaveWait s.now with st := .running } := by
    refine (State.modQueue_queue s q _ w).trans ?_
    simp only [hs, runState, he, if_true]
  have only : OnlyQueue q s (endWaitState s q) := (OnlyQueue.refl w).modQueue _
  have same_phase : (fun c : Cmd => decide (c.phase = .faultWait)) ∘ f = fun c => decide (c.phase = .faultWait) := by
    funext y
    simp only [Function.comp_apply, (hf y).2.1]
  have waits : (((endWaitState s q).queue q).cmds.find? fun c => decide (c.phase = .faultWait)) = some (f c) := by
    rw [ended]
    dsimp only
    rw [cmds, List.find?_map, same_phase, hc, Option.map_some]
  obtain ⟨seq, -, prog, fidx, body⟩ := hf c
  have put := putCmd_allNumbered (q := q) (d := (f c).retried) (Q := Retried c) only.wf ⟨f c, List.mem_of_find?_eq_some waits, rfl⟩
    ⟨rfl, rfl, by rw [Cmd.retried, prog, fidx], body⟩
  have kept := (ShellsKept.refl only.wf).putCmd q (f c).retried
  have e : faultRetry s q = putCmd (endWaitState s q) q (f c).retried := by
    unfold faultRetry
    dsimp only
    rw [waits]
    rfl
  rw [show (f c).retried.seq = c.seq from seq] at put
  rw [e, kept.st, kept.enable, ended]
  exact ⟨only.modQueue _, rfl, en, put.find⟩
end

end Sys2Proof.Machine
end

section
/-!
The reset of a queue with nothing outstanding (R557), and the queue control statement.
-/

namespace Sys2Proof.Machine

section
variable {s t : State} {q : QIdx} {r : Requester}

/-! ## The queue manager's page -/

/-- The die of a queue, with its queue manager's page. -/
theorem qmPage_cases (q : QIdx) : ∃ (d : DieId) (i : Nat), i < 4096 ∧ d.val = qDie q ∧ qmPage q = pgKey d.val i ∧ pageAt d.val i = .qm d := by
  have hubPages : ∀ d : DieId, d.val < 2 → pageAt d.val ixQmh = .qm d := by decide
  have tensorPages : ∀ d : DieId, 4 ≤ d.val → pageAt d.val ixQmt = .qm d := by decide
  have hq : q.val < 1024 := q.isLt
  by_cases hub : q.val < 128
  · have small : qDie q < 2 := by unfold qDie; split <;> simp
    exact ⟨⟨qDie q, by omega⟩, ixQmh, by decide, rfl, if_pos hub, hubPages _ small⟩
  · have tensor : 4 ≤ qDie q ∧ qDie q < 12 := by
      unfold qDie tDie
      rw [if_neg (by omega), if_neg hub]
      omega
    exact ⟨⟨qDie q, tensor.2⟩, ixQmt, by decide, rfl, if_neg hub, tensorPages _ tensor.1⟩
theorem qLocal_lt (q : QIdx) : qLocal q < 128 := by
  unfold qLocal
  split
  · omega
  · split <;> omega
/-- A queue is found by its die and its local index. -/
theorem queueAt_qLocal (q : QIdx) : queueAt (qDie q) (qLocal q) = some q := by
  have hq : q.val < 1024 := q.isLt
  have value : (if qDie q < 2 then 64 * qDie q + qLocal q else 128 + 112 * (qDie q - 4) + qLocal q) = q.val := by
    unfold qDie qLocal tDie
    split_ifs <;> omega
  have bound : (qDie q < 2 ∧ qLocal q < 64) ∨ (4 ≤ qDie q ∧ qDie q < 12 ∧ qLocal q < 112) := by
    unfold qDie qLocal tDie
    split_ifs <;> omega
  unfold queueAt
  simp only [value]
  rw [dif_pos hq, if_pos bound]

/-! ## The reset (R557) -/

theorem completeOne_idle (hc : (s.queue q).cmds = []) (hr : (s.queue q).st ≠ .reset) : completeOne s q = s := by
  simp [completeOne, hc, hr]
theorem completeAll_idle (hc : (s.queue q).cmds = []) (hr : (s.queue q).st ≠ .reset) (n : Nat) : completeAll s q n = s := by
  cases n with
  | zero => rfl
  | succ n => simp [completeAll, completeOne_idle hc hr]
/-- Without commands, completion in RESET is the end of the reset. -/
theorem completeAll_reset (w : mwf {} s.queues = true) (hc : (s.queue q).cmds = []) (hr : (s.queue q).st = .reset) (n : Nat) :
    completeAll s q (n + 1) = settle s q := by
  obtain ⟨-, b, e⟩ := settle_reset (OnlyQueue.refl (q := q) w) hc hr
  have one : completeOne s q = settle s q := by simp [completeOne, hc, hr]
  unfold completeAll
  dsimp only
  rw [one]
  split
  · rfl
  · exact completeAll_idle (by rw [e]; rfl) (by rw [e]; exact QState.noConfusion) n
theorem afterReset_congr {x y : Queue} (h : y.shell = x.shell) (a b : Bool) (st : QState) :
    Queue.afterReset { y with st := st, stepIn := a } b = x.afterReset b := by
  unfold Queue.afterReset
  rw [show y.ctx = x.ctx from (congrArg Queue.ctx h :), show y.bound = x.bound from (congrArg Queue.bound h :),
    show y.part = x.part from (congrArg Queue.part h :), show y.classFloor = x.classFloor from (congrArg Queue.classFloor h :),
    show y.suspend = x.suspend from (congrArg Queue.suspend h :), show y.stepGrp = x.stepGrp from (congrArg Queue.stepGrp h :),
    show y.stepEn = x.stepEn from (congrArg Queue.stepEn h :), show y.lateUntil = x.lateUntil from (congrArg Queue.lateUntil h :),
    show y.segJoin = x.segJoin from (congrArg Queue.segJoin h :), show y.segDone = x.segDone from (congrArg Queue.segDone h :)]
/-- A queue with nothing outstanding is reset at once. -/
theorem queueReset_idle (w : mwf {} s.queues = true) (hd : s.doff.stopped = false) (hc : (s.queue q).cmds = []) :
    OnlyQueue q s (queueReset s q) ∧ ∃ b, (queueReset s q).queue q = (s.queue q).afterReset b := by
  have e1 : (s.modQueue q fun x => { x.leaveWait s.now with st := .reset }).queue q = { (s.queue q).leaveWait s.now with st := .reset } :=
    State.modQueue_queue s q _ w
  obtain ⟨only, b, e⟩ := leaveSteps_only ((OnlyQueue.refl (q := q) w).modQueue fun x => { x.leaveWait s.now with st := .reset })
  rw [e1] at e
  unfold queueReset
  rw [hd, if_neg Bool.false_ne_true]
  dsimp only
  generalize leaveSteps (s.modQueue q fun x => { x.leaveWait s.now with st := .reset }) q = u at only e
  have empty : (u.queue q).cmds = [] := by
    rw [e]
    exact leaveWait_nil hc s.now
  have reset : (u.queue q).st = .reset := by rw [e]
  have stopped : stopAll u q .timeout cTimeout = u := by simp [stopAll, empty]
  obtain ⟨done, k, e'⟩ := settle_reset only empty reset
  have settled : (settle u q).queue q = (s.queue q).afterReset k := e'.trans (by rw [e]; exact afterReset_congr (leaveWait_shell _ _) b k _)
  have disabled : ((settle u q).queue q).st = .disabled := by rw [settled]; rfl
  obtain ⟨idle, same⟩ := settle_idle done (by simp [disabled]) (by simp [disabled]) (by simp [disabled])
  rw [stopped, completeAll_reset only.wf empty reset 255]
  exact ⟨idle, k, same.trans settled⟩

/-- The bits of the reset register: the queue's local index, and the start. -/
theorem qmResetMask (d : DieId) : fieldsMask (fieldsOf (.qm d) 0x110) = 0x8000007F := rfl
theorem qmReset_bits {v : Nat} (h : v < 128) :
    bits ((v + 2 ^ 31) &&& 0x8000007F) 0 7 = v ∧ bit ((v + 2 ^ 31) &&& 0x8000007F) 31 = true := by
  constructor
  · rw [bits_and_of_covered (by decide)]
    simp only [bits, Nat.shiftRight_zero]
    omega
  · rw [bit_and_of_covered (by decide), bit, Nat.add_comm, Nat.testBit_two_pow_add_eq, Nat.testBit_lt_two_pow (by omega)]
    rfl
/-- The state in which the reset of a queue begins. -/
def resetRuns (s : State) (q : QIdx) : State :=
  { s with qrst := mput 0 (qDie q) (qLocal q) s.qrst, qrstRun := mput 0 (qDie q) (q.val + 1) s.qrstRun }
/-- The write of the reset register resets the queue that it names, where no reset runs on the die. -/
theorem qmAct_reset {d : DieId} (hd : d.val = qDie q) (w : mwf 0 s.qrst = true) (hr : mget 0 s.qrstRun (qDie q) = 0) (hs : s.doff.stopped = false)
    (hq : (s.queue q).st ≠ .reset) :
    qmAct s d 0 { off := 0x110, v := (qLocal q + 2 ^ 31) &&& 0x8000007F, wm := 0x8000007F } = queueReset (resetRuns s q) q := by
  obtain ⟨index, start⟩ := qmReset_bits (qLocal_lt q)
  have low : Wr.hits { off := 0x110, v := (qLocal q + 2 ^ 31) &&& 0x8000007F, wm := 0x8000007F } 0 = true := show bit 0x8000007F 0 = true by decide
  have sets : Wr.sets { off := 0x110, v := (qLocal q + 2 ^ 31) &&& 0x8000007F, wm := 0x8000007F } 31 = true := by
    rw [Wr.sets, start, Bool.and_true]
    exact show bit 0x8000007F 31 = true by decide
  have f : Wr.f { off := 0x110, v := (qLocal q + 2 ^ 31) &&& 0x8000007F, wm := 0x8000007F } 0 7 = qLocal q := index
  have quiet : ¬ (s.doff.stopped = true ∨ (s.queue q).st = .reset) := by simp [hs, hq]
  unfold qmAct
  simp only [low, sets, f, hd, if_true, mget_mput_self _ _ w, queueAt_qLocal, hr, and_self]
  exact if_neg quiet
/-- Prostoza's 4-byte write of a register of at most 32 bits of a block page of any die, whose fields take v where their bits lie. -/
theorem pageAccess_word (d : DieId) (i o v : Nat) (hi : i < 4096) (ho : o < 4096) (h4 : o % 4 = 0) (k : PageKind) (hk : pageAt d.val i = k)
    (hw : wide (fieldsOf k (o - o % 8)) = false) (hm : mustWait s .prostoza false (pgOff (pgKey d.val i) + o) = false) (hb : 0x100 ≤ o)
    (hv : v < 2 ^ 32) (hf : ∀ f ∈ fieldsOf k o, f.mask &&& (2 ^ 32 - 1) = f.mask) :
    pageAccess s .prostoza (pgKey d.val i) o 4 v =
      blockAct s k 0 (ledCtx s (dieHub d.val) (.self .prostoza)) [] { off := o, v := v &&& fieldsMask (fieldsOf k o), wm := fieldsMask (fieldsOf k o) } := by
  rw [pageAccess_prostoza s d i o v hi ho h4 k hk hw hm]
  simp only [mergeFields_word _ _ _ hf, Nat.mod_eq_of_lt hv, if_neg (Nat.not_lt.2 hb)]
theorem qmResetFields (d : DieId) : ∀ f ∈ fieldsOf (.qm d) 0x110, f.mask &&& (2 ^ 32 - 1) = f.mask := by
  rw [show fieldsOf (.qm d) 0x110 = [rw 0 7 .mgmt, ac 31 1 .mgmt] from rfl]
  decide
theorem mustWait_toTime (s : State) (t : Nat) (r : Requester) (rd : Bool) (o : Nat) : mustWait (s.toTime t) r rd o = mustWait s r rd o := rfl
/-- Prostoza's write of the reset register of the die of a queue. -/
theorem pageAccess_qmReset (s : State) (q : QIdx) {v : Nat} (hv : v < 2 ^ 32) (hm : mustWait s .prostoza false (pgOff (qmPage q) + 0x110) = false) :
    ∃ d : DieId, d.val = qDie q ∧
      pageAccess s .prostoza (qmPage q) 0x110 4 v = qmAct s d 0 { off := 0x110, v := v &&& 0x8000007F, wm := 0x8000007F } := by
  obtain ⟨d, i, hi, hd, hp, hk⟩ := qmPage_cases q
  rw [hp] at hm ⊢
  refine ⟨d, hd, ?_⟩
  rw [pageAccess_word d i 0x110 v hi (by decide) (by decide) (.qm d) hk rfl hm (by decide) hv (qmResetFields d), qmResetMask]
  rfl
theorem exec_qmQrst (hw : Works s) (t : Nat) (w : mwf 0 s.qrst = true) (hr : mget 0 s.qrstRun (qDie q) = 0) (hs : s.doff.stopped = false)
    (hq : (s.queue q).st ≠ .reset) (hm : mustWait s .prostoza false (pgOff (qmPage q) + 0x110) = false) :
    exec (.qmQrst .prostoza q t) s = .next (queueReset (resetRuns (s.toTime t) q) q) := by
  have small : qLocal q + 2 ^ 31 < 2 ^ 32 := Nat.add_lt_add_right (Nat.lt_trans (qLocal_lt q) (by decide)) _
  rw [← mustWait_toTime s t] at hm
  obtain ⟨d, hd, page⟩ := pageAccess_qmReset (s.toTime t) q small hm
  exact (onwardAt_of_works hw t _).trans (congrArg _ (page.trans (qmAct_reset (s := s.toTime t) hd w hr hs hq)))
end

/-! ## The statement -/

section
variable {s : State} {q : QIdx} {r : Requester}

theorem exec_queueEnable (hw : Works s) (ha : bellAllows s r q = true) (hm : mustWait s r false (bellOff q + 0x058) = false) :
    exec (.queueEnable r q) s = .next (ctlEnable (ctlFlags s q (s.queue q).resumeAct false) q true) :=
  congrArg Host.Outcome.next ((whenAlive_of_works hw _).trans (qCtl_eq ha hm true false (s.queue q).resumeAct false))
theorem exec_queueDisable (hw : Works s) (ha : bellAllows s r q = true) (hm : mustWait s r false (bellOff q + 0x058) = false) :
    exec (.queueDisable r q) s = .next (ctlEnable (ctlFlags s q (s.queue q).resumeAct false) q false) :=
  congrArg Host.Outcome.next ((whenAlive_of_works hw _).trans (qCtl_eq ha hm false false (s.queue q).resumeAct false))
theorem exec_queueResume (hw : Works s) (ha : bellAllows s r q = true) (hm : mustWait s r false (bellOff q + 0x058) = false)
    (he : (s.queue q).enable = true) :
    exec (.queueResume r q) s = .next (ctlEnable (resumeQueue (ctlFlags s q (s.queue q).resumeAct false) q) q true) := by
  refine congrArg Host.Outcome.next ((whenAlive_of_works hw _).trans ?_)
  rw [qCtl_eq ha hm, he, if_pos rfl]
theorem exec_faultWaitRetry (hw : Works s) (ha : bellAllows s r q = true) (hm : mustWait s r false (bellOff q + 0x058) = false)
    (he : (s.queue q).enable = true) (t : Nat) :
    exec (.faultWaitRetry r q t) s = .next (ctlEnable (resumeQueue (ctlFlags (s.toTime t) q false false) q) q true) := by
  have en : ((s.toTime t).queue q).enable = true := he
  refine (onwardAt_of_works hw t _).trans (congrArg _ ?_)
  rw [qCtl_eq (s := s.toTime t) ha hm, en, if_pos rfl]
theorem exec_qswClr (hw : Works s) (ha : bellAllows s r q = true) (hm : mustWait s r false (bellOff q + 0x058) = false)
    (he : (s.queue q).enable = true) : exec (.qswClr r q) s = .next (ctlEnable (ctlFlags s q (s.queue q).resumeAct true) q true) := by
  refine congrArg Host.Outcome.next ((whenAlive_of_works hw _).trans ?_)
  rw [qCtl_eq ha hm, he, if_neg Bool.false_ne_true]

theorem queueEnable_frame (w : mwf {} s.queues = true) (hd : (s.queue q).st = .disabled) (act : Bool) :
    let t := ctlEnable (ctlFlags s q act false) q true
    OnlyQueue q s t ∧ (t.queue q).enable = true ∧
      if enableOk s q then (t.queue q).st = .running ∧ (t.queue q).err = 0 else (t.queue q).st = .disabled ∧ (t.queue q).err = 4 := by
  obtain ⟨flags, e⟩ := ctlFlags_only (q := q) w act false
  have disabled : ((ctlFlags s q act false).queue q).st = .disabled := by rw [e]; exact hd
  obtain ⟨only, en, out⟩ := enableQueue_frame flags.wf disabled
  have same : enableOk ((ctlFlags s q act false).setQueue q { (ctlFlags s q act false).queue q with enable := true }) q = enableOk s q :=
    enableOk_congr (act := act) (en := true) (seen := (s.queue q).refuseSeen) (fun _ => rfl)
      ((State.setQueue_queue _ q _ flags.wf).trans (by rw [e]; rfl))
  rw [same] at out
  dsimp only
  rw [ctlEnable, if_pos rfl, if_neg (by simp [disabled])]
  exact ⟨flags.trans only, en, out⟩
theorem queueDisable_frame (w : mwf {} s.queues = true) (hs : (s.queue q).st = .running ∨ (s.queue q).st = .halted ∨ (s.queue q).st = .faultWait)
    (act : Bool) :
    let t := ctlEnable (ctlFlags s q act false) q false
    OnlyQueue q s t ∧ (t.queue q).enable = false ∧ (t.queue q).cmds = ((s.queue q).leaveWait s.now).cmds ∧
      (t.queue q).st = (if (s.queue q).cmds = [] then .disabled else .draining) := by
  obtain ⟨flags, e⟩ := ctlFlags_only (q := q) w act false
  have now : (ctlFlags s q act false).now = s.now := (congrArg State.now flags.still :)
  obtain ⟨only, en, cmds, st⟩ := disableQueue_frame (s := ctlFlags s q act false) (q := q) flags.wf (by rw [e]; exact hs)
  rw [e, now] at cmds
  rw [e] at st
  exact ⟨flags.trans only, en, cmds.trans (by rw [leaveWait_flags]), st⟩
end

/-- Settles O17: each write of Q_CTL by the frame of what it does, the reset by `queueReset_idle`. -/
theorem queueControl : Obligations.QueueControl := by
  refine ⟨fun s r q hw hc ha hm => ⟨fun hd => ?_, fun hs => ?_⟩, fun s r q hw hc ha he hm => ⟨fun hs hn => ?_, fun t c hs hf hfc => ?_, fun hd => ?_⟩,
    fun s q t hw hc hn hr hs hrun hm => ?_⟩
  · obtain ⟨only, en, out⟩ := queueEnable_frame (q := q) hc.queues hd (s.queue q).resumeAct
    exact ⟨_, exec_queueEnable hw ha hm, en, out, only.others, only.memory, only.start, only.cores⟩
  · obtain ⟨only, en, cmds, st⟩ := queueDisable_frame (q := q) hc.queues hs (s.queue q).resumeAct
    exact ⟨_, exec_queueDisable hw ha hm, en, cmds, st, only.others, only.memory, only.start, only.cores⟩
  · obtain ⟨flags, e⟩ := ctlFlags_only (q := q) hc.queues (s.queue q).resumeAct false
    obtain ⟨st, en, cons, done, hmem, hstart⟩ := resumeQueue_halted (s := ctlFlags s q (s.queue q).resumeAct false) (q := q) flags.wf
      (by rw [e]; exact he) (by rw [e]; exact hs) (by rw [e]; exact hn)
    rw [e] at cons done
    refine ⟨_, exec_queueResume hw ha hm he, ?_⟩
    rw [ctlEnable_enabled en (by simp [st])]
    exact ⟨st, cons, done, flags.memory.trans hmem, flags.start.trans hstart⟩
  · obtain ⟨flags, e⟩ := ctlFlags_only (s := s.toTime t) (q := q) hc.queues false false
    have waits : (((ctlFlags (s.toTime t) q false false).queue q).cmds.find? fun c => decide (c.phase = .faultWait)) = some c := by
      rw [e]
      exact hf
    obtain ⟨only, st, en, d, hd, retried⟩ := faultRetry_frame (s := ctlFlags (s.toTime t) q false false) (q := q) flags.wf
      (by rw [e]; exact he) (by rw [e]; exact hs) waits
    have resumed : resumeQueue (ctlFlags (s.toTime t) q false false) q = faultRetry (ctlFlags (s.toTime t) q false false) q := by
      have any : (((ctlFlags (s.toTime t) q false false).queue q).cmds.any fun c => decide (c.phase = .faultWait)) = true :=
        List.any_eq_true.2 ⟨c, List.mem_of_find?_eq_some waits, by simpa using List.find?_some waits⟩
      unfold resumeQueue
      rw [if_pos any, if_neg (by rw [e]; exact Bool.false_ne_true)]
    obtain ⟨running, ok, prog, body⟩ := retried
    have whole := flags.trans only
    refine ⟨_, d, exec_faultWaitRetry hw ha hm he t, ?_⟩
    rw [resumed, ctlEnable_enabled en (by simp [st])]
    exact ⟨st, hd, running, ok, prog, body, whole.memory, whole.start⟩
  · obtain ⟨flags, e⟩ := ctlFlags_only (q := q) hc.queues (s.queue q).resumeAct true
    refine ⟨_, exec_qswClr hw ha hm he, ?_⟩
    rw [ctlEnable_enabled (by rw [e]; exact he) (by rw [e]; exact hd)]
    exact ⟨e, flags.others, flags.memory, flags.start, flags.cores⟩
  · obtain ⟨only, b, e⟩ := queueReset_idle (s := resetRuns (s.toTime t) q) (q := q) hc.queues hs hn
    refine ⟨_, exec_qmQrst hw t hc.qrst hrun hs hr hm, ?_⟩
    rw [e]
    exact ⟨rfl, rfl, rfl, rfl, rfl, rfl, rfl, rfl, rfl, rfl, rfl, rfl, rfl, rfl, rfl, only.others, only.memory⟩

end Sys2Proof.Machine
end

section
/-!
Step groups: the start of a step, and EN (R183, R184, R187).
-/

namespace Sys2Proof.Machine

section
variable {s t : State} {h : Hub} {g : Fin 16}

/-! ## A group and what is beside it -/

theorem modGrp_grp (w : mwf {} (s.hub h).grps = true) (f : StepGrp → StepGrp) : (s.modGrp h g f).grp h g = f (s.grp h g) := by
  unfold State.modGrp State.grp
  rw [State.modHub_hub, if_pos rfl]
  exact mget_mput_self _ _ w
theorem modGrp_still (s : State) (h : Hub) (g : Fin 16) (f : StepGrp → StepGrp) : (s.modGrp h g f).still = s.still := modHub_still s h fun _ => rfl
theorem grp_of_gated (e : t.gated = s.gated) (h : Hub) (g : Fin 16) : t.grp h g = s.grp h g :=
  (congrArg (fun x : HubSt => mget {} x.grps g.val) (hub_gated e h) :)
theorem gateReadyAll_gated (s : State) (l : List QIdx) : (l.foldl gateReady s).gated = s.gated :=
  foldl_keeps State.gated _ _ _ fun t q => gateReady_gated t q

/-! ## The gate counts on the page of a governor alone -/

/-- The page of the SEQ of hub die h is as in s. -/
structure SeqPageKept (h : Hub) (s t : State) : Prop where
  wf   : mwf {} t.blks = true
  kept : t.blk (pgKey h.val ixSeq) = s.blk (pgKey h.val ixSeq)
theorem govPage_ne_seqPage : ∀ k h : Hub, govPage k ≠ pgKey h.val ixSeq := by decide
theorem seqPageKept_closed (h : Hub) (s : State) : PutClosed (fun _ _ => True) (SeqPageKept h s) :=
  ⟨fun _ k => ⟨count_wf k.wf _ _ _, (count_blk_ne _ _ _ (govPage_ne_seqPage _ h)).trans k.kept⟩, fun _ k => ⟨k.wf, k.kept⟩⟩
theorem gateReadyAll_seqPage (w : mwf {} s.blks = true) (h : Hub) (l : List QIdx) : SeqPageKept h s (l.foldl gateReady s) := by
  refine List.foldlRecOn (motive := SeqPageKept h s) _ _ ⟨w, rfl⟩ fun t k _ _ => ?_
  have closed := seqPageKept_closed h s
  exact gateReady_steps closed (refreshReady_keeps closed (fun _ _ _ _ _ => trivial) k) (fun _ _ _ _ => trivial) fun _ _ _ _ _ => trivial

/-! ## The start of a step (R183, R184) -/

/-- An advance of creels changes creels alone. -/
theorem creelAdvance_rest (s : State) (h : Hub) (g : Fin 16) (u v v' : Nat) :
    { creelAdvance s h g u v v' with creels := [] } = { s with creels := [] } := by
  refine foldl_keeps (fun t : State => { t with creels := [] }) _ _ _ fun t e => ?_
  dsimp only
  split
  · split <;> rfl
  · rfl
/-- A step start's increment of LAYER, where LAYER has not been written before in the cycle. -/
theorem layerWrite_first (hc : ∀ c, (s.grp h g).chg = some c → c.1 ≠ s.now) (v : BitVec 16) :
    layerWrite s h g v none = creelAdvance (s.modGrp h g fun x => { x with layer := v, chg := some (s.now, (s.grp h g).layer.toNat, none) }) h g
      (s.grp h g).layer.toNat (s.grp h g).layer.toNat v.toNat := by
  unfold layerWrite
  cases e : (s.grp h g).chg with
  | none => simp [e]
  | some c =>
    obtain ⟨t, u, b⟩ := c
    simp [e, show t ≠ s.now from hc _ e]

/-- The open step of a group ends or goes on: nothing but its state and the overruns changes. -/
theorem stepEndCheck_frame (wb : mwf {} s.blks = true) (wg : mwf {} (s.hub h).grps = true) :
    let t := stepEndCheck s h g
    t.still = s.still ∧ t.due = s.due ∧ t.cnt (pgKey h.val ixSeq) 0x080 = s.cnt (pgKey h.val ixSeq) 0x080 ∧
      t.grp h g = (if (s.grp h g).st = .opened ∧ (stepPending s h g).isEmpty then { s.grp h g with st := .awaiting } else s.grp h g) := by
  have awaits := modGrp_grp (g := g) wg fun x => { x with st := .awaiting }
  unfold stepEndCheck
  dsimp only
  split
  · split
    · exact ⟨modGrp_still .., State.modGrp_due .., (count_cnt_ne (by simpa using wb) _ 1 (by decide)).trans (by simp [State.cnt, State.blk]), awaits⟩
    · exact ⟨modGrp_still .., State.modGrp_due .., by simp [State.cnt, State.blk], awaits⟩
  · exact ⟨rfl, rfl, rfl, rfl⟩
/-- t is s but for group g of hub die h, which has become x, and the creels. -/
structure GroupIs (h : Hub) (g : Fin 16) (x : StepGrp) (s t : State) : Prop where
  still  : t.still = s.still
  due    : t.due = s.due
  queues : t.queues = s.queues
  blks   : t.blks = s.blks
  now    : t.now = s.now
  wf     : mwf {} (t.hub h).grps = true
  grp    : t.grp h g = x

theorem GroupIs.refl (wg : mwf {} (s.hub h).grps = true) : GroupIs h g (s.grp h g) s s := ⟨rfl, rfl, rfl, rfl, rfl, wg, rfl⟩
theorem GroupIs.modGrp {x : StepGrp} (a : GroupIs h g x s t) (f : StepGrp → StepGrp) : GroupIs h g (f x) s (t.modGrp h g f) where
  still := (modGrp_still ..).trans a.still
  due := (State.modGrp_due ..).trans a.due
  queues := (State.modGrp_queues ..).trans a.queues
  blks := (State.modGrp_blks ..).trans a.blks
  now := (State.modGrp_now ..).trans a.now
  wf := by
    unfold State.modGrp
    rw [State.modHub_hub, if_pos rfl]
    exact mput_wf _ _ a.wf
  grp := (modGrp_grp a.wf f).trans (by rw [a.grp])
theorem GroupIs.advance {x : StepGrp} (a : GroupIs h g x s t) (k : Hub) (e : Fin 16) (u v v' : Nat) :
    GroupIs h g x s (creelAdvance t k e u v v') := by
  have rest := creelAdvance_rest t k e u v v'
  have hub : (creelAdvance t k e u v v').hub h = t.hub h := (congrArg (State.hub · h) rest :)
  exact ⟨(congrArg State.still rest :).trans a.still, (congrArg State.due rest :).trans a.due, (congrArg State.queues rest :).trans a.queues,
    (congrArg State.blks rest :).trans a.blks, (congrArg State.now rest :).trans a.now, hub ▸ a.wf, by rw [State.grp, hub]; exact a.grp⟩

/-- What the start of a step writes before its queues are looked at. -/
def stepOpens (s : State) (h : Hub) (g : Fin 16) : State :=
  let x := s.grp h g
  let s := s.modGrp h g fun x => { x with step := x.step + 1, started := x.started + 1, st := .opened, startLt := s.lts }
  let s := if x.layerInc then layerWrite s h g (x.layer + 1) none else s
  s.count (pgKey h.val ixSeq) 0x080 1
theorem stepStart_eq (he : (s.grp h g).en = true) (ha : (s.grp h g).st = .awaiting) (hd : s.doff.stopped = false) :
    stepStart s h g = stepEndCheck ((grpQueues (stepOpens s h g) h g).foldl gateReady (stepOpens s h g)) h g := by
  unfold stepStart
  simp only [he, ha, hd, ne_eq, not_true_eq_false, decide_false, Bool.not_true, Bool.or_self, Bool.false_eq_true, if_false]
  rfl

/-- The step opens: STEP and, where LAYER_INC is 1, LAYER count; creels follow. -/
theorem stepOpens_frame (wg : mwf {} (s.hub h).grps = true) (hc : ∀ c, (s.grp h g).chg = some c → c.1 ≠ s.now) :
    ∃ x t, stepOpens s h g = t.count (pgKey h.val ixSeq) 0x080 1 ∧ GroupIs h g x s t ∧ x.step = (s.grp h g).step + 1 ∧ x.st = .opened ∧
      x.startLt = s.lts ∧ x.layer = (if (s.grp h g).layerInc then (s.grp h g).layer + 1 else (s.grp h g).layer) := by
  have opened := (GroupIs.refl (g := g) wg).modGrp fun x => { x with step := x.step + 1, started := x.started + 1, st := .opened, startLt := s.lts }
  unfold stepOpens
  extract_lets y s1 s2
  have was : s1.grp h g = { s.grp h g with step := (s.grp h g).step + 1, started := (s.grp h g).started + 1, st := .opened, startLt := s.lts } := opened.grp
  cases inc : y.layerInc with
  | false =>
    have same : s2 = s1 := if_neg (by simp [inc])
    rw [same]
    exact ⟨_, s1, rfl, opened, rfl, rfl, rfl, rfl⟩
  | true =>
    have first : ∀ c, (s1.grp h g).chg = some c → c.1 ≠ s1.now := by
      rw [was, opened.now]
      exact hc
    have written : s2 = _ := (if_pos inc).trans (layerWrite_first first (y.layer + 1))
    rw [written]
    exact ⟨_, _, rfl, (opened.modGrp _).advance h g _ _ _, rfl, rfl, rfl, rfl⟩
/-- A group without queues awaits none of them. -/
theorem stepPending_nil (e : grpQueues s h g = []) : stepPending s h g = [] := by
  rw [grpQueues, List.filter_eq_nil_iff] at e
  rw [stepPending, List.filter_eq_nil_iff]
  intro q hq pending
  have other := e q hq
  simp_all
theorem grpQueues_of_queues (e : t.queues = s.queues) (h : Hub) (g : Fin 16) : grpQueues t h g = grpQueues s h g := by
  unfold grpQueues listedQueues
  simp only [e, queue_congr e]

/-- A step start (R183, R184). -/
theorem stepStart_frame (can : Canonical s) (he : (s.grp h g).en = true) (ha : (s.grp h g).st = .awaiting) (hd : s.doff.stopped = false)
    (hc : ∀ c, (s.grp h g).chg = some c → c.1 ≠ s.now) :
    let t := stepStart s h g
    (t.grp h g).step = (s.grp h g).step + 1 ∧
      (t.grp h g).layer = (if (s.grp h g).layerInc then (s.grp h g).layer + 1 else (s.grp h g).layer) ∧
      (grpQueues s h g = [] → (t.grp h g).st = .awaiting) ∧ (t.grp h g).st ≠ .idle ∧ (t.grp h g).startLt = s.lts ∧
      ((s.blk (pgKey h.val ixSeq)).cntFreeze = false →
        t.cnt (pgKey h.val ixSeq) 0x080 = s.cnt (pgKey h.val ixSeq) 0x080 + 1) ∧ t.due = s.due ∧ t.still = s.still := by
  obtain ⟨x, o, counted, isGrp, step, opened, startLt, layer⟩ := stepOpens_frame (can.grps h) hc
  have wo : mwf {} o.blks = true := isGrp.blks ▸ can.blks
  have queues : (o.count (pgKey h.val ixSeq) 0x080 1).queues = s.queues := (State.count_queues ..).trans isGrp.queues
  rw [stepStart_eq he ha hd, counted, grpQueues_of_queues queues]
  have gated : ((grpQueues s h g).foldl gateReady (o.count (pgKey h.val ixSeq) 0x080 1)).gated = o.gated := gateReadyAll_gated _ _
  have page := gateReadyAll_seqPage (count_wf wo (pgKey h.val ixSeq) 0x080 1) h (grpQueues s h g)
  have alone : grpQueues s h g = [] → stepPending ((grpQueues s h g).foldl gateReady (o.count (pgKey h.val ixSeq) 0x080 1)) h g = [] := by
    intro none
    rw [none]
    exact stepPending_nil ((grpQueues_of_queues queues h g).trans none)
  generalize (grpQueues s h g).foldl gateReady (o.count (pgKey h.val ixSeq) 0x080 1) = u at gated page alone
  have grp : u.grp h g = x := (grp_of_gated gated h g).trans isGrp.grp
  have grps : (u.hub h).grps = (o.hub h).grps := (congrArg HubSt.grps (hub_gated gated h) :)
  obtain ⟨still, due, cnt, ends⟩ := stepEndCheck_frame (g := g) page.wf (by rw [grps]; exact isGrp.wf)
  rw [grp] at ends
  refine ⟨?_, ?_, ?_, ?_, ?_, ?_, ?_, ?_⟩
  · rw [ends, ← step]; split <;> rfl
  · rw [ends, ← layer]; split <;> rfl
  · intro none
    rw [ends, if_pos ⟨opened, by simp [alone none]⟩]
  · rw [ends]; split <;> simp [opened]
  · rw [ends, ← startLt]; split <;> rfl
  · intro runs
    have blk : o.blk (pgKey h.val ixSeq) = s.blk (pgKey h.val ixSeq) := by rw [State.blk, isGrp.blks]; rfl
    have one := State.count_cnt o (pgKey h.val ixSeq) 0x080 1 wo (by rw [blk]; exact can.cnt _) (by rw [blk]; exact runs)
    have was : o.cnt (pgKey h.val ixSeq) 0x080 = s.cnt (pgKey h.val ixSeq) 0x080 := by rw [State.cnt, blk]; rfl
    rw [cnt, State.cnt, page.kept]
    exact one.trans (by rw [was]; rfl)
  · exact due.trans ((due_of_gated gated).trans isGrp.due)
  · exact still.trans ((still_of_gated gated).trans isGrp.still)

/-! ## EN of a step group (R187) -/

/-- The register of a step group: EN and LAYER_INC. -/
theorem seqFields : ∀ (h : Hub) (g : Fin 16), fieldsOf (.seq h) (0x100 + 0x20 * g.val) = [rw 0 1 .mgmt, rw 1 1 .mgmt] := by decide
/-- Prostoza's write of EN and LAYER_INC. -/
theorem pageAccess_seq (s : State) (h : Hub) (g : Fin 16) {v : Nat} (hv : v < 4) :
    pageAccess s .prostoza (pgKey h.val ixSeq) (0x100 + 0x20 * g.val) 4 v = seqAct s h { off := 0x100 + 0x20 * g.val, v := v, wm := 3 } := by
  have hg := g.isLt
  have three : fieldsMask [rw 0 1 .mgmt, rw 1 1 .mgmt] = 3 := by decide
  have aligned : 0x100 + 0x20 * g.val - (0x100 + 0x20 * g.val) % 8 = 0x100 + 0x20 * g.val := by omega
  have kind : pageAt h.val ixSeq = .seq h := by obtain rfl | rfl := hub_cases h <;> rfl
  rw [pageAccess_hub_prostoza s ⟨h.val, by omega⟩ h.isLt ixSeq _ v (by decide) (by omega) (by omega) (.seq h) kind
    (by rw [aligned, seqFields]; rfl) (by omega) (by omega) (by rw [seqFields]; decide), seqFields, three]
  have all : v &&& 3 = v := by
    rw [show (3 : Nat) = 2 ^ 2 - 1 from rfl, Nat.and_two_pow_sub_one_eq_mod]
    omega
  rw [all]
  rfl
/-- A write of the register of a group: LAYER_INC where the group is disabled, then EN. -/
theorem seqAct_ctl (s : State) (h : Hub) (g : Fin 16) (v : Nat) :
    seqAct s h { off := 0x100 + 0x20 * g.val, v := v, wm := 3 } =
      (let s := if (s.grp h g).en then s else s.modGrp h g fun x => { x with layerInc := bit v 1 }
       if bit v 0 then enableGrp s h g else disableGrp s h g) := by
  have index : Fin.ofNat 16 ((0x100 + 0x20 * g.val - 0x100) / 0x20) = g := by
    refine Fin.ext ?_
    have hg := g.isLt
    simp only [Fin.ofNat]
    omega
  have lowest : (0x100 + 0x20 * g.val) % 0x20 = 0 := by omega
  have hits0 : bit 3 0 = true := by decide
  have hits1 : bit 3 1 = true := by decide
  unfold seqAct
  simp only [index, lowest, Wr.hits, hits0, hits1, if_true, true_and]
  cases (s.grp h g).en <;> rfl

theorem joinSteps_gated (s : State) (q : QIdx) : (joinSteps s q).gated = s.gated := by
  unfold joinSteps
  dsimp only
  split <;> rfl
/-- EN written 1 starts the counting at 0; EN written 0 makes the group idle. -/
theorem enableGrp_frame (wg : mwf {} (s.hub h).grps = true) (hd : (s.grp h g).en = false) :
    (enableGrp s h g).grp h g = { s.grp h g with en := true, step := 0, started := 0, st := .awaiting, startLt := 0 } ∧
      (enableGrp s h g).still = s.still := by
  have is := (GroupIs.refl (g := g) wg).modGrp fun x => { x with en := true, step := 0, started := 0, st := .awaiting, startLt := 0 }
  unfold enableGrp
  rw [hd, if_neg Bool.false_ne_true]
  extract_lets t
  have gated := foldl_keeps State.gated (fun t q => refreshReady (joinSteps t q) q) (grpQueues t h g) t fun t q =>
    (refreshReady_gated _ q).trans (joinSteps_gated t q)
  exact ⟨(grp_of_gated gated h g).trans is.grp, (still_of_gated gated).trans is.still⟩
theorem disableGrp_frame (wg : mwf {} (s.hub h).grps = true) (he : (s.grp h g).en = true) :
    (disableGrp s h g).grp h g = { s.grp h g with en := false, st := .idle } ∧ (disableGrp s h g).still = s.still := by
  have is := (GroupIs.refl (g := g) wg).modGrp fun x => { x with en := false, st := .idle }
  unfold disableGrp
  rw [he, Bool.not_true, if_neg Bool.false_ne_true]
  extract_lets t u
  refine ⟨(grp_of_gated (s := u) ?gated h g).trans is.grp, (still_of_gated (s := u) ?gated).trans is.still⟩
  exact foldl_keeps State.gated _ _ u fun t q => (gateReady_gated _ q).trans rfl

/-- The words that the two commands write: LAYER_INC as it stands, and EN. -/
theorem enWord_on : ∀ x : Bool, 1 + 2 * b2n x < 4 ∧ bit (1 + 2 * b2n x) 0 = true ∧ bit (1 + 2 * b2n x) 1 = x := by decide
theorem enWord_off : ∀ x : Bool, 2 * b2n x < 4 ∧ bit (2 * b2n x) 0 = false := by decide
theorem exec_stepGroupEnable (hw : Works s) (h : Hub) (g : Fin 16) :
    exec (.stepGroupEnable .prostoza h g) s = .next (seqAct s h { off := 0x100 + 0x20 * g.val, v := 1 + 2 * b2n (s.grp h g).layerInc, wm := 3 }) :=
  congrArg Host.Outcome.next ((whenAlive_of_works hw _).trans (pageAccess_seq s h g (enWord_on _).1))
theorem exec_stepGroupDisable (hw : Works s) (h : Hub) (g : Fin 16) :
    exec (.stepGroupDisable .prostoza h g) s = .next (seqAct s h { off := 0x100 + 0x20 * g.val, v := 2 * b2n (s.grp h g).layerInc, wm := 3 }) :=
  congrArg Host.Outcome.next ((whenAlive_of_works hw _).trans (pageAccess_seq s h g (enWord_off _).1))
theorem groupEnable (can : Canonical s) (hd : (s.grp h g).en = false) :
    let t := seqAct s h { off := 0x100 + 0x20 * g.val, v := 1 + 2 * b2n (s.grp h g).layerInc, wm := 3 }
    t.grp h g = { s.grp h g with en := true, step := 0, started := 0, st := .awaiting, startLt := 0 } ∧ t.still = s.still := by
  obtain ⟨-, on, inc⟩ := enWord_on (s.grp h g).layerInc
  have is := (GroupIs.refl (g := g) (can.grps h)).modGrp fun x => { x with layerInc := (s.grp h g).layerInc }
  simp only [seqAct_ctl, hd, on, inc, Bool.false_eq_true, if_false, if_true]
  obtain ⟨grp, still⟩ := enableGrp_frame is.wf (by rw [is.grp]; exact hd)
  exact ⟨grp.trans (by rw [is.grp]), still.trans is.still⟩
theorem seqAct_enabled (he : (s.grp h g).en = true) (v : Nat) :
    seqAct s h { off := 0x100 + 0x20 * g.val, v := v, wm := 3 } = if bit v 0 then s else disableGrp s h g := by
  have stays : enableGrp s h g = s := if_pos he
  simp only [seqAct_ctl, he, stays, if_true]

end

/-- Settles O13: the step starts, EN written 1 and EN written 0, each by its frame. -/
theorem stepGroups : Obligations.StepGroups := by
  unfold Obligations.StepGroups
  refine ⟨fun s h g rest works can due en awaiting runs first => ?_, fun s h g works can => ⟨fun dis => ?_, fun en => ⟨?_, ?_⟩⟩⟩
  · have can' : Canonical { s with due := rest } := { can with }
    obtain ⟨step, layer, ends, busy, lt, count, due', still⟩ := stepStart_frame (s := { s with due := rest }) can' en awaiting runs first
    have next : exec (.stepStart h g) s = .next (stepStart { s with due := rest } h g) :=
      congrArg Host.Outcome.next ((whenAlive_of_works works _).trans (takeEvent_next due _))
    exact ⟨_, next, step, layer, ends, busy, lt, count, due', sameMemory_of_still (s := s) still, sameStart_of_still (s := s) still⟩
  · obtain ⟨grp, still⟩ := groupEnable can dis
    exact ⟨_, exec_stepGroupEnable works h g, grp, sameMemory_of_still still, sameStart_of_still still⟩
  · rw [exec_stepGroupEnable works h g, seqAct_enabled en, (enWord_on _).2.1, if_pos rfl]
  · obtain ⟨grp, still⟩ := disableGrp_frame (can.grps h) en
    rw [exec_stepGroupDisable works h g, seqAct_enabled en, (enWord_off _).2, if_neg Bool.false_ne_true]
    exact ⟨_, rfl, grp, sameMemory_of_still still, sameStart_of_still still⟩

end Sys2Proof.Machine
end

section
/-!
The admission of the entry at CONS (R147, R151, R159).
-/

namespace Sys2Proof.Machine

section
variable {s t : State} {q : QIdx} {c d : Cmd}

/-! ## A command joins its queue -/

/-- The command that joins a queue is the only one of its number. -/
theorem joined_allNumbered (w : mwf {} s.queues = true) (fresh : ∀ y ∈ (s.queue q).cmds, y.seq ≠ c.seq) {x : Queue}
    (hx : x.cmds = (s.queue q).cmds ++ [c]) : AllNumbered (s.setQueue q x) q c.seq (· = c) := by
  have e : (s.setQueue q x).queue q = x := State.setQueue_queue s q x w
  refine ⟨mput_wf _ _ w, ?_, fun y hy n => ?_⟩
  · rw [e, hx]
    exact ⟨c, by simp, rfl⟩
  · rw [e, hx, List.mem_append, List.mem_singleton] at hy
    exact hy.resolve_left fun old => fresh y old n

/-- What a command keeps from its admission on. -/
structure Admitted (bytes : List Byte) (cls pwr at_ : Nat) (c : Cmd) : Prop where
  entry  : c.entry = bytes
  cls    : c.cls = cls
  pwr    : c.pwr = pwr
  admitT : c.admitT = at_
/-- The gate changes nothing of it. -/
theorem admitted_gateProof (bytes : List Byte) (cls pwr at_ : Nat) : GateProof (Admitted bytes cls pwr at_) := fun _ h =>
  .inr (.inr fun _ e => ⟨(congrArg Cmd.entry e :).trans h.entry, (congrArg Cmd.cls e :).trans h.cls, (congrArg Cmd.pwr e :).trans h.pwr,
    (congrArg Cmd.admitT e :).trans h.admitT⟩)
theorem EndOf.keepsAdmission {bytes : List Byte} {cls pwr at_ cause : Nat} {st : Status} (h : EndOf c st cause d) (a : Admitted bytes cls pwr at_ c) :
    Admitted bytes cls pwr at_ d := by
  obtain ⟨hcls, hpwr, hadm⟩ := h.admitted
  exact ⟨h.entry.trans a.entry, hcls.trans a.cls, hpwr.trans a.pwr, hadm.trans a.admitT⟩

/-- What has become of the admission of a command: it is listed, and a refusal ended it. -/
structure AdmissionOf (q : QIdx) (n : W32) (why : Option (Nat × Nat)) (P : Cmd → Prop) (t : State) : Prop where
  cons    : (t.queue q).cons = n + 1
  listed  : ∃ c, findCmd t q n = some c ∧ P c ∧ ∀ k, why = some k → c.phase = .ended ∧ c.status = .refused ∧ c.cause = k.2
  refused : ∀ k, why = some k → (t.queue q).lastRefuse = k.1 ∧ (t.queue q).lastRefSeq = n

/-- An admission without refusal. -/
theorem AllNumbered.admission {n : W32} {P : Cmd → Prop} (h : AllNumbered t q n P) (hc : (t.queue q).cons = n + 1) :
    AdmissionOf q n none P t := by
  obtain ⟨c, found, p⟩ := h.find
  exact ⟨hc, ⟨c, found, p, fun _ k => nomatch k⟩, fun _ k => nomatch k⟩
theorem debit_queues (s : State) (h : Hub) (c e : Nat) : (debit s h c e).queues = s.queues := by
  unfold debit
  split
  · rfl
  · exact State.modHub_queues ..

/-- A refused command ends at once; the queue keeps why (R151). -/
theorem refusal_admits {P : Cmd → Prop} {n : W32} {x : Queue} (ok : QueuesOk s) (fresh : ∀ y ∈ (s.queue q).cmds, y.seq ≠ c.seq)
    (hx : x.cmds = (s.queue q).cmds ++ [c]) (hn : c.seq = n) (hc : x.cons = n + 1) (hu : c.unacked = [])
    (why : Nat × Nat) (hw : x.lastRefuse = why.1) (hs : x.lastRefSeq = n) (hP : ∀ d, EndOf c .refused why.2 d → P d) (b : Bool) :
    AdmissionOf q n (some why) P
      (let t := (endCmd (s.setQueue q x) q c .refused why.2 0xFFFF 0 0).count (qmPage q) 0x088 1
       if b then queueIrq t q else t) := by
  have joined : AllNumbered (s.setQueue q x) q c.seq (· = c) := joined_allNumbered ok.wf fresh hx
  have e : (s.setQueue q x).queue q = x := State.setQueue_queue s q x ok.wf
  have ended := endCmd_allNumbered (ok.setQueue q x) joined.listed .refused why.2 0xFFFF 0 0
  have shells := endCmd_shells (q := q) hu joined.wf .refused why.2 0xFFFF 0 0
  generalize endCmd (s.setQueue q x) q c .refused why.2 0xFFFF 0 0 = u at ended shells
  extract_lets t
  have queues : (if b then queueIrq t q else t).queues = u.queues := by
    split
    · exact (queueIrq_beside t q).1.trans rfl
    · rfl
  obtain ⟨d, found, end_⟩ := (ended.of_queues queues).find
  have shell := (shells.of_queues queues).shell q
  rw [e] at shell
  generalize (if b then queueIrq t q else t) = v at found shell
  refine ⟨(congrArg Queue.cons shell :).trans hc, ⟨d, hn ▸ found, hP d end_, fun k hk => ?_⟩, fun k hk => ?_⟩
  · obtain rfl := Option.some.inj hk
    exact ⟨end_.ended, end_.status, end_.cause⟩
  · obtain rfl := Option.some.inj hk
    exact ⟨(congrArg Queue.lastRefuse shell :).trans hw, (congrArg Queue.lastRefSeq shell :).trans hs⟩
/-- A command that joins its queue without refusal, and may then pass the gate. -/
theorem joining_admits {P : Cmd → Prop} {n : W32} {x : Queue} (ok : QueuesOk s) (ht : t.queues = (s.setQueue q x).queues)
    (fresh : ∀ y ∈ (s.queue q).cmds, y.seq ≠ c.seq) (hx : x.cmds = (s.queue q).cmds ++ [c]) (hn : c.seq = n) (hc : x.cons = n + 1) (hP : P c)
    (hQ : GateProof P) : AdmissionOf q n none P t ∧ AdmissionOf q n none P (gateReady t q) := by
  have joined : AllNumbered t q n P := ((hn ▸ joined_allNumbered ok.wf fresh hx).weaken fun y h => h ▸ hP).of_queues ht
  have cons : (t.queue q).cons = n + 1 := by rw [queue_congr ht, State.setQueue_queue s q x ok.wf, hc]
  have okT : QueuesOk t := (ok.setQueue q x).of_queues ht
  exact ⟨joined.admission cons, (joined.gateReady hQ okT q).admission (((gateReady_shells okT.wf q).cons q).trans cons)⟩

/-- The admission of an entry that has been read. -/
theorem admitEntry_admits (ok : QueuesOk s) (fresh : ∀ y ∈ (s.queue q).cmds, y.seq ≠ (s.queue q).cons) (pwr : Nat) (bytes : List Byte) :
    let cls := max (hdrOf (s.queue q).dx2 bytes).cls (s.queue q).classFloor
    AdmissionOf q (s.queue q).cons (refuseWhy s q cls) (Admitted bytes cls pwr s.now) (admitEntry s q pwr bytes) := by
  intro cls
  have okT : QueuesOk s.tick.2 := ok.of_queues rfl
  have same : s.tick.2.queue q = s.queue q := rfl
  have asked : refuseWhy s.tick.2 q cls = refuseWhy s q cls := rfl
  have time : s.tick.2.now = s.now := rfl
  unfold admitEntry
  extract_lets h x hd cls' indirect cost qos finite defer y
  generalize s.tick = p at okT same asked time ⊢
  obtain ⟨ord, u⟩ := p
  have newSeq : ∀ y ∈ (u.queue q).cmds, y.seq ≠ x.cons := by
    rw [show u.queue q = s.queue q from same]
    exact fresh
  have extends_ {c : Cmd} {y : Queue} (e : y.cmds = x.cmds ++ [c]) : y.cmds = (u.queue q).cmds ++ [c] := e.trans (by rw [same])
  dsimp only at okT asked time ⊢
  rw [show refuseWhy u q cls' = refuseWhy s q cls from asked]
  cases refuseWhy s q cls with
  | some why =>
    refine refusal_admits okT newSeq (extends_ (by rfl)) (by rfl) (by rfl) (by rfl) why (by rfl) (by rfl) (fun d h => h.keepsAdmission ?_) _
    exact ⟨rfl, rfl, rfl, time⟩
  | none =>
    have kept := admitted_gateProof bytes cls pwr s.now
    dsimp only
    split
    · refine (joining_admits okT (by rfl) newSeq (extends_ (by rfl)) (by rfl) (by rfl) ?_ kept).1
      exact ⟨rfl, rfl, rfl, time⟩
    · have okD : QueuesOk (debit u h cls' cost) := okT.of_queues (debit_queues ..)
      have sameD := queue_congr (debit_queues u h cls' cost) q
      rw [← sameD] at newSeq extends_
      refine (joining_admits okD (by rfl) newSeq (extends_ (by rfl)) (by rfl) (by rfl) ?_ kept).2
      exact ⟨rfl, rfl, rfl, time⟩
end

/-- Settles O16: the entry is not read where the conditions do not hold; one that has been read is admitted. -/
theorem entryAdmission : Obligations.EntryAdmission := by
  unfold Obligations.EntryAdmission
  intro s q pwr t works can
  have exec_ : exec (.entryAdmit q pwr t) s = .next (admitFront (s.toTime t) q pwr) := onwardAt_of_works works t _
  refine ⟨fun shut => ?_, fun bytes s1 may none fresh read => ?_⟩
  · rw [exec_, admitFront, shut]
    rfl
  · have agenda := qmRead_agenda read
    have queues : s1.queues = s.queues := (queues_of_agenda agenda :)
    have now : s1.now = max s.now t := (now_of_agenda agenda :)
    have same : s1.queue q = s.queue q := queue_congr queues q
    obtain ⟨cons, ⟨c, found, as, ended⟩, refused⟩ := admitEntry_admits (can.queuesOk.of_queues queues) (q := q) (by rw [same]; exact fresh) pwr bytes
    have front : admitFront (s.toTime t) q pwr = admitEntry s1 q pwr bytes := by
      have fetch : ((s.toTime t).queue q).fetchFail = Option.none := none
      have got : qmRead (s.toTime t) q ((s.toTime t).queue q).fetchData (((s.toTime t).queue q).ringBase.toNat + ((s.toTime t).queue q).entryLen *
        (((s.toTime t).queue q).cons.toNat % ((s.toTime t).queue q).depth)) ((s.toTime t).queue q).entryLen = (.ok bytes false, s1) := read
      unfold admitFront
      simp only [may, fetch, got, Bool.not_true, Bool.false_eq_true, if_false]
    rw [exec_, front]
    rw [same] at cons found refused ended as
    obtain ⟨entry, cls, pwr', admitT⟩ := as
    refine ⟨_, c, rfl, cons, found, entry, cls, pwr', admitT.trans now, fun why h => ?_⟩
    obtain ⟨phase, status, cause⟩ := ended why h
    exact ⟨phase, status, cause, refused why h⟩

end Sys2Proof.Machine
end

section
/-!
What the commands of a queue have kept for their end stays through whatever queues and their registers do (R144–R176).
-/

namespace Sys2Proof.Machine

/-! ## Commands of a number that still obey a rule -/

/-- The map of the queues is sound, and Q holds of every command with number n that queue q lists. -/
structure Obeys (q : QIdx) (n : W32) (Q : Cmd → Prop) (s : State) : Prop where
  ok  : QueuesOk s
  all : ∀ y ∈ (s.queue q).cmds, y.seq = n → Q y

/-- Q looks at nothing of a command but what it has kept for its end, and holds where that is nothing. -/
structure HeadRule (Q : Cmd → Prop) : Prop where
  same  : ∀ {y z : Cmd}, z.head = y.head → Q y → Q z
  empty : ∀ {y : Cmd}, y.head = [] → Q y
theorem headRule_true : HeadRule fun _ => True := ⟨fun _ _ => trivial, fun _ => trivial⟩
theorem headRule_empty : HeadRule fun y => y.head = [] := ⟨fun e h => e.trans h, id⟩

theorem endStall_head (c : Cmd) (t : Nat) : (c.endStall t).head = c.head := (congrArg Cmd.head (endStall_book c t) :)

/-- Every command of l stands for one of m, with its number and what it has kept for its end. -/
def CmdsFrom (l m : List Cmd) : Prop := ∀ y ∈ l, ∃ z ∈ m, y.seq = z.seq ∧ y.head = z.head
theorem CmdsFrom.refl (l : List Cmd) : CmdsFrom l l := fun y hy => ⟨y, hy, rfl, rfl⟩
theorem CmdsFrom.subset {l m : List Cmd} (h : ∀ y ∈ l, y ∈ m) : CmdsFrom l m := fun y hy => ⟨y, h y hy, rfl, rfl⟩
theorem CmdsFrom.map {l m : List Cmd} (h : CmdsFrom l m) {f : Cmd → Cmd} (hs : ∀ y, (f y).seq = y.seq) (hh : ∀ y, (f y).head = y.head) :
    CmdsFrom (l.map f) m := by
  intro y hy
  obtain ⟨x, hx, rfl⟩ := List.mem_map.1 hy
  obtain ⟨z, hz, e, k⟩ := h x hx
  exact ⟨z, hz, (hs x).trans e, (hh x).trans k⟩
theorem leaveWait_from (x : Queue) (now : Nat) : CmdsFrom (x.leaveWait now).cmds x.cmds := by
  unfold Queue.leaveWait
  split
  · exact .refl _
  · refine (CmdsFrom.refl _).map (fun y => ?_) fun y => ?_
    · split
      · exact (congrArg Cmd.seq (endStall_book y now) :)
      · split <;> rfl
    · split
      · exact endStall_head y now
      · split <;> rfl

section
variable {s t : State} {q r : QIdx} {n : W32} {Q : Cmd → Prop} {c d : Cmd}

/-! ## Changes of one queue -/

theorem Obeys.of_queues (h : Obeys q n Q s) (e : t.queues = s.queues) : Obeys q n Q t := ⟨h.ok.of_queues e, by rw [queue_congr e]; exact h.all⟩
theorem Obeys.count (h : Obeys q n Q s) (p off k : Nat) : Obeys q n Q (s.count p off k) := h.of_queues (State.count_queues ..)
theorem Obeys.sendWrite (h : Obeys q n Q s) (p : Option (Fin 16)) (k : Nat) (i : Issuer) (a : FarAttr) (pa : Nat) (bs : List Byte) :
    Obeys q n Q (sendWrite s p k i a pa bs) := h.of_queues rfl
theorem Obeys.agenda (h : Obeys q n Q s) (e : t.agenda = s.agenda) : Obeys q n Q t := h.of_queues (queues_of_agenda e)
theorem Obeys.setQueue (h : Obeys q n Q s) (hQ : HeadRule Q) {x : Queue} (hx : CmdsFrom x.cmds (s.queue r).cmds) : Obeys q n Q (s.setQueue r x) := by
  refine ⟨h.ok.setQueue r x, fun y hy hn => ?_⟩
  by_cases e : r = q
  · subst e
    rw [State.setQueue_queue s r x h.ok.wf] at hy
    obtain ⟨z, hz, es, eh⟩ := hx y hy
    exact hQ.same eh (h.all z hz (es.symm.trans hn))
  · rw [State.setQueue_queue_ne s r q x e] at hy
    exact h.all y hy hn
theorem Obeys.modQueue (h : Obeys q n Q s) (hQ : HeadRule Q) {f : Queue → Queue} (hf : CmdsFrom (f (s.queue r)).cmds (s.queue r).cmds) :
    Obeys q n Q (s.modQueue r f) := h.setQueue hQ hf
theorem Obeys.setShell (h : Obeys q n Q s) (hQ : HeadRule Q) {x : Queue} (e : x.cmds = (s.queue r).cmds) : Obeys q n Q (s.setQueue r x) :=
  h.setQueue hQ (e ▸ .refl _)
theorem Obeys.modShell (h : Obeys q n Q s) (hQ : HeadRule Q) {f : Queue → Queue} (hf : ∀ x, (f x).cmds = x.cmds) : Obeys q n Q (s.modQueue r f) :=
  h.setShell hQ (hf _)
theorem Obeys.modCmd (h : Obeys q n Q s) (hQ : HeadRule Q) {k : W32} {f : Cmd → Cmd} (hs : ∀ y, (f y).seq = y.seq) (hh : ∀ y, (f y).head = y.head) :
    Obeys q n Q (s.modCmd r k f) := by
  refine h.modQueue hQ ((CmdsFrom.refl _).map (fun y => ?_) fun y => ?_)
  · split
    · exact hs y
    · rfl
  · split
    · exact hh y
    · rfl
theorem Obeys.putCmd (h : Obeys q n Q s) (hd : r = q → d.seq = n → Q d) : Obeys q n Q (putCmd s r d) := by
  refine ⟨h.ok.modQueue r _, fun y hy hn => ?_⟩
  by_cases e : r = q
  · subst e
    rw [Machine.putCmd, State.modQueue_queue s r _ h.ok.wf] at hy
    obtain ⟨z, hz, rfl⟩ := List.mem_map.1 hy
    by_cases same : z.seq = d.seq
    · rw [if_pos same] at hn ⊢
      exact hd rfl hn
    · rw [if_neg same] at hn ⊢
      exact h.all z hz hn
  · rw [putCmd_queue_ne s d e] at hy
    exact h.all y hy hn
/-- A command takes the place of one that the queue lists, with its number and what that has kept. -/
theorem Obeys.putListed (h : Obeys q n Q s) (hQ : HeadRule Q) (hc : c ∈ (s.queue r).cmds) (hs : d.seq = c.seq) (hh : d.head = c.head) :
    Obeys q n Q (Machine.putCmd s r d) := by
  refine h.putCmd fun e hn => ?_
  subst e
  exact hQ.same hh (h.all c hc (hs.symm.trans hn))
/-- What is let in by the rule: commands with number n of queue q obey Q. -/
def Lets (q : QIdx) (n : W32) (Q : Cmd → Prop) (r : QIdx) (c : Cmd) : Prop := r = q → c.seq = n → Q c
theorem obeys_closed : PutClosed (Lets q n Q) (Obeys q n Q) := ⟨fun _ h => h.of_queues (State.count_queues ..), fun a h => h.putCmd a⟩
theorem Obeys.lets (h : Obeys q n Q s) (hc : c ∈ (s.queue r).cmds) : Lets q n Q r c := fun e hn => h.all c (e ▸ hc) hn
theorem Lets.same (h : Lets q n Q r c) (hQ : HeadRule Q) (hs : d.seq = c.seq) (hh : d.head = c.head) : Lets q n Q r d :=
  fun e hn => hQ.same hh (h e (hs.symm.trans hn))
theorem Lets.book (h : Lets q n Q r c) (hQ : HeadRule Q) (e : d.book = c.book) : Lets q n Q r d :=
  h.same hQ (congrArg Cmd.seq e :) (congrArg Cmd.head e :)

/-! ## The gate, the end of a command -/

theorem obeys_gateMay (hQ : HeadRule Q) : GateMay (Lets q n Q) (Obeys q n Q) := fun h ht _ hb => (h.lets (mem_of_target ht)).book hQ hb
theorem Obeys.refreshReady (h : Obeys q n Q s) (hQ : HeadRule Q) (r : QIdx) : Obeys q n Q (refreshReady s r) :=
  refreshReady_keeps obeys_closed (fun _ _ ht hn hb => obeys_gateMay hQ h ht hn hb) h
theorem Obeys.gateReady (h : Obeys q n Q s) (hQ : HeadRule Q) (r : QIdx) : Obeys q n Q (gateReady s r) :=
  gateReady_keeps obeys_closed (obeys_gateMay hQ) h.ok h
theorem Obeys.putThrottled (h : Obeys q n Q s) (hQ : HeadRule Q) (hc : Lets q n Q r c) : Obeys q n Q (putThrottled s r c) :=
  putThrottled_keeps obeys_closed hc (hc.same hQ rfl rfl) h
theorem Obeys.endCmd (h : Obeys q n Q s) (hQ : HeadRule Q) (r : QIdx) (c : Cmd) (st : Status) (cause : Nat) (idx : BitVec 16) (va ea : Nat) :
    Obeys q n Q (endCmd s r c st cause idx va ea) :=
  endCmd_keeps (I := Obeys q n Q) (J := Obeys q n Q) (fun e h => h.of_queues e) (fun e h => h.of_queues e)
    (fun h => h.modCmd hQ (fun _ => rfl) fun _ => rfl) (fun end_ h => h.putCmd fun _ _ => hQ.empty end_.head)
    (fun _ _ _ _ h => h.modShell hQ fun _ => rfl) (fun h => h.refreshReady hQ _) h idx va ea

/-! ## The governor -/

theorem mem_insertBy {α : Type} {le : α → α → Bool} {x y : α} {l : List α} (h : y ∈ insertBy le x l) : y = x ∨ y ∈ l := by
  induction l with
  | nil => exact .inl (List.mem_singleton.1 h)
  | cons z l ih =>
    unfold insertBy at h
    split at h
    · rcases List.mem_cons.1 h with rfl | h
      · exact .inr (by simp)
      · exact (ih h).imp_right (List.mem_cons_of_mem _)
    · exact List.mem_cons.1 h
theorem mem_of_sortBy {α : Type} {le : α → α → Bool} {y : α} {l : List α} (h : y ∈ sortBy le l) : y ∈ l :=
  List.foldlRecOn (motive := fun acc => y ∈ acc → y ∈ l) l _ (fun h => absurd h List.not_mem_nil)
    (fun _ ih _ hx h => (mem_insertBy h).elim (fun e => e ▸ hx) ih) h

theorem mem_of_hubCmds (ok : QueuesOk s) {h : Hub} {p : QIdx × Cmd} (hp : p ∈ hubCmds s h) : p.2 ∈ (s.queue p.1).cmds := by
  obtain ⟨⟨k, x⟩, hx, hc⟩ := List.mem_flatMap.1 hp
  have listed := ok.queue_of_mem hx
  dsimp only at hc listed
  split at hc
  · obtain ⟨y, hy, rfl⟩ := List.mem_map.1 hc
    rw [listed]
    exact hy
  · cases hc
theorem Obeys.slowClocks (h : Obeys q n Q s) (hQ : HeadRule Q) (k : Hub) : Obeys q n Q (slowClocks s k) := by
  unfold Machine.slowClocks
  split
  · exact h
  · have start := h.of_queues (t := s.modGov k fun g => { g with slowed := true }) (modGov_queues ..)
    refine List.foldlRecOn (motive := Obeys q n Q) _ _ start fun t ht p hp => ?_
    split
    · exact ht.putThrottled hQ ((start.lets (mem_of_hubCmds start.ok hp)).book hQ (beginStall_book ..))
    · exact ht
theorem Obeys.runOversize (h : Obeys q n Q s) (hQ : HeadRule Q) (k : Hub) (r : QIdx) (c : Cmd) : Obeys q n Q (runOversize s k r c) := by
  unfold Machine.runOversize
  split
  · exact h
  · exact (h.of_queues (modGov_queues ..)).slowClocks hQ k
theorem Obeys.dispatch (h : Obeys q n Q s) (hQ : HeadRule Q) (k : Hub) (hc : Lets q n Q r c) : Obeys q n Q (dispatch s k r c) := by
  have book : ({ c.endStall s.now with phase := .ready, granted := true } : Cmd).book = c.book := endStall_book c s.now
  unfold Machine.dispatch
  exact (h.putCmd (hc.book hQ book)).runOversize hQ k r c
theorem Obeys.dispatchHeld (h : Obeys q n Q s) (hQ : HeadRule Q) (k : Hub) : Obeys q n Q (dispatchHeld s k) := by
  unfold Machine.dispatchHeld
  refine List.foldlRecOn (motive := fun a : State × List Nat => Obeys q n Q a.1) _ _ h fun a ha p hp => ?_
  have listed : p ∈ hubCmds s k := (List.mem_filter.1 (mem_of_sortBy hp)).1
  split
  · exact ha.dispatch hQ k (h.lets (mem_of_hubCmds h.ok listed))
  · exact ha
end

end Sys2Proof.Machine
end

section
/-!
Records, resumption and the doorbell page: a write of an engine to a queue's registers keeps what commands have kept (R144–R176).
-/

namespace Sys2Proof.Machine

section
variable {s t : State} {q r : QIdx} {n : W32} {Q : Cmd → Prop} {c d : Cmd}

/-! ## A queue whose commands have gone -/

theorem stepEndCheck_queues (s : State) (h : Hub) (g : Fin 16) : (stepEndCheck s h g).queues = s.queues := by
  unfold stepEndCheck
  dsimp only
  split
  · split
    · exact (State.count_queues ..).trans (State.modGrp_queues ..)
    · exact State.modGrp_queues ..
  · rfl
theorem zeroingCheck_queues (s : State) (h : Hub) : (zeroingCheck s h).queues = s.queues := by
  unfold zeroingCheck
  split
  · exact State.modHub_queues ..
  · rfl
theorem partRstCheck_queues (s : State) (h : Hub) : (partRstCheck s h).queues = s.queues := by
  unfold partRstCheck
  split
  · exact State.modHub_queues ..
  · rfl
theorem c0Check_queues (s : State) (q : QIdx) (c : Cmd) : (c0Check s q c).queues = s.queues := by
  unfold c0Check
  dsimp only
  repeat' split
  all_goals rfl
theorem Obeys.leaveSteps (h : Obeys q n Q s) (hQ : HeadRule Q) (r : QIdx) : Obeys q n Q (leaveSteps s r) := by
  unfold Machine.leaveSteps
  dsimp only
  split
  · exact (h.setShell (r := r) (x := { s.queue r with stepIn := false }) hQ rfl).of_queues (stepEndCheck_queues ..)
  · exact h
theorem Obeys.resetDone (h : Obeys q n Q s) (hQ : HeadRule Q) (r : QIdx) : Obeys q n Q (resetDone s r) := by
  unfold Machine.resetDone
  extract_lets x s1 s2
  have start : Obeys q n Q s1 := h.setQueue hQ fun y hy => absurd hy List.not_mem_nil
  have done : Obeys q n Q s2 := by
    unfold s2
    split
    · exact start.of_queues rfl
    · exact start
  exact done.leaveSteps hQ r
theorem Obeys.settle (h : Obeys q n Q s) (hQ : HeadRule Q) (r : QIdx) : Obeys q n Q (settle s r) := by
  have disabled : Obeys q n Q (Machine.leaveSteps (s.setQueue r { s.queue r with st := .disabled }) r) := (h.setShell hQ (by rfl)).leaveSteps hQ r
  unfold Machine.settle
  extract_lets x s1
  have left : Obeys q n Q s1 := by
    unfold s1
    split
    · exact disabled
    · split
      · exact h
      · exact disabled
    · exact h.resetDone hQ r
    · exact h
  split
  · exact h
  · exact left.of_queues ((partRstCheck_queues ..).trans (zeroingCheck_queues ..))

/-! ## Errors, records -/

theorem Obeys.queueIrq (h : Obeys q n Q s) (r : QIdx) : Obeys q n Q (queueIrq s r) := h.of_queues (queueIrq_beside s r).1
theorem Obeys.queueError (h : Obeys q n Q s) (hQ : HeadRule Q) (r : QIdx) (code : Nat) (seq : W32) (idx : BitVec 16) (st cause va : Nat) :
    Obeys q n Q (queueError s r code seq idx st cause va) := by
  unfold Machine.queueError
  extract_lets x s1 s2
  have h1 : Obeys q n Q s1 := h.setQueue hQ (leaveWait_from (s.queue r) s.now)
  have reported : Obeys q n Q s2 := h1.of_queues (report_notices ..).queues
  split
  · exact reported.queueIrq r
  · exact reported
theorem Obeys.enterFaultWait (h : Obeys q n Q s) (hQ : HeadRule Q) (hc : Lets q n Q r c) : Obeys q n Q (enterFaultWait s r c) := by
  have book : ({ c.beginStall cFaultWait c.endT with phase := .faultWait } : Cmd).book = c.book := beginStall_book c cFaultWait c.endT
  unfold Machine.enterFaultWait
  extract_lets x s1 stalled s2 s3
  have h1 : Obeys q n Q s1 := h.setShell hQ rfl
  have h2 : Obeys q n Q s2 := h1.putCmd (hc.book hQ book)
  have waits : Obeys q n Q s3 := h2.of_queues rfl
  split
  · exact waits.queueIrq r
  · exact waits
theorem Obeys.finishRecord (h : Obeys q n Q s) (hQ : HeadRule Q) (r : QIdx) (c : Cmd) (w : Bool) : Obeys q n Q (finishRecord s r c w) := by
  unfold Machine.finishRecord
  extract_lets x k s1 s2 s3 s4 s5 s6 s7 s8 s9 s10 s11 s12 s13
  have h2 : Obeys q n Q s2 := by
    refine Obeys.of_queues (t := s2) (s := s1) ?_ (State.modHub_queues ..)
    unfold s1
    split
    · exact h.of_queues (sendMark_queues ..)
    · exact h
  have same : s2.queue r = s.queue r := by
    refine queue_congr ((State.modHub_queues ..).trans ?_) r
    unfold s1
    split
    · exact sendMark_queues ..
    · rfl
  have h3 : Obeys q n Q s3 := h2.setQueue hQ (by rw [same]; exact .subset fun y hy => List.mem_of_mem_drop hy)
  have h4 : Obeys q n Q s4 := by
    unfold s4
    split
    · exact h3.of_queues rfl
    · exact h3
  have h5 : Obeys q n Q s5 := by
    unfold s5
    split
    · split
      · refine Obeys.queueIrq ?_ r
        exact h4.modShell hQ fun _ => rfl
      · exact h4.modShell hQ fun _ => rfl
    · exact h4
  have h6 : Obeys q n Q s6 := by
    unfold s6
    split
    · exact h5
    · exact h5.queueError hQ ..
  have h7 : Obeys q n Q s7 := by
    unfold s7
    split
    · exact h6.modShell hQ fun _ => rfl
    · exact h6
  have h8 : Obeys q n Q s8 := h7.modShell hQ fun _ => rfl
  have h9 : Obeys q n Q s9 := by
    unfold s9
    split
    · split
      · exact h8.queueIrq r
      · exact h8
    · exact h7
  have h11 : Obeys q n Q s11 := h9.of_queues ((stepEndCheck_queues ..).trans (c0Check_queues ..))
  exact (((h11.settle hQ r).dispatchHeld hQ k).of_queues (govBallast_queues ..)).gateReady hQ r
theorem Obeys.completeOne (h : Obeys q n Q s) (hQ : HeadRule Q) (r : QIdx) : Obeys q n Q (completeOne s r) := by
  unfold Machine.completeOne
  extract_lets x k
  split
  · split
    · exact h.settle hQ r
    · exact h
  next c l hl =>
    have listed : Lets q n Q r c := h.lets (by rw [show (s.queue r).cmds = c :: l from hl]; simp)
    have walked (b : Bool) : Obeys q n Q (countWalks s k x.ctx (x.recordVa c.seq) 32 b) := h.agenda (countWalks_agenda ..)
    have failed {t : State} (e : t.agenda = s.agenda) : Obeys q n Q (Machine.finishRecord t r c false) :=
      (h.agenda e).finishRecord hQ r c false
    split
    · exact h
    split
    · exact h.enterFaultWait hQ listed
    split
    · split
      · exact h
      · refine Obeys.count ?_ _ _ _
        exact h.putCmd (listed.same hQ rfl rfl)
    · dsimp only
      split
      · exact failed ((xltFault_agenda ..).trans (countWalks_agenda ..))
      · exact failed (logFw_agenda ..)
      · split
        · next shared => exact h.agenda (sharedWait_agenda shared)
        · split
          · split
            · split
              · exact walked false
              · exact ((walked false).agenda (writeMem_agenda ..)).finishRecord hQ r c true
            · refine Obeys.sendWrite ?_ ..
              exact (walked false).putCmd (listed.same hQ rfl rfl)
          · exact failed (countWalks_agenda ..)

/-! ## The doorbell page (R144, R154, R156, R157, R175, R176) -/

theorem Obeys.endWaitState (h : Obeys q n Q s) (hQ : HeadRule Q) (r : QIdx) : Obeys q n Q (endWaitState s r) :=
  h.modQueue hQ (leaveWait_from _ _)
theorem Obeys.faultAbandon (h : Obeys q n Q s) (hQ : HeadRule Q) (r : QIdx) : Obeys q n Q (faultAbandon s r) := by
  have left := h.endWaitState hQ r
  unfold Machine.faultAbandon
  dsimp only
  split
  · next found =>
    refine Obeys.completeOne ?_ hQ r
    exact left.putListed hQ (List.mem_of_find?_eq_some found) rfl rfl
  · exact left
theorem Obeys.faultRetry (h : Obeys q n Q s) (hQ : HeadRule Q) (r : QIdx) : Obeys q n Q (faultRetry s r) := by
  have left := h.endWaitState hQ r
  unfold Machine.faultRetry
  dsimp only
  split
  · next found => exact left.putListed hQ (List.mem_of_find?_eq_some found) rfl rfl
  · exact left
theorem Obeys.resumeQueue (h : Obeys q n Q s) (hQ : HeadRule Q) (r : QIdx) : Obeys q n Q (resumeQueue s r) := by
  unfold Machine.resumeQueue
  dsimp only
  split
  · split
    · exact h.faultAbandon hQ r
    · exact h.faultRetry hQ r
  · split
    · exact ((h.setShell hQ (by rfl)).settle hQ r).gateReady hQ r
    · exact h
/-- The commands that a fold appends, each for one of a list. -/
theorem foldl_append_from {α : Type} {f : List Cmd × α → Cmd → List Cmd × α} {g : α → Cmd → Cmd} (hf : ∀ a c, (f a c).1 = a.1 ++ [g a.2 c])
    (hs : ∀ a c, (g a c).seq = c.seq) (hh : ∀ a c, (g a c).head = c.head) (l : List Cmd) (a : List Cmd × α) {m : List Cmd}
    (ha : CmdsFrom a.1 m) (hl : CmdsFrom l m) : CmdsFrom (l.foldl f a).1 m := by
  refine List.foldlRecOn (motive := fun a => CmdsFrom a.1 m) l f ha fun b hb c hc y hy => ?_
  rw [hf, List.mem_append, List.mem_singleton] at hy
  rcases hy with hy | rfl
  · exact hb y hy
  · obtain ⟨z, hz, es, eh⟩ := hl c hc
    exact ⟨z, hz, (hs ..).trans es, (hh ..).trans eh⟩
theorem Obeys.joinSteps (h : Obeys q n Q s) (hQ : HeadRule Q) (r : QIdx) : Obeys q n Q (joinSteps s r) := by
  unfold Machine.joinSteps
  extract_lets x g j started rest
  split
  · exact h
  · have first : CmdsFrom started x.cmds := .subset fun y hy => (List.takeWhile_sublist _).subset hy
    have last : CmdsFrom rest x.cmds := .subset fun y hy => (List.dropWhile_sublist _).subset hy
    have joined := foldl_append_from (f := fun (acc : List Cmd × Nat) c =>
      (acc.1 ++ [{ c with seg := some acc.2 }], if c.hdr.stepEnd then acc.2 + 1 else acc.2)) (g := fun k c => { c with seg := some k })
      (fun _ _ => rfl) (fun _ _ => rfl) (fun _ _ => rfl) rest ([], j) (fun y hy => absurd hy List.not_mem_nil) last
    refine h.setQueue hQ fun y hy => ?_
    rcases List.mem_append.1 hy with hy | hy
    · exact (first.map (f := fun c => { c with seg := none }) (fun _ => rfl) fun _ => rfl) y hy
    · exact joined y hy
theorem Obeys.enableQueue (h : Obeys q n Q s) (hQ : HeadRule Q) (r : QIdx) : Obeys q n Q (enableQueue s r) := by
  have enabled : Obeys q n Q (s.setQueue r { s.queue r with enable := true }) := h.setShell hQ (by rfl)
  have same : (s.setQueue r { s.queue r with enable := true }).queue r = { s.queue r with enable := true } := State.setQueue_queue s r _ h.ok.wf
  have again {x : Queue} (e : x.cmds = (s.queue r).cmds) : Obeys q n Q ((s.setQueue r { s.queue r with enable := true }).setQueue r x) :=
    enabled.setShell hQ (by rw [same, e])
  unfold Machine.enableQueue
  dsimp only
  split
  · exact enabled
  · split
    · exact Obeys.joinSteps (again (by rfl)) hQ r
    · exact again (by rfl)
theorem Obeys.disableQueue (h : Obeys q n Q s) (hQ : HeadRule Q) (r : QIdx) : Obeys q n Q (disableQueue s r) := by
  refine Obeys.settle ?_ hQ r
  exact h.setQueue hQ (leaveWait_from (s.queue r) s.now)
theorem Obeys.ringBell (h : Obeys q n Q s) (hQ : HeadRule Q) (r : QIdx) (v : W32) : Obeys q n Q (ringBell s r v) := by
  unfold Machine.ringBell
  dsimp only
  split
  · exact h.of_queues rfl
  split
  · exact h
  split
  · exact h.of_queues rfl
  split
  · exact h.setShell hQ (by rfl)
  · exact h.queueError hQ ..
/-- A write of a queue's registers. -/
theorem Obeys.bellAct (h : Obeys q n Q s) (hQ : HeadRule Q) (r : QIdx) (w : Wr) : Obeys q n Q (bellAct s r w) := by
  have set {x : Queue} (e : x.cmds = (s.queue r).cmds) : Obeys q n Q (s.setQueue r x) := h.setShell hQ e
  have ite {c : Prop} [Decidable c] {a b : State} (ha : Obeys q n Q a) (hb : Obeys q n Q b) : Obeys q n Q (if c then a else b) := by
    split
    · exact ha
    · exact hb
  unfold Machine.bellAct
  extract_lets x dis d p w16 s1 s2 s3
  refine ite h (ite (h.ringBell hQ ..) (ite (set rfl) (ite (ite (set rfl) h) (ite (ite (set rfl) h) (ite (ite (set rfl) h) (ite ?_ (set rfl)))))))
  have h1 : Obeys q n Q s1 := h.modShell hQ fun _ => rfl
  have h2 : Obeys q n Q s2 := ite (h1.modShell hQ fun _ => rfl) h1
  have h3 : Obeys q n Q s3 := ite (h2.resumeQueue hQ r) h2
  exact ite (ite (ite h3 (h3.enableQueue hQ r)) (h3.disableQueue hQ r)) h3
end

end Sys2Proof.Machine
end

section
/-!
Registers that an engine may write (R639): what their writes do to the queues.
-/

namespace Sys2Proof.Machine

section
variable {s t : State} {q r : QIdx} {n : W32} {Q : Cmd → Prop} {c d : Cmd}

theorem ite_obeys {p : Prop} [Decidable p] {a b : State} (ha : Obeys q n Q a) (hb : Obeys q n Q b) : Obeys q n Q (if p then a else b) := by
  split
  · exact ha
  · exact hb

/-! ## The reset of an engine (R559) -/

theorem engineClear_agenda (s : State) (i : Nat) : (engineClear s i).agenda = s.agenda := by
  unfold engineClear
  extract_lets s1 s2 s3
  have h2 : s2.agenda = s.agenda := ite_agenda (modHub_agenda ..) rfl
  exact (ite_agenda rfl rfl : s3.agenda = s2.agenda).trans h2
theorem Obeys.disarmCheck (h : Obeys q n Q s) (hQ : HeadRule Q) (e : Fin 16) : Obeys q n Q (disarmCheck s e) := by
  unfold Machine.disarmCheck
  extract_lets x s1 y s2
  have ended : Obeys q n Q s1 :=
    List.foldlRecOn (motive := Obeys q n Q) _ _ h fun t ht _ _ =>
      List.foldlRecOn (motive := Obeys q n Q) _ _ ht fun t ht _ _ => ite_obeys (ht.endCmd hQ ..) ht
  have h2 : Obeys q n Q s2 := ended.of_queues rfl
  exact ite_obeys (ite_obeys (h2.agenda (engineClear_agenda ..)) h2) h
theorem Obeys.disarmStart (h : Obeys q n Q s) (hQ : HeadRule Q) (e : Fin 16) : Obeys q n Q (disarmStart s e) := by
  have marked : Obeys q n Q (s.modCreel e fun x => { x with st := 2 }) := h.of_queues rfl
  exact ite_obeys (marked.disarmCheck hQ e) h
theorem Obeys.engineReset (h : Obeys q n Q s) (hQ : HeadRule Q) (i : Nat) : Obeys q n Q (engineReset s i).1 := by
  unfold Machine.engineReset
  split
  · exact h
  · split
    · have marked : Obeys q n Q { s with engRst := mput false i true s.engRst } := h.of_queues rfl
      exact (marked.disarmStart hQ _).disarmCheck hQ _
    · exact h.agenda (engineClear_agenda ..)

/-! ## Caches and gather caches -/

theorem seqError_agenda (s : State) (i why : Nat) : (seqError s i why).agenda = s.agenda :=
  (count_agenda ..).trans ((event_notices ..).agenda.trans rfl)
theorem maintCarve_agenda (s : State) (i : Nat) (start units : Option Nat) : (maintCarve s i start units).agenda = s.agenda := by
  unfold maintCarve
  extract_lets c mw cw s1 s2
  clear_value mw cw
  have h1 : s1.agenda = s.agenda := by
    unfold s1
    split <;> rfl
  have h2 : s2.agenda = s.agenda := by
    refine Eq.trans ?_ h1
    unfold s2
    split <;> rfl
  split
  · exact (seqError_agenda ..).trans h2
  · exact (seqError_agenda ..).trans h2
  · exact h2
theorem preloadStart_agenda (s : State) (i : Nat) (ways : BitVec 24) : (preloadStart s i ways).agenda = s.agenda :=
  ite_agenda (seqError_agenda ..) (ite_agenda (seqError_agenda ..) rfl)
theorem gcWrite_agenda (s : State) (e : Nat) (en inv : Bool) : (gcWrite s e en inv).agenda = s.agenda := by
  unfold gcWrite
  extract_lets s1
  have h1 : s1.agenda = s.agenda := ite_agenda rfl rfl
  refine Eq.trans ?_ h1
  exact ite_agenda (ite_agenda rfl rfl) (ite_agenda rfl rfl)
theorem gcAct_agenda (s : State) (e : Nat) (w : Wr) : (gcAct s e w).agenda = s.agenda := ite_agenda (gcWrite_agenda ..) (ite_agenda rfl rfl)

/-! ## Writes of block pages -/

theorem commonAct_agenda (s : State) (p bank : Nat) (w : Wr) : (commonAct s p bank w).agenda = s.agenda := by
  have irq (t : State) (f : Blk → Blk) : (t.withIrq p f).agenda = t.agenda := (withIrq_notices ..).agenda
  unfold commonAct
  extract_lets s1 s2
  have h1 : s1.agenda = s.agenda := ite_agenda rfl rfl
  have h2 : s2.agenda = s.agenda := (ite_agenda rfl rfl : s2.agenda = s1.agenda).trans h1
  refine ite_agenda (ite_agenda h2 h2) ?_
  exact ite_agenda (irq ..) (ite_agenda (irq ..) (ite_agenda (irq ..) (ite_agenda rfl rfl)))

/-- A write that reaches no bit sets none. -/
theorem Wr.hits_none {w : Wr} (h : w.wm = 0) (i : Nat) : w.hits i = false := by simp [Wr.hits, bit, h]
theorem Wr.sets_none {w : Wr} (h : w.wm = 0) (i : Nat) : w.sets i = false := by simp [Wr.sets, bit, h]

/-- Registers without a field that the write reaches stay (R639). -/
theorem hubAct_none {h : Hub} {w : Wr} (hw : w.wm = 0) (ho : w.off ≠ 0x118) : hubAct s h w = s := by
  unfold hubAct
  simp [ho, hw, Wr.hits_none hw, Wr.sets_none hw]
theorem mgtAct_none {w : Wr} (hw : w.wm = 0) : mgtAct s w = s := by
  unfold mgtAct
  simp [hw, Wr.hits_none hw, Wr.sets_none hw]
theorem seqAct_none {h : Hub} {w : Wr} (hw : w.wm = 0) : seqAct s h w = s := by
  unfold seqAct
  simp [hw, Wr.hits_none hw]
theorem tdcAct_none {n : Tensor} {w : Wr} (hv : w.v = 0) : tdcAct s n w = s := if_pos hv
/-- The hub page asks for the reset of an engine (R559). -/
theorem hubAct_reset (h : Obeys q n Q s) (hQ : HeadRule Q) (k : Hub) {w : Wr} (ho : w.off = 0x118) : Obeys q n Q (hubAct s k w) := by
  unfold hubAct
  extract_lets s1 s2 s3 s4 s5 ask r
  have asked (a : State × Bool) (b : Bool) (i : Nat) (ha : Obeys q n Q a.1) : Obeys q n Q (ask a b i).1 := by
    unfold ask
    split
    · exact ha.engineReset hQ i
    · exact ha
  have both : Obeys q n Q r.1 := asked _ _ _ (asked _ _ _ h)
  rw [if_neg (by rw [ho]; decide), if_neg (by rw [ho]; decide), if_pos ho]
  exact ite_obeys h (both.agenda (modHub_agenda ..))
theorem ledAct_agenda (s : State) (h : Hub) (bank ctx : Nat) (w : Wr) : (ledAct s h bank ctx w).agenda = s.agenda := by
  have led (f : Led → Led) : (s.modLed h f).agenda = s.agenda := modHub_agenda ..
  unfold ledAct viewRelease
  exact ite_agenda rfl (ite_agenda (led _) (ite_agenda (ite_agenda (led _) rfl) (ite_agenda (led _) (ite_agenda (ite_agenda (led _) rfl)
    (ite_agenda (ite_agenda (led _) rfl) (led _))))))
/-- Maintenance and preload (R361, R364). -/
theorem ccAct_agenda (s : State) (i : Nat) {w : Wr} (ho : w.off = 0x110 ∨ w.off = 0x130) : (ccAct s i w).agenda = s.agenda := by
  unfold ccAct
  extract_lets op s1 ways
  have h1 : s1.agenda = s.agenda := ite_agenda rfl rfl
  refine ite_agenda rfl ?_
  rcases ho with ho | ho <;> rw [if_neg (by rw [ho]; decide)]
  · rw [if_pos ho]
    exact (maintCarve_agenda ..).trans h1
  · rw [if_neg (by rw [ho]; decide), if_neg (by rw [ho]; decide), if_neg (by rw [ho]; decide), if_neg (by rw [ho]; decide)]
    exact ite_agenda (preloadStart_agenda ..) rfl
theorem cbAct_agenda (s : State) (h : Hub) (bank : Nat) (w : Wr) : (cbAct s h bank w).agenda = s.agenda := by
  have clear (g : Nat) : (cbClear s h g).agenda = s.agenda := ite_agenda rfl (modHub_agenda ..)
  exact ite_agenda (gcAct_agenda ..) (ite_agenda rfl (ite_agenda (modHub_agenda ..) (ite_agenda (clear _) rfl)))
theorem qmAct_select (s : State) (d : DieId) (bank : Nat) {w : Wr} (ho : w.off = 0x100) : (qmAct s d bank w).agenda = s.agenda := by
  unfold qmAct
  refine ite_agenda rfl ?_
  rw [if_pos ho]
  exact ite_agenda rfl rfl

/-- The registers of a page without a field that any requester may write. -/
def Owned (k : PageKind) (o : Nat) : Prop :=
  match k with
  | .hub _ => o ≠ 0x118
  | .hcc _ | .scc _ => o ≠ 0x110 ∧ o ≠ 0x130
  | .qm _ => o ≠ 0x100
  | .led _ | .cb _ | .cph _ | .eng _ _ | .scr _ => False
  | _ => True
theorem fieldsOf_owned {k : PageKind} {o : Nat} (ho : 0x100 ≤ o) (hk : Owned k o) : ∀ f ∈ fieldsOf k o, f.who ≠ .any := by
  have hc : o ≠ 0x010 ∧ o ≠ 0x018 ∧ o ≠ 0x01C ∧ o ≠ 0x020 ∧ o ≠ 0x030 ∧ ¬ o < 0x100 := by omega
  unfold fieldsOf
  cases k
  all_goals simp only [Owned] at hk
  all_goals simp only [reduceCtorEq, if_false, *]
  all_goals repeat' split
  all_goals simp [rw, ac]

/-- A write of a block page that reaches, beside fields that any requester may write, none. -/
theorem Obeys.blockAct (h : Obeys q n Q s) (hQ : HeadRule Q) (k : PageKind) (bank ctx : Nat) (found : List NsFound) {w : Wr}
    (none : Owned k w.off → w.wm = 0) (acts : (∃ n, k = .tdc n) → w.v = 0) : Obeys q n Q (blockAct s k bank ctx found w) := by
  have same {t : State} (e : t = s) : Obeys q n Q t := e ▸ h
  cases k with
  | hub k =>
    by_cases e : w.off = 0x118
    · exact hubAct_reset h hQ k e
    · exact same (hubAct_none (none e) e)
  | err d => exact ite_obeys (ite_obeys (h.of_queues rfl) h) (ite_obeys h (h.of_queues rfl))
  | mgt _ => exact same (mgtAct_none (none trivial))
  | ltu _ => exact same (if_pos (none trivial))
  | seq _ => exact same (seqAct_none (none trivial))
  | gov _ => exact same (if_pos (none trivial))
  | led k => exact h.agenda (ledAct_agenda ..)
  | mrm _ | gmc _ | smc _ => exact same (if_pos (none trivial))
  | hcc _ | scc _ =>
    by_cases e : w.off = 0x110 ∨ w.off = 0x130
    · exact h.agenda (ccAct_agenda s _ e)
    · exact same (if_pos (none (not_or.1 e)))
  | xlt _ => exact same (if_pos (none trivial))
  | qm _ =>
    by_cases e : w.off = 0x100
    · exact h.agenda (qmAct_select s _ _ e)
    · exact same (if_pos (none e))
  | flk _ | slk _ | hlk _ => exact same (if_pos (none trivial))
  | cb _ => exact h.agenda (cbAct_agenda ..)
  | cph _ => exact h.agenda (gcAct_agenda ..)
  | eng _ _ => exact ite_obeys (h.agenda (gcAct_agenda ..)) (ite_obeys h (h.of_queues rfl))
  | tdc _ => exact same (tdcAct_none (acts ⟨_, rfl⟩))
  | scr _ => exact ite_obeys (h.of_queues rfl) h
  | dlk _ _ | core _ | cmu _ | none => exact h

/-! ## The write (R12–R14, R639) -/

theorem mayWrite_engine (s : State) (h : Hub) (r : QIdx) (w : Writer) : mayWrite s h (.self (.engine r)) w = decide (w = .any) := by
  cases w <;> rfl
/-- A write that may not set a bit acts on none. -/
theorem mergeFields_acts (may : Writer → Bool) (cur written v : Nat) (l : List Field) (h : ∀ f ∈ l, may f.who = false ∧ f.act = true) :
    (mergeFields may cur written v l).1 = 0 := by
  induction l with
  | nil => rfl
  | cons f l ih =>
    obtain ⟨hm, ha⟩ := h f List.mem_cons_self
    have hl := ih fun g hg => h g (List.mem_cons_of_mem _ hg)
    simp [mergeFields, hm, ha, hl]
theorem fieldsOf_tdc {m : Tensor} {o : Nat} (ho : 0x100 ≤ o) : ∀ f ∈ fieldsOf (.tdc m) o, f.who = .mgmt ∧ f.act = true := by
  have hc : o ≠ 0x010 ∧ o ≠ 0x018 ∧ o ≠ 0x01C ∧ o ≠ 0x020 ∧ o ≠ 0x030 ∧ ¬ o < 0x100 := by omega
  unfold fieldsOf
  simp only [reduceCtorEq, if_false, hc]
  split <;> simp [ac]
/-- The registers that a write meets, one after the other, and the violation that it may end with. -/
theorem Obeys.writeEach (h : Obeys q n Q s) {f : State × Bool → Nat × Nat → State × Bool} (hf : ∀ a b, Obeys q n Q a.1 → Obeys q n Q (f a b).1)
    (l : List (Nat × Nat)) (k : Hub) (kind : Nat) (tag : ReqTag) (a : Nat) :
    Obeys q n Q (if (l.foldl f (s, false)).2 then fwViolation (l.foldl f (s, false)).1 k kind tag a else (l.foldl f (s, false)).1) := by
  have each : Obeys q n Q (l.foldl f (s, false)).1 := List.foldlRecOn (motive := fun a => Obeys q n Q a.1) l f h fun a ha b _ => hf a b ha
  exact ite_obeys (each.agenda (fwViolation_agenda ..)) each
/-- An engine's write of registers. -/
theorem Obeys.regWrite (h : Obeys q n Q s) (hQ : HeadRule Q) (r : QIdx) (o size v : Nat) : Obeys q n Q (regWrite s (.self (.engine r)) o size v) := by
  have denied (a : State) (k : Hub) {f : Field} (hf : f.who ≠ .any) : mayWrite a k (.self (.engine r)) f.who = false := by
    rw [mayWrite_engine]
    exact decide_eq_false hf
  unfold Machine.regWrite
  dsimp only
  split
  · refine h.writeEach (fun a b ha => ?_) ..
    dsimp only
    split
    · exact ha.agenda (commonAct_agenda ..)
    · next low =>
      refine ha.blockAct hQ _ _ _ _ (fun owned => ?_) fun ⟨m, e⟩ => ?_
      · exact mergeFields_none _ _ _ _ _ fun f hf => denied _ _ (fieldsOf_owned (Nat.not_lt.1 low) owned f hf)
      · refine mergeFields_acts _ _ _ _ _ fun f hf => ?_
        rw [e] at hf
        obtain ⟨who, act⟩ := fieldsOf_tdc (Nat.not_lt.1 low) f hf
        exact ⟨denied _ _ (by rw [who]; decide), act⟩
  · exact h.writeEach (fun a b ha => ha.bellAct hQ ..) ..
  · exact h

/-! ## What a command writes at its end -/

theorem gcDrop_agenda (s : State) (e pa k : Nat) : (gcDrop s e pa k).agenda = s.agenda := ite_agenda rfl rfl
/-- One piece of a write, made or sent (R259, R295, R312). -/
theorem Obeys.putPiece (h : Obeys q n Q s) (hQ : HeadRule Q) (r : QIdx) (c : Cmd) (elem va : Nat) (x : Nat × Nat × Acc) (bs : List Byte) :
    Obeys q n Q (putPiece r c elem va s x bs) := by
  unfold Machine.putPiece
  extract_lets k s1 so owe d
  have h1 : Obeys q n Q s1 := h.agenda (gcDrop_agenda ..)
  have owes : Obeys q n Q (owe s1) := h1.modCmd hQ (fun _ => rfl) fun _ => rfl
  exact ite_obeys (owes.of_queues rfl) (ite_obeys (owes.sendWrite ..) (ite_obeys (h1.regWrite hQ ..) (h1.agenda (wrPiece_agenda ..))))
/-- What a command has kept for its end is written, and nothing is kept any more. -/
theorem engClose_obeys (h : Obeys r n (fun _ => True) s) (hc : c.seq = n) (he : ∀ y ∈ (s.queue r).cmds, y.seq = n → c.head = [] → y.head = []) :
    Obeys r n (fun y => y.head = []) (engClose s r c) := by
  unfold engClose
  split
  · next e => exact ⟨h.ok, fun y hy hn => he y hy hn e⟩
  · refine List.foldlRecOn (motive := Obeys r n fun y => y.head = []) _ _ ?_ fun t ht x _ => ht.putPiece headRule_empty ..
    refine ⟨h.ok.modQueue r _, fun y hy hn => ?_⟩
    rw [State.modCmd, State.modQueue_queue s r _ h.ok.wf] at hy
    obtain ⟨z, -, rfl⟩ := List.mem_map.1 hy
    split at hn
    · next e =>
      rw [if_pos e]
    · next e => exact absurd (hn.trans hc.symm) e
end

end Sys2Proof.Machine
end

section
/-!
What engines do to the map of the queues: every boundary of every engine command keeps its keys and its canonical form.
-/

namespace Sys2Proof.Machine

/-! ## Steps of an engine -/

/-- The state that a step of an engine leaves. -/
def Rd.state {α : Type} : Rd α → State
  | .ok _ s => s
  | .stop _ s => s
  | .wait s => s
/-- The map of the queues is sound in what a step leaves. -/
def Rd.Sound {α : Type} (x : Rd α) : Prop := QueuesOk x.state

section
variable {α β : Type} {s t : State} {q : QIdx} {c : Cmd}

theorem Rd.sound_ok (ok : QueuesOk s) (a : α) : (Rd.ok a s).Sound := ok
theorem Rd.sound_wait (ok : QueuesOk s) : (Rd.wait s : Rd α).Sound := ok
theorem Rd.Sound.bind {x : Rd α} {f : α → State → Rd β} (h : x.Sound) (hf : ∀ a s, QueuesOk s → (f a s).Sound) : (x.bind f).Sound := by
  cases x with
  | ok a s => exact hf a s h
  | stop m s => exact h
  | wait s => exact h
theorem Rd.fold_sound {f : β → α → State → Rd β} (hf : ∀ b x s, QueuesOk s → (f b x s).Sound) (l : List α) (b : β) (ok : QueuesOk s) :
    (Rd.fold f l b s).Sound := by
  induction l generalizing b s with
  | nil => exact ok
  | cons x l ih => exact (hf b x s ok).bind fun b t ok => ih b ok
theorem ite_sound {p : Prop} [Decidable p] {x y : Rd α} (hx : x.Sound) (hy : y.Sound) : (if p then x else y).Sound := by
  split
  · exact hx
  · exact hy

theorem QueuesOk.agenda (ok : QueuesOk s) (e : t.agenda = s.agenda) : QueuesOk t := ok.of_queues (queues_of_agenda e)
theorem QueuesOk.putCmd (ok : QueuesOk s) (q : QIdx) (c : Cmd) : QueuesOk (putCmd s q c) := ok.modQueue q _
theorem QueuesOk.modCmd (ok : QueuesOk s) (q : QIdx) (n : W32) (f : Cmd → Cmd) : QueuesOk (s.modCmd q n f) := ok.modQueue q _
theorem QueuesOk.ite {p : Prop} [Decidable p] (hs : QueuesOk s) (ht : QueuesOk t) : QueuesOk (if p then s else t) := by
  split
  · exact hs
  · exact ht
theorem QueuesOk.putThrottled (ok : QueuesOk s) (q : QIdx) (c : Cmd) : QueuesOk (putThrottled s q c) :=
  putThrottled_keeps queuesOk_closed trivial trivial ok
theorem obeys_iff {n : W32} : Obeys q n (fun _ => True) s ↔ QueuesOk s := ⟨Obeys.ok, fun ok => ⟨ok, fun _ _ _ => trivial⟩⟩
theorem QueuesOk.addFlags (ok : QueuesOk s) (q : QIdx) (c : Cmd) (k f : Nat) : QueuesOk (s.addFlags q c k f) := ok.modCmd ..
theorem QueuesOk.setProg (ok : QueuesOk s) (q : QIdx) (c : Cmd) (n : Nat) : QueuesOk (s.setProg q c n) := ok.modCmd ..
theorem QueuesOk.foldl {α : Type} {f : State → α → State} (ok : QueuesOk s) (hf : ∀ t a, QueuesOk t → QueuesOk (f t a)) (l : List α) :
    QueuesOk (l.foldl f s) := List.foldlRecOn (motive := QueuesOk) l f ok fun t ht a _ => hf t a ht

/-! ## Checks and reads (R117–R140, R297–R310) -/

theorem engLook_sound (ok : QueuesOk s) (q : QIdx) (c : Cmd) (rd wr : Bool) (va n : Nat) : (engLook s q c rd wr va n).Sound := by
  have walked (b : Bool) : QueuesOk (countWalks s (qHub q) (s.queue q).ctx va n b) := ok.agenda (countWalks_agenda ..)
  have logged (h : Hub) (fabric : Bool) (k a : Nat) : QueuesOk (logFw s h fabric k a (.engine q)) := ok.agenda (logFw_agenda ..)
  unfold engLook
  dsimp only
  split
  · exact walked false
  · exact walked _
  · exact logged ..
theorem engGate_sound (ok : QueuesOk s) (q : QIdx) (c : Cmd) (wr : Bool) (l : List Span) : (engGate s q c wr l).Sound := by
  have noted : QueuesOk (if linkHeld s q l = (s.cmdNow q c).linkWait then s else s.modCmd q c.seq fun y => { y with linkWait := linkHeld s q l }) :=
    .ite ok (ok.modCmd ..)
  exact ite_sound ok (ite_sound noted noted)
theorem askFor_ok (ok : QueuesOk s) (q : QIdx) (c : Cmd) (l : List (Nat × Nat × Acc)) : QueuesOk (askFor s q c l) := by
  have sent (t : State) (h : QueuesOk t) (x : Nat × Nat × Acc) :
      QueuesOk (sendRead t (queuePart t q) c.cls (.cmd q c.seq c.gen) x.2.2.far x.1 x.2.1) := h.of_queues rfl
  exact QueuesOk.foldl (ok.modCmd ..) (fun t x h => sent t h x) _
theorem noteRead_ok (ok : QueuesOk s) (q : QIdx) (c : Cmd) : QueuesOk (noteRead s q c) := .ite (ok.modCmd ..) ok
theorem countCutUs_queues (s : State) (h : Hub) : (countCutUs s h).queues = s.queues :=
  countCutUs_keeps State.queues (fun _ _ _ => modGov_queues ..) (fun _ _ _ _ => rfl) s h
theorem regRead_queues (s : State) (w : RegWho) (o size : Nat) : (regRead s w o size).2.queues = s.queues := by
  have counted := (countCutUs_queues (countCutUs s 0) 1).trans (countCutUs_queues s 0)
  unfold regRead
  dsimp only
  split
  · rw [apply_ite Prod.snd]
    exact (apply_ite State.queues ..).trans (by rw [State.modBlk_queues, ite_self, counted])
  · exact counted
theorem readPiece_sound (ok : QueuesOk s) (q : QIdx) (c : Cmd) (va : Nat) (bs : List Byte) (x : Nat × Nat × Acc) :
    (readPiece q c va bs x s).Sound := by
  unfold readPiece
  extract_lets got keep
  have kept {t : State} (h : QueuesOk t) (b : List Byte) : QueuesOk (keep t b) := h.modCmd ..
  have read : QueuesOk (rdPiece s x.2.2 (offOf x.1) x.2.1).2.2 := ok.agenda (rdPiece_agenda ..)
  refine ite_sound ok (ite_sound ?_ (ite_sound read ?_))
  · exact kept (ok.of_queues (regRead_queues ..)) _
  · exact .ite (kept read _) read
theorem readTurn_sound (ok : QueuesOk s) (q : QIdx) (c : Cmd) (va : Nat) (bs : List Byte) (x : Nat × Nat × Acc) :
    (readTurn q c va bs x s).Sound := ite_sound (askFor_ok ok ..) (readPiece_sound ok ..)
theorem readPieces_sound (ok : QueuesOk s) (q : QIdx) (c : Cmd) (va : Nat) (l : List (Nat × Nat × Acc)) : (readPieces s q c va l).Sound := by
  have noted := noteRead_ok ok q c
  unfold readPieces
  extract_lets y failed miss
  clear_value failed
  split
  · exact ok
  · exact ite_sound (Rd.fold_sound (fun _ _ _ h => readTurn_sound h ..) _ _ noted)
      (ite_sound (askFor_ok ok ..) (Rd.fold_sound (fun _ _ _ h => readPiece_sound h ..) _ _ noted))
theorem gcMiss_sound (ok : QueuesOk s) (q : QIdx) (c : Cmd) (va n : Nat) (x : Span) : (gcMiss s q c va n x).Sound :=
  (engGate_sound ok ..).bind fun _ _ ok => (readPieces_sound ok ..).bind fun _ s ok => by
    have filled (e : Nat) (x : GcEnt) : QueuesOk (gcFill s e x) := ok.of_queues rfl
    refine QueuesOk.of_queues ?_ (State.count_queues ..)
    exact .ite (filled ..) ok
theorem engRead_sound (ok : QueuesOk s) (q : QIdx) (c : Cmd) (gc : Bool) (va n : Nat) : (engRead s q c gc va n).Sound := by
  refine (engLook_sound ok ..).bind fun l _ ok => (engGate_sound ok ..).bind fun _ s ok => ?_
  dsimp only
  split
  · split
    · split
      · refine Rd.sound_ok (noteRead_ok ?_ q c) _
        exact ok.of_queues rfl
      · exact gcMiss_sound ok ..
    · exact readPieces_sound ok ..
  · exact readPieces_sound ok ..

/-! ## Writes (R259–R314) -/

theorem engTarget_sound (ok : QueuesOk s) (q : QIdx) (c : Cmd) (va n : Nat) : (engTarget s q c va n).Sound := by
  refine (engLook_sound ok ..).bind fun l s ok => ?_
  dsimp only
  split
  · split
    · exact ok.modCmd ..
    · exact ok.modCmd ..
  · exact ok
theorem engPrep_sound (ok : QueuesOk s) (q : QIdx) (c : Cmd) (elem va : Nat) (bs : List Byte) : (engPrep s q c elem va bs).Sound :=
  (engTarget_sound ok ..).bind fun _ _ ok => ite_sound ok ((engGate_sound ok ..).bind fun _ _ ok => ok)
theorem putPiece_ok (ok : QueuesOk s) (q : QIdx) (c : Cmd) (elem va : Nat) (x : Nat × Nat × Acc) (bs : List Byte) :
    QueuesOk (putPiece q c elem va s x bs) := ((obeys_iff (q := q) (n := c.seq)).2 ok |>.putPiece headRule_true ..).ok
theorem putOne_ok (ok : QueuesOk s) (q : QIdx) (c : Cmd) (w : Wr1) : QueuesOk (putOne q c s w) :=
  List.foldlRecOn (motive := fun a : State × List Byte => QueuesOk a.1) _ _ ok fun _ h _ _ => putPiece_ok h ..
theorem sharedWait_ok (ok : QueuesOk s) {l : List Span} (h : sharedWait s l = some t) : QueuesOk t := ok.agenda (sharedWait_agenda h)
theorem engCommit_sound (ok : QueuesOk s) (q : QIdx) (c : Cmd) (l : List Wr1) : (engCommit s q c l).Sound := by
  unfold engCommit
  split
  next h => exact sharedWait_ok ok h
  next => exact ok.foldl (fun _ _ h => putOne_ok h ..) l
theorem engWrite_sound (ok : QueuesOk s) (q : QIdx) (c : Cmd) (elem va : Nat) (bs : List Byte) : (engWrite s q c elem va bs).Sound :=
  (engPrep_sound ok ..).bind fun _ _ ok => engCommit_sound ok ..
theorem checkAll_sound (ok : QueuesOk s) (q : QIdx) (c : Cmd) (src dst : List (Nat × Nat)) : (checkAll s q c src dst).Sound := by
  have srcs (s : State) (ok : QueuesOk s) (va n : Nat) : (srcCheck s q c va n).Sound := by
    have look := engLook_sound ok q c true false va n
    unfold srcCheck
    split
    next e =>
      rw [e] at look
      exact look
    next => exact ok
  have dsts (s : State) (ok : QueuesOk s) (va n : Nat) : (dstCheck s q c va n).Sound := by
    have look := engTarget_sound ok q c va n
    unfold dstCheck
    split
    next e =>
      rw [e] at look
      exact look
    next => exact ok
  exact (Rd.fold_sound (fun _ _ _ ok => srcs _ ok ..) _ _ ok).bind fun _ _ ok => Rd.fold_sound (fun _ _ _ ok => dsts _ ok ..) _ _ ok
theorem nextPiece_sound (ok : QueuesOk s) (q : QIdx) (c : Cmd) (k m : Nat) : (nextPiece s q c k m).Sound := ok.setProg ..
end

end Sys2Proof.Machine
end

section
/-!
The boundaries of plain commands, atomics, moves and tile operations leave the map of the queues sound.
-/

namespace Sys2Proof.Machine

section
variable {s t : State} {q : QIdx} {c : Cmd}

/-! ## Plain commands -/

theorem layerWrite_queues (s : State) (h : Hub) (g : Fin 16) (v : BitVec 16) (b : Option Nat) : (layerWrite s h g v b).queues = s.queues := by
  have advanced (t : State) (u v v' : Nat) : (creelAdvance t h g u v v').queues = t.queues := (congrArg State.queues (creelAdvance_rest t h g u v v') :)
  unfold layerWrite
  extract_lets x
  split
  next u old e =>
    extract_lets yields
    clear_value yields
    rw [apply_ite State.queues, advanced, State.modGrp_queues, ite_self]
theorem waitBody_sound (ok : QueuesOk s) : (waitBody s q c).Sound := by
  have read := engRead_sound ok q c false (wd c.words 0) 8
  unfold waitBody
  extract_lets w still
  have waited {t : State} (h : QueuesOk t) : QueuesOk (still t) := h.modCmd ..
  split
  next e =>
    rw [e] at read
    exact read
  next e =>
    rw [e] at read
    exact waited read
  next b t e =>
    rw [e] at read
    exact ite_sound (QueuesOk.of_queues read (timerRace_queues ..)) ((waited read).modCmd ..)
theorem fenceBody_sound (ok : QueuesOk s) : (fenceBody s q c).Sound := ite_sound ok (ok.modCmd ..)
theorem stepBody_sound (ok : QueuesOk s) : (stepBody s q c).Sound := ite_sound (ok.of_queues (layerWrite_queues ..)) ok

/-! ## Atomics (R328–R345) -/

theorem atomicLook_sound (ok : QueuesOk s) {h : Hub} {ctx : Nat} {r : Requester} {hint op size va : Nat} {m : Miss}
    (e : atomicLook s h ctx r hint op size va = .error (m, t)) : QueuesOk t := by
  have walked (b : Bool) : QueuesOk (countWalks s h ctx va size b) := ok.agenda (countWalks_agenda ..)
  have logged (i : Hub) (f : Bool) (k a : Nat) : QueuesOk (logFw (countWalks s h ctx va size false) i f k a r) :=
    (walked false).agenda (logFw_agenda ..)
  unfold atomicLook at e
  dsimp only at e
  split at e
  · cases e
    exact walked true
  · split at e
    · split at e
      · cases e
        exact walked false
      · cases e
        exact logged ..
      · split at e <;> cases e
        exact walked false
    · split at e
      · cases e
        exact walked false
      · split at e
        · cases e
          exact walked false
        · split at e <;> cases e
          · exact logged ..
          · exact walked false
theorem atomicPut_agenda (s : State) (a : Acc) (o : Nat) (new : List Byte) : (atomicPut s a o new).agenda = s.agenda := by
  have counted (n : Tensor) (hit : Prop) [Decidable hit] :
      (if hit then (s.count (memPage n.val) 0x0C0 1).count (memPage n.val) 0x0C8 1 else s.count (memPage n.val) 0x0C0 1).agenda = s.agenda :=
    ite_agenda rfl rfl
  unfold atomicPut
  extract_lets s1
  have served : s1.agenda = s.agenda := by
    unfold s1
    split
    next n _ _ => exact counted n (mget (0, 0) (s.count (memPage n.val) 0x0C0 1).lastAt n.val = (o / 8, s.now + 1))
    next => rfl
    next => rfl
  clear_value s1
  rw [← served]
  split
  · refine ite_agenda ((wrThrough_agenda ..).trans ?_) (wrPiece_agenda ..)
    have cleared (i : Nat) := poisonOnWrite_agenda (loseResv (s1.count (cachePage i) 0x0C8 1) none (granule o)) o new.length
    exact ite_agenda (cleared _) (cleared _)
  · exact wrPiece_agenda ..
theorem atomicRun_sound (ok : QueuesOk s) (op target v cmp ret : Nat) : (atomicRun s q c op target v cmp ret).Sound := by
  unfold atomicRun
  extract_lets n
  refine ite_sound ok ?_
  split
  next e =>
    have looked := atomicLook_sound ok e
    exact .ite (looked.of_queues (State.count_queues ..)) looked
  next s1 _ x _ =>
    extract_lets o ready
    have walked : QueuesOk s1 := ok.agenda (countWalks_agenda ..)
    have prepared : ready.Sound := (engGate_sound walked ..).bind fun _ _ ok => ite_sound (Rd.sound_ok ok _) <|
      (engTarget_sound ok ..).bind fun _ _ ok => (engGate_sound ok ..).bind fun _ _ ok => Rd.sound_ok ok _
    refine prepared.bind fun l t ok => ite_sound (ok.agenda (ctlCount_agenda ..)) (ite_sound ok ?_)
    split
    next h => exact sharedWait_ok ok h
    next =>
      have dropped := (noteRead_ok ok q c).agenda (gcDrop_agenda _ (qEng q) x.pa n)
      have put := dropped.agenda (atomicPut_agenda _ x.acc o (leBytes n (atomicNew op c.hdr.rz (leNat (coherentBytes (noteRead t q c) o n)) v cmp).1))
      exact QueuesOk.addFlags (put.foldl (fun _ _ h => putOne_ok h ..) l) ..
theorem atomicBody_sound (ok : QueuesOk s) : (atomicBody s q c).Sound := atomicRun_sound ok ..
theorem signalBody_sound (ok : QueuesOk s) : (signalBody s q c).Sound :=
  ite_sound (atomicRun_sound ok ..) ((engWrite_sound ok ..).bind fun _ _ ok => ok)

/-! ## Moves (R220–R223) -/

theorem copyCmd_sound (ok : QueuesOk s) : (copyCmd s q c).Sound := by
  have moved (x : Rd Unit) (hx : x.Sound) (gc : Bool) (a n b k m : Nat) :
      (x.bind fun _ s => (engRead s q c gc a n).bind fun bs s => (engWrite s q c 0 b bs).bind fun _ s => nextPiece s q c k m).Sound :=
    hx.bind fun _ _ ok => (engRead_sound ok ..).bind fun _ _ ok => (engWrite_sound ok ..).bind fun _ _ ok => nextPiece_sound ok ..
  exact ite_sound (moved _ (ite_sound (checkAll_sound ok ..) (Rd.sound_ok ok _)) ..) (moved _ (ite_sound (checkAll_sound ok ..) (Rd.sound_ok ok _)) ..)
theorem fillBody_sound (ok : QueuesOk s) : (fillBody s q c).Sound := by
  refine Rd.Sound.bind (ite_sound (checkAll_sound ok ..) (Rd.sound_ok ok _)) fun _ _ ok => ?_
  exact (engWrite_sound ok ..).bind fun _ _ ok => nextPiece_sound ok ..
theorem indexedBody_sound (ok : QueuesOk s) : (indexedBody s q c).Sound :=
  (engRead_sound ok ..).bind fun _ _ ok => (checkAll_sound ok ..).bind fun _ _ ok =>
    (engRead_sound ok ..).bind fun _ _ ok => (engWrite_sound ok ..).bind fun _ _ ok => nextPiece_sound ok ..

/-! ## Tiles (R216, R218, R462–R464) -/

theorem readTile_sound (ok : QueuesOk s) (t : Tile) : (readTile s q c t).Sound :=
  (Rd.fold_sound (fun _ _ _ ok => (engRead_sound ok ..).bind fun _ _ ok => Rd.sound_ok ok _) _ _ ok).bind fun _ _ ok => Rd.sound_ok ok _
theorem keepRows_sound (ok : QueuesOk s) (rows : List (List Byte × Nat)) : (keepRows s q c rows).Sound := ok.modCmd ..
theorem writeRow_sound (ok : QueuesOk s) (t : Tile) : (writeRow s q c t).Sound :=
  (engWrite_sound ok ..).bind fun _ _ ok => nextPiece_sound (ok.addFlags ..) ..
theorem matmulBody_sound (ok : QueuesOk s) : (matmulBody s q c).Sound := by
  refine ite_sound (writeRow_sound ok _) ((checkAll_sound ok ..).bind fun _ _ ok => (readTile_sound ok _).bind fun _ _ ok => ?_)
  exact (readTile_sound ok _).bind fun _ _ ok => (ite_sound (readTile_sound ok _) (Rd.sound_ok ok _)).bind fun _ _ ok => keepRows_sound ok _
theorem vecBody_sound (ok : QueuesOk s) : (vecBody s q c).Sound := by
  refine ite_sound (writeRow_sound ok _) ((checkAll_sound ok ..).bind fun _ _ ok => (readTile_sound ok _).bind fun _ _ ok => ?_)
  exact (ite_sound (readTile_sound ok _) (Rd.sound_ok ok _)).bind fun _ _ ok => keepRows_sound ok _
theorem readRule_sound (ok : QueuesOk s) (k : Nat) : (readRule s q c k).Sound := (engRead_sound ok ..).bind fun _ _ ok => ite_sound (show QueuesOk _ from ok) (Rd.sound_ok ok _)
theorem addRule_sound (ok : QueuesOk s) (r : Nat × Nat × Nat) (row : List FR) : (addRule s q c r row).Sound :=
  (engRead_sound ok ..).bind fun _ _ ok => (engRead_sound ok ..).bind fun _ _ ok => ok
theorem runOn_sound (ok : QueuesOk s) (out fuel k : Nat) (row : List FR) : (runOn q c out fuel k row s).Sound := by
  induction fuel generalizing s k row with
  | zero => exact ok
  | succ fuel ih =>
    have turn : ((readRule s q c k).bind fun r s' =>
        if r.2.1 = out then (addRule s' q c r row).bind fun x s' => .ok (some x) s' else .ok none s : Rd (Option (List FR))).Sound :=
      (readRule_sound ok k).bind fun _ _ h => ite_sound ((addRule_sound h ..).bind fun _ _ h => h) ok
    unfold runOn
    split
    next e =>
      rw [e] at turn
      exact ih turn ..
    next e =>
      rw [e] at turn
      exact turn
    next => exact ok
    next e =>
      rw [e] at turn
      exact turn
theorem rbBody_sound (ok : QueuesOk s) : (rbBody s q c).Sound := by
  refine (readRule_sound ok _).bind fun _ _ ok => (checkAll_sound ok ..).bind fun _ _ ok => (engRead_sound ok ..).bind fun _ _ ok => ?_
  refine (addRule_sound ok ..).bind fun _ _ ok => (runOn_sound ok ..).bind fun _ _ ok => ?_
  exact (engWrite_sound ok ..).bind fun _ _ ok => (ok.addFlags ..).setProg ..
end

end Sys2Proof.Machine
end

section
/-!
The boundaries of every engine row leave the map of the queues sound.
-/

namespace Sys2Proof.Machine

section
variable {s t : State} {q : QIdx} {c : Cmd}

theorem QueuesOk.count (ok : QueuesOk s) (p off n : Nat) : QueuesOk (s.count p off n) := ok.of_queues (State.count_queues ..)
theorem QueuesOk.disarmStart (ok : QueuesOk s) (e : Fin 16) : QueuesOk (disarmStart s e) :=
  ((obeys_iff (q := 0) (n := 0)).2 ok |>.disarmStart headRule_true e).ok

/-! ## Attention (R414–R437) -/

theorem readKvHead_sound (ok : QueuesOk s) : (readKvHead s q c).Sound :=
  (engRead_sound ok ..).bind fun _ _ ok => ite_sound (Rd.sound_ok ok _) (show QueuesOk _ from ok)
theorem readKvEntry_sound (ok : QueuesOk s) (p : Nat) : (readKvEntry s q c p).Sound :=
  (engRead_sound ok ..).bind fun _ _ ok => ite_sound (show QueuesOk _ from ok) (Rd.sound_ok ok _)
theorem readKv_sound (ok : QueuesOk s) (hd : KvHead) : (readKv s q c hd).Sound := by
  refine (Rd.fold_sound (fun _ _ _ ok => ?_) _ _ ok).bind fun _ _ ok => Rd.fold_sound (fun _ _ _ ok => ?_) _ _ ok
  · exact (readKvEntry_sound ok _).bind fun _ _ ok => Rd.sound_ok ok _
  · exact (engRead_sound ok ..).bind fun _ _ ok => (engRead_sound ok ..).bind fun _ _ ok => Rd.sound_ok ok _
theorem readQPos_sound (ok : QueuesOk s) (qend : Nat) : (readQPos s q c qend).Sound :=
  (engRead_sound ok ..).bind fun _ _ ok => ite_sound (Rd.sound_ok ok _) (show QueuesOk _ from ok)
theorem attnBody_sound (ok : QueuesOk s) : (attnBody s q c).Sound := by
  refine (readKvHead_sound ok).bind fun hd s ok => (engRead_sound ok ..).bind fun qb s ok => ?_
  refine (ite_sound ((readQPos_sound ok _).bind fun _ _ ok => Rd.sound_ok ok _) (Rd.sound_ok ok _)).bind fun pos s ok => ?_
  refine (readKv_sound ok hd).bind fun kv s ok => (checkAll_sound ok ..).bind fun _ s ok => (engWrite_sound ok ..).bind fun _ s ok => ?_
  extract_lets p n empty s1
  have counted : QueuesOk s1 := (((ok.count ..).count ..).count ..).count ..
  exact QueuesOk.foldl (.ite (counted.count ..) counted) (fun _ _ ok => ok.addFlags ..) _
theorem openGroup_ok (ok : QueuesOk s) (h : Hub) (g n : Nat) : QueuesOk (openGroup s h g n) :=
  .of_queues (.ite ok (ok.of_queues (State.count_queues ..))) (modCbGrp_queues ..)
theorem mergeSpan_sound (ok : QueuesOk s) (k : Nat) : (mergeSpan s q c k).Sound := by
  refine (engLook_sound ok ..).bind fun l t h => ite_sound (show QueuesOk s from ok) ?_
  refine (engRead_sound ok ..).bind fun b s ok => ite_sound (show QueuesOk s from ok) ?_
  exact QueuesOk.of_queues (ok.modCmd ..) (State.count_queues ..)
theorem mergeOn_sound (ok : QueuesOk s) (g spans fuel : Nat) : (mergeOn q c g spans fuel s).Sound := by
  induction fuel generalizing s with
  | zero => exact ok
  | succ fuel ih => exact ite_sound ((mergeSpan_sound ok _).bind fun _ _ ok => ih ok) ok
theorem prepAll_sound {α : Type} (ok : QueuesOk s) (e a : α → Nat) (bs : α → List Byte) (l : List α) :
    (Rd.fold (fun (l : List Wr1) x s => (engPrep s q c (e x) (a x) (bs x)).bind fun y s => .ok (l ++ [y]) s) l [] s).Sound :=
  Rd.fold_sound (fun _ _ _ ok => (engPrep_sound ok ..).bind fun _ _ ok => Rd.sound_ok ok _) _ _ ok
theorem combineBody_sound (ok : QueuesOk s) : (combineBody s q c).Sound := by
  unfold combineBody
  extract_lets w h g spans rows dim st opened stalled s1
  refine ite_sound (ok.modCmd ..) ?_
  have begun : QueuesOk s1 := .ite ok ((openGroup_ok ok h g spans).putThrottled ..)
  refine ite_sound begun ((mergeOn_sound begun ..).bind fun _ s ok => ite_sound (Rd.sound_wait (ok.modCmd ..)) ?_)
  refine (prepAll_sound (ok.putThrottled ..) ..).bind fun l s ok => (engCommit_sound ok ..).bind fun _ s ok => ?_
  exact QueuesOk.of_queues (ok.foldl (fun _ _ ok => ok.addFlags ..) _) (State.count_queues ..)

/-! ## Points (R443–R461) -/

theorem probe_sound (ok : QueuesOk s) (key : Nat) : (probe s q c key).Sound := by
  have from_ (fuel i : Nat) (s : State) (ok : QueuesOk s) : (probeFrom q c key fuel i s).Sound := by
    induction fuel generalizing s i with
    | zero => exact ok
    | succ fuel ih => exact (engRead_sound ok ..).bind fun _ _ ok => ite_sound ok (ite_sound ok (ih _ _ ok))
  exact from_ 32 0 s ok
theorem QueuesOk.ptCount (ok : QueuesOk s) (q : QIdx) (off n : Nat) : QueuesOk (ptCount s q off n) := .ite ok (ok.of_queues (State.count_queues ..))
theorem pointBody_sound (ok : QueuesOk s) : (pointBody s q c).Sound := by
  refine (engRead_sound ok ..).bind fun pt s ok => (engRead_sound ok ..).bind fun org s ok => ?_
  split
  next key f e =>
    extract_lets finish
    have finished (s : State) (ok : QueuesOk s) (l : List Wr1) (slot : Option Nat) (code n : Nat) : (finish s l slot code n).Sound :=
      (engPrep_sound ok ..).bind fun _ _ ok => (engCommit_sound ok ..).bind fun _ _ ok =>
        nextPiece_sound (((((ok.ptCount ..).ptCount ..).ptCount ..).ptCount ..).ptCount .. |>.addFlags ..) ..
    clear_value finish
    split
    · exact finished _ ok ..
    · refine (probe_sound ok _).bind fun p s ok => ?_
      split
      · exact ite_sound ((engPrep_sound ok ..).bind fun _ _ ok => finished _ ok ..) (finished _ ok ..)
      · exact ite_sound ((engPrep_sound ok ..).bind fun _ _ ok => finished _ ok ..) (finished _ ok ..)
      · exact finished _ ok ..
theorem candidates_sound (ok : QueuesOk s) (qy : List Byte) (keys : List Nat) : (candidates s q c qy keys).Sound := by
  refine Rd.fold_sound (fun _ key s ok => (probe_sound ok key).bind fun p s ok => ?_) _ _ ok
  split
  · exact (Rd.fold_sound (fun _ _ _ ok => (engRead_sound ok ..).bind fun _ _ ok => Rd.sound_ok ok _) _ _ ok).bind fun _ _ ok => Rd.sound_ok ok _
  · exact ok
theorem searchBody_sound (ok : QueuesOk s) : (searchBody s q c).Sound := by
  refine (engRead_sound ok ..).bind fun _ _ ok => (engRead_sound ok ..).bind fun _ _ ok => (candidates_sound ok ..).bind fun _ _ ok => ?_
  refine (engWrite_sound ok ..).bind fun _ _ ok => ?_
  exact nextPiece_sound (((((ok.ptCount ..).ptCount ..).ptCount ..).ptCount ..).ptCount .. |>.addFlags ..) ..
theorem rulebookBody_sound (ok : QueuesOk s) : (rulebookBody s q c).Sound := by
  refine (engRead_sound ok ..).bind fun b s ok => Rd.Sound.bind (Rd.fold_sound (fun _ x s ok => ?_) _ _ ok) fun r s ok => ?_
  · refine (probe_sound ok _).bind fun p s ok => ?_
    split
    · exact ok
    · exact ok
  · refine (prepAll_sound ok ..).bind fun l s ok => (engPrep_sound ok ..).bind fun x s ok => ?_
    split
    next h => exact sharedWait_ok ok h
    next =>
      refine (engCommit_sound ok ..).bind fun _ s ok => nextPiece_sound (QueuesOk.modCmd ?_ ..) ..
      exact ((ok.ptCount ..).ptCount ..).ptCount ..

/-! ## Storage and creels (R225, R226) -/

theorem storePiece_sound (ok : QueuesOk s) (va : Nat) : (storePiece s q c va).Sound :=
  ite_sound ok ((engWrite_sound ok ..).bind fun _ _ ok => ok.setProg ..)
theorem QueuesOk.nvmeSend (ok : QueuesOk s) (ssd nsid lba n : Nat) (w : Bool) (d : List Byte) (o : NvmeOwner) :
    QueuesOk (nvmeSend s ssd nsid lba n w d o) := ok.of_queues (State.modHub_queues ..)
theorem storeBody_sound (ok : QueuesOk s) : (storeBody s q c).Sound := by
  unfold storeBody
  extract_lets w va lba n nsid ssd me
  split
  · exact ite_sound ok (storePiece_sound ok _)
  · refine ite_sound ok (ite_sound (ite_sound (storePiece_sound ok _) ?_) (ite_sound ok ?_))
    · exact (engLook_sound ok ..).bind fun _ _ ok => ok.nvmeSend ..
    · exact (engRead_sound ok ..).bind fun _ _ ok => ok.nvmeSend ..
theorem armBody_sound (ok : QueuesOk s) : (armBody s q c).Sound := by
  have begun := ok.disarmStart (cpOf q)
  refine ite_sound ok (ite_sound begun ((engRead_sound begun ..).bind fun t s ok => ?_))
  split
  · exact ok
  · exact ok.of_queues rfl
theorem disarmBody_sound (ok : QueuesOk s) : (disarmBody s q c).Sound :=
  have begun := ok.disarmStart (cpOf q)
  ite_sound begun begun

/-- A boundary of any engine row leaves the map of the queues sound. -/
theorem engineRows_sound (ok : QueuesOk s) : ∀ r ∈ engineRows, (r.body s q c).Sound := by
  have nop : (Rd.ok true s : Rd Bool).Sound := ok
  simp only [engineRows, List.forall_mem_cons, List.not_mem_nil, false_implies, implies_true, and_true]
  exact ⟨nop, waitBody_sound ok, signalBody_sound ok, fenceBody_sound ok, stepBody_sound ok, matmulBody_sound ok, rbBody_sound ok, vecBody_sound ok,
    copyCmd_sound ok, indexedBody_sound ok, indexedBody_sound ok, fillBody_sound ok, atomicBody_sound ok, storeBody_sound ok, armBody_sound ok,
    disarmBody_sound ok, combineBody_sound ok, attnBody_sound ok, pointBody_sound ok, pointBody_sound ok, searchBody_sound ok, searchBody_sound ok,
    rulebookBody_sound ok⟩
end

end Sys2Proof.Machine
end

section
/-!
How a command that runs passes a boundary of its row: its engine is its own, its checks have been made, and nothing holds it.
-/

namespace Sys2Proof.Machine

/-! ## Translations do not look at the queues (R132–R140) -/

section
variable (s : State) (m : SMap Queue)
theorem tableOk_queues : tableOk { s with queues := m } = tableOk s := rfl
theorem coherentBytes_queues : coherentBytes { s with queues := m } = coherentBytes s := rfl
theorem isLocal_queues : isLocal { s with queues := m } = isLocal s := rfl
theorem walkFrom_queues (h : Hub) (ctx va : Nat) (l : List Nat) : walkFrom { s with queues := m } h ctx va l = walkFrom s h ctx va l := by
  induction l with
  | nil => rfl
  | cons k l ih =>
    funext a
    unfold walkFrom
    rw [tableOk_queues, coherentBytes_queues, ih]
theorem xlate_queues (h : Hub) (ctx va : Nat) (rd wr : Bool) : xlate { s with queues := m } h ctx va rd wr = xlate s h ctx va rd wr := by
  have hub : State.hub { s with queues := m } h = s.hub h := rfl
  have leaf : leafNow { s with queues := m } h ctx va = leafNow s h ctx va := by simp only [leafNow, walkFrom_queues, hub]
  have now : walkAnswer { s with queues := m } h ctx va rd wr = walkAnswer s h ctx va rd wr := by
    simp only [walkAnswer, leaf]
  simp only [xlate, oldAnswers, now, hub]
theorem peekVa_queues (h : Hub) (ctx va n : Nat) : peekVa { s with queues := m } h ctx va n = peekVa s h ctx va n := by
  simp only [peekVa, xlate_queues, isLocal_queues, coherentBytes_queues]
  rfl
theorem guarded_queues (h : Hub) (ctx : Nat) (hd : Hdr) (w : List Nat) : guarded { s with queues := m } h ctx hd w = guarded s h ctx hd w := by
  simp only [guarded, rbBlocks, attnPages, peekVa_queues]
theorem fillCause_queues (h : Hub) (ctx : Nat) (e : CreelEnt) : fillCause { s with queues := m } h ctx e = fillCause s h ctx e := by
  simp only [fillCause, xlate_queues, isLocal_queues]
  rfl
end

section
variable {s t : State} {q : QIdx} {c d : Cmd}

/-! ## The gate and the engine (R89, R489) -/

/-- Where no command of the engine is ready, nothing is attributed. -/
theorem qosStalls_idle {e : Nat} (h : ∀ p ∈ engineTargets s e, isReady p.2 = false) : qosStalls s e = s := by
  refine List.foldlRecOn (motive := (· = s)) _ _ rfl fun t ht p hp => ?_
  rw [ht, if_neg (by simp [h p hp])]
/-- The gate looks at nothing where the next command has started and none of the engine is ready. -/
theorem gateReady_idle (ht : (s.queue q).target = some c) (hs : c.startT.isSome = true) (h : ∀ p ∈ engineTargets s (qEng q), isReady p.2 = false) :
    gateReady s q = s := by
  have refreshed : refreshReady s q = s := by simp [refreshReady, ht, hs]
  have waits : isReady c = false := by simp [isReady, Option.isNone_eq_false_iff.2 hs]
  simp only [gateReady, refreshed, ht, waits, Bool.false_eq_true, false_and, if_false]
  exact qosStalls_idle h
/-- A command that runs and is not paused goes on where nothing takes its engine from it. -/
theorem goOn_takenUp (ht : (s.queue q).target = some c) (hp : c.phase = .running) (hs : c.startT.isSome = true) (hn : c.paused = false)
    (free : c.waiting = false ∨ lightOp c.hdr = true ∨ ∀ p ∈ engineTargets s (qEng q), p.1 ≠ q → engaged p.2 = false)
    (h : ∀ p ∈ engineTargets s (qEng q), isReady p.2 = false) : goOn s q = (true, takenUp s q c) := by
  have idle : ((engineTargets s (qEng q)).filter fun p => p.1 ≠ q).any (fun p => decide (p.2.cls = 0) && isReady p.2) = false := by
    simpa using fun r x hx _ _ => h (r, x) hx
  unfold goOn takenUp
  simp only [gateReady_idle ht hs h, ht, hp, hn, idle, Bool.false_eq_true, if_false, Bool.and_false, Bool.or_false]
  split
  next w =>
    have clear : (!lightOp c.hdr && ((engineTargets s (qEng q)).filter fun p => p.1 ≠ q).any fun p => engaged p.2) = false := by
      rcases free with e | e | e
      · exact absurd (w.symm.trans e) (by decide)
      · simp [e]
      · rw [Bool.and_eq_false_iff]
        refine .inr ?_
        simpa using fun r x hx hr => e (r, x) hx hr
    exact if_neg (by simpa using clear)
  next => rfl

/-! ## Taking a command up -/

theorem takenUp_ok (ok : QueuesOk s) (q : QIdx) (c : Cmd) : QueuesOk (takenUp s q c) := .ite (ok.putCmd ..) ok
theorem takenUp_upsets (s : State) (q : QIdx) (c : Cmd) : (takenUp s q c).upsets = s.upsets := by
  unfold takenUp
  split <;> rfl
theorem takenUp_boot (s : State) (q : QIdx) (c : Cmd) : (takenUp s q c).boot = s.boot := by
  unfold takenUp
  split <;> rfl
theorem findCmd_takenUp (ok : QueuesOk s) (hf : findCmd s q c.seq = some c) : findCmd (takenUp s q c) q c.seq = some { c with waiting := false } := by
  unfold takenUp
  split
  · have put := putCmd_allNumbered (d := { c with waiting := false }) (Q := (· = { c with waiting := false })) ok.wf ⟨c, mem_of_findCmd hf, rfl⟩ rfl
    obtain ⟨d, hd, rfl⟩ := put.find
    exact hd
  next w =>
    rw [hf, Bool.eq_false_iff.2 w |>.symm]
/-- What the creels say to a command depends on no queue but for its context. -/
theorem creelGate_queues {m : SMap Queue} (ctx : ∀ r, (State.queue { s with queues := m } r).ctx = (s.queue r).ctx) :
    creelGate { s with queues := m } q c = creelGate s q c := by
  have met : metSlots { s with queues := m } q c = metSlots s q c := by
    simp only [metSlots, ctx, guarded_queues, State.creel]
    congr! -- the decisions of the same propositions
  have states : metState { s with queues := m } = metState s := rfl
  have open_ : unfilled { s with queues := m } = unfilled s := rfl
  simp only [creelGate, met, states, open_, ctx, fillCause_queues, State.creel]
theorem creelGate_takenUp (ok : QueuesOk s) : creelGate (takenUp s q c) q { c with waiting := false } = creelGate s q c := by
  have same (u : State) : creelGate u q { c with waiting := false } = creelGate u q c := rfl
  rw [same]
  unfold takenUp
  split
  · exact creelGate_queues fun r => (congrArg Queue.ctx (((ShellsKept.refl ok.wf).putCmd q { c with waiting := false }).shell r) :)
  · rfl

/-! ## The row of a command (R141, R202) -/

/-- The row of another opcode. -/
theorem engineRow_other {mine : Hdr → Bool} {f : State → QIdx → Cmd → Rd Bool} {n : Nat} (ht : (s.queue q).target = some c)
    (ha : accepts (qEngId q) c.hdr.opcode = true) (hm : mine c.hdr = false) : engineRow mine f q n s = s := by
  simp [engineRow, ht, ha, hm]
/-- A running command of an opcode that its engine does not accept, under any row. -/
theorem engineRow_illegal {mine : Hdr → Bool} {f : State → QIdx → Cmd → Rd Bool} {n : Nat} (ht : (s.queue q).target = some c)
    (ha : accepts (qEngId q) c.hdr.opcode = false) (hg : goOn s q = (true, s)) (hf : findCmd s q c.seq = some c)
    (hu : mget 0 s.upsets (cmdKey q c.seq) < 2) :
    engineRow mine f q n s = qosStalls (endCmd s q c .failed cIllegalOp 0xFFFF 0 0) (qEng q) := by
  simp [engineRow, ht, ha, hg, hf, Nat.not_le.2 hu]
/-- One that fails a check of its fields, under its own row. -/
theorem engineRow_refused {mine : Hdr → Bool} {f : State → QIdx → Cmd → Rd Bool} {n k : Nat} {st : Status} (ht : (s.queue q).target = some c)
    (ha : accepts (qEngId q) c.hdr.opcode = true) (hm : mine c.hdr = true) (hg : goOn s q = (true, s)) (hf : findCmd s q c.seq = some c)
    (hu : mget 0 s.upsets (cmdKey q c.seq) < 2) (hb : c.body.isSome = true)
    (hk : checkCmd (qEngId q) s.boot.feat c.dx2 false c.hdr (entryWords c.dx2 c.entry) c.words = some (st, k)) :
    engineRow mine f q n s = qosStalls (endCmd s q c st k 0xFFFF 0 0) (qEng q) := by
  simp [engineRow, ht, ha, hm, hg, hf, Nat.not_le.2 hu, getBody, hb, State.cmdNow, hk]
/-- One that runs passes boundaries. -/
theorem engineRow_boundaries {mine : Hdr → Bool} {f : State → QIdx → Cmd → Rd Bool} {n : Nat} (ok : QueuesOk s) (h : Runs s q c)
    (hm : mine c.hdr = true) : engineRow mine f q n s = qosStalls (passBoundaries f (takenUp s q c) q c.seq n) (qEng q) := by
  have taken := findCmd_takenUp ok h.found
  have going := goOn_takenUp h.target h.phase h.begun h.onward.1 h.taking h.alone
  have now : (takenUp s q c).cmdNow q { c with waiting := false } = { c with waiting := false } := by simp [State.cmdNow, taken]
  have sound : ¬2 ≤ mget 0 (takenUp s q c).upsets (cmdKey q c.seq) := by
    rw [takenUp_upsets]
    exact Nat.not_le.2 h.sound
  have legal : checkCmd (qEngId q) (takenUp s q c).boot.feat c.dx2 false c.hdr (entryWords c.dx2 c.entry) c.words = none := by
    rw [takenUp_boot]
    exact h.legal
  have owner : noteOwner (takenUp s q c) q { c with waiting := false } = takenUp s q c := by
    refine if_neg fun ⟨part, unknown⟩ => ?_
    rcases h.notice with e | e
    · exact absurd (part.symm.trans e) (by decide)
    · exact absurd unknown (by simp [Option.isNone_eq_false_iff.2 e])
  have passes : creelPass (takenUp s q c) q { c with waiting := false } = (true, takenUp s q c) := by
    have fresh : untouched { c with waiting := false } = untouched c := rfl
    unfold creelPass
    rw [fresh, creelGate_takenUp ok]
    rcases h.creel with e | ⟨e, late⟩
    · simp [e]
    · simp [e, late]
  have body : getBody (takenUp s q c) q { c with waiting := false } = .ok true (takenUp s q c) := if_pos h.body
  have hdr : ({ c with waiting := false } : Cmd).hdr = c.hdr := rfl
  have words : ({ c with waiting := false } : Cmd).words = c.words := rfl
  simp [engineRow, h.target, h.taken, hm, going, taken, sound, body, now, hdr, words, legal, owner, passes]

/-! ## The last boundary (R164) -/

theorem passBoundaries_last {f : State → QIdx → Cmd → Rd Bool} {u : State} {k : Nat} (hf : findCmd s q c.seq = some c) (hp : c.phase = .running)
    (hn : c.performed = false) (he : elementIndexed c.hdr.opcode = false ∨ c.unacked = []) (hk : (c.stallNow.map (·.1)) ≠ some cKnotHold)
    (hb : f s q c = .ok true u) : passBoundaries f s q c.seq (k + 1) = engDone (acquire u q c) q c.seq .ok 0 0xFFFF 0 0 := by
  have begins : elementWait s q c = none := if_pos (by simpa using he)
  have now : s.cmdNow q c = c := by simp [State.cmdNow, hf]
  simp [passBoundaries, hf, hp, hn, begins, hk, now, hb]
theorem acquire_ok (ok : QueuesOk s) (q : QIdx) (c : Cmd) : QueuesOk (acquire s q c) :=
  .ite (QueuesOk.of_queues (ok.modCmd ..) (gcAcquire_queues ..)) ok
/-- An ACQ mark that takes effect forgets that its command has read, which closing the command does not look at. -/
theorem findCmd_acquire (ok : QueuesOk s) (hf : findCmd s q c.seq = some d) :
    ∃ e : Cmd, findCmd (acquire s q c) q c.seq = some e ∧ e.phase = d.phase ∧ engClose (acquire s q c) q e = engClose (acquire s q c) q d := by
  have closes (u : State) : engClose u q { d with didRead := false } = engClose u q d := rfl
  unfold acquire
  split
  · have forgot := findCmd_modCmd ok.wf (f := fun y => { y with didRead := false }) (fun _ => rfl) hf
    exact ⟨{ d with didRead := false }, (findCmd_congr (gcAcquire_queues _ (qEng q))).trans forgot, rfl, closes _⟩
  · exact ⟨d, hf, rfl, rfl⟩
/-- What a command keeps for its end is written, and it keeps nothing any more. -/
theorem engClose_closes (ok : QueuesOk s) (hf : findCmd s q c.seq = some c) :
    QueuesOk (engClose s q c) ∧ ∀ d, findCmd (engClose s q c) q c.seq = some d → d.head = [] := by
  by_cases e : c.head = []
  · rw [engClose, if_pos e]
    exact ⟨ok, fun d hd => Option.some.inj (hf.symm.trans hd) ▸ e⟩
  · have closed := engClose_obeys (r := q) ((obeys_iff (n := c.seq)).2 ok) rfl fun _ _ _ k => absurd k e
    exact ⟨closed.ok, fun d hd => closed.all d (mem_of_findCmd hd) (seq_of_findCmd hd)⟩
/-- A command whose accesses are all acknowledged ends where its last one has been made. -/
theorem engDone_ends (hf : findCmd s q c.seq = some c) (hp : c.phase = .running) (hd : findCmd (engClose s q c) q c.seq = some d)
    (hu : d.unacked = []) : engDone s q c.seq .ok 0 0xFFFF 0 0 = endCmd (engClose s q c) q d .ok 0 0xFFFF 0 0 := by
  have now : (engClose s q c).cmdNow q c = d := by simp [State.cmdNow, hd]
  simp [engDone, hf, hp, now, hu]
/-- The end of a listed command that has kept nothing, and what arbitration attributes after it. -/
theorem endCmd_stalled (ok : QueuesOk s) (hf : findCmd s q c.seq = some c) (hh : c.head = []) (st : Status) (k : Nat) (idx : BitVec 16) (va ea : Nat) :
    (qosStalls (endCmd s q c st k idx va ea) (qEng q)).still = s.still ∧
      ∃ d, findCmd (qosStalls (endCmd s q c st k idx va ea) (qEng q)) q c.seq = some d ∧ EndOf c st k d := by
  obtain ⟨ok', still⟩ := endCmd_still hh ok st k idx va ea
  have ended := endCmd_allNumbered ok ⟨c, mem_of_findCmd hf, rfl⟩ st k idx va ea
  exact ⟨(qosStalls_still ..).trans still, (ended.qosStalls (endOf_gateProof c st k) ok' (qEng q)).find⟩
/-- A command whose accesses are all acknowledged once it is closed ends OK, and leaves what closing it left. -/
theorem engDone_ended {n : W32} (ok : QueuesOk s) (hf : findCmd s q n = some c) (hp : c.phase = .running)
    (hu : (findCmd (engClose s q c) q n).map (·.unacked) = some []) :
    (qosStalls (engDone s q n .ok 0 0xFFFF 0 0) (qEng q)).still = (engClose s q c).still ∧
      EndedOk (qosStalls (engDone s q n .ok 0 0xFFFF 0 0) (qEng q)) q n := by
  obtain rfl := seq_of_findCmd hf
  obtain ⟨d, hd, hu⟩ := Option.map_eq_some_iff.1 hu
  obtain ⟨ok', clear⟩ := engClose_closes ok hf
  have seq := seq_of_findCmd hd
  obtain ⟨still, e, he, ends⟩ := endCmd_stalled ok' ((congrArg _ seq).trans hd) (clear d hd) .ok 0 0xFFFF 0 0
  rw [engDone_ends hf hp hd hu]
  exact ⟨still, e, (congrArg _ seq.symm).trans he, ends.ended, ends.status⟩
/-- A row whose body passes a command's last boundary ends it OK, and leaves what closing it left. -/
theorem engineRow_ends {mine : Hdr → Bool} {f : State → QIdx → Cmd → Rd Bool} {n : Nat} (ok : QueuesOk s) (h : Runs s q c) (hm : mine c.hdr = true)
    {s1 : State} (hb : f (takenUp s q c) q { c with waiting := false } = .ok true s1) (ok1 : QueuesOk s1) (hd : findCmd s1 q c.seq = some d)
    (hp : d.phase = .running)
    (hu : (findCmd (engClose (acquire s1 q { c with waiting := false }) q d) q c.seq).map (·.unacked) = some []) :
    (engineRow mine f q (n + 1) s).still = (engClose (acquire s1 q { c with waiting := false }) q d).still ∧
      EndedOk (engineRow mine f q (n + 1) s) q c.seq := by
  have taken := findCmd_takenUp ok h.found
  have last := passBoundaries_last (c := { c with waiting := false }) (k := n) taken h.phase h.onward.2 h.before.1 h.before.2 hb
  obtain ⟨x, hx, phase, same⟩ := findCmd_acquire (c := { c with waiting := false }) ok1 hd
  rw [← same] at hu ⊢
  rw [engineRow_boundaries ok h hm, last]
  exact engDone_ended (acquire_ok ok1 ..) hx (phase.trans hp) hu
end

/-! ## The rows (R141, R164, R202) -/

/-- What an engine row's step does. -/
theorem exec_engineRow {s : State} (hw : Works s) (q : QIdx) (t : Nat) :
    ∀ r ∈ engineRows, ∃ n, exec (r.row q t) s = .next (engineRow r.mine r.body q (n + 1) (s.toTime t)) := by
  have row (mine : Hdr → Bool) (body : State → QIdx → Cmd → Rd Bool) (n : Nat) :
      onwardAt s t (engineRow mine body q (n + 1)) = .next (engineRow mine body q (n + 1) (s.toTime t)) := onwardAt_of_works hw t _
  simp only [engineRows, List.forall_mem_cons, List.not_mem_nil, false_implies, implies_true, and_true]
  refine ⟨?_, ?_, ?_, ?_, ?_, ?_, ?_, ?_, ?_, ?_, ?_, ?_, ?_, ⟨storeSteps - 1, row _ storeBody _⟩, ?_, ?_, ?_, ?_, ?_, ?_, ?_, ?_, ?_⟩
  all_goals exact ⟨0, row _ _ _⟩

/-- Settles O20: every body leaves the map of the queues sound (`engineRows_sound`), so that the row that passes the last boundary ends its
command (`engineRow_ends`); a command that is not accepted, or fails a check, ends by `endCmd_stalled`. -/
theorem engineRowsComplete : Obligations.EngineRowsComplete := by
  refine ⟨fun r hr s q t c hw hc h => ?_, fun s q t c hw hc ht hf hp hs hn hwt alone hu hh sound r hr => ?_⟩
  · have ok := hc.queuesOk.toTime t
    obtain ⟨n, e⟩ := exec_engineRow hw q t r hr
    rw [e]
    refine ⟨fun other => congrArg _ (engineRow_other h.target h.taken other), fun s1 d hm hb _ hd hp hu => ?_⟩
    have ok1 : QueuesOk s1 := by
      have kept := engineRows_sound (q := q) (c := { c with waiting := false }) (takenUp_ok ok q c) r hr
      rwa [hb] at kept
    obtain ⟨still, ended⟩ := engineRow_ends (n := n) ok h hm hb ok1 hd hp hu
    exact ⟨_, rfl, ended, sameMemory_of_still still, sameStart_of_still still⟩
  · have ok := hc.queuesOk.toTime t
    obtain ⟨n, e⟩ := exec_engineRow hw q t r hr
    have going : goOn (s.toTime t) q = (true, s.toTime t) := by
      rw [goOn_takenUp (s := s.toTime t) ht hp hs hn (.inl hwt) alone, takenUp, hwt]
      rfl
    have ends (st : Status) (k : Nat) (h : engineRow r.mine r.body q (n + 1) (s.toTime t) = qosStalls (endCmd (s.toTime t) q c st k 0xFFFF 0 0) (qEng q)) :
        ∃ s' d, exec (r.row q t) s = .next s' ∧ findCmd s' q c.seq = some d ∧ d.phase = .ended ∧ d.status = st ∧ d.cause = k ∧
          SameMemory s s' ∧ SameStart s s' := by
      obtain ⟨still, d, hd, x⟩ := endCmd_stalled (s := s.toTime t) ok hf hh st k 0xFFFF 0 0
      rw [← h] at still hd
      exact ⟨_, d, e, hd, x.ended, x.status, x.cause, sameMemory_of_still (s := s.toTime t) still, sameStart_of_still (s := s.toTime t) still⟩
    refine ⟨fun ha => ?_, fun st k ha hm hb hk => ?_⟩
    · exact ends _ _ (engineRow_illegal (s := s.toTime t) ht ha going hf sound)
    · exact ends _ _ (engineRow_refused (s := s.toTime t) ht ha hm going hf sound hb hk)

end Sys2Proof.Machine
end

section
/-!
Four statements that let no byte of the package change but those that a command writes, and that fail where one of its accesses takes an
allocation from the dirty line behind no memory of `gapPackage`: the line is written back, and an observer of the gap sees its bytes.
-/

namespace Sys2Proof.Machine

/-! ## The package -/

/-- The package of `gapPackage` with an SSD at the storage port of H0 and with the gather cache of engine 6 off. -/
def gapPort (q : QIdx) (c : Cmd) : State :=
  { gapPackage q c with
    hub0 := { gapHub with slk := { en := true, nss := [{ ssd := 2, nsid := 1, block := 512 }] } }
    gcs := [(6, { en := false })] }

theorem gapPort_works (q : QIdx) (c : Cmd) : Works (gapPort q c) := rfl

theorem gapPort_canonical (q : QIdx) (c : Cmd) (hq : mwf {} (gapPort q c).queues = true) : Canonical (gapPort q c) where
  __ := gapPackage_canonical q c hq
  gcs := rfl
  grps _ := by unfold State.hub; split <;> rfl
  ports _ := by unfold State.hub; split <;> rfl
  cbGrps _ := by unfold State.hub; split <;> rfl
  seqs _ := by unfold State.hub; split <;> rfl

theorem gapPort_cachesOk (q : QIdx) (c : Cmd) : CachesOk (gapPort q c) :=
  SameStored.cachesOk (s := gapPackage q c) ⟨rfl, rfl, rfl⟩ (gapPackage_cachesOk q c)

theorem gapPort_noPoison (q : QIdx) (c : Cmd) : NoPoison (gapPort q c) := gapPackage_noPoison q c

theorem gapPort_held (q : QIdx) (c : Cmd) (t : Nat) (h : Hub) : (((gapPort q c).toTime t).hub h).xlt.held = [] := by
  unfold State.hub
  split <;> rfl

/-! ## A command at its first boundary -/

/-- A running command of which nothing is performed, with what has come from an SSD. -/
def begunCmd (op : Nat) (w : List W64) (acc : List Nat := []) : Cmd :=
  { entry := BitVec.ofNat 8 op :: List.replicate 63 0, dx2 := true, phase := .running, startT := some 5, readyT := some 5, body := some w
    acc := acc }

/-- What is left to ask before such a command runs: it is its queue's next, legal, let on by its creel, and its engine is free. -/
theorem begunCmd_runs {q : QIdx} {op : Nat} {w : List W64} {acc : List Nat} {t : Nat} :
    let c := begunCmd op w acc
    let u := (gapPort q c).toTime t
    ((u.queue q).target = some c ∧ findCmd u q c.seq = some c) →
    (accepts (qEngId q) c.hdr.opcode = true ∧
      checkCmd (qEngId q) u.boot.feat c.dx2 false c.hdr (entryWords c.dx2 c.entry) c.words = none ∧ isPartial c.hdr = false) →
    (creelGate u q c = .go ∧ ∀ p ∈ engineTargets u (qEng q), isReady p.2 = false) → Runs u q c := by
  intro c u ⟨target, found⟩ ⟨taken, legal, plain⟩ ⟨creel, alone⟩
  exact
    { target, found, taken, legal, alone
      phase := rfl, begun := rfl, onward := ⟨rfl, rfl⟩, taking := .inl rfl, body := rfl, creel := .inr ⟨creel, rfl⟩, notice := .inl plain
      sound := Nat.zero_lt_two, before := ⟨.inr rfl, nofun⟩, head := .inr rfl, leaves := heldCurrent_of_held_nil (gapPort_held ..) _ }

/-- The n bytes at offset o of the GDDR of H0, which the package maps at 0x200000. -/
def gddrSpan (o n : Nat) : Span := { pa := gddrBase 0 + o, n := n, acc := { hint := 0 } }

/-- An instruction writes the dirty line behind no memory back: its first byte, which was not to be seen, is. -/
def ShowsGap (i : Instr) (s : State) : Prop :=
  coherentByte s gapByte = 0 ∧ ∃ t, exec i s = .next t ∧ coherentByte t gapByte = 1

theorem ShowsGap.changed {i : Instr} {s s' : State} (h : ShowsGap i s) (next : exec i s = .next s') :
    coherentByte s' gapByte ≠ coherentByte s gapByte := by
  obtain ⟨before, t, next', after⟩ := h
  obtain rfl : s' = t := Host.Outcome.next.inj (next.symm.trans next')
  rw [after, before]
  decide

/-! ## WAIT -/

/-- A WAIT for a sync word in the GDDR. -/
def gapWait : Cmd := begunCmd opWait [0x200000, 5, 0]

theorem gapWait_runs : Runs ((gapPort 216 gapWait).toTime 9) 216 gapWait := by
  refine begunCmd_runs ?_ ?_ ?_ <;> decide +kernel

theorem gapWait_reads : ReadsHere ((gapPort 216 gapWait).toTime 9) 216 gapWait (wd gapWait.words 0) 8 (gddrSpan 0 8) := by
  refine ⟨?_, ?_, ?_, ?_, ?_, ?_, ⟨?_, ?_, ?_⟩⟩ <;> decide +kernel

theorem gapWait_showsGap : ShowsGap (.wait 216 9) (gapPort 216 gapWait) := ⟨by decide +kernel, _, rfl, by decide +kernel⟩

/-- Refutes O21: the look of a WAIT at a sync word in the GDDR takes the way of a dirty line behind no memory in the hub cache; the write-back
changes a byte, where memory was to stay. -/
theorem not_plainCommandsAndWait : ¬ Obligations.PlainCommandsAndWait := by
  rintro ⟨-, wait⟩
  obtain ⟨s', next, -, -, frame⟩ := wait (gapPort 216 gapWait) 216 9 gapWait (gddrSpan 0 8) (gapPort_works _ _)
    (gapPort_canonical _ _ (by decide +kernel)) (gapPort_cachesOk _ _) (gapPort_noPoison _ _) gapWait_runs rfl (by decide) gapWait_reads
    (.wait 216 9) List.mem_cons_self
  exact gapWait_showsGap.changed next (frame gapByte)

/-! ## SIGNAL -/

/-- A SIGNAL that stores 5 in the GDDR. -/
def gapSignal : Cmd := begunCmd opSignal [0x200000, 5, 0]

theorem gapSignal_runs : Runs ((gapPort 216 gapSignal).toTime 9) 216 gapSignal := by
  refine begunCmd_runs ?_ ?_ ?_ <;> decide +kernel

theorem gapSignal_writes : WritesHere ((gapPort 216 gapSignal).toTime 9) 216 gapSignal (wd gapSignal.words 0) 8 (gddrSpan 0 8) := by
  refine ⟨?_, ?_, ?_, ?_, ?_, ?_, ?_, ⟨?_, ?_, ?_⟩⟩ <;> decide +kernel

theorem gapSignal_showsGap : ShowsGap (.signal 216 9) (gapPort 216 gapSignal) := ⟨by decide +kernel, _, rfl, by decide +kernel⟩

/-- Refutes O22: the write of a SIGNAL to the GDDR evicts a dirty line behind no memory, whose write-back changes a byte outside it. -/
theorem not_fillAndSignalWrite : ¬ Obligations.FillAndSignalWrite := by
  intro h
  obtain ⟨-, signal⟩ := h (gapPort 216 gapSignal) 216 9 gapSignal (gddrSpan 0 8) (gapPort_works _ _)
    (gapPort_canonical _ _ (by decide +kernel)) (gapPort_cachesOk _ _) gapSignal_runs rfl
  obtain ⟨s', next, -, -, frame⟩ := signal (by decide) (by decide) gapSignal_writes
  exact gapSignal_showsGap.changed next (frame gapByte (.inr (by decide)))

/-! ## COPY -/

/-- A COPY of eight bytes within one granule of the GDDR. -/
def gapCopy : Cmd := begunCmd opCopy [0x200000, 0x200008, 8]

theorem gapCopy_runs : Runs ((gapPort 216 gapCopy).toTime 9) 216 gapCopy := by
  refine begunCmd_runs ?_ ?_ ?_ <;> decide +kernel

theorem gapCopy_checked : checkAll ((gapPort 216 gapCopy).toTime 9) 216 gapCopy [(wd gapCopy.words 0, 8)] [(wd gapCopy.words 1, 8)] =
    .ok () ((gapPort 216 gapCopy).toTime 9) := rfl

theorem gapCopy_reads : ReadsHere ((gapPort 216 gapCopy).toTime 9) 216 gapCopy (wd gapCopy.words 0) 8 (gddrSpan 0 8) := by
  refine ⟨?_, ?_, ?_, ?_, ?_, ?_, ⟨?_, ?_, ?_⟩⟩ <;> decide +kernel

theorem gapCopy_writes : WritesHere ((gapPort 216 gapCopy).toTime 9) 216 gapCopy (wd gapCopy.words 1) 8 (gddrSpan 8 8) := by
  refine ⟨?_, ?_, ?_, ?_, ?_, ?_, ?_, ⟨?_, ?_, ?_⟩⟩ <;> decide +kernel

theorem gapCopy_showsGap : ShowsGap (.copy 216 1 9) (gapPort 216 gapCopy) := ⟨by decide +kernel, _, rfl, by decide +kernel⟩

/-- Refutes O23: a COPY within the GDDR evicts a dirty line behind no memory, whose write-back changes a byte outside the destination. -/
theorem not_movesCarryBytes : ¬ Obligations.MovesCarryBytes := by
  intro h
  obtain ⟨copy, -⟩ := h (gapPort 216 gapCopy) 216 9 0 gapCopy (gddrSpan 0 8) (gddrSpan 8 8) (gddrSpan 0 8) (gapPort_works _ _)
    (gapPort_canonical _ _ (by decide +kernel)) (gapPort_cachesOk _ _) (gapPort_noPoison _ _) gapCopy_runs rfl (by decide +kernel) rfl
  obtain ⟨s', next, -, -, frame⟩ := copy 8 (by decide) (by decide) (by decide) (fun _ => gapCopy_checked) gapCopy_reads gapCopy_writes
  exact gapCopy_showsGap.changed next (frame gapByte (.inr (by decide)))

/-! ## STORE -/

/-- A STORE of one block to the GDDR, of which two bytes have come from the SSD. -/
def gapStore : Cmd := begunCmd opStore [0x200000, 3, 0x2000000010001] [7, 8]

theorem gapStore_runs : Runs ((gapPort 24 gapStore).toTime 9) 24 gapStore := by
  refine begunCmd_runs ?_ ?_ ?_ <;> decide +kernel

theorem gapStore_writesTo : WritesTo ((gapPort 24 gapStore).toTime 9) 24 gapStore (wd gapStore.words 0) 2 [gddrSpan 0 2] := by
  refine ⟨?_, ?_, ?_, ⟨?_, ?_, ?_⟩⟩ <;> decide +kernel

theorem gapStore_lands : Lands ((gapPort 24 gapStore).toTime 9) 24 gapStore [gddrSpan 0 2] := by
  refine ⟨?_, ?_, ?_⟩ <;> decide +kernel

theorem gapStore_showsGap : ShowsGap (.store 24 9) (gapPort 24 gapStore) := ⟨by decide +kernel, _, rfl, by decide +kernel⟩

/-- Refutes O33: the bytes that a STORE writes to the GDDR evict a dirty line behind no memory, whose write-back changes a byte outside
them. -/
theorem not_storagePortServes : ¬ Obligations.StoragePortServes := by
  rintro ⟨-, store⟩
  obtain ⟨-, pieces⟩ := store (gapPort 24 gapStore) 24 9 512 gapStore (gapPort_works _ _) (gapPort_canonical _ _ (by decide +kernel))
    (gapPort_cachesOk _ _) (gapPort_noPoison _ _) gapStore_runs ⟨⟨rfl, rfl⟩, rfl⟩ (by decide) (by decide +kernel) (by decide +kernel)
  obtain ⟨s', next, -, -, frame⟩ := pieces [gddrSpan 0 2] (by decide) rfl (by decide) (by decide) gapStore_writesTo gapStore_lands
  exact gapStore_showsGap.changed next (frame gapByte (by decide +kernel))

end Sys2Proof.Machine
end

section
/-!
The formats of numbers: an encoding is put back as it was decoded (R234, R235, R248, R249). A fraction is read as a rational number, in
which `scaleQ` multiplies by a power of two, `log2Q` finds the binade and `roundQ` keeps a whole number; a number of a format then passes
the rounding unchanged.
-/

namespace Sys2Proof.Machine

/-! ## Fractions -/

theorem scaleQ_snd_ne_zero (num : Nat) {den : Nat} (hd : den ≠ 0) (e : Int) : (scaleQ num den e).2 ≠ 0 := by
  unfold scaleQ
  split <;> simp [hd]

/-- The rational number of a scaled fraction. -/
theorem scaleQ_ratio (num den : Nat) (e : Int) : ((scaleQ num den e).1 : ℚ) / (scaleQ num den e).2 = num / den * 2 ^ e := by
  unfold scaleQ
  split
  · next he =>
    obtain ⟨n, rfl⟩ := Int.eq_ofNat_of_zero_le he
    simp [mul_div_right_comm]
  · next he =>
    obtain ⟨n, rfl⟩ : ∃ n : Nat, e = -n := ⟨(-e).toNat, by omega⟩
    simp [← div_eq_mul_inv, div_div]

/-- A fraction that is a whole number rounds to it in either mode. -/
theorem roundQ_of_whole (rz : Bool) {num den k : Nat} (hd : den ≠ 0) (h : (num : ℚ) / den = k) : roundQ rz num den = (k, false) := by
  have hnum : num = k * den := by
    rw [div_eq_iff (by exact_mod_cast hd)] at h
    exact_mod_cast h
  simp [roundQ, hnum, Nat.pos_of_ne_zero hd]

/-- A power of two scales a fraction to a whole number, to which it rounds. -/
theorem roundQ_scaleQ (rz : Bool) {num den k : Nat} (hd : den ≠ 0) {e : Int} (h : (num : ℚ) / den * 2 ^ e = k) :
    roundQ rz (scaleQ num den e).1 (scaleQ num den e).2 = (k, false) :=
  roundQ_of_whole rz (scaleQ_snd_ne_zero num hd e) ((scaleQ_ratio num den e).trans h)

theorem zpow_log2_le {n : Nat} (hn : n ≠ 0) : (2 : ℚ) ^ (n.log2 : Int) ≤ n := by
  exact_mod_cast Nat.log2_self_le hn
theorem lt_zpow_log2 (n : Nat) : (n : ℚ) < 2 ^ (n.log2 + 1 : Int) := by
  exact_mod_cast Nat.lt_log2_self (n := n)

/-- The difference of the logarithms is the logarithm of a fraction or one more. -/
theorem ratio_bounds {num den : Nat} (hn : num ≠ 0) (hd : den ≠ 0) :
    (2 : ℚ) ^ ((num.log2 : Int) - den.log2 - 1) < num / den ∧ (num : ℚ) / den < 2 ^ ((num.log2 : Int) - den.log2 + 1) := by
  have hpos : (0 : ℚ) < den := by exact_mod_cast Nat.pos_of_ne_zero hd
  constructor
  · rw [lt_div_iff₀ hpos]
    calc (2 : ℚ) ^ ((num.log2 : Int) - den.log2 - 1) * den
        < 2 ^ ((num.log2 : Int) - den.log2 - 1) * 2 ^ (den.log2 + 1 : Int) := by gcongr; exact lt_zpow_log2 den
      _ = 2 ^ (num.log2 : Int) := by rw [← zpow_add₀ two_ne_zero]; congr 1; omega
      _ ≤ num := zpow_log2_le hn
  · rw [div_lt_iff₀ hpos]
    calc (num : ℚ) < 2 ^ (num.log2 + 1 : Int) := lt_zpow_log2 num
      _ = 2 ^ ((num.log2 : Int) - den.log2 + 1) * 2 ^ (den.log2 : Int) := by rw [← zpow_add₀ two_ne_zero]; congr 1; omega
      _ ≤ 2 ^ ((num.log2 : Int) - den.log2 + 1) * den := by gcongr; exact zpow_log2_le hd

/-- The test of `log2Q`: whether a fraction lies below a power of two. -/
theorem lt_scaleQ_iff (num : Nat) {den : Nat} (hd : den ≠ 0) (e : Int) :
    num * (scaleQ den 1 e).2 < (scaleQ den 1 e).1 ↔ (num : ℚ) / den < 2 ^ e := by
  have hden : (0 : ℚ) < den := by exact_mod_cast Nat.pos_of_ne_zero hd
  have hp : (0 : ℚ) < (scaleQ den 1 e).2 := by exact_mod_cast Nat.pos_of_ne_zero (scaleQ_snd_ne_zero den one_ne_zero e)
  have hr := scaleQ_ratio den 1 e
  rw [Nat.cast_one, div_one] at hr
  rw [div_lt_iff₀' hden, ← hr, lt_div_iff₀ hp]
  exact_mod_cast Iff.rfl

/-- `log2Q` is the exponent whose binade holds the fraction. -/
theorem log2Q_of_binade {num den : Nat} (hn : num ≠ 0) (hd : den ≠ 0) {x : Int} (lo : (2 : ℚ) ^ x ≤ num / den)
    (hi : (num : ℚ) / den < 2 ^ (x + 1)) : log2Q num den = x := by
  obtain ⟨above, below⟩ := ratio_bounds hn hd
  have hx : x < (num.log2 : Int) - den.log2 + 1 := (zpow_lt_zpow_iff_right₀ one_lt_two).1 (lo.trans_lt below)
  have hd' : (num.log2 : Int) - den.log2 - 1 < x + 1 := (zpow_lt_zpow_iff_right₀ one_lt_two).1 (above.trans hi)
  simp only [log2Q, lt_scaleQ_iff num hd]
  split
  · next less =>
    have := (zpow_lt_zpow_iff_right₀ one_lt_two).1 (lo.trans_lt less)
    omega
  · next notLess =>
    have := (zpow_lt_zpow_iff_right₀ one_lt_two).1 ((not_lt.1 notLess).trans_lt hi)
    omega

/-! ## The rounding of a number that a format holds -/

/-- The fraction num/den is the number m × 2^e, where m has at most the digits of a format's mantissa and its leading one, and E4M3 does
not saturate. -/
structure Exact (f : FFmt) (num den m : Nat) (e : Int) : Prop where
  den_ne : den ≠ 0
  ne : m ≠ 0
  fits : m < 2 ^ (f.mb + 1)
  val : (num : ℚ) / den = m * 2 ^ e
  unsaturated : f.sat = true → (m : ℚ) * 2 ^ e ≤ 448

section
variable {f : FFmt} {num den m : Nat} {e : Int} (h : Exact f num den m e)
include h

theorem Exact.log2_le : m.log2 ≤ f.mb := Nat.lt_succ_iff.1 ((Nat.log2_lt h.ne).2 h.fits)

theorem Exact.log2Q_eq : log2Q num den = m.log2 + e := by
  have hm : (0 : ℚ) < m := by exact_mod_cast Nat.pos_of_ne_zero h.ne
  have hr : (0 : ℚ) < num / den := by
    rw [h.val]
    positivity
  have hn : num ≠ 0 := by
    rintro rfl
    simp at hr
  refine log2Q_of_binade hn h.den_ne ?_ ?_ <;> rw [h.val]
  · rw [zpow_add₀ two_ne_zero]
    gcongr
    exact zpow_log2_le h.ne
  · rw [add_right_comm, zpow_add₀ two_ne_zero]
    gcongr
    exact lt_zpow_log2 m

/-- Rounded as though the exponent range were unbounded, the number is itself with its leading one brought to its place. -/
theorem Exact.roundQ_unbounded (rz : Bool) :
    roundQ rz (scaleQ num den (f.mb - (m.log2 + e))).1 (scaleQ num den (f.mb - (m.log2 + e))).2 = (m * 2 ^ (f.mb - m.log2), false) := by
  refine roundQ_scaleQ rz h.den_ne ?_
  have hexp : e + ((f.mb : Int) - (m.log2 + e)) = (f.mb - m.log2 : Nat) := by
    have := h.log2_le
    omega
  rw [h.val, mul_assoc, ← zpow_add₀ two_ne_zero, hexp, zpow_natCast]
  push_cast
  rfl

theorem Exact.lt_carry : m * 2 ^ (f.mb - m.log2) < 2 ^ (f.mb + 1) := by
  calc m * 2 ^ (f.mb - m.log2) < 2 ^ (m.log2 + 1) * 2 ^ (f.mb - m.log2) := by gcongr; exact Nat.lt_log2_self
    _ = 2 ^ (f.mb + 1) := by
      have := h.log2_le
      rw [← pow_add]
      congr 1
      omega

theorem Exact.not_saturates : (f.sat && decide (448 * den < num)) = false := by
  rw [Bool.and_eq_false_imp, decide_eq_false_iff_not, not_lt]
  intro sat
  have hd : (0 : ℚ) < den := by exact_mod_cast Nat.pos_of_ne_zero h.den_ne
  have hle := h.unsaturated sat
  rw [← h.val, div_le_iff₀ hd] at hle
  exact_mod_cast hle

/-- A subnormal number of a format rounds to its mantissa. -/
theorem Exact.round_subnormal (rz neg : Bool) (he : e = f.emin - f.mb) (small : m < 2 ^ f.mb) :
    f.round rz false neg num den = (f.sign neg m, 0) := by
  have tiny : (m.log2 : Int) + e < f.emin := by
    have := (Nat.log2_lt h.ne).2 small
    omega
  have mantissa : roundQ rz (scaleQ num den (f.mb - f.emin)).1 (scaleQ num den (f.mb - f.emin)).2 = (m, false) := by
    refine roundQ_scaleQ rz h.den_ne ?_
    rw [h.val, he, mul_assoc, ← zpow_add₀ two_ne_zero]
    simp
  simp [FFmt.round, h.log2Q_eq, h.roundQ_unbounded, h.lt_carry.ne, h.not_saturates, tiny, mantissa]

/-- A normal number of a format rounds to its exponent and the rest of its mantissa. -/
theorem Exact.round_normal (rz ftz neg : Bool) {x : Int} (he : e = x - f.mb) (large : 2 ^ f.mb ≤ m) (lo : f.emin ≤ x) (hi : x ≤ f.emax) :
    f.round rz ftz neg num den = (f.sign neg ((x + f.bias).toNat * 2 ^ f.mb + (m - 2 ^ f.mb)), 0) := by
  have leading : m.log2 = f.mb := le_antisymm h.log2_le ((Nat.le_log2 h.ne).2 large)
  have unbounded := h.roundQ_unbounded rz
  have exponent : (m.log2 : Int) + e = x := by omega
  rw [exponent, leading, Nat.sub_self, pow_zero, mul_one] at unbounded
  simp [FFmt.round, h.log2Q_eq, exponent, unbounded, h.fits.ne, h.not_saturates, lo.not_gt, hi.not_gt]

end

/-- A number that a format holds, as the fraction that is put into it. -/
theorem exact_scaleQ {f : FFmt} {m : Nat} {e : Int} (ne : m ≠ 0) (fits : m < 2 ^ (f.mb + 1))
    (unsaturated : f.sat = true → (m : ℚ) * 2 ^ e ≤ 448) : Exact f (scaleQ m 1 e).1 (scaleQ m 1 e).2 m e where
  den_ne := scaleQ_snd_ne_zero m one_ne_zero e
  ne := ne
  fits := fits
  val := by simpa using scaleQ_ratio m 1 e
  unsaturated := unsaturated

/-! ## Encodings (R234, R235) -/

theorem bits_lt (v lo n : Nat) : bits v lo n < 2 ^ n := Nat.mod_lt _ (Nat.two_pow_pos n)

/-- An encoding is its sign, its exponent field and its mantissa field. -/
theorem sign_fields (f : FFmt) {w : Nat} (hw : w < 2 ^ (1 + f.eb + f.mb)) :
    f.sign (bit w (f.eb + f.mb)) (bits w f.mb f.eb * 2 ^ f.mb + bits w 0 f.mb) = w := by
  have low : w / 2 ^ f.mb * 2 ^ f.mb + w % 2 ^ f.mb = w := Nat.div_add_mod' w _
  have high : w / 2 ^ f.mb / 2 ^ f.eb * 2 ^ f.eb + w / 2 ^ f.mb % 2 ^ f.eb = w / 2 ^ f.mb := Nat.div_add_mod' _ _
  have top : w / 2 ^ f.mb / 2 ^ f.eb < 2 := by
    rw [Nat.div_div_eq_div_mul, ← pow_add, Nat.div_lt_iff_lt_mul (Nat.two_pow_pos _), ← pow_succ']
    exact hw.trans_eq (by ring)
  have hbit : bit w (f.eb + f.mb) = decide (w / 2 ^ f.mb / 2 ^ f.eb = 1) := by
    rw [bit, Nat.testBit_eq_decide_div_mod_eq, add_comm f.eb, pow_add, ← Nat.div_div_eq_div_mul, Nat.mod_eq_of_lt top]
  simp only [FFmt.sign, hbit, bits, Nat.shiftRight_eq_div_pow, pow_zero, Nat.div_one, decide_eq_true_eq, pow_add]
  rcases Nat.le_one_iff_eq_zero_or_eq_one.1 (Nat.lt_succ_iff.1 top) with zero | one
  · rw [zero, zero_mul, zero_add] at high
    rw [if_neg (by omega), high, low]
  · rw [one, one_mul] at high
    rw [if_pos one]
    linear_combination low + 2 ^ f.mb * high

/-- A format whose largest exponent field spells infinities and NaNs, or E4M3 (R235): all but E2M1. -/
def HasInfOrE4m3 (f : FFmt) : Prop := f.small = false ∧ (f.sat = true → f = e4m3)

theorem hasInfOrE4m3_of_mem : ∀ f ∈ [f32, f16, bf16, e5m2, e4m3], HasInfOrE4m3 f := by
  unfold HasInfOrE4m3
  decide

/-- A subnormal number is put as its mantissa. -/
theorem put_subnormal {f : FFmt} (hf : HasInfOrE4m3 f) (rz neg : Bool) {m : Nat} (ne : m ≠ 0) (small : m < 2 ^ f.mb) :
    f.put rz false (.fin neg m (f.emin - f.mb)) = (f.sign neg m, 0) := by
  refine (exact_scaleQ ne (small.trans (Nat.pow_lt_pow_succ one_lt_two)) fun sat => ?_).round_subnormal rz neg rfl small
  obtain rfl := hf.2 sat
  have : (m : ℚ) < 8 := by exact_mod_cast small
  norm_num [FFmt.emin, e4m3]
  linarith

/-- The numbers of E4M3 are at most 448, since its largest encoding is a NaN (R235, R249). -/
theorem e4m3_le {x m : Nat} (hx : x < 16) (hm : m < 8) (notNan : ¬(x = 15 ∧ m = 7)) :
    ((2 ^ 3 + m : Nat) : ℚ) * 2 ^ ((x : Int) - 7 - 3) ≤ 448 := by
  rcases Nat.lt_succ_iff_lt_or_eq.1 hx with hx | rfl
  · calc ((2 ^ 3 + m : Nat) : ℚ) * 2 ^ ((x : Int) - 7 - 3) ≤ (2 ^ 3 + 7 : Nat) * 2 ^ (4 : Int) := by
          gcongr
          · omega
          · norm_num
          · omega
      _ ≤ 448 := by norm_num
  · calc ((2 ^ 3 + m : Nat) : ℚ) * 2 ^ (((15 : Nat) : Int) - 7 - 3) ≤ (2 ^ 3 + 6 : Nat) * 2 ^ (((15 : Nat) : Int) - 7 - 3) := by
          gcongr
          omega
      _ ≤ 448 := by norm_num

/-- The largest exponent field of a number. -/
theorem le_emax {f : FFmt} {x : Nat} (hx : x < 2 ^ f.eb) (notTop : f.sat = false → x ≠ 2 ^ f.eb - 1) : (x : Int) - f.bias ≤ f.emax := by
  have hx' : (x : Int) < 2 ^ f.eb := by exact_mod_cast hx
  unfold FFmt.emax
  split
  · omega
  · next number =>
    rw [Bool.or_eq_true, not_or, Bool.not_eq_true] at number
    have below : x + 1 < 2 ^ f.eb := by
      have := notTop number.1
      omega
    have : (x : Int) + 1 < 2 ^ f.eb := by exact_mod_cast below
    omega

/-- A normal number is put as its fields. -/
theorem put_normal {f : FFmt} (hf : HasInfOrE4m3 f) (rz ftz neg : Bool) {x m : Nat} (hx : x < 2 ^ f.eb) (hm : m < 2 ^ f.mb) (normal : x ≠ 0)
    (finite : f.sat = false → x ≠ 2 ^ f.eb - 1) (notNan : f.sat = true → ¬(x = 2 ^ f.eb - 1 ∧ m = 2 ^ f.mb - 1)) :
    f.put rz ftz (.fin neg (2 ^ f.mb + m) ((x : Int) - f.bias - f.mb)) = (f.sign neg (x * 2 ^ f.mb + m), 0) := by
  have fits : 2 ^ f.mb + m < 2 ^ (f.mb + 1) := by
    rw [pow_succ]
    omega
  have lo : f.emin ≤ (x : Int) - f.bias := by
    unfold FFmt.emin
    omega
  have number : Exact f _ _ (2 ^ f.mb + m) ((x : Int) - f.bias - f.mb) := exact_scaleQ (by positivity) fits fun sat => by
    obtain rfl := hf.2 sat
    exact e4m3_le hx hm (notNan rfl)
  refine (number.round_normal rz ftz neg rfl (Nat.le_add_right ..) lo (le_emax hx finite)).trans ?_
  simp

/-- What an encoding that is no NaN denotes is put as the encoding's fields, without a flag. -/
theorem put_decode {f : FFmt} (hf : HasInfOrE4m3 f) (rz : Bool) (w : Nat) (notNan : (f.decode w).1.isNan = false) :
    f.put rz false (f.decode w).1 = (f.sign (bit w (f.eb + f.mb)) (bits w f.mb f.eb * 2 ^ f.mb + bits w 0 f.mb), 0) := by
  have hx := bits_lt w f.mb f.eb
  have hm := bits_lt w 0 f.mb
  unfold FFmt.decode at notNan ⊢
  dsimp only at notNan ⊢
  split_ifs at notNan ⊢ with zeroExp zeroMant top zeroMant nan
  · simp [FFmt.put, zeroExp, zeroMant]
  · simpa [zeroExp] using put_subnormal hf rz (bit w (f.eb + f.mb)) zeroMant hm
  · obtain ⟨⟨-, sat⟩, allOnes⟩ : (f.small = false ∧ f.sat = false) ∧ bits w f.mb f.eb = 2 ^ f.eb - 1 := by simpa using top
    simp [FFmt.put, FFmt.infw, sat, allOnes, zeroMant]
  · cases notNan
  · cases notNan
  · refine put_normal hf rz false _ hx hm zeroExp (fun sat => ?_) (fun sat => ?_)
    · simpa [hf.1, sat] using top
    · simpa [sat] using nan

/-- Settles O60: a number that a format holds passes each step of the rounding unchanged, and an encoding is its fields. -/
theorem formatsHoldTheirNumbers : Obligations.FormatsHoldTheirNumbers := by
  intro f hf rz w hw notNan
  rw [put_decode (hasInfOrE4m3_of_mem f hf) rz w notNan, sign_fields f hw]

end Sys2Proof.Machine
end

section
/-!
Six statements about the accesses of cores and of other packages that let no byte of the package change but those that an access writes.
They fail where the access takes an allocation from the dirty line behind no memory of `gapPackage`: the line is written back, and an
observer of the gap sees its bytes.
-/

namespace Sys2Proof.Machine

/-! ## The package -/

/-- The package of `gapPackage` without queues, with the cores of C0 in service and core 0 in state x. -/
def gapCore (x : Core) : State := { gapPackage 0 endedNop with queues := [], online := [(2, true)], cores := mput {} 0 x [] }

theorem gapCore_works (x : Core) : Works (gapCore x) := rfl

theorem gapCore_hub (x : Core) (h : Hub) : (gapCore x).hub h = gapHub := gapPackage_hub 0 endedNop h

theorem gapCore_canonical (x : Core) : Canonical (gapCore x) := by
  constructor
  case keys => exact fun e he => absurd he List.not_mem_nil
  case cores => exact mput_wf (d := {}) (m := []) 0 x rfl
  case cnt => exact fun _ => rfl
  case grps | ports | cbGrps | seqs => intro h; rw [gapCore_hub]; rfl
  all_goals rfl

theorem gapCore_cachesOk (x : Core) : CachesOk (gapCore x) :=
  SameStored.cachesOk (s := gapPackage 0 endedNop) ⟨rfl, rfl, rfl⟩ (gapPackage_cachesOk 0 endedNop)

theorem gapCore_noPoison (x : Core) : NoPoison (gapCore x) := gapPackage_noPoison 0 endedNop

/-- A cached access of n bytes at the start of the GDDR of H0. -/
def gddrAccess (n : Nat) : CoreAccess := { addr := gddrBase 0, size := n, attr := 2, dest := 3 }

/-! ## Loads -/

theorem gddrAccess_reaches : CoreReaches (gapCore {}) 0 (gddrAccess 4) := by
  constructor <;> decide +kernel

theorem gddrAccess_loadsFreely : LoadsFreely (gapCore {}) 0 (gddrAccess 4) := by
  constructor <;> decide +kernel

theorem gapLoad_showsGap : ShowsGap (.coreLoad 0 (gddrAccess 4) 9) (gapCore {}) := ⟨by decide +kernel, _, rfl, by decide +kernel⟩

/-- Refutes O34: a load of the GDDR takes the way of a dirty line behind no memory in the hub cache; the write-back changes a byte, where
memory was to stay. -/
theorem not_coreLoadsAnswer : ¬ Obligations.CoreLoadsAnswer := by
  intro h
  obtain ⟨loads, -⟩ := h (gapCore {}) 0 (gddrAccess 4) 9 (gapCore_works _) (gapCore_canonical _) (gapCore_cachesOk _) (gapCore_noPoison _)
    rfl gddrAccess_reaches
  obtain ⟨⟨s', next, -, -, -, -, -, frame, -⟩, -⟩ := loads gddrAccess_loadsFreely
  exact gapLoad_showsGap.changed next (frame gapByte)

/-! ## Stores -/

/-- A buffered store to the start of the GDDR. -/
def gddrStore : SbEnt := { acc := gddrAccess 4, data := [1, 2, 3, 4], issued := 5, sent := false }

theorem gddrStore_reaches : CoreReaches (gapCore { sb := [gddrStore] }) 0 gddrStore.acc := by
  constructor <;> decide +kernel

theorem gapStorePerformed_showsGap : ShowsGap (.coreStorePerformed 0 0) (gapCore { sb := [gddrStore] }) :=
  ⟨by decide +kernel, _, rfl, by decide +kernel⟩

/-- Refutes O35: a store to the GDDR evicts a dirty line behind no memory, whose write-back changes a byte outside the store. -/
theorem not_coreStoresReachMemory : ¬ Obligations.CoreStoresReachMemory := by
  intro h
  obtain ⟨-, performed⟩ := h (gapCore { sb := [gddrStore] }) 0 (gapCore_works _) (gapCore_canonical _) (gapCore_cachesOk _)
  obtain ⟨s', next, -, -, frame, -⟩ := performed 0 gddrStore (gddrBase 0, 4) rfl (by decide +kernel) rfl gddrStore_reaches
    (by decide +kernel) (by decide +kernel) (by decide +kernel) (gapCore_noPoison _)
  exact gapStorePerformed_showsGap.changed next (frame gapByte (.inr (by decide)))

/-! ## STCOND -/

/-- A core that has reserved the first word of the GDDR, and whose simple loop has failed three times by chance. -/
def reservedCore : Core := { resv := some (gddrBase 0, 4), spurious := 3 }

theorem gapStcond_showsGap : ShowsGap (.stcond 0 { gddrAccess 4 with simple := true } [1, 2, 3, 4]) (gapCore reservedCore) :=
  ⟨by decide +kernel, _, rfl, by decide +kernel⟩

/-- Refutes O37: an STCOND of a reserved word of the GDDR, which may not fail by chance a fourth time, evicts a dirty line behind no memory;
the write-back changes a byte outside the word. -/
theorem not_storeConditional : ¬ Obligations.StoreConditional := by
  intro h
  obtain ⟨s', n, next, -, -, effect⟩ := h (gapCore reservedCore) 0 { gddrAccess 4 with simple := true } [1, 2, 3, 4] (gapCore_works _)
    (gapCore_canonical _) (gapCore_cachesOk _) (gapCore_noPoison _) rfl rfl (by decide +kernel) (.inl rfl) rfl (by decide) (by decide)
    (by decide)
  obtain ⟨-, -, -, -, -, -, reserved⟩ := effect fun _ =>
    ⟨by decide +kernel, nofun, by decide +kernel, by decide +kernel⟩
  obtain ⟨-, -, frame⟩ | ⟨-, chance, -⟩ := reserved (by decide +kernel) (by decide +kernel) (by decide +kernel) rfl
  · exact gapStcond_showsGap.changed next (frame gapByte (.inr (by decide)))
  · exact absurd (chance rfl) (by decide)

/-! ## The matrix unit -/

/-- A matrix-unit instruction with one load, of the GDDR. -/
def gapCmu : CmuInstr := { id := 4, loads := [gddrAccess 4], stores := [], regs := [], flags := 0 }

theorem gapCmu_showsGap : ShowsGap (.cmuIssue 0 gapCmu false) (gapCore {}) := ⟨by decide +kernel, _, rfl, by decide +kernel⟩

/-- Refutes O38: the load of a matrix-unit instruction that begins takes the way of a dirty line behind no memory, whose write-back changes
a byte, where memory was to stay. -/
theorem not_matrixUnitCommits : ¬ Obligations.MatrixUnitCommits := by
  intro h
  obtain ⟨begins, -⟩ := h (gapCore {}) 0 (gapCore_works _) (gapCore_canonical _) (gapCore_cachesOk _) (gapCore_noPoison _) rfl
  obtain ⟨s', next, -, -, -, frame, -⟩ := begins gapCmu (gddrAccess 4) false rfl rfl gddrAccess_reaches gddrAccess_loadsFreely
    (.inr (by decide +kernel))
  exact gapCmu_showsGap.changed next (frame gapByte)

/-! ## Vector gathers -/

/-- A gather of one element, from the GDDR. -/
def gapGather : VecInstr := { vreg := 2, elems := [gddrAccess 4] }

theorem gapGather_showsGap : ShowsGap (.vectorGather 0 gapGather 1) (gapCore {}) := ⟨by decide +kernel, _, rfl, by decide +kernel⟩

/-- Refutes O39: the element that a gather reads from the GDDR takes the way of a dirty line behind no memory, whose write-back changes a
byte, where memory was to stay. -/
theorem not_vectorElementsMove : ¬ Obligations.VectorElementsMove := by
  intro h
  obtain ⟨gather, -⟩ := h (gapCore {}) 0 gapGather (gddrAccess 4) 9 (gapCore_works _) (gapCore_canonical _) rfl rfl rfl rfl
  obtain ⟨s', next, -, -, -, frame, -⟩ := gather (gapCore_cachesOk _) (gapCore_noPoison _) gddrAccess_reaches gddrAccess_loadsFreely
  exact gapGather_showsGap.changed next (frame gapByte)

/-! ## Writes from other packages -/

theorem coherentByte_send (s : State) (out : Out) (x : Nat) : coherentByte (s.send out) x = coherentByte s x := rfl

/-- A write that comes back to this package over the frame, of one byte at the start of the GDDR of H0. -/
def gddrRemoteWrite : RemoteWrite := { src := 0, part := some 0, cls := 1, addr := gddrBase 0, data := [1], issuer := .host 0 0 }

theorem gapRemoteWrite_showsGap : ShowsGap (.remoteWriteArrival gddrRemoteWrite) (gapCore {}) := ⟨by decide +kernel, _, rfl, by decide +kernel⟩

/-- Refutes O28: a write from another package to the GDDR evicts a dirty line behind no memory, whose write-back changes a byte outside it. -/
theorem not_remoteTransfersArrive : ¬ Obligations.RemoteTransfersArrive := by
  rintro ⟨writes, -⟩
  obtain ⟨-, performed⟩ := writes (gapCore {}) gddrRemoteWrite (gapCore_works _) (gapCore_cachesOk _) (by decide +kernel)
  obtain ⟨arrives, -⟩ := performed (by decide +kernel)
  obtain ⟨t, next, -, frame, -⟩ := arrives (gapCore_noPoison _) (by decide +kernel) (by decide +kernel) (by decide +kernel)
    (by decide +kernel) (by decide) (by decide)
  exact gapRemoteWrite_showsGap.changed next ((coherentByte_send ..).trans (frame gapByte (.inr (by decide))))

end Sys2Proof.Machine
end

section
/-!
What the steps of one core change: that core, counters and notices (R268, R269, R280, R281, R578).
-/

namespace Sys2Proof.Machine

/-- A core that is told of a store that has failed after it left the buffer: it aborts where the destination finds it unmapped (R281), and
holds a STORE_ERROR otherwise (R280). -/
def Core.told (x : Core) (k a : Nat) : Core :=
  if k = cUnmapped then { x with abort := some (k, a), resv := none } else { x with storeErr := some (k, a), resv := none }

@[simp] theorem Core.told_sb (x : Core) (k a : Nat) : (x.told k a).sb = x.sb := by
  unfold Core.told
  split <;> rfl
@[simp] theorem Core.told_resv (x : Core) (k a : Nat) : (x.told k a).resv = none := by
  unfold Core.told
  split <;> rfl

/-! ## A step that leaves core c in state x -/

/-- From s to t core c alone has changed, to x, apart from notices. -/
structure LeavesCore (s t : State) (c : CoreId) (x : Core) : Prop where
  core   : t.core c = x
  others : OnlyCore s t c
  cores  : mwf {} t.cores = true
  memory : SameMemory s t
  now    : t.now = s.now
  boot   : t.boot = s.boot

section
variable {s t u : State} {c : CoreId} {x : Core}

theorem LeavesCore.refl (hs : mwf {} s.cores = true) : LeavesCore s s c (s.core c) :=
  ⟨rfl, fun _ _ => rfl, hs, ⟨rfl, rfl, rfl⟩, rfl, rfl⟩

theorem LeavesCore.then_modCore (h : LeavesCore s t c x) (f : Core → Core) : LeavesCore s (t.modCore c f) c (f x) where
  core := (mget_mput_self _ _ h.cores).trans (congrArg f h.core)
  others d ne := (mget_mput_ne _ _ _ fun e => ne (Fin.ext e.symm)).trans (h.others d ne)
  cores := mput_wf _ _ h.cores
  memory := h.memory
  now := h.now
  boot := h.boot

theorem LeavesCore.then_notices (h : LeavesCore s t c x) (n : Notices t u) : LeavesCore s u c x where
  core := (n.core c).trans h.core
  others d ne := (n.core d).trans (h.others d ne)
  cores := n.cores ▸ h.cores
  memory := by
    obtain ⟨mem, caches, poison⟩ := h.memory
    exact ⟨n.mem.trans mem, n.caches.trans caches, n.poison.trans poison⟩
  now := n.now.trans h.now
  boot := n.boot.trans h.boot

/-! ## Aborts and failures (R280, R281) -/

theorem LeavesCore.then_coreMissed (h : LeavesCore s t c x) (k a : Nat) :
    LeavesCore s (coreMissed t c { cls := k, addr := a }) c { x with abort := some (k, a), resv := none } :=
  (h.then_notices (report_notices ..)).then_modCore fun x => { x with abort := some (k, a), resv := none }

theorem LeavesCore.then_storeMissed (h : LeavesCore s t c x) (k a : Nat) :
    LeavesCore s (storeMissed t c { cls := k, addr := a }) c (x.told k a) := by
  unfold storeMissed Core.told
  split
  · exact h.then_coreMissed k a
  · exact ((h.then_notices (report_notices ..)).then_notices (count_notices ..)).then_modCore
      fun x => { x with storeErr := some (k, a), resv := none }

/-- A load that fails leaves the registers as they are; a gather goes back to its element. -/
theorem LeavesCore.then_pendFails (h : LeavesCore s t c x) (k a : Nat) :
    ∃ g, LeavesCore s (pendFails t c { cls := k, addr := a }) c
      { x with abort := some (k, a), resv := none, gidx := g, pendLoad := none, pendVec := false, ask := {} } := by
  have done := (h.then_coreMissed k a).then_modCore loadDone
  unfold pendFails
  split
  · exact ⟨_, (done.then_notices (count_notices ..)).then_modCore fun x => { x with gidx := (t.core c).gidx }⟩
  · exact ⟨x.gidx, done⟩

theorem answerClass_eq_cUnmapped_iff (k : Answer) : answerClass k = cUnmapped ↔ k = .unmapped := by
  cases k <;> decide

/-! ## The store buffer -/

theorem LeavesCore.then_sbRemove (h : LeavesCore s t c x) (i : Nat) :
    ∃ f, LeavesCore s (sbRemove t c i) c { x with sb := x.sb.eraseIdx i, fence := f } :=
  ⟨_, h.then_modCore _⟩

/-- Where every store of the buffer is sent, none may be sent. -/
theorem sbFlow_of_sent (sent : ∀ e ∈ (t.core c).sb, e.sent = true) : sbFlow t c = t := by
  have none_to_send : (t.core c).sb.zipIdx.find? (fun p => sbMaySend t (t.core c) p.2 p.1) = none := by
    refine List.find?_eq_none.2 fun p hp => ?_
    simp [sbMaySend, sent p.1 (List.fst_mem_of_mem_zipIdx hp)]
  unfold sbFlow
  cases (t.core c).sb.length with
  | zero => rfl
  | succ n => simp only [sbDrive, none_to_send]

end

/-- A store of a buffer whose stores are all sent fails: it leaves the buffer, and its core is told. -/
theorem sbFail_leavesCore {s : State} {c : CoreId} {i : Nat} {e : SbEnt} {k : Answer} (hs : mwf {} s.cores = true)
    (sent : ∀ e ∈ (s.core c).sb, e.sent = true) (he : (s.core c).sb[i]? = some e) (hk : k ≠ .ok) :
    ∃ f, LeavesCore s (sbFail s c i k) c
      { (s.core c).told (answerClass k) e.acc.addr with sb := (s.core c).sb.eraseIdx i, fence := f } := by
  obtain ⟨f, removed⟩ := ((LeavesCore.refl (c := c) hs).then_storeMissed (answerClass k) e.acc.addr).then_sbRemove i
  rw [Core.told_sb] at removed
  refine ⟨f, ?_⟩
  simp only [sbFail, he, if_neg hk]
  rw [sbFlow_of_sent]
  · exact removed
  · rw [removed.core]
    exact fun y hy => sent y (List.mem_of_mem_eraseIdx hy)

/-! ## Fences and accesses that are not answered (R269, R578) -/

section
variable {s : State} {c : CoreId}

theorem fenceSlStep_leavesCore (hs : mwf {} s.cores = true) (online : coreOnline s c = true) :
    LeavesCore s (fenceSlStep s c) c { s.core c with
      fence := if ((s.core c).fence.any fun f => f.1) = true ∨ ∀ e ∈ (s.core c).sb, e.pos ≠ s.boot.pos.val then (s.core c).fence
        else some (false, (s.core c).sb.length) } := by
  have waits := (LeavesCore.refl (c := c) hs).then_modCore fun x =>
    if (x.fence.any fun f => f.1) || x.sb.all (fun e => decide (e.pos ≠ s.boot.pos.val)) then x
    else { x with fence := some (false, x.sb.length) }
  rw [fenceSlStep, if_neg (by simp [online])]
  convert waits using 1
  simp only [Bool.or_eq_true, List.all_eq_true, decide_eq_true_eq]
  split <;> rfl

theorem fenceRemoteStep_leavesCore (hs : mwf {} s.cores = true) (online : coreOnline s c = true) :
    LeavesCore s (fenceRemoteStep s c) c { s.core c with
      fence := if (s.core c).sb = [] then none else some (true, (s.core c).sb.length) } := by
  have waits := (LeavesCore.refl (c := c) hs).then_modCore fun x =>
    { x with fence := if x.sb.isEmpty then none else some (true, x.sb.length) }
  rw [fenceRemoteStep, if_neg (by simp [online])]
  simp only [List.isEmpty_iff] at waits ⊢
  exact waits.then_notices (count_notices ..)

/-- A sent store that is not answered 2 ms after its issue fails (R578). -/
theorem coreLinkTimeout_store {i : Nat} {e : SbEnt} (he : (s.core c).sb[i]? = some e) (sent : e.sent = true) :
    coreLinkTimeout s c (some i) = if e.issued + ms 2 ≤ s.now then sbFail s c i .link else s := by
  simp only [coreLinkTimeout, he, sent, true_and, regLate, Bool.and_eq_true, decide_eq_true_eq]
  congr 1
  exact propext ⟨fun h => h.elim id fun late => late.2, .inl⟩

/-- A load that has asked another package, and no matrix-unit instruction has, fails 2 ms after it has asked (R578). -/
theorem coreLinkTimeout_load {a : CoreAccess} {t : Nat} (pend : (s.core c).pendLoad = some (a, t)) (far : isLocal s a.addr = false)
    (asked : (s.core c).ask.need ≠ []) (cmu : ∀ b ∈ (s.core c).cmu, b.ask.need = []) :
    coreLinkTimeout s c none = if (s.core c).ask.at0 + ms 2 ≤ s.now then pendFails s c { cls := cLink, addr := a.addr } else s := by
  have none_late : (s.core c).cmu.any (fun b => b.ask.late s.now) = false :=
    List.any_eq_false.2 fun b hb => by simp [CoreAsk.late, cmu b hb]
  have not_empty : (s.core c).ask.need.isEmpty = false := by simpa using asked
  simp only [coreLinkTimeout, none_late, Bool.false_eq_true, if_false, pend, regLate, far, Bool.false_and, Bool.or_false]
  simp only [CoreAsk.late, not_empty, Bool.not_false, Bool.true_and, decide_eq_true_eq]

end

theorem onward_of_works {s : State} (hw : Works s) (f : State → State) : onward s f = .next (f s) :=
  congrArg Host.Outcome.next (whenAlive_of_works hw f)

/-- Settles O36: each step changes its core alone, and a buffer of stores that are all sent sends no more when one leaves it. -/
theorem fencesAndLostAccesses : Obligations.FencesAndLostAccesses := by
  intro s c works canonical sent
  have hs := canonical.cores
  refine ⟨fun online => ⟨?_, ?_⟩, fun i t e k he => ⟨fun hk => ?_, fun late => ?_, fun early => ?_⟩,
    fun a t1 t0 t pend far asked at0 cmu => ⟨fun late => ?_, fun early => ?_⟩⟩
  · have step := fenceSlStep_leavesCore hs online
    exact ⟨_, onward_of_works works _, step.memory, step.others, step.core⟩
  · have step := fenceRemoteStep_leavesCore hs online
    exact ⟨_, onward_of_works works _, step.memory, step.others, step.core⟩
  · obtain ⟨f, step⟩ := sbFail_leavesCore hs sent he hk
    refine ⟨_, onward_of_works works _, congrArg Core.sb step.core, ?_, (congrArg Core.resv step.core).trans (Core.told_resv ..), step.others,
      step.memory⟩
    rw [step.core]
    simp only [Core.told, answerClass_eq_cUnmapped_iff]
    split
    · next unmapped => rw [unmapped]; rfl
    · rfl
  · obtain ⟨f, step⟩ := sbFail_leavesCore (s := s.toTime t) (k := .link) hs sent he nofun
    refine ⟨_, (onwardAt_of_works works t _).trans ?_, congrArg Core.sb step.core, congrArg Core.storeErr step.core, step.memory⟩
    rw [coreLinkTimeout_store (s := s.toTime t) he (sent e (List.mem_of_getElem? he)), State.toTime_now, if_pos late]
  · refine (onwardAt_of_works works t _).trans ?_
    rw [coreLinkTimeout_store (s := s.toTime t) he (sent e (List.mem_of_getElem? he)), State.toTime_now, if_neg early.not_ge]
  · obtain ⟨g, step⟩ := (LeavesCore.refl (s := s.toTime t) (c := c) hs).then_pendFails cLink a.addr
    refine ⟨_, (onwardAt_of_works works t _).trans ?_, congrArg Core.pendLoad step.core, congrArg Core.abort step.core,
      congrArg Core.resv step.core, (congrArg Core.regs step.core :), step.memory⟩
    rw [coreLinkTimeout_load (s := s.toTime t) pend far asked cmu, State.toTime_now, if_pos (at0 ▸ late)]
  · refine (onwardAt_of_works works t _).trans ?_
    rw [coreLinkTimeout_load (s := s.toTime t) pend far asked cmu, State.toTime_now, if_neg (at0 ▸ early.not_ge)]

end Sys2Proof.Machine
end

section
/-!
Steps that leave memory as it is: what each of the operations that never store gives memory (R260).
-/

namespace Sys2Proof.Machine

@[simp] theorem ite_mem (c : Prop) [Decidable c] (s t : State) : (if c then s else t).mem = if c then s.mem else t.mem := apply_ite ..
@[simp] theorem foldl_mem {α : Type} (f : State → α → State) (l : List α) (s : State) (hf : ∀ t a, (f t a).mem = t.mem) :
    (l.foldl f s).mem = s.mem := foldl_keeps State.mem f l s hf
@[simp] theorem raiseMsixVf_mem (s : State) (p v f vec) : (raiseMsixVf s p v f vec).mem = s.mem := (raiseMsixVf_notices ..).mem
@[simp] theorem raiseMsix_mem (s : State) (f vec) : (raiseMsix s f vec).mem = s.mem := (raiseMsix_notices ..).mem
@[simp] theorem withIrq_mem (s : State) (p f) : (State.withIrq s p f).mem = s.mem := (withIrq_notices ..).mem
@[simp] theorem fwViolation_mem (s : State) (h kind t addr) : (fwViolation s h kind t addr).mem = s.mem :=
  (fwViolation_notices ..).mem.trans (State.modHub_mem ..)

@[simp] theorem raiseFatal_mem' (s : State) (k p : Nat) : (raiseFatal s k p).mem = s.mem := raiseFatal_mem ..
@[simp] theorem poisonOnWrite_mem' (s : State) (o n : Nat) : (poisonOnWrite s o n).mem = s.mem := poisonOnWrite_mem ..
@[simp] theorem Rd.state_ok {α : Type} (a : α) (s : State) : (Rd.ok a s).state = s := rfl
@[simp] theorem Rd.state_stop {α : Type} (m) (s : State) : (Rd.stop m s : Rd α).state = s := rfl
@[simp] theorem Rd.state_wait {α : Type} (s : State) : (Rd.wait s : Rd α).state = s := rfl
@[simp] theorem ite_state {α : Type} (c : Prop) [Decidable c] (x y : Rd α) :
    (if c then x else y).state = if c then x.state else y.state := apply_ite ..
@[simp] theorem Rd.bind_mem {α β : Type} {x : Rd α} {f : α → State → Rd β} (hf : ∀ a t, (f a t).state.mem = t.mem) :
    (x.bind f).state.mem = x.state.mem := by
  cases x with
  | ok a t => exact hf a t
  | stop m t => rfl
  | wait t => rfl
@[simp] theorem Rd.fold_mem {α β : Type} {f : β → α → State → Rd β} (l : List α) (b : β) (s : State)
    (hf : ∀ b x t, (f b x t).state.mem = t.mem) : (Rd.fold f l b s).state.mem = s.mem := by
  induction l generalizing b s with
  | nil => rfl
  | cons x l ih => exact (Rd.bind_mem fun b t => ih b t).trans (hf b x s)
@[simp] theorem State.draw_mem (s : State) : (State.draw s).2.mem = s.mem := rfl
@[simp] theorem holdLeaf_mem (s : State) (h ctx va) : (holdLeaf s h ctx va).mem = s.mem := by
  unfold holdLeaf
  dsimp only
  repeat' split
  all_goals simp
@[simp] theorem countWalks_mem (s : State) (h ctx va n fault) : (countWalks s h ctx va n fault).mem = s.mem := by simp [countWalks]
@[simp] theorem logFw_mem (s : State) (h fabric kind addr r) : (logFw s h fabric kind addr r).mem = s.mem := by
  unfold logFw
  dsimp only
  repeat' split
  all_goals simp
@[simp] theorem putCmd_mem (s : State) (q c) : (putCmd s q c).mem = s.mem := rfl
@[simp] theorem State.modCmd_mem (s : State) (q seq f) : (State.modCmd s q seq f).mem = s.mem := rfl
@[simp] theorem State.modGov_mem (s : State) (h f) : (State.modGov s h f).mem = s.mem := by simp [State.modGov]
@[simp] theorem govBallast_mem (s : State) (h) : (govBallast s h).mem = s.mem := by simp [govBallast]
@[simp] theorem putThrottled_mem (s : State) (q c) : (putThrottled s q c).mem = s.mem := by simp [putThrottled]
@[simp] theorem slowClocks_mem (s : State) (h) : (slowClocks s h).mem = s.mem := by simp [slowClocks]
@[simp] theorem runOversize_mem (s : State) (h q c) : (runOversize s h q c).mem = s.mem := by simp [runOversize]
@[simp] theorem countCutUs_mem (s : State) (h) : (countCutUs s h).mem = s.mem :=
  countCutUs_keeps State.mem (fun _ _ _ => State.modHub_mem ..) (fun _ _ _ _ => rfl) s h
@[simp] theorem dispatchHeld_mem (s : State) (h) : (dispatchHeld s h).mem = s.mem := (sameMemory_of_gated (dispatchHeld_gated s h)).1
@[simp] theorem hold_mem (s : State) (q c) : (hold s q c).mem = s.mem := by simp [hold]
@[simp] theorem cutApply_mem (s : State) (h) : (cutApply s h).mem = s.mem := by simp [cutApply]
@[simp] theorem govUpdate_mem (s : State) (h bg) : (govUpdate s h bg).mem = s.mem := by
  simp [govUpdate]
@[simp] theorem regate_mem (s : State) (h) : (regate s h).mem = s.mem := by simp [regate]
@[simp] theorem cutPower_mem (s : State) (h) : (cutPower s h).mem = s.mem := by
  unfold cutPower
  extract_lets g s1
  have start : s1.mem = s.mem := State.modHub_mem ..
  repeat' split
  all_goals simp [start]
@[simp] theorem dvfsAct_mem (s : State) (h) : (dvfsAct s h).mem = s.mem := by
  unfold dvfsAct
  dsimp only
  split
  · rfl
  · refine (foldl_mem _ _ _ fun t p => ?_).trans (by simp)
    repeat' split
    all_goals simp
@[simp] theorem govLt_mem (s : State) (h) : (govLt s h).mem = s.mem := by
  simp [govLt]
@[simp] theorem snoopBytes_mem (s : State) (o n) : (snoopBytes s o n).mem = s.mem := by simp [snoopBytes]
@[simp] theorem sendRead_mem (s : State) (part cls i attr pa n v) : (sendRead s part cls i attr pa n v).mem = s.mem := rfl
@[simp] theorem sendWrite_mem (s : State) (part cls i attr pa bs) : (sendWrite s part cls i attr pa bs).mem = s.mem := rfl
@[simp] theorem coresTake_mem (s : State) (part) : (coresTake s part).mem = s.mem := rfl
@[simp] theorem queueIrq_mem (s : State) (q) : (queueIrq s q).mem = s.mem := by simp [queueIrq]
@[simp] theorem queueError_mem (s : State) (q code seq idx st cause va) : (queueError s q code seq idx st cause va).mem = s.mem := by
  simp [queueError]
@[simp] theorem xltFault_mem (s : State) (q cause addr) : (xltFault s q cause addr).mem = s.mem := by simp [xltFault]
@[simp] theorem joinSteps_mem (s : State) (q) : (joinSteps s q).mem = s.mem := by simp [joinSteps]
@[simp] theorem stepEndCheck_mem (s : State) (h g) : (stepEndCheck s h g).mem = s.mem := by simp [stepEndCheck]
@[simp] theorem leaveSteps_mem (s : State) (q) : (leaveSteps s q).mem = s.mem := by simp [leaveSteps]
@[simp] theorem resetDone_mem (s : State) (q) : (resetDone s q).mem = s.mem := by
  unfold resetDone
  dsimp only
  repeat' split
  all_goals simp
@[simp] theorem zeroingCheck_mem (s : State) (h) : (zeroingCheck s h).mem = s.mem := by simp [zeroingCheck]
@[simp] theorem partRstCheck_mem (s : State) (h) : (partRstCheck s h).mem = s.mem := by simp [partRstCheck]
@[simp] theorem settle_mem (s : State) (q) : (settle s q).mem = s.mem := by
  unfold settle
  dsimp only
  repeat' split
  all_goals simp
@[simp] theorem qosStalls_mem (s : State) (e) : (qosStalls s e).mem = s.mem := (sameMemory_of_gated (qosStalls_gated s e)).1
@[simp] theorem refreshReady_mem (s : State) (q) : (refreshReady s q).mem = s.mem := by
  unfold refreshReady
  dsimp only
  repeat' split
  all_goals simp
@[simp] theorem gateReady_mem (s : State) (q) : (gateReady s q).mem = s.mem := (sameMemory_of_gated (gateReady_gated s q)).1
@[simp] theorem dropOrdEntries_mem (s : State) (q c) : (dropOrdEntries s q c).mem = s.mem := by simp [dropOrdEntries]
@[simp] theorem gcAcquire_mem (s : State) (e) : (gcAcquire s e).mem = s.mem := rfl
@[simp] theorem acquire_mem (s : State) (q c) : (acquire s q c).mem = s.mem := by simp [acquire]
@[simp] theorem sendMark_mem (s : State) (q c ok) : (sendMark s q c ok).mem = s.mem := by
  unfold sendMark
  dsimp only
  repeat' split
  all_goals simp
@[simp] theorem State.modCbGrp_mem (s : State) (h g f) : (State.modCbGrp s h g f).mem = s.mem := by simp [State.modCbGrp]
@[simp] theorem tellEnd_mem (s : State) (q c ok) : (tellEnd s q c ok).mem = s.mem := by
  unfold tellEnd
  dsimp only
  repeat' split
  all_goals simp
@[simp] theorem closeLate_mem (s : State) (c) : (closeLate s c).mem = s.mem := by
  unfold closeLate
  split <;> simp
@[simp] theorem c0Check_mem (s : State) (q c) : (c0Check s q c).mem = s.mem := by
  unfold c0Check
  dsimp only
  repeat' split
  all_goals simp
@[simp] theorem enterFaultWait_mem (s : State) (q c) : (enterFaultWait s q c).mem = s.mem := by simp [enterFaultWait]
@[simp] theorem finishRecord_mem (s : State) (q c written) : (finishRecord s q c written).mem = s.mem := by
  simp [finishRecord]
@[simp] theorem enableQueue_mem (s : State) (q) : (enableQueue s q).mem = s.mem := by simp [enableQueue]
@[simp] theorem disableQueue_mem (s : State) (q) : (disableQueue s q).mem = s.mem := by simp [disableQueue]
@[simp] theorem endWaitState_mem (s : State) (q) : (endWaitState s q).mem = s.mem := rfl
@[simp] theorem faultRetry_mem (s : State) (q) : (faultRetry s q).mem = s.mem := by
  unfold faultRetry
  dsimp only
  repeat' split
  all_goals simp
@[simp] theorem ringBell_mem (s : State) (q v) : (ringBell s q v).mem = s.mem := by simp [ringBell]
@[simp] theorem enableGrp_mem (s : State) (h g) : (enableGrp s h g).mem = s.mem := by simp [enableGrp]
@[simp] theorem disableGrp_mem (s : State) (h g) : (disableGrp s h g).mem = s.mem := by
  simp [disableGrp]
@[simp] theorem seqError_mem (s : State) (i why) : (seqError s i why).mem = s.mem := by simp [seqError]
@[simp] theorem cacheOn_mem (s : State) (i) : (cacheOn s i).mem = s.mem := by
  unfold cacheOn
  split <;> simp
@[simp] theorem maintStart_mem (s : State) (i op) : (maintStart s i op).mem = s.mem := rfl
@[simp] theorem preloadStart_mem (s : State) (i ways) : (preloadStart s i ways).mem = s.mem := by simp [preloadStart]
@[simp] theorem fillErrors_mem (s : State) (i o) : (fillErrors s i o).mem = s.mem := by simp [fillErrors]
@[simp] theorem gcFlush_mem (s : State) (e off) : (gcFlush s e off).mem = s.mem := rfl
@[simp] theorem gcWrite_mem (s : State) (e en inv) : (gcWrite s e en inv).mem = s.mem := by simp [gcWrite]
@[simp] theorem gcDrop_mem (s : State) (e pa n) : (gcDrop s e pa n).mem = s.mem := by simp [gcDrop]
@[simp] theorem scrZeroStart_mem (s : State) (n) : (scrZeroStart s n).mem = s.mem := rfl
@[simp] theorem State.modXlt_mem (s : State) (h f) : (State.modXlt s h f).mem = s.mem := by simp [State.modXlt]
@[simp] theorem State.modCtx_mem (s : State) (h c f) : (State.modCtx s h c f).mem = s.mem := by simp [State.modCtx]
@[simp] theorem invStart_mem (s : State) (h) : (invStart s h).mem = s.mem := by simp [invStart]
@[simp] theorem dropHeld_mem (s : State) (h ctx all va n) : (dropHeld s h ctx all va n).mem = s.mem := by simp [dropHeld]
@[simp] theorem invEnd_mem (s : State) (h) : (invEnd s h).mem = s.mem := by
  unfold invEnd
  split <;> simp
@[simp] theorem ctxWrite_mem (s : State) (h c en root) : (ctxWrite s h c en root).mem = s.mem := by simp [ctxWrite]
@[simp] theorem ctxDisabled_mem (s : State) (h c) : (ctxDisabled s h c).mem = s.mem := by simp [ctxDisabled]
@[simp] theorem creelAdvance_mem (s : State) (h g u v v') : (creelAdvance s h g u v v').mem = s.mem := by simp [creelAdvance]
@[simp] theorem layerWrite_mem (s : State) (h g v by_) : (layerWrite s h g v by_).mem = s.mem := by simp [layerWrite]
@[simp] theorem engineClear_mem (s : State) (i) : (engineClear s i).mem = s.mem := by simp [engineClear]
@[simp] theorem timerRace_mem (s : State) (q c) : (timerRace s q c).mem = s.mem := by simp [timerRace]
@[simp] theorem badArrival_mem (s : State) (h) : (badArrival s h).mem = s.mem := by simp [badArrival]
@[simp] theorem cbClear_mem (s : State) (h g) : (cbClear s h g).mem = s.mem := by simp [cbClear]
@[simp] theorem State.modLtu_mem (s : State) (u f) : (State.modLtu s u f).mem = s.mem := by simp [State.modLtu]
@[simp] theorem modUpPorts_mem (s : State) (f) : (modUpPorts s f).mem = s.mem := by simp [modUpPorts]
@[simp] theorem farAdvance_mem (s : State) : (farAdvance s).mem = s.mem := by simp [farAdvance]
@[simp] theorem farCatchUp_mem (s : State) : (farCatchUp s).mem = s.mem := by simp [farCatchUp]
@[simp] theorem adopt_mem (s : State) : (adopt s).mem = s.mem := by
  unfold adopt
  dsimp only
  repeat' split
  all_goals simp
@[simp] theorem sendCopy_mem (s : State) : (sendCopy s).mem = s.mem := by simp [sendCopy]
@[simp] theorem leaveWait_mem (s : State) (u st) : (leaveWait s u st).mem = s.mem := by simp [leaveWait]
@[simp] theorem freeRunEntry_mem (s : State) (u) : (freeRunEntry s u).mem = s.mem := by simp [freeRunEntry]
@[simp] theorem toFreeRun_mem (s : State) (u) : (toFreeRun s u).mem = s.mem := by
  unfold toFreeRun
  dsimp only
  repeat' split
  all_goals simp
@[simp] theorem tickReject_mem (s : State) (u) : (tickReject s u).mem = s.mem := by simp [tickReject]
@[simp] theorem tickAccept_mem (s : State) (u t n) : (tickAccept s u t n).mem = s.mem := by
  unfold tickAccept
  dsimp only
  repeat' split
  all_goals simp
@[simp] theorem tickUnit_mem (s : State) (u t) : (tickUnit s u t).mem = s.mem := by
  unfold tickUnit
  dsimp only
  repeat' split
  all_goals simp
@[simp] theorem waitTimer_mem (s : State) (u) : (waitTimer s u).mem = s.mem := by simp [waitTimer]
@[simp] theorem lockTimer_mem (s : State) (u) : (lockTimer s u).mem = s.mem := by simp [lockTimer]
@[simp] theorem dcWrite_mem (s : State) (u v) : (dcWrite s u v).mem = s.mem := by simp [dcWrite]
@[simp] theorem ltUnit_mem (s : State) (u at0) : (ltUnit s u at0).mem = s.mem := by simp [ltUnit]
@[simp] theorem takeover_mem (s : State) : (takeover s).mem = s.mem := by simp [takeover]
@[simp] theorem copyMessage_mem (s : State) (n) : (copyMessage s n).mem = s.mem := by
  unfold copyMessage
  dsimp only
  repeat' split
  all_goals simp
@[simp] theorem ltuError_mem (s : State) (u) : (ltuError s u).mem = s.mem := by simp [ltuError]
@[simp] theorem knotFlush_mem (s : State) (h) : (knotFlush s h).mem = s.mem := by simp [knotFlush]
@[simp] theorem knotEnd_mem (s : State) (h) : (knotEnd s h).mem = s.mem := by simp [knotEnd]
@[simp] theorem knotDropPos_mem (s : State) (h p) : (knotDropPos s h p).mem = s.mem := by simp [knotDropPos]
@[simp] theorem State.modLed_mem (s : State) (h f) : (State.modLed s h f).mem = s.mem := by simp [State.modLed]
@[simp] theorem doffBegin_mem (s : State) : (doffBegin s).mem = s.mem := by
  simp [doffBegin]
@[simp] theorem commitDone_mem (s : State) : (commitDone s).mem = s.mem := by simp [commitDone]
@[simp] theorem doffClear_mem (s : State) : (doffClear s).mem = s.mem := by
  simp [doffClear]
@[simp] theorem viewRelease_mem (s : State) (h c) : (viewRelease s h c).mem = s.mem := by simp [viewRelease]
@[simp] theorem snapshot_mem (s : State) : (snapshot s).mem = s.mem := by
  unfold snapshot
  refine (foldl_mem _ _ _ fun _ _ => ?_).trans ?_
  · rfl
  · simp
@[simp] theorem State.modQos_mem (s : State) (h f) : (State.modQos s h f).mem = s.mem := by simp [State.modQos]
@[simp] theorem debit_mem (s : State) (h c e) : (debit s h c e).mem = s.mem := by simp [debit]
@[simp] theorem releaseDeferred_mem (s : State) (h c) : (releaseDeferred s h c).mem = s.mem := by
  simp [releaseDeferred]
@[simp] theorem qosRefresh_mem (s : State) (h) : (qosRefresh s h).mem = s.mem := by
  simp [qosRefresh]
@[simp] theorem stepStart_mem (s : State) (h g) : (stepStart s h g).mem = s.mem := by
  simp [stepStart]
@[simp] theorem State.modScrub_mem (s : State) (i f) : (State.modScrub s i f).mem = s.mem := rfl
@[simp] theorem scrubCreditAll_mem (s : State) : (scrubCreditAll s).mem = s.mem := foldl_mem _ _ _ fun _ _ => rfl
@[simp] theorem scrubNext_mem (s : State) (i) : (scrubNext s i).mem = s.mem := by simp [scrubNext]
@[simp] theorem scrubSkip_mem (s : State) (i n) : (scrubSkip s i n).mem = s.mem := by
  induction n generalizing s with
  | zero => rfl
  | succ n ih => simp [scrubSkip, ih]
@[simp] theorem scrubRead_mem (s : State) (i e) : (scrubRead s i e).mem = s.mem := by
  simp [scrubRead]
@[simp] theorem decay_mem (s : State) : (decay s).mem = s.mem := rfl
@[simp] theorem preempt_mem (s : State) (q) : (preempt s q).mem = s.mem := by
  unfold preempt
  dsimp only
  repeat' split
  all_goals simp
@[simp] theorem clearBlk_mem (s : State) (p) : (clearBlk s p).mem = s.mem := rfl
@[simp] theorem coreReset_mem (s : State) (h) : (coreReset s h).mem = s.mem := rfl
@[simp] theorem cbIdle_mem (s : State) (h) : (cbIdle s h).mem = s.mem := by simp [cbIdle]
@[simp] theorem State.modPart_mem (s : State) (h f) : (State.modPart s h f).mem = s.mem := by simp [State.modPart]
@[simp] theorem hankRelease_mem (s : State) (h) : (hankRelease s h).mem = s.mem := by
  have suspended (t : State) (l : List QIdx) :
      (l.foldl (fun s q => s.modQueue q fun x => { x with suspend := true }) t).mem = t.mem := foldl_mem _ _ _ fun _ _ => rfl
  simp [hankRelease, suspended, State.modPart]
@[simp] theorem hankAssign_mem (s : State) (h n) : (hankAssign s h n).mem = s.mem := by simp [hankAssign]
@[simp] theorem startPins_mem (s : State) : (startPins s).mem = s.mem := rfl
@[simp] theorem resetActs_mem (s : State) (width) : (resetActs s width).2.mem = s.mem := by
  unfold resetActs
  dsimp only
  repeat' split
  all_goals simp
@[simp] theorem sample_mem (s : State) (posId memtype) : (sample s posId memtype).mem = s.mem := rfl
@[simp] theorem pinRelease_mem (s : State) (frame posId memtype) : (pinRelease s frame posId memtype).mem = s.mem := by simp [pinRelease]
@[simp] theorem linkComesUp_mem (s : State) (a b feat localMax farMax) : (linkComesUp s a b feat localMax farMax).mem = s.mem := rfl
@[simp] theorem linksDone_mem (s : State) (f) : (linksDone s f).mem = s.mem := by simp [linksDone]
@[simp] theorem calibrateDone_mem (s : State) (f) : (calibrateDone s f).mem = s.mem := rfl
@[simp] theorem readyAct_mem (s : State) : (readyAct s).mem = s.mem := by simp [readyAct]
@[simp] theorem fwFailAct_mem (s : State) : (fwFailAct s).mem = s.mem := by simp [fwFailAct]
@[simp] theorem regRead_mem (s : State) (w o size) : (regRead s w o size).2.mem = s.mem := by
  unfold regRead
  dsimp only
  repeat' split
  all_goals simp
@[simp] theorem State.modSlk_mem (s : State) (h f) : (State.modSlk s h f).mem = s.mem := by simp [State.modSlk]
@[simp] theorem lateDiscard_mem (s : State) (d) : (lateDiscard s d).mem = s.mem := rfl
@[simp] theorem dropReq_mem (s : State) (h tag) : (dropReq s h tag).mem = s.mem := by simp [dropReq]
@[simp] theorem dropOwner_mem (s : State) (h o) : (dropOwner s h o).mem = s.mem := by simp [dropOwner]
@[simp] theorem commonAct_mem (s : State) (p bank w) : (commonAct s p bank w).mem = s.mem := by simp [commonAct]
@[simp] theorem ltuAct_mem (s : State) (h w) : (ltuAct s h w).mem = s.mem := by simp [ltuAct]
@[simp] theorem seqAct_mem (s : State) (h w) : (seqAct s h w).mem = s.mem := by
  simp [seqAct]
@[simp] theorem govAct_mem (s : State) (h w) : (govAct s h w).mem = s.mem := by simp [govAct]
@[simp] theorem ledAct_mem (s : State) (h bank ctx w) : (ledAct s h bank ctx w).mem = s.mem := by simp [ledAct]
@[simp] theorem gcAct_mem (s : State) (e w) : (gcAct s e w).mem = s.mem := by simp [gcAct]
@[simp] theorem xltAct_mem (s : State) (h bank w) : (xltAct s h bank w).mem = s.mem := by simp [xltAct]
@[simp] theorem flkAct_mem (s : State) (h w) : (flkAct s h w).mem = s.mem := by simp [flkAct]
@[simp] theorem cbAct_mem (s : State) (h bank w) : (cbAct s h bank w).mem = s.mem := by simp [cbAct]
@[simp] theorem hlkAct_mem (s : State) (p w) : (hlkAct s p w).mem = s.mem := by simp [hlkAct]
@[simp] theorem coreAbort_mem (s : State) (c cls addr) : (coreAbort s c cls addr).mem = s.mem := by simp [coreAbort]
@[simp] theorem storeFailed_mem (s : State) (c cls addr) : (storeFailed s c cls addr).mem = s.mem := by simp [storeFailed]
@[simp] theorem accessFault_mem (s : State) (r cause addr) : (accessFault s r cause addr).mem = s.mem := by
  unfold accessFault
  dsimp only
  repeat' split
  all_goals simp
@[simp] theorem regQuery_mem (s : State) (r off size) : (regQuery s r off size).mem = s.mem := by
  unfold regQuery
  split
  · rfl
  · split
    · exact regRead_mem ..
    · split <;> simp
    · exact accessFault_mem ..
@[simp] theorem countForced_mem (s : State) (c a) : (countForced s c a).mem = s.mem := by simp [countForced]
@[simp] theorem logMiss_mem (s : State) (c m) : (logMiss s c m).mem = s.mem := by
  unfold logMiss
  split <;> simp
@[simp] theorem coreMissed_mem (s : State) (c m) : (coreMissed s c m).mem = s.mem := by simp [coreMissed]
@[simp] theorem storeMissed_mem (s : State) (c m) : (storeMissed s c m).mem = s.mem := by simp [storeMissed]
@[simp] theorem nextNo_mem (s : State) (c) : (nextNo s c).2.mem = s.mem := rfl
@[simp] theorem askPieces_mem (s : State) (c x ask l) : (askPieces s c x ask l).2.mem = s.mem := by
  induction l generalizing s ask with
  | nil => rfl
  | cons p l ih => simp [askPieces, ih]
@[simp] theorem lineMayLeave_mem (s : State) (c a) : (lineMayLeave s c a).mem = s.mem := by simp [lineMayLeave]
@[simp] theorem waitLoad_mem (s : State) (c a vec ask) : (waitLoad s c a vec ask).mem = s.mem := by
  unfold waitLoad
  dsimp only
  repeat' split
  all_goals simp
@[simp] theorem sbRemove_mem (s : State) (c i) : (sbRemove s c i).mem = s.mem := rfl
@[simp] theorem sbSend_mem (s : State) (c i e) : (sbSend s c i e).mem = s.mem := by
  unfold sbSend
  split
  · exact foldl_mem _ _ _ fun _ _ => rfl
  all_goals simp
@[simp] theorem sbDrive_mem (s : State) (c n) : (sbDrive s c n).mem = s.mem := by
  induction n generalizing s with
  | zero => rfl
  | succ n ih =>
    rw [sbDrive]
    split <;> simp [ih]
@[simp] theorem sbFlow_mem (s : State) (c) : (sbFlow s c).mem = s.mem := by simp [sbFlow]
@[simp] theorem sbPush_mem (s : State) (c a data) : (sbPush s c a data).mem = s.mem := rfl
@[simp] theorem coreStoreStep_mem (s : State) (c a data) : (coreStoreStep s c a data).mem = s.mem := by
  unfold coreStoreStep
  repeat' split
  all_goals simp
@[simp] theorem sbPiece_mem (s : State) (c i e) : (sbPiece s c i e).mem = s.mem := by simp [sbPiece]
@[simp] theorem sbFail_mem (s : State) (c i k) : (sbFail s c i k).mem = s.mem := by
  unfold sbFail
  split <;> simp
@[simp] theorem fenceSlStep_mem (s : State) (c) : (fenceSlStep s c).mem = s.mem := by simp [fenceSlStep]
@[simp] theorem fenceRemoteStep_mem (s : State) (c) : (fenceRemoteStep s c).mem = s.mem := by simp [fenceRemoteStep]
@[simp] theorem setGidx_mem (s : State) (c f) : (setGidx s c f).mem = s.mem := rfl
@[simp] theorem vecFault_mem (s : State) (c f m) : (vecFault s c f m).mem = s.mem := by simp [vecFault]
@[simp] theorem pendFails_mem (s : State) (c m) : (pendFails s c m).mem = s.mem := by simp [pendFails]
@[simp] theorem cmuFails_mem (s : State) (c which k) : (cmuFails s c which k).mem = s.mem := rfl
@[simp] theorem coreLinkTimeout_mem (s : State) (c i) : (coreLinkTimeout s c i).mem = s.mem := by
  unfold coreLinkTimeout
  dsimp only
  repeat' split
  all_goals simp
@[simp] theorem stcondEnd_mem (s : State) (c a status) : (stcondEnd s c a status).mem = s.mem := rfl
@[simp] theorem putBegun_mem (s : State) (c b) : (putBegun s c b).mem = s.mem := rfl
@[simp] theorem dropBegun_mem (s : State) (c id) : (dropBegun s c id).mem = s.mem := rfl
@[simp] theorem cmuCount_mem (s : State) (c b) : (cmuCount s c b).mem = s.mem := by simp [cmuCount]
@[simp] theorem cmuRetire_mem (s : State) (c i) : (cmuRetire s c i).mem = s.mem := (sbFlow_mem ..).trans (foldl_mem _ _ _ fun _ _ => rfl)
@[simp] theorem cmuSquashStep_mem (s : State) (c id) : (cmuSquashStep s c id).mem = s.mem := by simp [cmuSquashStep]
@[simp] theorem vecPause_mem (s : State) (c v) : (vecPause s c v).mem = s.mem := by simp [vecPause]
@[simp] theorem scatterFrom_mem (s : State) (c v n) : (scatterFrom s c v n).mem = s.mem := by
  induction n generalizing s with
  | zero => simp [scatterFrom]
  | succ n ih =>
    unfold scatterFrom
    dsimp only
    repeat' split
    all_goals simp [ih]
@[simp] theorem engLook_mem (s : State) (q c rd wr va n) : (engLook s q c rd wr va n).state.mem = s.mem := by
  unfold engLook
  dsimp only
  split <;> simp
@[simp] theorem engGate_mem (s : State) (q c wr l) : (engGate s q c wr l).state.mem = s.mem := by
  simp [engGate]
@[simp] theorem askFor_mem (s : State) (q c l) : (askFor s q c l).mem = s.mem := foldl_mem _ _ _ fun _ _ => rfl
@[simp] theorem noteRead_mem (s : State) (q c) : (noteRead s q c).mem = s.mem := by simp [noteRead]
@[simp] theorem gcFill_mem (s : State) (e ent) : (gcFill s e ent).mem = s.mem := rfl
@[simp] theorem noteOwner_mem (s : State) (q c) : (noteOwner s q c).mem = s.mem := by
  unfold noteOwner
  repeat' split
  all_goals simp
@[simp] theorem engTarget_mem (s : State) (q c va n) : (engTarget s q c va n).state.mem = s.mem := by
  refine (Rd.bind_mem fun l t => ?_).trans (engLook_mem ..)
  dsimp only
  repeat' split
  all_goals simp
@[simp] theorem engPrep_mem (s : State) (q c elem va bs) : (engPrep s q c elem va bs).state.mem = s.mem := by
  refine (Rd.bind_mem fun l t => ?_).trans (engTarget_mem ..)
  split
  · rfl
  · exact (Rd.bind_mem fun _ _ => rfl).trans (engGate_mem ..)
@[simp] theorem goOn_mem (s : State) (q) : (goOn s q).2.mem = s.mem := by
  unfold goOn
  dsimp only
  repeat' split
  all_goals simp
@[simp] theorem engWait_mem (s : State) (q seq) : (engWait s q seq).mem = s.mem := rfl
@[simp] theorem State.addFlags_mem (s : State) (q c k f) : (State.addFlags s q c k f).mem = s.mem := rfl
@[simp] theorem State.setProg_mem (s : State) (q c n) : (State.setProg s q c n).mem = s.mem := rfl
@[simp] theorem nvmeSend_mem (s : State) (ssd nsid lba blocks write data o) :
    (nvmeSend s ssd nsid lba blocks write data o).mem = s.mem := by simp [nvmeSend]
@[simp] theorem fetchRace_mem (s : State) (x f) : (fetchRace s x f).mem = s.mem := by simp [fetchRace]
@[simp] theorem partitionErr_mem (s : State) (d page code) : (partitionErr s d page code).mem = s.mem := by simp [partitionErr]
@[simp] theorem gddrRetry_mem (s : State) (h off wr) : (gddrRetry s h off wr).mem = s.mem := by
  unfold gddrRetry
  dsimp only
  repeat' split
  all_goals simp
@[simp] theorem logFar_mem (s : State) (a h t pa) : (logFar s a h t pa).mem = s.mem := by simp [logFar]
@[simp] theorem farView_mem (s : State) (r v) : (farView s r v).mem = s.mem := rfl
@[simp] theorem State.modKnot_mem (s : State) (h f) : (State.modKnot s h f).mem = s.mem := by simp [State.modKnot]
@[simp] theorem State.modSeq_mem (s : State) (h k f) : (State.modSeq s h k f).mem = s.mem := by simp [State.modSeq]
@[simp] theorem State.modMember_mem (s : State) (h k n f) : (State.modMember s h k n f).mem = s.mem := by simp [State.modMember]
@[simp] theorem openSeq_mem (s : State) (h k) : (openSeq s h k).2.mem = s.mem := by
  unfold openSeq
  repeat' split
  all_goals simp
@[simp] theorem newUse_mem (s : State) (h k n) : (newUse s h k n).mem = s.mem := by simp [newUse]
@[simp] theorem knotSeen_mem (s : State) (h k p) : (knotSeen s h k p).mem = s.mem := by simp [knotSeen]
@[simp] theorem knotDrop_mem (s : State) (h k n) : (knotDrop s h k n).mem = s.mem := by simp [knotDrop]
@[simp] theorem fenceBody_mem (s : State) (q c) : (fenceBody s q c).state.mem = s.mem := by simp [fenceBody]
@[simp] theorem stepBody_mem (s : State) (q c) : (stepBody s q c).state.mem = s.mem := by simp [stepBody]
@[simp] theorem hostAnswer_mem (s : State) (p tag st data) : (hostAnswer s p tag st data).mem = s.mem := by simp [hostAnswer]
@[simp] theorem hostViolation_mem (s : State) (p t addr) : (hostViolation s p t addr).mem = s.mem := by simp [hostViolation]
@[simp] theorem unboundFault_mem (s : State) (p v addr) : (unboundFault s p v addr).mem = s.mem := by simp [unboundFault]
@[simp] theorem hostFault_mem (s : State) (p f cause addr) : (hostFault s p f cause addr).mem = s.mem := by simp [hostFault]
@[simp] theorem hostPosDown_mem (s : State) (p f pa) : (hostPosDown s p f pa).mem = s.mem := by
  unfold hostPosDown
  split <;> simp
@[simp] theorem farUnmapped_mem (s : State) (p f k pa) : (farUnmapped s p f k pa).mem = s.mem := by simp [farUnmapped]
@[simp] theorem readAnswer_mem (s : State) (p tag st cxl data) : (readAnswer s p tag st cxl data).mem = s.mem := by
  unfold readAnswer
  split <;> simp
@[simp] theorem shareLines_mem (s : State) (p l) : (shareLines s p l).mem = s.mem := by simp [shareLines]
@[simp] theorem dropPend_mem (s : State) (p tag) : (dropPend s p tag).mem = s.mem := rfl
@[simp] theorem hostData_mem (s : State) (p tag pa k data) : (hostData s p tag pa k data).mem = s.mem := by
  unfold hostData
  repeat' split
  all_goals simp
@[simp] theorem postedAck_mem (s : State) (p v pa k) : (postedAck s p v pa k).mem = s.mem := by
  unfold postedAck
  repeat' split
  all_goals simp
@[simp] theorem msixRelease_mem (s : State) (p v f) : (msixRelease s p v f).mem = s.mem := by simp [msixRelease]
@[simp] theorem farWindow_mem (s : State) (p f tag v pa n) : (farWindow s p f tag v pa n).mem = s.mem := by simp [farWindow]
@[simp] theorem windowRead_mem (s : State) (p v f off n tag) : (windowRead s p v f off n tag).mem = s.mem := by
  unfold windowRead
  dsimp only
  repeat' split
  all_goals simp
@[simp] theorem windowWrite_mem (s : State) (p v f off data) : (windowWrite s p v f off data).mem = s.mem := by
  unfold windowWrite
  extract_lets each violation
  have wrote (t : State) (g : Hlk → Nat → Byte → Hlk) : (each t g).mem = t.mem := foldl_mem _ _ _ fun _ _ => rfl
  have stopped (t : State) : (violation t).mem = t.mem := hostViolation_mem ..
  clear_value each violation
  repeat' split
  all_goals simp [wrote, stopped]
@[simp] theorem winAccess_mem (s : State) (p a tag) : (winAccess s p a tag).mem = s.mem := by
  unfold winAccess
  dsimp only
  repeat' split
  all_goals simp
@[simp] theorem hostExpire_mem (s : State) (p tag) : (hostExpire s p tag).mem = s.mem := by
  unfold hostExpire
  split <;> simp
@[simp] theorem portUp_mem (s : State) (p speed width cxl) : (portUp s p speed width cxl).mem = s.mem := by simp [portUp]
@[simp] theorem cxlAck_mem (s : State) (p tag pa k) : (cxlAck s p tag pa k).mem = s.mem := by
  unfold cxlAck
  dsimp only
  repeat' split
  all_goals simp
@[simp] theorem cmdData_mem (s : State) (q seq gen pa k data) : (cmdData s q seq gen pa k data).mem = s.mem := by
  unfold cmdData
  split <;> simp
@[simp] theorem creelData_mem (s : State) (e b j occ pa k data) : (creelData s e b j occ pa k data).mem = s.mem := by
  unfold creelData
  repeat' split
  all_goals simp
@[simp] theorem recAck_mem (s : State) (q seq k) : (recAck s q seq k).mem = s.mem := by
  unfold recAck
  split <;> simp
@[simp] theorem srcCheck_mem (s : State) (q c va n) : (srcCheck s q c va n).state.mem = s.mem := by
  have look := engLook_mem s q c true false va n
  unfold srcCheck
  split
  next e => rwa [e] at look
  next => rfl
@[simp] theorem dstCheck_mem (s : State) (q c va n) : (dstCheck s q c va n).state.mem = s.mem := by
  have look := engTarget_mem s q c va n
  unfold dstCheck
  split
  next e => rwa [e] at look
  next => rfl
@[simp] theorem checkAll_mem (s : State) (q c src dst) : (checkAll s q c src dst).state.mem = s.mem := by simp [checkAll]
@[simp] theorem nextPiece_mem (s : State) (q c k m) : (nextPiece s q c k m).state.mem = s.mem := rfl
@[simp] theorem keepRows_mem (s : State) (q c rows) : (keepRows s q c rows).state.mem = s.mem := rfl
@[simp] theorem openGroup_mem (s : State) (h g spans) : (openGroup s h g spans).mem = s.mem := by simp [openGroup]
@[simp] theorem prepRows_mem (s : State) (q c va stride rows) : (prepRows q c va stride rows s).state.mem = s.mem :=
  Rd.fold_mem _ _ _ fun _ _ _ => (Rd.bind_mem fun _ _ => rfl).trans (engPrep_mem ..)
@[simp] theorem State.modLink_mem (s : State) (l f) : (s.modLink l f).mem = s.mem := by
  unfold State.modLink
  split <;> simp
@[simp] theorem linkCount_mem (s : State) (l e) : (linkCount s l e).mem = s.mem := by
  unfold linkCount
  dsimp only
  repeat' split
  all_goals simp
@[simp] theorem linkCorrected_mem (s : State) (l) : (linkCorrected s l).mem = s.mem := by
  unfold linkCorrected
  split <;> simp
@[simp] theorem stallsBegin_mem (s : State) : (stallsBegin s).mem = s.mem := foldl_mem _ _ _ fun _ _ => rfl
@[simp] theorem stallsEnd_mem (s : State) : (stallsEnd s).mem = s.mem := by simp [stallsEnd]
@[simp] theorem recLost_mem (s : State) (p q) : (recLost s p q).mem = s.mem := by
  unfold recLost
  dsimp only
  repeat' split
  all_goals simp
@[simp] theorem coreStoresLost_mem (s : State) (p c n) : (coreStoresLost s p c n).mem = s.mem := by
  induction n generalizing s with
  | zero => rfl
  | succ n ih =>
    rw [coreStoresLost]
    split <;> simp [ih]
@[simp] theorem coreLost_mem (s : State) (p c) : (coreLost s p c).mem = s.mem := by
  unfold coreLost
  dsimp only
  split <;> simp
@[simp] theorem hostLost_mem (s : State) (p k) : (hostLost s p k).mem = s.mem := by simp [hostLost]
@[simp] theorem sendTrain_mem (s : State) (h j) : (sendTrain s h j).mem = s.mem := rfl
@[simp] theorem trainTry_mem (s : State) (h j) : (trainTry s h j).mem = s.mem := by simp [trainTry]
@[simp] theorem farReport_mem (s : State) (j ready cycle) : (farReport s j ready cycle).mem = s.mem := rfl
@[simp] theorem linkError_mem (s : State) (l) : (linkError s l).mem = s.mem := by simp [linkError]
@[simp] theorem replayEnd_mem (s : State) (l attempts) : (replayEnd s l attempts).mem = s.mem := by simp [replayEnd]
@[simp] theorem replayFail_mem (s : State) (l) : (replayFail s l).mem = s.mem := by simp [replayFail]
@[simp] theorem respond_mem (s : State) (cmd cc payload) : (respond s cmd cc payload).mem = s.mem := rfl
theorem message_mem (s : State) (cmd valid act payload) (ha : ∀ t, (act t).mem = t.mem) :
    (message s cmd valid act payload).mem = s.mem := by
  simp [message, ha]
@[simp] theorem setStep_mem (s : State) (p) : (setStep s p).mem = s.mem := message_mem _ _ _ _ _ fun t => by simp [bothGovs]
@[simp] theorem cutMsg_mem (s : State) (p) : (cutMsg s p).mem = s.mem := message_mem _ _ _ _ _ fun t => by simp [bothGovs]
@[simp] theorem releaseMsg_mem (s : State) (p) : (releaseMsg s p).mem = s.mem := message_mem _ _ _ _ _ fun t => by simp [bothGovs]
@[simp] theorem ltQueryMsg_mem (s : State) (p) : (ltQueryMsg s p).mem = s.mem := message_mem _ _ _ _ _ fun _ => rfl
@[simp] theorem unknownMsg_mem (s : State) (m) : (unknownMsg s m).mem = s.mem := by
  unfold unknownMsg
  dsimp only
  split
  · rfl
  · exact message_mem _ _ _ _ _ fun _ => rfl
@[simp] theorem pldmAnswer_mem (s : State) (cc data) : (pldmAnswer s cc data).mem = s.mem := rfl
@[simp] theorem firmwareUpdate_mem (s : State) (image) : (firmwareUpdate s image).mem = s.mem := by simp [firmwareUpdate]
@[simp] theorem dumpInfoMsg_mem (s : State) : (dumpInfoMsg s).mem = s.mem := rfl
@[simp] theorem dumpReadMsg_mem (s : State) (off n) : (dumpReadMsg s off n).mem = s.mem := by simp [dumpReadMsg]
@[simp] theorem tapTake_mem (s : State) (i) : (tapTake s i).mem = s.mem := by simp [tapTake]
@[simp] theorem ptCount_mem (s : State) (q off n) : (ptCount s q off n).mem = s.mem := by simp [ptCount]

end Sys2Proof.Machine
end

section
/-!
Memory in canonical form: the rules of stores, folds and branches (R260).
-/

namespace Sys2Proof.Machine

/-- Memory is in canonical form. -/
@[simp] abbrev MemOk (s : State) : Prop := Memory.wf s.mem = true

variable {s t : State}

theorem MemOk.of_mem (ok : MemOk s) (e : t.mem = s.mem) : MemOk t := by rwa [MemOk, e]
@[simp] theorem wf_ite (c : Prop) [Decidable c] (a b : List Host.Cell) :
    Memory.wf (if c then a else b) = if c then Memory.wf a else Memory.wf b := apply_ite ..
theorem ite_memOk {c : Prop} [Decidable c] (hs : MemOk s) (ht : MemOk t) : MemOk (if c then s else t) := by
  split
  · exact hs
  · exact ht
theorem foldl_memOk {α : Type} {f : State → α → State} {l : List α} (ok : MemOk s) (hf : ∀ t a, MemOk t → MemOk (f t a)) :
    MemOk (l.foldl f s) := List.foldlRecOn (motive := MemOk) l f ok fun t ht a _ => hf t a ht
theorem foldl_fst_memOk {α β : Type} {f : State × β → α → State × β} {p : State × β} {l : List α} (ok : MemOk p.1)
    (hf : ∀ p a, MemOk p.1 → MemOk (f p a).1) : MemOk (l.foldl f p).1 :=
  List.foldlRecOn (motive := fun p => MemOk p.1) l f ok fun p hp a _ => hf p a hp

@[simp] theorem store_memOk (ok : MemOk s) {o bs} : MemOk (s.store o bs) := store_wf s o bs ok
@[simp] theorem zeroRange_memOk (ok : MemOk s) {o n} : MemOk (zeroRange s o n) := zeroRange_wf s o n ok
@[simp] theorem writeBackLine_memOk (ok : MemOk s) {i l} : MemOk (writeBackLine s i l).1 := writeBackLine_wf s i l ok
@[simp] theorem evict_memOk (ok : MemOk s) {i l} : MemOk (evict s i l) := evict_wf s i l ok
@[simp] theorem wrThrough_memOk (ok : MemOk s) {i o bs} : MemOk (wrThrough s i o bs) := wrThrough_wf s i o bs ok
@[simp] theorem rdPiece_memOk (ok : MemOk s) {a o n} : MemOk (rdPiece s a o n).2.2 := rdPiece_wf s a o n ok
@[simp] theorem wrPiece_memOk (ok : MemOk s) {w a o bs} : MemOk (wrPiece s w a o bs) := wrPiece_wf s w a o bs ok
@[simp] theorem readMem_memOk (ok : MemOk s) {a o n} : MemOk (readMem s a o n).2.2 :=
  List.foldlRecOn (motive := fun x : List Byte × Bool × State => MemOk x.2.2) _ _ ok fun _ h _ _ => rdPiece_memOk h
@[simp] theorem writeMem_memOk (ok : MemOk s) {w a o bs} : MemOk (writeMem s w a o bs) := foldl_memOk ok fun _ _ h => wrPiece_memOk h
theorem sharedWait_mem {l : List Span} (e : sharedWait s l = some t) : t.mem = s.mem := by
  unfold sharedWait at e
  dsimp only at e
  split at e
  · cases e
  · cases e; simp

end Sys2Proof.Machine
end

section
/-!
Queue manager, caches, creels and the grid keep memory in canonical form.
-/

namespace Sys2Proof.Machine

variable {s t : State}

/-! ## The queue manager -/

theorem qmRead_memOk (ok : MemOk s) {q got va n} : MemOk (qmRead s q got va n).2 := by
  have read (a : List Byte × Bool × State) (x : Nat × Nat × Acc) (h : MemOk a.2.2) :
      MemOk (if isLocal a.2.2 x.1 then
        (a.1 ++ (rdPiece a.2.2 x.2.2 (offOf x.1) x.2.1).1, a.2.1 || (rdPiece a.2.2 x.2.2 (offOf x.1) x.2.1).2.1,
          (rdPiece a.2.2 x.2.2 (offOf x.1) x.2.1).2.2)
        else (a.1 ++ arrived got x.1 x.2.1, a.2.1, a.2.2)).2.2 := by
    split
    · exact rdPiece_memOk h
    · exact h
  unfold qmRead
  dsimp only
  split
  · simpa using ok
  · simpa using ok
  · split
    · exact ok
    · exact List.foldlRecOn (motive := fun a : List Byte × Bool × State => MemOk a.2.2) _ _ (by simpa using ok) fun a h x _ => read a x h
@[simp] theorem closeHead_memOk (ok : MemOk s) {q c} : MemOk (closeHead s q c) := by
  refine foldl_memOk ok fun t x h => ?_
  repeat' split
  · exact h
  · exact h
  · exact wrPiece_memOk h
@[simp] theorem endCmd_memOk (ok : MemOk s) {q c st cause idx va ea} : MemOk (endCmd s q c st cause idx va ea) := by simp [endCmd, ok]
@[simp] theorem drainJournal_memOk (ok : MemOk s) {h n} : MemOk (drainJournal s h n) := by
  induction n generalizing s with
  | zero => exact ok
  | succ n ih =>
    unfold drainJournal
    split
    · exact ok
    · exact ih (wrPiece_memOk (by simpa using ok))
@[simp] theorem completeOne_memOk (ok : MemOk s) {q} : MemOk (completeOne s q) := by
  unfold completeOne
  dsimp only
  repeat' split
  any_goals simp [ok]
  next e => exact ok.of_mem (sharedWait_mem e)
@[simp] theorem completeAll_memOk (ok : MemOk s) {q n} : MemOk (completeAll s q n) := by
  induction n generalizing s with
  | zero => exact ok
  | succ n ih =>
    have next := completeOne_memOk (q := q) ok
    exact ite_memOk next (ih next)
@[simp] theorem stopCmd_memOk (ok : MemOk s) {q c st cause} : MemOk (stopCmd s q c st cause) := by simp [stopCmd, ok]
@[simp] theorem stopAll_memOk (ok : MemOk s) {q st cause} : MemOk (stopAll s q st cause) := foldl_memOk ok fun _ _ h => stopCmd_memOk h
@[simp] theorem queueReset_memOk (ok : MemOk s) {q} : MemOk (queueReset s q) := by simp [queueReset, ok]
@[simp] theorem faultAbandon_memOk (ok : MemOk s) {q} : MemOk (faultAbandon s q) := by
  unfold faultAbandon
  dsimp only
  split <;> simp [ok]
@[simp] theorem resumeQueue_memOk (ok : MemOk s) {q} : MemOk (resumeQueue s q) := by simp [resumeQueue, ok]

/-! ## Caches -/

@[simp] theorem writeBackAll_memOk (ok : MemOk s) {i} : MemOk (writeBackAll s i) := foldl_memOk ok fun _ _ h => writeBackLine_memOk h
@[simp] theorem drainEnd_memOk (ok : MemOk s) {i} : MemOk (drainEnd s i) := by simp [drainEnd, ok]
@[simp] theorem maintEnd_memOk (ok : MemOk s) {i} : MemOk (maintEnd s i) := by
  unfold maintEnd
  split <;> simp [ok]
@[simp] theorem carveWrite_memOk (ok : MemOk s) {i n} : MemOk (carveWrite s i n) := zeroRange_memOk ok
@[simp] theorem maintCarve_memOk (ok : MemOk s) {i start units} : MemOk (maintCarve s i start units) := by
  unfold maintCarve
  dsimp only
  repeat' split
  all_goals simp [ok]
@[simp] theorem carveEnd_memOk (ok : MemOk s) {i} : MemOk (carveEnd s i) := by simp [carveEnd, ok]
@[simp] theorem preloadLine_memOk (ok : MemOk s) {i ways loaded num} : MemOk (preloadLine s i ways loaded num).1 := by
  unfold preloadLine
  extract_lets fill set place
  have filled {t : State} (h : MemOk t) (l : Line) : MemOk (fill t l) := by simp [fill, h]
  have placed {t : State} (h : MemOk t) : MemOk (place t).1 := by
    unfold place
    dsimp only
    repeat' split
    · exact filled (evict_memOk h) _
    · exact filled h _
    · simpa using h
  clear_value fill place
  repeat' split
  · exact filled ok _
  · exact placed (evict_memOk ok)
  · exact placed ok
@[simp] theorem preloadLines_memOk (ok : MemOk s) {i n} : MemOk (preloadLines s i n) := foldl_fst_memOk ok fun _ _ h => preloadLine_memOk h
@[simp] theorem preloadEnd_memOk (ok : MemOk s) {i} : MemOk (preloadEnd s i) := by simp [preloadEnd, ok]
@[simp] theorem cacheOff_memOk (ok : MemOk s) {i} : MemOk (cacheOff s i) := by
  unfold cacheOff
  split <;> simp [ok]
@[simp] theorem scrZeroEnd_memOk (ok : MemOk s) {n} : MemOk (scrZeroEnd s n) := by simp [scrZeroEnd, ok]

/-! ## Creels -/

@[simp] theorem depFail_memOk (ok : MemOk s) {q c e} : MemOk (depFail s q c e) := by simp [depFail, ok]
@[simp] theorem disarmCheck_memOk (ok : MemOk s) {e} : MemOk (disarmCheck s e) := by
  unfold disarmCheck
  extract_lets x s1 y s2
  have ended : MemOk s1 := foldl_memOk ok fun _ _ h => foldl_memOk h fun _ _ h => ite_memOk (endCmd_memOk h) h
  have left : MemOk s2 := ended
  exact ite_memOk (ite_memOk (left.of_mem (engineClear_mem ..)) left) ok
@[simp] theorem disarmStart_memOk (ok : MemOk s) {e} : MemOk (disarmStart s e) := by simp [disarmStart, ok]
@[simp] theorem engineReset_memOk (ok : MemOk s) {i} : MemOk (engineReset s i).1 := by
  unfold engineReset
  repeat' split
  all_goals simp [ok]
@[simp] theorem cbNotice_memOk (ok : MemOk s) {h g k b} : MemOk (cbNotice s h g k b) := by
  unfold cbNotice
  dsimp only
  repeat' split
  all_goals simp [ok]
@[simp] theorem fetchFail_memOk (ok : MemOk s) {e k f r} : MemOk (fetchFail s e k f r) := by simp [fetchFail, ok]

/-! ## DOFF -/

/-- A copy of the ledger is two writes, of which no step of a proof evaluates the bytes. -/
theorem writeCopy_keeps {P : State → Prop} (h : Hub) (d : Bool) (start : P s)
    (write : ∀ (t : State) (o : Nat) (bs : List Byte), P t → P (writeMem t none {} o bs)) : P (writeCopy s h d) := by
  obtain ⟨copy, e⟩ : ∃ f, f = writeCopy := ⟨_, rfl⟩
  rw [← e]
  delta writeCopy at e
  generalize validCopy = valid at e
  generalize writeMem = put at write e
  subst e
  beta_reduce
  cases valid s h
  · exact write _ _ _ (write _ _ _ start)
  · exact write _ _ _ (write _ _ _ start)
@[simp] theorem writeCopy_memOk (ok : MemOk s) {h d} : MemOk (writeCopy s h d) :=
  writeCopy_keeps (P := MemOk) h d ok fun _ _ _ h => writeMem_memOk h
@[simp] theorem checkpoint_memOk (ok : MemOk s) {h} : MemOk (checkpoint s h) := by
  unfold checkpoint
  split
  · exact ok
  · exact (writeCopy_memOk ok).of_mem (State.count_mem ..)
@[simp] theorem doffCmd_memOk (ok : MemOk s) {q c} : MemOk (doffCmd s q c) := by simp [doffCmd, ok]
@[simp] theorem stopQueue_memOk (ok : MemOk s) {q} : MemOk (stopQueue s q) := by
  refine foldl_memOk ok fun t c h => ?_
  repeat' split
  all_goals simp [h]
@[simp] theorem doffStop_memOk (ok : MemOk s) : MemOk (doffStop s) := by
  unfold doffStop
  split
  · exact ok
  · exact foldl_memOk (by simpa using ok) fun _ _ h => stopQueue_memOk h
@[simp] theorem doffExpire_memOk (ok : MemOk s) : MemOk (doffExpire s) := by
  unfold doffExpire
  split
  · exact ok
  · refine foldl_memOk (foldl_memOk ok fun _ _ h => foldl_memOk h fun _ _ h => ite_memOk h (doffCmd_memOk h)) fun _ _ h =>
      foldl_memOk h fun _ _ h => ?_
    repeat' split
    · exact fetchFail_memOk h
    · exact h
    · exact h
@[simp] theorem commitHub_memOk (ok : MemOk s) {h} : MemOk (commitHub s h) := by
  unfold commitHub
  split
  · exact ok
  · rw [MemOk, event_mem, State.modLed_mem]
    refine writeCopy_memOk ?_
    rw [MemOk, knotEnd_mem]
    refine drainJournal_memOk ?_
    rw [MemOk, State.modLed_mem]
    exact foldl_memOk (foldl_memOk ok fun _ _ h => foldl_memOk h fun _ _ h => ite_memOk h (doffCmd_memOk h))
      fun _ _ h => completeAll_memOk (drainJournal_memOk h)

/-! ## The grid -/

@[simp] theorem runEvent_memOk (ok : MemOk s) {e} : MemOk (runEvent s e) := by
  cases e <;> simp [runEvent, ok]
theorem takeEvent_memOk (ok : MemOk s) {e f} (hf : ∀ t, MemOk t → MemOk (f t)) : MemOk (takeEvent s e f) :=
  ite_memOk (hf _ (foldl_memOk ok fun _ _ h => runEvent_memOk h)) ok
@[simp] theorem runDue_memOk (ok : MemOk s) : MemOk (runDue s) := foldl_memOk ok fun _ _ h => runEvent_memOk h
@[simp] theorem passLt_memOk (ok : MemOk s) : MemOk (passLt s) := by simp [passLt, ok]

/-! ## Admission -/

@[simp] theorem admitEntry_memOk (ok : MemOk s) {q pwr bytes} : MemOk (admitEntry s q pwr bytes) := by
  unfold admitEntry
  dsimp only
  repeat' split
  all_goals simp [ok]
@[simp] theorem admitFront_memOk (ok : MemOk s) {q pwr} : MemOk (admitFront s q pwr) := by
  have read := qmRead_memOk ok (q := q) (got := (s.queue q).fetchData)
    (va := (s.queue q).ringBase.toNat + (s.queue q).entryLen * ((s.queue q).cons.toNat % (s.queue q).depth)) (n := (s.queue q).entryLen)
  unfold admitFront
  dsimp only
  split
  · exact ok
  · split
    · simpa using ok
    · split
      next e => rw [e] at read; simpa using read
      next e => rw [e] at read; exact foldl_memOk read fun _ _ h => h
      next e => rw [e] at read; split <;> simp [read]

end Sys2Proof.Machine
end

section
/-!
Resets, the start sequence, the storage port and the registers keep memory in canonical form.
-/

namespace Sys2Proof.Machine

variable {s t : State}

@[simp] theorem foldl_modBlk_mem (f : Nat → Blk → Blk) (l : List Nat) (s : State) :
    (l.foldl (fun s p => s.modBlk p (f p)) s).mem = s.mem := foldl_mem _ _ _ fun _ _ => rfl
theorem MemOk.filter (ok : MemOk s) (p : Host.Cell → Bool) : Memory.wf (s.mem.filter p) = true := filter_wf p ok
@[simp] theorem partReset_memOk (ok : MemOk s) {h n} : MemOk (partReset s h n) := by
  have queues {u : State} (hu : MemOk u) (l : List QIdx) :
      MemOk (l.foldl (fun s q => if (s.queue q).part.toNat = n then queueReset s q else s) u) :=
    foldl_memOk hu fun _ _ h => ite_memOk (queueReset_memOk h) h
  have engines {u : State} (hu : MemOk u) (l : List Nat) : MemOk (l.foldl (fun s i => (engineReset s i).1) u) :=
    foldl_memOk hu fun _ _ h => engineReset_memOk h
  unfold partReset
  split
  · exact ok
  · simpa using engines (queues (by simpa using ok) _) _
@[simp] theorem drainExpire_memOk (ok : MemOk s) {h} : MemOk (drainExpire s h) := by
  refine ite_memOk ?_ ok
  rw [MemOk, zeroingCheck_mem]
  exact foldl_memOk ok fun _ _ h => ite_memOk h (queueReset_memOk h)
@[simp] theorem zeroHank_memOk (ok : MemOk s) {h} : MemOk (zeroHank s h) :=
  zeroRange_memOk (zeroRange_memOk (zeroRange_memOk (zeroRange_memOk (zeroRange_memOk ok))))
@[simp] theorem zeroingEnd_memOk (ok : MemOk s) {h} : MemOk (zeroingEnd s h) := by
  unfold zeroingEnd
  split
  · exact ok
  · dsimp only
    rw [MemOk, event_mem, State.count_mem, State.modPart_mem, foldl_modBlk_mem, State.modHub_mem, knotFlush_mem, coreReset_mem]
    exact zeroHank_memOk ok
@[simp] theorem packageReset_memOk (ok : MemOk s) {code power} : MemOk (packageReset s code power) := by
  cases power
  · exact ok
  · exact ok.filter _
@[simp] theorem powerLost_memOk (ok : MemOk s) : MemOk (powerLost s) := ite_memOk (packageReset_memOk ok) ok
@[simp] theorem resetPin_memOk (ok : MemOk s) {frame width} : MemOk (resetPin s frame width) := by
  have acts : MemOk (resetActs s width).2 := by simpa using ok
  unfold resetPin
  split
  · next e => rwa [e] at acts
  · next e =>
    rw [e] at acts
    exact ite_memOk (packageReset_memOk acts) acts
@[simp] theorem initDone_memOk (ok : MemOk s) : MemOk (initDone s) := by
  unfold initDone
  dsimp only
  rw [MemOk, foldl_mem _ _ _ fun _ _ => State.modLed_mem .., foldl_modBlk_mem]
  exact ok.filter _
@[simp] theorem stepEnd_memOk (ok : MemOk s) {f} : MemOk (stepEnd s f) := by
  unfold stepEnd
  dsimp only
  split
  · simpa using ok
  · simp [ok]
@[simp] theorem stepDone_memOk (ok : MemOk s) {h f} : MemOk (stepDone s h f) := by
  unfold stepDone
  split
  · exact ok
  · simp [ok]

/-! ## The storage port -/

@[simp] theorem storeFail_memOk (ok : MemOk s) {h q c st} : MemOk (storeFail s h q c st) := by simp [storeFail, ok]
@[simp] theorem nvmeFail_memOk (ok : MemOk s) {h r st} : MemOk (nvmeFail s h r st) := by
  unfold nvmeFail
  dsimp only
  repeat' split
  all_goals simp [ok]
@[simp] theorem ssdDrop_memOk (ok : MemOk s) {h n} : MemOk (ssdDrop s h n) :=
  (foldl_memOk ok fun _ _ h => nvmeFail_memOk h : MemOk (List.foldl _ _ _)).of_mem (State.modSlk_mem ..)
@[simp] theorem portEnable_memOk (ok : MemOk s) {h v found} : MemOk (portEnable s h v found) := by
  unfold portEnable
  dsimp only
  split
  · exact ok
  · split
    · simpa using ok
    · simpa using foldl_memOk (f := fun s k => ssdDrop s h k) ok fun _ _ h => ssdDrop_memOk h

/-! ## The dump -/

@[simp] theorem clearSummary_memOk (ok : MemOk s) {h} : MemOk (clearSummary s h) := store_memOk (store_memOk ok)
@[simp] theorem dumpRelease_memOk (ok : MemOk s) : MemOk (dumpRelease s) :=
  ite_memOk (clearSummary_memOk (clearSummary_memOk (zeroRange_memOk ok))) ok

/-! ## Registers -/

@[simp] theorem hubAct_memOk (ok : MemOk s) {h w} : MemOk (hubAct s h w) := by
  have ask {a : State × Bool} (b : Bool) (i : Nat) (ha : MemOk a.1) :
      MemOk (if b then ((engineReset a.1 i).1, a.2 || !(engineReset a.1 i).2) else a).1 := by
    split
    · exact engineReset_memOk ha
    · exact ha
  unfold hubAct
  dsimp only
  repeat' split
  all_goals simp [ok]
@[simp] theorem mgtAct_memOk (ok : MemOk s) {w} : MemOk (mgtAct s w) := by
  unfold mgtAct
  dsimp only
  repeat' split
  all_goals simp [ok]
@[simp] theorem ccAct_memOk (ok : MemOk s) {i w} : MemOk (ccAct s i w) := by
  unfold ccAct
  dsimp only
  repeat' split
  all_goals simp [ok]
@[simp] theorem qmAct_memOk (ok : MemOk s) {d b w} : MemOk (qmAct s d b w) := by
  unfold qmAct
  dsimp only
  repeat' split
  all_goals simp [ok]
@[simp] theorem slkAct_memOk (ok : MemOk s) {h found w} : MemOk (slkAct s h found w) := by simp [slkAct, ok]
@[simp] theorem tdcAct_memOk (ok : MemOk s) {n w} : MemOk (tdcAct s n w) := by
  unfold tdcAct
  split
  · exact ok
  · refine foldl_fst_memOk (p := (s, false)) ok fun a e h => ?_
    split
    · exact engineReset_memOk h
    · exact h
@[simp] theorem blockAct_memOk (ok : MemOk s) {k bank ctx found w} : MemOk (blockAct s k bank ctx found w) := by
  cases k <;> simp [blockAct, ok]
@[simp] theorem bellAct_memOk (ok : MemOk s) {q w} : MemOk (bellAct s q w) := by
  simp [bellAct, ok]
@[simp] theorem regWrite_memOk (ok : MemOk s) {who o size v found} : MemOk (regWrite s who o size v found) := by
  unfold regWrite
  extract_lets go
  have written {h fields cur act r gridFirst} (hact : ∀ t w, MemOk t → MemOk (act t w)) : MemOk (go h fields cur act r gridFirst) := by
    unfold go
    extract_lets met res
    have ended : MemOk res.1 := foldl_fst_memOk (p := (s, false)) ok fun _ _ ha => hact _ _ ha
    split
    · exact ended.of_mem (fwViolation_mem ..)
    · exact ended
  clear_value go
  split
  · exact written fun t w h => ite_memOk (h.of_mem (commonAct_mem ..)) (blockAct_memOk h)
  · exact written fun t w h => bellAct_memOk h
  · exact ok
@[simp] theorem regAccess_memOk (ok : MemOk s) {r off size v found} : MemOk (regAccess s r off size v found) := by
  unfold regAccess
  repeat' split
  all_goals simp [ok]
@[simp] theorem pageAccess_memOk (ok : MemOk s) {r p off size v} : MemOk (pageAccess s r p off size v) := regAccess_memOk ok
@[simp] theorem qCtl_memOk (ok : MemOk s) {r q en resume act clr} : MemOk (qCtl s r q en resume act clr) := regAccess_memOk ok
@[simp] theorem hubCtl_memOk (ok : MemOk s) {r v} : MemOk (hubCtl s r v) := pageAccess_memOk ok

end Sys2Proof.Machine
end

section
/-!
Core reads, fetches, walks and stores keep memory in canonical form.
-/

namespace Sys2Proof.Machine

variable {s t : State}

/-- The state that the read of a core leaves. -/
def CoreRd.state : CoreRd → State
  | .ok _ s | .stop _ s | .wait _ s => s
@[simp] theorem CoreRd.state_ok (b) (s : State) : (CoreRd.ok b s).state = s := rfl
@[simp] theorem CoreRd.state_stop (m) (s : State) : (CoreRd.stop m s).state = s := rfl
@[simp] theorem CoreRd.state_wait (a) (s : State) : (CoreRd.wait a s).state = s := rfl

@[simp] theorem coreFetch_memOk (ok : MemOk s) {c a early ask} : MemOk (coreFetch s c a early ask).state := by
  unfold coreFetch
  dsimp only
  repeat' split
  all_goals simp [ok]
@[simp] theorem coreRead_memOk (ok : MemOk s) {c a early ask} : MemOk (coreRead s c a early ask).state := by
  unfold coreRead
  dsimp only
  repeat' split
  all_goals simp [ok]
@[simp] theorem coreLoadStep_memOk (ok : MemOk s) {c a} : MemOk (coreLoadStep s c a) := by
  have read := coreRead_memOk ok (c := c) (a := a) (early := false) (ask := (s.core c).ask)
  unfold coreLoadStep
  dsimp only
  split
  · exact ok
  · split
    all_goals next e => rw [e] at read; simpa using read
@[simp] theorem coreData_memOk (ok : MemOk s) {c n pa k data} : MemOk (coreData s c n pa k data) := by
  unfold coreData
  dsimp only
  repeat' split
  all_goals simp [ok]
@[simp] theorem sbPerform_memOk (ok : MemOk s) {c i} : MemOk (sbPerform s c i) := by
  unfold sbPerform
  dsimp only
  repeat' split
  all_goals simp [ok]
@[simp] theorem coreAck_memOk (ok : MemOk s) {c n k} : MemOk (coreAck s c n k) := by
  unfold coreAck
  split <;> simp [ok]
@[simp] theorem ldresStep_memOk (ok : MemOk s) {c a} : MemOk (ldresStep s c a) := by
  have read := coreRead_memOk ok (c := c) (a := a) (early := false) (ask := (s.core c).ask)
  unfold ldresStep
  dsimp only
  split
  · exact ok
  · split
    · simpa using ok
    · split
      all_goals next e => rw [e] at read; simpa using read
@[simp] theorem stcondStep_memOk (ok : MemOk s) {c a data} : MemOk (stcondStep s c a data) := by
  have aborts (k : Nat) : MemOk (coreAbort s c k a.addr) := by simpa using ok
  have ends (n : Nat) : MemOk (stcondEnd s c a n) := by simpa using ok
  unfold stcondStep
  extract_lets x
  refine ite_memOk ok (ite_memOk (aborts _) (ite_memOk (aborts _) (ite_memOk (aborts _) (ite_memOk (ends _) ?_))))
  cases storeFault s c a with
  | some m => simpa using ok
  | none =>
    refine ite_memOk (ends _) (ite_memOk (ends _) (ite_memOk ok (ite_memOk (by simpa using ok) ?_)))
    cases coreLook s c a with
    | ok => exact ite_memOk ok (writeMem_memOk (s := s.draw.2) ok)
    | precise m => simpa using ok
    | late m => simpa using ok
@[simp] theorem cmuLoads_memOk (ok : MemOk s) {c b l} : MemOk (cmuLoads s c b l).2 := by
  induction l generalizing s b with
  | nil => exact ok
  | cons a l ih =>
    have read := coreRead_memOk ok (c := c) (a := a) (early := true) (ask := b.ask)
    unfold cmuLoads
    split
    · next e => rw [e] at read; exact ih read
    · next e => rw [e] at read; exact read
    · next e => rw [e] at read; exact read
@[simp] theorem cmuExecute_memOk (ok : MemOk s) {c b} : MemOk (cmuExecute s c b) := (cmuLoads_memOk ok : MemOk (cmuLoads s c b _).2)
@[simp] theorem cmuBegin_memOk (ok : MemOk s) {c i old} : MemOk (cmuBegin s c i old) := by
  unfold cmuBegin
  dsimp only
  repeat' split
  all_goals simp [ok]
@[simp] theorem cmuCommitStep_memOk (ok : MemOk s) {c id} : MemOk (cmuCommitStep s c id) := by
  have redone (b : CmuBegun) : MemOk (if b.redo then
      cmuExecute (s.count (cmuPage c) 0x088 1) c { b with data := [], fault := none, redo := false, ask := {} } else s) :=
    ite_memOk (cmuExecute_memOk (by simpa using ok)) ok
  unfold cmuCommitStep
  split
  · exact ok
  · next b _ =>
    have redone := redone b
    split
    · exact ok
    · extract_lets u
      have redone : MemOk u := redone
      clear_value u
      cases begun u c id with
      | none => exact redone
      | some b =>
        refine ite_memOk redone ?_
        cases b.fault with
        | some m => simp [redone]
        | none =>
          dsimp only
          cases cmuStoreFault (cmuCount (dropBegun u c id) c b) c b.instr <;> simp [redone]
@[simp] theorem gatherFrom_memOk (ok : MemOk s) {c v n} : MemOk (gatherFrom s c v n) := by
  induction n generalizing s with
  | zero => exact ite_memOk ok (by simpa using ok)
  | succ n ih =>
    unfold gatherFrom
    extract_lets f
    split
    · simpa using ok
    · next a _ =>
      have read := coreRead_memOk ok (c := c) (a := a) (early := false) (ask := (s.core c).ask)
      split
      · next e => rw [e] at read; exact ih read
      · next e => rw [e] at read; simpa using read
      · next e => rw [e] at read; simpa using read

end Sys2Proof.Machine
end

section
/-!
The engines' reads and writes, their monad and the passing of boundaries keep memory in canonical form.
-/

namespace Sys2Proof.Machine

section
variable {s t : State} {α β : Type}

theorem Rd.ok_memOk (ok : MemOk s) (a : α) : MemOk (Rd.ok a s).state := ok
theorem Rd.bind_memOk {x : Rd α} {f : α → State → Rd β} (ok : MemOk x.state) (hf : ∀ a t, MemOk t → MemOk (f a t).state) :
    MemOk (x.bind f).state := by
  cases x with
  | ok a t => exact hf a t ok
  | stop m t => exact ok
  | wait t => exact ok
theorem Rd.fold_memOk {f : β → α → State → Rd β} (ok : MemOk s) {l : List α} {b : β}
    (hf : ∀ b x t, MemOk t → MemOk (f b x t).state) : MemOk (Rd.fold f l b s).state := by
  induction l generalizing b s with
  | nil => exact ok
  | cons x l ih => exact Rd.bind_memOk (hf b x s ok) fun b t h => ih h
theorem ite_state_memOk {c : Prop} [Decidable c] {x y : Rd α} (hx : MemOk x.state) (hy : MemOk y.state) :
    MemOk (if c then x else y).state := by
  split
  · exact hx
  · exact hy

end

section
variable {s t : State} {q : QIdx} {c : Cmd}

@[simp] theorem readPiece_memOk (ok : MemOk s) {va bs x} : MemOk (readPiece q c va bs x s).state := by
  unfold readPiece
  dsimp only
  repeat' split
  all_goals simp [ok]
@[simp] theorem readTurn_memOk (ok : MemOk s) {va bs x} : MemOk (readTurn q c va bs x s).state :=
  ite_state_memOk (by simpa using ok) (readPiece_memOk ok)
@[simp] theorem readPieces_memOk (ok : MemOk s) {va l} : MemOk (readPieces s q c va l).state := by
  have noted : MemOk (noteRead s q c) := by simpa using ok
  unfold readPieces
  dsimp only
  split
  · exact ok
  · refine ite_state_memOk (Rd.fold_memOk noted fun _ _ _ h => readTurn_memOk h)
      (ite_state_memOk ?_ (Rd.fold_memOk noted fun _ _ _ h => readPiece_memOk h))
    simpa using ok
@[simp] theorem gcMiss_memOk (ok : MemOk s) {va n x} : MemOk (gcMiss s q c va n x).state := by
  refine Rd.bind_memOk (by simpa using ok) fun _ t h => Rd.bind_memOk (readPieces_memOk h) fun d t h => ?_
  simpa using h
@[simp] theorem engRead_memOk (ok : MemOk s) {gcOk va n} : MemOk (engRead s q c gcOk va n).state := by
  refine Rd.bind_memOk (by simpa using ok) fun l t h => Rd.bind_memOk (by simpa using h) fun _ t h => ?_
  dsimp only
  repeat' split
  · simpa using h
  · exact gcMiss_memOk h
  · exact readPieces_memOk h
  · exact readPieces_memOk h
@[simp] theorem putPiece_memOk (ok : MemOk s) {elem va x bs} : MemOk (putPiece q c elem va s x bs) := by
  unfold putPiece
  dsimp only
  repeat' split
  all_goals simp [ok]
@[simp] theorem putOne_memOk (ok : MemOk s) {w} : MemOk (putOne q c s w) :=
  foldl_fst_memOk (p := (s, w.data)) ok fun _ _ h => putPiece_memOk h
@[simp] theorem engCommit_memOk (ok : MemOk s) {l} : MemOk (engCommit s q c l).state := by
  unfold engCommit
  split
  · next e => exact ok.of_mem (sharedWait_mem e)
  · exact foldl_memOk ok fun _ _ h => putOne_memOk h
@[simp] theorem engWrite_memOk (ok : MemOk s) {elem va bs} : MemOk (engWrite s q c elem va bs).state :=
  Rd.bind_memOk (by simpa using ok) fun _ _ h => engCommit_memOk h
@[simp] theorem engClose_memOk (ok : MemOk s) : MemOk (engClose s q c) :=
  ite_memOk ok (foldl_memOk (by simpa using ok) fun _ _ h => putPiece_memOk h)
@[simp] theorem engDone_memOk (ok : MemOk s) {seq st cause idx va ea} : MemOk (engDone s q seq st cause idx va ea) := by
  unfold engDone
  split
  · exact ok
  · refine ite_memOk ok ?_
    have closed (c : Cmd) : MemOk (engClose s q c) := engClose_memOk ok
    refine ite_memOk (endCmd_memOk (closed _)) ?_
    simpa using closed _
@[simp] theorem engStop_memOk (ok : MemOk s) {seq m} : MemOk (engStop s q seq m) := by
  unfold engStop
  split
  · exact ok
  · exact engDone_memOk ok
theorem elementWait_mem (e : elementWait s q c = some t) : t.mem = s.mem := by
  unfold elementWait at e
  split at e
  · cases e
  · cases e
    split <;> rfl

/-- What an engine command does at a boundary keeps memory in canonical form. -/
def BodyMemOk (f : State → QIdx → Cmd → Rd Bool) : Prop := ∀ s q c, MemOk s → MemOk (f s q c).state
theorem passBoundaries_memOk {f} (hf : BodyMemOk f) (ok : MemOk s) {seq n} : MemOk (passBoundaries f s q seq n) := by
  induction n generalizing s with
  | zero => exact ok
  | succ n ih =>
    unfold passBoundaries
    split
    · exact ok
    · next c _ =>
      split
      · exact ok
      · split
        · next e => simpa using ok.of_mem (elementWait_mem e)
        · extract_lets u
          have ran : MemOk u := ite_memOk (by simpa using ok) ok
          have boundary := hf u q (u.cmdNow q c) ran
          clear_value u
          split
          · next e => rw [e] at boundary; simpa using boundary
          · next e => rw [e] at boundary; exact engStop_memOk boundary
          · next e => rw [e] at boundary; simpa using engDone_memOk (q := q) (boundary.of_mem (acquire_mem ..))
          · next e => rw [e] at boundary; exact ih (boundary.of_mem (by simp))
@[simp] theorem getBody_memOk (ok : MemOk s) : MemOk (getBody s q c).state := by
  have read := qmRead_memOk ok (q := q) (got := (s.cmdNow q c).rdata) (va := wd c.words 0) (n := 48)
  unfold getBody
  dsimp only
  refine ite_state_memOk ok (ite_state_memOk ok ?_)
  split
  · exact ok
  · split
    · next e => rw [e] at read; exact read
    · next e => rw [e] at read; simpa using read
    · next e =>
      rw [e] at read
      refine ite_state_memOk read ?_
      split <;> simpa using read
@[simp] theorem creelPass_memOk (ok : MemOk s) : MemOk (creelPass s q c).2 := by
  unfold creelPass
  dsimp only
  repeat' split
  all_goals simp [ok]
theorem engineRow_memOk {f} (hf : BodyMemOk f) (ok : MemOk s) {mine n} : MemOk (engineRow mine f q n s) := by
  have going : MemOk (goOn s q).2 := by simpa using ok
  unfold engineRow
  dsimp only
  split
  · exact ok
  · refine ite_memOk ok (ite_memOk going ?_)
    clear ok
    generalize (goOn s q).2 = u at going
    split
    · exact going
    · next c _ =>
      have body := getBody_memOk going (q := q) (c := c)
      rw [MemOk, qosStalls_mem]
      refine ite_memOk (by simp [going]) (ite_memOk (endCmd_memOk going) ?_)
      split
      · next e => rw [e] at body; simpa using body
      · next e => rw [e] at body; exact endCmd_memOk body
      · next e =>
        rw [e] at body
        have owned (d : Cmd) := body.of_mem (noteOwner_mem _ q d)
        split
        · exact endCmd_memOk body
        · exact ite_memOk (passBoundaries_memOk hf (creelPass_memOk (owned _))) (creelPass_memOk (owned _))

end

end Sys2Proof.Machine
end

section
/-!
Bodies of the storage commands, creel fetches and dumps keep memory in canonical form.
-/

namespace Sys2Proof.Machine

/-- The state of a pair has its memory in canonical form; a structure, so that no check evaluates the pair. -/
structure PairMemOk {β : Type} (a : State × β) : Prop where
  fst : MemOk a.1

section
variable {s t : State} {q : QIdx} {c : Cmd}

/-! ## Storage commands and creel fetches -/

@[simp] theorem storePiece_memOk (ok : MemOk s) {va} : MemOk (storePiece s q c va).state :=
  ite_state_memOk ok (Rd.bind_memOk (engWrite_memOk ok) fun _ _ h => h)
theorem storeBody_memOk : BodyMemOk storeBody := by
  intro s q c ok
  unfold storeBody
  dsimp only
  split
  · exact ite_state_memOk ok (storePiece_memOk ok)
  · refine ite_state_memOk ok (ite_state_memOk (ite_state_memOk (storePiece_memOk ok) ?_) (ite_state_memOk ok ?_))
    · exact Rd.bind_memOk (by simpa using ok) fun _ _ h => by simpa using h
    · exact Rd.bind_memOk (engRead_memOk ok) fun _ _ h => by simpa using h
@[simp] theorem storeRow_memOk (ok : MemOk s) : MemOk (storeRow q s) := engineRow_memOk storeBody_memOk ok
theorem armBody_memOk : BodyMemOk armBody := by
  intro s q c ok
  unfold armBody
  dsimp only
  refine ite_state_memOk ok (ite_state_memOk (disarmStart_memOk ok) (Rd.bind_memOk (engRead_memOk (disarmStart_memOk ok)) fun _ _ h => ?_))
  split <;> simpa using h
theorem disarmBody_memOk : BodyMemOk disarmBody := fun _ _ _ ok => ite_state_memOk (disarmStart_memOk ok) (disarmStart_memOk ok)
theorem fetchCheck_mem {e ent dst r} (h : fetchCheck s e ent dst = .error (r, t)) : t.mem = s.mem := by
  unfold fetchCheck at h
  dsimp only at h
  repeat' split at h
  all_goals cases h
  all_goals simp
@[simp] theorem fetchIssue_memOk (ok : MemOk s) {e} : MemOk (fetchIssue s e) := by
  unfold fetchIssue
  dsimp only
  refine ite_memOk ok ?_
  split
  · exact ok
  · refine ite_memOk ?_ ?_
    · split
      · simp [ok]
      · exact ite_memOk (by simp [ok]) (by simpa using ok)
    · split
      · simpa using ok
      · refine foldl_memOk ?_ fun _ _ h => h.of_mem (sendRead_mem ..)
        simpa using ok
@[simp] theorem fetchPiece_memOk {got acc x} (ok : MemOk acc.2.2) : MemOk (fetchPiece q got acc x).2.2 := by
  unfold fetchPiece
  dsimp only
  repeat' split
  · exact ok
  · exact ok
  · simpa using ok
  · exact rdPiece_memOk ok
  · exact rdPiece_memOk ok
@[simp] theorem fetchPut_memOk {e acc x} (ok : MemOk acc.1) : MemOk (fetchPut e q acc x).1 := by
  unfold fetchPut
  dsimp only
  split
  · exact ok
  · simp [ok]
theorem fetchEnd_memOk (ok : MemOk s) {e b j} : MemOk (fetchEnd s e b j) := by
  have fails {u : State} (h : MemOk u) (x : Creel) (f : Fetch) (r : Nat) : MemOk (fetchFail (fetchRace u x f) e (slotKey b j) f r) :=
    fetchFail_memOk (by simpa using h)
  have read {u : State} (h : MemOk u) {q : QIdx} {stored : Bool} {bs : List Byte} {got : SMap (Option Byte)}
      {l : List (Nat × Nat × Acc)} : MemOk (if stored then (bs, false, u) else l.foldl (fetchPiece q got) ([], false, u)).2.2 := by
    split
    · exact h
    · exact List.foldlRecOn (motive := fun a : List Byte × Bool × State => MemOk a.2.2) _ _ h fun _ h _ _ => fetchPiece_memOk h
  have moved {a : List Byte × Bool × State} (h : MemOk a.2.2) {q : QIdx} {l : List (Nat × Nat × Acc)} :
      MemOk (l.foldl (fetchPut e q) (a.2.2, a.1)).1 := foldl_fst_memOk (p := (a.2.2, a.1)) h fun _ _ h => fetchPut_memOk h
  unfold fetchEnd
  dsimp only
  split
  · exact ok
  · split
    · exact ok
    · next ent _ =>
      split
      · exact fails ok ..
      · refine ite_memOk ok ?_
        split
        · next e => exact fails (ok.of_mem (fetchCheck_mem e)) ..
        · split
          · refine ite_memOk ok ?_
            split
            · next e => exact ok.of_mem (sharedWait_mem e)
            · have counted : MemOk (if ent.store then s else
                  countWalks s (qHub (s.creel e).queue) (s.queue (s.creel e).queue).ctx ent.src ent.len false) := by simp [ok]
              refine ite_memOk (fails (moved (read (counted.of_mem (countWalks_mem ..)))) ..) (disarmCheck_memOk ?_)
              rw [MemOk, State.modCreel_mem, fetchRace_mem]
              exact moved (read (counted.of_mem (countWalks_mem ..)))
          · exact fails ok ..
@[simp] theorem fetchExpire_memOk (ok : MemOk s) {e b j} : MemOk (fetchExpire s e b j) := by
  unfold fetchExpire
  dsimp only
  split
  · exact ite_memOk (fetchFail_memOk ok) ok
  · exact ok
@[simp] theorem nvmeDone_memOk (ok : MemOk s) {h tag status data} : MemOk (nvmeDone s h tag status data) := by
  unfold nvmeDone
  dsimp only
  split
  · simpa using ok
  · refine ite_memOk (nvmeFail_memOk ok) ?_
    split
    · split
      · exact ite_memOk (by simpa using ok) (ite_memOk ok (storeRow_memOk (by simpa using ok)))
      · simpa using ok
    · split
      · exact ite_memOk ok (fetchEnd_memOk (by simpa using ok))
      · simpa using ok

/-! ## The dump -/

/-- A dump is a few writes, of which no step of a proof evaluates the bytes. -/
theorem writeDump_keeps {P : State → Prop} (begun : P { s with mgt := { s.mgt with dumped := true }, fresh := s.fresh + 1 })
    (write : ∀ (t : State) a (o : Nat) (bs : List Byte), P t → P (writeMem t none a o bs)) : P (writeDump s) := by
  obtain ⟨dump, e⟩ : ∃ f, f = writeDump := ⟨_, rfl⟩
  rw [← e]
  delta writeDump at e
  generalize writeMem = store, summaryBytes = summary, dumpSections = sections, dumpHeader = header, dumpBase = base at write e
  subst e
  beta_reduce
  extract_lets seq put
  have summarized (t : State) (b : List Byte) (h : P t) : P (put t b) := by
    unfold put
    extract_lets u
    split
    · exact write _ _ _ _ h
    · exact write _ _ _ _ (write _ _ _ _ h)
  clear_value put
  split
  next drawn =>
  cases drawn
  split
  · exact summarized _ _ begun
  · split
    · exact summarized _ _ begun
    · exact summarized _ _ (write _ _ _ _ begun)
@[simp] theorem writeDump_memOk (ok : MemOk s) : MemOk (writeDump s) := writeDump_keeps (P := MemOk) ok fun _ _ _ _ h => writeMem_memOk h

/-! ## Other packages -/

@[simp] theorem farPut_memOk (ok : MemOk s) {t x pa bs} : MemOk (farPut s t x pa bs).2 := by
  unfold farPut
  dsimp only
  repeat' split
  all_goals simp [ok]
@[simp] theorem farWrite_memOk (ok : MemOk s) {w} : MemOk (farWrite s w) := by
  have put := farPut_memOk ok (t := farTag w.src w.part w.issuer w.attr) (x := w.attr) (pa := w.addr) (bs := w.data)
  unfold farWrite
  refine ite_memOk ok ?_
  split
  · simpa using ok
  · split
    · next e => rw [e] at put; simpa using put
    · next e => rw [e] at put; exact put
@[simp] theorem farRead_memOk (ok : MemOk s) {r} : MemOk (farRead s r) := by
  unfold farRead
  refine ite_memOk ok ?_
  dsimp only
  repeat' split
  all_goals simp [ok]
@[simp] theorem knotPut_memOk (ok : MemOk s) {h k p} : MemOk (knotPut s h k p).2 := by
  have put := farPut_memOk ok (t := farTag p.src p.part p.issuer p.attr) (x := p.attr) (pa := p.addr) (bs := p.data)
  unfold knotPut
  split
  · next e => rw [e] at put; exact put
  · next e => rw [e] at put; simpa using put
@[simp] theorem knotRelease_memOk (ok : MemOk s) {h k} : MemOk (knotRelease s h k) := by
  unfold knotRelease
  refine (List.foldlRecOn (motive := PairMemOk) _ _ ⟨ok⟩ fun a ha p _ => ?_).fst
  have put := knotPut_memOk ha.fst (h := h) (k := k) (p := p)
  extract_lets n
  split
  · exact ha
  · split
    · next e => rw [e] at put; exact ⟨put.of_mem (State.modSeq_mem ..)⟩
    · next e => rw [e] at put; exact ⟨put⟩
@[simp] theorem knotTell_memOk (ok : MemOk s) {h k} : MemOk (knotTell s h k) := by
  refine foldl_memOk ok fun t e ht => ?_
  split
  · exact ite_memOk (cbNotice_memOk (by simpa using ht)) ht
  · exact ht
@[simp] theorem knotSettle_memOk (ok : MemOk s) {h k n} : MemOk (knotSettle s h k n) := by
  induction n generalizing s with
  | zero => exact ok
  | succ n ih =>
    have told : MemOk (knotTell (knotRelease s h k) h k) := knotTell_memOk (knotRelease_memOk ok)
    unfold knotSettle
    dsimp only
    refine ite_memOk (ite_memOk ?_ (ih ?_)) ?_
    all_goals simpa using told
@[simp] theorem settleSeq_memOk (ok : MemOk s) {h k} : MemOk (settleSeq s h k) := ite_memOk (knotSettle_memOk ok) ok
@[simp] theorem knotTake_memOk (ok : MemOk s) {h w} : MemOk (knotTake s h w).2 := by
  have opened : MemOk (openSeq s h (knotKey w.piece.src w.piece.knotId)).2 := by simpa using ok
  unfold knotTake
  dsimp only
  split
  · next e =>
    rw [e] at opened
    exact ite_memOk opened (by simpa using opened)
  · next u e =>
    rw [e] at opened
    have used := opened.of_mem (newUse_mem _ h (knotKey w.piece.src w.piece.knotId) (knotPos w.piece.knotSeq))
    dsimp only at used
    clear opened e
    generalize newUse u h (knotKey w.piece.src w.piece.knotId) (knotPos w.piece.knotSeq) = v at used
    split
    · exact settleSeq_memOk (by simpa using used)
    · split
      · exact settleSeq_memOk (by simpa using used)
      · have kept {x : State} (hx : MemOk x) : MemOk (x.modSeq h (knotKey w.piece.src w.piece.knotId) fun y =>
            { y with held := y.held ++ [w.piece] }) := hx.of_mem (State.modSeq_mem ..)
        split
        · split
          · exact ite_memOk used (by simpa using used)
          · simpa using kept used
        · have counted : MemOk (if isBefore (v.seq h (knotKey w.piece.src w.piece.knotId)) (knotPos w.piece.knotSeq) then
              v.modKnot h fun x => { x with stale := x.stale + 1 } else v) := ite_memOk (by simpa using used) used
          have put := knotPut_memOk counted (h := h) (k := knotKey w.piece.src w.piece.knotId) (p := w.piece)
          split
          · next e => rw [e] at put; exact settleSeq_memOk put
          · next e => rw [e] at put; exact kept put
@[simp] theorem knotRetry_memOk (ok : MemOk s) {h n} : MemOk (knotRetry s h n) := by
  induction n generalizing s with
  | zero => exact ok
  | succ n ih =>
    have taken (l : List KnotWait) {u : State} (hu : MemOk u) : MemOk (l.foldl (fun s p =>
        match knotTake s h p with
        | (none, s) => s
        | (some w, s) => s.modKnot h fun x => { x with waiting := x.waiting ++ [w] }) u) := by
      refine foldl_memOk hu fun t p ht => ?_
      have take := knotTake_memOk ht (h := h) (w := p)
      split
      · next e => rw [e] at take; exact take
      · next e => rw [e] at take; simpa using take
    have taken := taken (s.knot h).waiting (u := s.modKnot h fun x => { x with waiting := [] }) (by simpa using ok)
    exact ite_memOk (ih taken) taken
@[simp] theorem knotRun_memOk (ok : MemOk s) {h} : MemOk (knotRun s h) :=
  ite_memOk ok (knotRetry_memOk (foldl_memOk ok fun _ _ h => settleSeq_memOk h))
@[simp] theorem knotArrive_memOk (ok : MemOk s) {p} : MemOk (knotArrive s p) := by
  have take := knotTake_memOk ok (h := p.hub) (w := { piece := p })
  unfold knotArrive
  refine ite_memOk ok ?_
  split
  · next e => rw [e] at take; exact knotRun_memOk take
  · next e => rw [e] at take; simpa using take
@[simp] theorem knotMark_memOk (ok : MemOk s) {m} : MemOk (knotMark s m) := by
  have opened : MemOk (openSeq s m.hub (knotKey m.src m.knotId)).2 := by simpa using ok
  unfold knotMark
  dsimp only
  refine ite_memOk ok (ite_memOk (by simpa using ok) (ite_memOk ok ?_))
  split
  · next e => rw [e] at opened; exact opened
  · next e =>
    rw [e] at opened
    refine knotRun_memOk (settleSeq_memOk (foldl_memOk ?_ fun _ _ h => ?_))
    · simpa using opened
    · simpa using h

end

end Sys2Proof.Machine
end

section
/-!
Bodies of the other engine commands and the atomics keep memory in canonical form.
-/

namespace Sys2Proof.Machine

section
variable {s t : State} {q : QIdx} {c : Cmd}

/-! ## WAIT, FENCE and STEP -/

theorem waitBody_memOk : BodyMemOk waitBody := by
  intro s q c ok
  have read := engRead_memOk ok (q := q) (c := c) (gcOk := false) (va := wd c.words 0) (n := 8)
  unfold waitBody
  dsimp only
  split
  · next e => rw [e] at read; exact read
  · next e => rw [e] at read; exact read.of_mem (State.modCmd_mem ..)
  · next e =>
    rw [e] at read
    exact ite_state_memOk (read.of_mem (timerRace_mem ..)) read
theorem fenceBody_memOk : BodyMemOk fenceBody := fun _ _ _ ok => ok.of_mem (fenceBody_mem ..)
theorem stepBody_memOk : BodyMemOk stepBody := fun _ _ _ ok => ok.of_mem (stepBody_mem ..)

/-! ## Atomics -/

theorem atomicLook_mem {h : Hub} {ctx : Nat} {r : Requester} {hint op size va : Nat} {m : Miss}
    (e : atomicLook s h ctx r hint op size va = .error (m, t)) : t.mem = s.mem := by
  unfold atomicLook at e
  dsimp only at e
  repeat' split at e
  all_goals cases e
  all_goals simp
@[simp] theorem atomicPut_memOk (ok : MemOk s) {a o new} : MemOk (atomicPut s a o new) := by
  unfold atomicPut
  extract_lets s1
  have served : s1.mem = s.mem := by
    unfold s1
    split
    · dsimp only
      split <;> rfl
    · rfl
    · rfl
  have ok : MemOk s1 := ok.of_mem served
  clear_value s1
  split
  · exact ite_memOk (wrThrough_memOk (by simpa using ok)) (wrPiece_memOk ok)
  · exact wrPiece_memOk ok
@[simp] theorem atomicRun_memOk (ok : MemOk s) {op target v cmp ret} : MemOk (atomicRun s q c op target v cmp ret).state := by
  unfold atomicRun
  extract_lets n
  refine ite_state_memOk ok ?_
  split
  · next e =>
    have looked := ok.of_mem (atomicLook_mem e)
    exact ite_memOk (looked.of_mem (State.count_mem ..)) looked
  next s1 _ x _ =>
    extract_lets o ready
    have walked : MemOk s1 := ok.of_mem (countWalks_mem ..)
    refine Rd.bind_memOk ?_ fun l u h => ite_state_memOk (h.of_mem (ctlCount_mem ..)) (ite_state_memOk h ?_)
    · exact Rd.bind_memOk (by simpa using walked) fun _ _ h => ite_state_memOk h <|
        Rd.bind_memOk (by simpa using h) fun _ _ h => Rd.bind_memOk (by simpa using h) fun _ _ h => h
    · split
      · next e => exact h.of_mem (sharedWait_mem e)
      · refine (foldl_memOk (atomicPut_memOk ?_) fun _ _ h => putOne_memOk h : MemOk (List.foldl _ _ _)).of_mem (State.addFlags_mem ..)
        simpa using h
theorem atomicBody_memOk : BodyMemOk atomicBody := fun _ _ _ ok => atomicRun_memOk ok
theorem signalBody_memOk : BodyMemOk signalBody := fun _ _ _ ok =>
  ite_state_memOk (atomicRun_memOk ok) (Rd.bind_memOk (engWrite_memOk ok) fun _ _ h => h)

/-! ## Moves -/

theorem checkAll_memOk (ok : MemOk s) {src dst} : MemOk (checkAll s q c src dst).state := ok.of_mem (checkAll_mem ..)
theorem copyCmd_memOk : BodyMemOk copyCmd := by
  intro s q c ok
  have moved (x : Rd Unit) (hx : MemOk x.state) {gc a n b k m} :
      MemOk (x.bind fun _ s => (engRead s q c gc a n).bind fun bs s => (engWrite s q c 0 b bs).bind fun _ s => nextPiece s q c k m).state :=
    Rd.bind_memOk hx fun _ _ h => Rd.bind_memOk (engRead_memOk h) fun _ _ h => Rd.bind_memOk (engWrite_memOk h) fun _ _ h => h
  exact ite_state_memOk (moved _ (ite_state_memOk (checkAll_memOk ok) (Rd.ok_memOk ok _)))
    (moved _ (ite_state_memOk (checkAll_memOk ok) (Rd.ok_memOk ok _)))
theorem fillBody_memOk : BodyMemOk fillBody := fun _ _ _ ok =>
  Rd.bind_memOk (ite_state_memOk (checkAll_memOk ok) (Rd.ok_memOk ok _)) fun _ _ h => Rd.bind_memOk (engWrite_memOk h) fun _ _ h => h
theorem indexedBody_memOk : BodyMemOk indexedBody := fun _ _ _ ok =>
  Rd.bind_memOk (engRead_memOk ok) fun _ _ h => Rd.bind_memOk (checkAll_memOk h) fun _ _ h =>
    Rd.bind_memOk (engRead_memOk h) fun _ _ h => Rd.bind_memOk (engWrite_memOk h) fun _ _ h => h

/-! ## Tiles -/

@[simp] theorem readTile_memOk (ok : MemOk s) {t} : MemOk (readTile s q c t).state :=
  Rd.bind_memOk (Rd.fold_memOk ok fun _ _ _ h => Rd.bind_memOk (engRead_memOk h) fun _ _ h => h) fun _ _ h => h
@[simp] theorem writeRow_memOk (ok : MemOk s) {t} : MemOk (writeRow s q c t).state :=
  Rd.bind_memOk (engWrite_memOk ok) fun _ _ h => h
theorem matmulBody_memOk : BodyMemOk matmulBody := by
  intro s q c ok
  refine ite_state_memOk (writeRow_memOk ok)
    (Rd.bind_memOk (checkAll_memOk ok) fun _ _ h => Rd.bind_memOk (readTile_memOk h) fun _ _ h => ?_)
  exact Rd.bind_memOk (readTile_memOk h) fun _ _ h => Rd.bind_memOk (ite_state_memOk (readTile_memOk h) h) fun _ _ h => h
theorem vecBody_memOk : BodyMemOk vecBody := by
  intro s q c ok
  refine ite_state_memOk (writeRow_memOk ok)
    (Rd.bind_memOk (checkAll_memOk ok) fun _ _ h => Rd.bind_memOk (readTile_memOk h) fun _ _ h => ?_)
  exact Rd.bind_memOk (ite_state_memOk (readTile_memOk h) h) fun _ _ h => h
@[simp] theorem readRule_memOk (ok : MemOk s) {k} : MemOk (readRule s q c k).state :=
  Rd.bind_memOk (engRead_memOk ok) fun _ _ h => ite_state_memOk h h
@[simp] theorem addRule_memOk (ok : MemOk s) {r row} : MemOk (addRule s q c r row).state :=
  Rd.bind_memOk (engRead_memOk ok) fun _ _ h => Rd.bind_memOk (engRead_memOk h) fun _ _ h => h
@[simp] theorem runOn_memOk (ok : MemOk s) {out fuel k row} : MemOk (runOn q c out fuel k row s).state := by
  induction fuel generalizing s k row with
  | zero => exact ok
  | succ fuel ih =>
    have turn : MemOk ((readRule s q c k).bind fun r s' =>
        if r.2.1 = out then (addRule s' q c r row).bind fun x s' => .ok (some x) s' else .ok none s : Rd (Option (List FR))).state :=
      Rd.bind_memOk (readRule_memOk ok) fun _ _ h => ite_state_memOk (Rd.bind_memOk (addRule_memOk h) fun _ _ h => h) ok
    unfold runOn
    split
    · next e => rw [e] at turn; exact ih turn
    · next e => rw [e] at turn; exact turn
    · exact ok
    · next e => rw [e] at turn; exact turn
theorem rbBody_memOk : BodyMemOk rbBody := by
  intro s q c ok
  refine Rd.bind_memOk (readRule_memOk ok) fun _ _ h => Rd.bind_memOk (checkAll_memOk h) fun _ _ h =>
    Rd.bind_memOk (engRead_memOk h) fun _ _ h => ?_
  refine Rd.bind_memOk (addRule_memOk h) fun _ _ h => Rd.bind_memOk (runOn_memOk h) fun _ _ h => ?_
  exact Rd.bind_memOk (engWrite_memOk h) fun _ _ h => h

/-! ## Attention -/

@[simp] theorem readKvHead_memOk (ok : MemOk s) : MemOk (readKvHead s q c).state :=
  Rd.bind_memOk (engRead_memOk ok) fun _ _ h => ite_state_memOk h h
@[simp] theorem readKvEntry_memOk (ok : MemOk s) {p} : MemOk (readKvEntry s q c p).state :=
  Rd.bind_memOk (engRead_memOk ok) fun _ _ h => ite_state_memOk h h
@[simp] theorem readKv_memOk (ok : MemOk s) {hd} : MemOk (readKv s q c hd).state :=
  Rd.bind_memOk (Rd.fold_memOk ok fun _ _ _ h => Rd.bind_memOk (readKvEntry_memOk h) fun _ _ h => h) fun _ _ h =>
    Rd.fold_memOk h fun _ _ _ h => Rd.bind_memOk (engRead_memOk h) fun _ _ h => Rd.bind_memOk (engRead_memOk h) fun _ _ h => h
@[simp] theorem readQPos_memOk (ok : MemOk s) {n} : MemOk (readQPos s q c n).state :=
  Rd.bind_memOk (engRead_memOk ok) fun _ _ h => ite_state_memOk h h
theorem attnBody_memOk : BodyMemOk attnBody := by
  intro s q c ok
  refine Rd.bind_memOk (readKvHead_memOk ok) fun hd _ h => Rd.bind_memOk (engRead_memOk h) fun qb _ h => ?_
  refine Rd.bind_memOk (ite_state_memOk (Rd.bind_memOk (readQPos_memOk h) fun _ _ h => h) h) fun pos _ h => ?_
  refine Rd.bind_memOk (readKv_memOk h) fun kv _ h => Rd.bind_memOk (checkAll_memOk h) fun _ _ h =>
    Rd.bind_memOk (engWrite_memOk h) fun _ u h => ?_
  refine foldl_memOk (ite_memOk ?_ ?_) fun _ _ h => h
  all_goals simpa using h
@[simp] theorem mergeSpan_memOk (ok : MemOk s) {k} : MemOk (mergeSpan s q c k).state := by
  refine Rd.bind_memOk (by simpa using ok) fun l _ _ => ite_state_memOk ok
    (Rd.bind_memOk (engRead_memOk ok) fun b _ h => ite_state_memOk h ?_)
  simpa using h
@[simp] theorem mergeOn_memOk (ok : MemOk s) {g spans fuel} : MemOk (mergeOn q c g spans fuel s).state := by
  induction fuel generalizing s with
  | zero => exact ok
  | succ fuel ih => exact ite_state_memOk (Rd.bind_memOk (mergeSpan_memOk ok) fun _ _ h => ih h) ok
theorem combineBody_memOk : BodyMemOk combineBody := by
  intro s q c ok
  unfold combineBody
  extract_lets w h g spans rows dim st opened stalled s1
  have begun : MemOk s1 := ite_memOk ok (by simpa [opened, stalled] using ok)
  refine ite_state_memOk ok (ite_state_memOk begun (Rd.bind_memOk (mergeOn_memOk begun) fun _ u h => ite_state_memOk h ?_))
  refine Rd.bind_memOk (h.of_mem ?_) fun l _ h => Rd.bind_memOk (engCommit_memOk h) fun _ _ h => ?_
  · simp
  · exact foldl_memOk h fun _ _ h => h

/-! ## Points -/

@[simp] theorem probeFrom_memOk (ok : MemOk s) {key fuel i} : MemOk (probeFrom q c key fuel i s).state := by
  induction fuel generalizing s i with
  | zero => exact ok
  | succ fuel ih => exact Rd.bind_memOk (engRead_memOk ok) fun _ _ h => ite_state_memOk h (ite_state_memOk h (ih h))
@[simp] theorem probe_memOk (ok : MemOk s) {key} : MemOk (probe s q c key).state := probeFrom_memOk ok
theorem engPrep_memOk (ok : MemOk s) {elem va bs} : MemOk (engPrep s q c elem va bs).state := ok.of_mem (engPrep_mem ..)
theorem pointBody_memOk : BodyMemOk pointBody := by
  intro s q c ok
  refine Rd.bind_memOk (engRead_memOk ok) fun pt _ h => Rd.bind_memOk (engRead_memOk h) fun org _ h => ?_
  split
  next key f e =>
    extract_lets finish
    have finished {u : State} (h : MemOk u) {l slot code n} : MemOk (finish u l slot code n).state :=
      Rd.bind_memOk (engPrep_memOk h) fun _ _ h => Rd.bind_memOk (engCommit_memOk h) fun _ _ h => h.of_mem (by simp)
    clear_value finish
    split
    · exact finished h
    · refine Rd.bind_memOk (probe_memOk h) fun p _ h => ?_
      split
      · exact ite_state_memOk (Rd.bind_memOk (engPrep_memOk h) fun _ _ h => finished h) (finished h)
      · exact ite_state_memOk (Rd.bind_memOk (engPrep_memOk h) fun _ _ h => finished h) (finished h)
      · exact finished h
@[simp] theorem candidates_memOk (ok : MemOk s) {qy keys} : MemOk (candidates s q c qy keys).state := by
  refine Rd.fold_memOk ok fun _ key _ h => Rd.bind_memOk (probe_memOk h) fun p _ h => ?_
  split
  · exact Rd.bind_memOk (Rd.fold_memOk h fun _ _ _ h => Rd.bind_memOk (engRead_memOk h) fun _ _ h => h) fun _ _ h => h
  · exact h
theorem searchBody_memOk : BodyMemOk searchBody := by
  intro s q c ok
  refine Rd.bind_memOk (engRead_memOk ok) fun _ _ h => Rd.bind_memOk (engRead_memOk h) fun _ _ h =>
    Rd.bind_memOk (candidates_memOk h) fun _ _ h => ?_
  exact Rd.bind_memOk (engWrite_memOk h) fun _ _ h => h.of_mem (by simp)
theorem rulebookBody_memOk : BodyMemOk rulebookBody := by
  intro s q c ok
  refine Rd.bind_memOk (engRead_memOk ok) fun b _ h => Rd.bind_memOk (Rd.fold_memOk h fun _ x _ h => ?_) fun r _ h => ?_
  · refine Rd.bind_memOk (probe_memOk h) fun p _ h => ?_
    split <;> exact h
  · refine Rd.bind_memOk (Rd.fold_memOk h fun _ _ _ h => Rd.bind_memOk (engPrep_memOk h) fun _ _ h => h) fun l _ h =>
      Rd.bind_memOk (engPrep_memOk h) fun x _ h => ?_
    split
    · next e => exact h.of_mem (sharedWait_mem e)
    · exact Rd.bind_memOk (engCommit_memOk h) fun _ _ h => h.of_mem (by simp)

end

end Sys2Proof.Machine
end

section
/-!
Host requests, answers and lost links keep memory in canonical form.
-/

namespace Sys2Proof.Machine

section
variable {s t : State}

/-! ## Host requests -/

theorem hostLook_mem {p : Port} {f : Fin 32} {rd wr : Bool} {va n k : Nat} (e : hostLook s p f rd wr va n = .error (k, t)) :
    t.mem = s.mem := by
  unfold hostLook at e
  dsimp only at e
  repeat' split at e
  all_goals cases e
  all_goals simp
theorem hostPieces_memOk {r : Requester} {acc : Option (SMap (Option Byte)) × State} {x : Nat × Nat × Acc} (ok : MemOk acc.2) :
    MemOk (hostPieces r acc x).2 := by
  unfold hostPieces
  dsimp only
  repeat' split
  · exact ok
  · exact ok
  · simpa using ok
  · exact rdPiece_memOk ok
  · exact rdPiece_memOk ok
@[simp] theorem hostRead_memOk (ok : MemOk s) {p f va n tag cxl} : MemOk (hostRead s p f va n tag cxl) := by
  unfold hostRead
  dsimp only
  split
  · next e => exact (ok.of_mem (hostLook_mem e)).of_mem (readAnswer_mem ..)
  · next l _ =>
    refine ite_memOk ok (ite_memOk (by simpa using ok) ?_)
    have read : MemOk ((spanPieces l).foldl (hostPieces (.function f)) (some [], countWalks s (portHub p) f.val va n false)).2 :=
      List.foldlRecOn (motive := fun a : Option (SMap (Option Byte)) × State => MemOk a.2) _ _ (ok.of_mem (countWalks_mem ..))
        fun _ h _ _ => hostPieces_memOk h
    split
    · next e =>
      rw [e] at read
      split <;> simpa using read
    · next u e =>
      rw [e] at read
      have shared : MemOk (if cxl.isSome then shareLines u p l else u) := by simpa using read
      refine ite_memOk (shared.of_mem (readAnswer_mem ..)) (foldl_memOk (shared.of_mem (State.modHlk_mem ..)) fun _ _ h => ?_)
      exact ite_memOk (h.of_mem (sendRead_mem ..)) h
theorem hostPut_memOk {p f i acc x} (ok : MemOk acc.1) : MemOk (hostPut p f i acc x).1 := by
  simp [hostPut, ok]
@[simp] theorem hostWrite_memOk (ok : MemOk s) {p v f va data} : MemOk (hostWrite s p v f va data) := by
  unfold hostWrite
  refine ite_memOk ok ?_
  split
  · next e => exact ok.of_mem (hostLook_mem e)
  · exact ite_memOk ok (ite_memOk ok (foldl_fst_memOk (by simpa using ok) fun _ _ h => hostPut_memOk h))
theorem viaBar0_memOk (ok : MemOk s) {p vf off n miss f} (hm : ∀ t, MemOk t → MemOk (miss t))
    (hf : ∀ t fn, MemOk t → MemOk (f t fn)) : MemOk (viaBar0 s p vf off n miss f) := by
  unfold viaBar0
  refine ite_memOk ok (ite_memOk (hm _ ok) ?_)
  split
  · exact hm _ (by simpa using ok)
  · exact hf _ _ ok
theorem memRead_memOk (ok : MemOk s) {p vf off len tag} : MemOk (memRead s p vf off len tag) :=
  viaBar0_memOk ok (fun _ h => h.of_mem (hostAnswer_mem ..)) fun _ _ h => hostRead_memOk h
theorem memWrite_memOk (ok : MemOk s) {p vf off data} : MemOk (memWrite s p vf off data) :=
  viaBar0_memOk ok (fun _ h => h) fun _ _ h => hostWrite_memOk h
theorem hostAtomic_memOk (ok : MemOk s) {p vf off op size v cmp tag} : MemOk (hostAtomic s p vf off op size v cmp tag) := by
  have answered {u : State} (h : MemOk u) {st data} : MemOk (hostAnswer u p tag st data) := h.of_mem (hostAnswer_mem ..)
  refine ite_memOk (viaBar0_memOk ok (fun _ h => answered h) fun _ _ h => answered h)
    (viaBar0_memOk ok (fun _ h => answered h) fun u f h => ?_)
  refine ite_memOk (answered h) ?_
  split
  · next e =>
    have looked := h.of_mem (atomicLook_mem e)
    exact answered (ite_memOk looked (looked.of_mem (hostFault_mem ..)))
  · exact ite_memOk (answered (by simpa using h)) (answered (atomicPut_memOk (by simpa using h)))
@[simp] theorem flrVf_memOk (ok : MemOk s) {p v} : MemOk (flrVf s p v) := by
  unfold flrVf
  rw [MemOk, State.count_mem, State.modHlk_mem]
  split
  · refine foldl_memOk ok fun t q h => ?_
    extract_lets x
    split
    · exact queueReset_memOk h
    · exact h
  · exact ok
@[simp] theorem flrAll_memOk (ok : MemOk s) {p} : MemOk (flrAll s p) := foldl_memOk ok fun _ _ h => flrVf_memOk h
@[simp] theorem funcReset_memOk (ok : MemOk s) {p k} : MemOk (funcReset s p k) := by
  cases k <;> simp [funcReset, ok]
@[simp] theorem cfgWrite_memOk (ok : MemOk s) {p fn off w} : MemOk (cfgWrite s p fn off w) := by
  unfold cfgWrite
  extract_lets was u
  have ok : MemOk u := ok
  clear_value u
  split
  · split
    · simpa using ok
    · exact ok
  · exact ite_memOk (by simpa using ok) (ite_memOk (ite_memOk (funcReset_memOk ok) (by simp [ok])) ok)
@[simp] theorem cfgRequest_memOk (ok : MemOk s) {p fn off w tag} : MemOk (cfgRequest s p fn off w tag) := by
  unfold cfgRequest
  refine ite_memOk ok (ite_memOk (by simpa using ok) ?_)
  split
  · simpa using ok
  · exact (cfgWrite_memOk (by simpa using ok)).of_mem (hostAnswer_mem ..)
theorem cxlMem_memOk (ok : MemOk s) {p rq tag} : MemOk (cxlMem s p rq tag) := by
  have put {v : State} (h : MemOk v) {f : Fin 32} {l : List (Nat × Nat × Acc)} {bs : List Byte} :
      MemOk (l.foldl (hostPut p f (.host p tag)) (v, bs)).1 := foldl_fst_memOk (p := (v, bs)) h fun _ _ h => hostPut_memOk h
  unfold cxlMem
  refine ite_memOk ok ?_
  extract_lets u
  have ok : MemOk u := ok
  clear_value u
  split
  · split
    · exact ok
    · exact ite_memOk ok (hostRead_memOk ok)
  · split
    · exact ok
    · refine ite_memOk ok ?_
      split
      · next e => exact (ok.of_mem (hostLook_mem e)).of_mem (State.send_mem ..)
      · refine ite_memOk ok (ite_memOk ok ?_)
        exact ite_memOk ((put (ok.of_mem (countWalks_mem ..))).of_mem (State.send_mem ..))
          ((put (ok.of_mem (countWalks_mem ..))).of_mem (State.modHlk_mem ..))
theorem bisnpAnswer_memOk (ok : MemOk s) {p line} : MemOk (bisnpAnswer s p line) :=
  ite_memOk (knotRun_memOk (knotRun_memOk (by simpa using ok))) ok

/-! ## Answers to open commands -/

@[simp] theorem fetchAnswer_memOk (ok : MemOk s) {q seq pa k data} : MemOk (fetchAnswer s q seq pa k data) := by
  unfold fetchAnswer
  dsimp only
  split
  · simpa using ok
  · exact ite_memOk ok ok
theorem readResponse_memOk (ok : MemOk s) {i pa k data} : MemOk (readResponse s i pa k data) := by
  cases i <;> simp [readResponse, ok]
@[simp] theorem ackFail_memOk (ok : MemOk s) {q c k u} : MemOk (ackFail s q c k u) := by
  unfold ackFail
  exact ite_memOk (engStop_memOk (by simpa using ok)) (ite_memOk (by simpa using ok)
    (ite_memOk (endCmd_memOk (by simpa using ok)) (by simpa using ok)))
@[simp] theorem ackEnd_memOk (ok : MemOk s) {q seq} : MemOk (ackEnd s q seq) := by
  unfold ackEnd
  split
  · exact ite_memOk ((endCmd_memOk (by simpa using ok)).of_mem (qosStalls_mem ..)) ok
  · exact ok
@[simp] theorem cmdAck_memOk (ok : MemOk s) {q seq gen pa k} : MemOk (cmdAck s q seq gen pa k) := by
  unfold cmdAck
  split
  · simpa using ok
  · split
    · simpa using ok
    · exact ackEnd_memOk (ite_memOk (by simpa using ok) (ackFail_memOk (by simpa using ok)))
theorem writeAck_memOk (ok : MemOk s) {i pa k} : MemOk (writeAck s i pa k) := by
  cases i <;> simp [writeAck, ok]
@[simp] theorem cmdExpire_memOk (ok : MemOk s) {q seq} : MemOk (cmdExpire s q seq) := by
  unfold cmdExpire
  split
  · exact ok
  · split
    · exact ok
    · exact ite_memOk ok ((ite_memOk (stopCmd_memOk ok) (stopCmd_memOk ok) : MemOk (ite _ _ _)).of_mem (qosStalls_mem ..))

/-! ## Lost links -/

@[simp] theorem cmdLost_memOk (ok : MemOk s) {p q c} : MemOk (cmdLost s p q c) :=
  ite_memOk ok (ite_memOk (endCmd_memOk ok) (endCmd_memOk (by simpa using ok)))
@[simp] theorem queueLost_memOk (ok : MemOk s) {p q} : MemOk (queueLost s p q) := by
  have lost : MemOk (recLost (((s.queue q).cmds.filter underWay).foldl (fun s c => cmdLost s p q c) s) p q) :=
    (foldl_memOk ok fun _ _ h => cmdLost_memOk h : MemOk (List.foldl _ _ _)).of_mem (recLost_mem ..)
  unfold queueLost
  dsimp only
  split <;> exact lost
@[simp] theorem creelLost_memOk (ok : MemOk s) {p e} : MemOk (creelLost s p e) := by
  refine foldl_memOk ok fun t y h => ?_
  split
  · exact ite_memOk (fetchFail_memOk (by simpa using h)) h
  · exact h
@[simp] theorem posLost_memOk (ok : MemOk s) {p} : MemOk (posLost s p) := by
  refine knotRun_memOk (knotRun_memOk ?_)
  rw [MemOk, knotDropPos_mem, knotDropPos_mem, foldl_mem _ _ _ fun _ _ => hostLost_mem .., foldl_mem _ _ _ fun _ _ => coreLost_mem ..]
  exact foldl_memOk (foldl_memOk ok fun _ _ h => queueLost_memOk h) fun _ _ h => creelLost_memOk h
@[simp] theorem linksIdle_memOk (ok : MemOk s) : MemOk (linksIdle s) :=
  foldl_memOk (foldl_memOk ok fun _ _ h => foldl_memOk h fun _ _ h => h.of_mem (State.modFport_mem ..)) fun _ _ h => posLost_memOk h
@[simp] theorem fatalEnd_memOk (ok : MemOk s) : MemOk (fatalEnd s) := ite_memOk (writeDump_memOk (linksIdle_memOk ok)) ok
@[simp] theorem halfDown_memOk (ok : MemOk s) {h j} : MemOk (halfDown s h j) := by
  unfold halfDown
  exact ite_memOk ok (ite_memOk (by simp [ok]) (posLost_memOk (by simpa using ok)))
@[simp] theorem linkTrained_memOk (ok : MemOk s) {h j far failed r cyc} : MemOk (linkTrained s h j far failed r cyc) := by
  unfold linkTrained
  refine ite_memOk ok (ite_memOk (halfDown_memOk ?_) (ite_memOk ?_ ?_))
  all_goals simp [ok]
@[simp] theorem linkFails_memOk (ok : MemOk s) {l} : MemOk (linkFails s l) := by
  cases l
  case dlk a b => exact fatalEnd_memOk (by simpa [linkFails] using ok)
  case flk h j => exact halfDown_memOk ok
@[simp] theorem retrainEnd_memOk (ok : MemOk s) {l good failed} : MemOk (retrainEnd s l good failed) := by
  unfold retrainEnd
  refine ite_memOk ok (ite_memOk ?_ (ite_memOk (by simpa using ok) (linkFails_memOk (by simpa using ok))))
  split
  · exact ite_memOk (halfDown_memOk ok) (by simpa using ok)
  · simpa using ok
@[simp] theorem dumpReleaseMsg_memOk (ok : MemOk s) : MemOk (dumpReleaseMsg s) :=
  ite_memOk ((dumpRelease_memOk ok).of_mem (pldmAnswer_mem ..)) (ok.of_mem (pldmAnswer_mem ..))

end

end Sys2Proof.Machine
end

section
/-!
Every instruction keeps memory in canonical form (O4): the cases of `exec`, by the families above.
-/

namespace Sys2Proof.Machine

section
variable {s t : State}

/-- The state that an instruction leaves has its memory in canonical form. -/
def OutcomeMemOk (o : Host.Outcome State Fault Refusal) : Prop := ∀ t, o = .next t → MemOk t
theorem next_memOk (ok : MemOk t) : OutcomeMemOk (.next t) := by
  rintro _ ⟨⟩
  exact ok

/-- A state with its memory in canonical form; a structure, so that no check evaluates the state. -/
structure StateMemOk (s : State) : Prop where
  mem : MemOk s
theorem pageAccess_stateMemOk (ok : MemOk s) {r p off size v} : StateMemOk (pageAccess s r p off size v) := ⟨pageAccess_memOk ok⟩
theorem onward_memOk {f} (ok : MemOk s) (hf : ∀ u, MemOk u → StateMemOk (f u)) : OutcomeMemOk (onward s f) :=
  next_memOk (ite_memOk (hf _ ok).mem ok)
theorem onwardAt_memOk {f n} (ok : MemOk s) (hf : ∀ u, MemOk u → StateMemOk (f u)) : OutcomeMemOk (onwardAt s n f) :=
  next_memOk (ite_memOk (hf (s.toTime n) ok).mem ok)
theorem opRow_memOk {op f q n t} (hf : BodyMemOk f) (ok : MemOk s) : OutcomeMemOk (opRow op f q n t s) :=
  onwardAt_memOk ok fun _ h => ⟨engineRow_memOk hf h⟩
theorem onLink_memOk {l f} (ok : MemOk s) (hf : ∀ u l, MemOk u → MemOk (f u l)) : MemOk (onLink l f s) := by
  unfold onLink
  split
  · exact hf _ _ ok
  · exact ok

theorem exec_memOk (ok : MemOk s) (i : Instr) : OutcomeMemOk (exec i s) := by
  cases i
  case lineTickQualify | ltAdvance | waitNoTickFreeRun | lockLossFreeRun | entryAdmit | commandPreempt | commandTimeout |
      creelFetchIssue | creelFetchTimeout | nvmeCompletion | coreLoad | coreStore | coreAccessLinkTimeout | cmuCommit | vectorScatter |
      hostRequestTimeout | functionLevelReset | ssdLinkDrop | pwrWarnAssert | admissionStop | pwrWarnClear | startSequenceBegin |
      startStepDone | startStepFail | startStepTimeout | retryBackoffExpiry | frameLinkTrainAttempt | frameLinkLost | lateWriteWindowEnd
      =>
    exact onwardAt_memOk ok fun _ h => ⟨by simp [h]⟩
  case waitPoll =>
    refine onwardAt_memOk ok fun u h => ?_
    split
    · exact ⟨ite_memOk (engineRow_memOk waitBody_memOk h) h⟩
    · exact ⟨h⟩
  case store =>
    exact onwardAt_memOk ok fun _ h => ⟨storeRow_memOk h⟩
  case creelArm =>
    exact onwardAt_memOk ok fun _ h => ⟨engineRow_memOk armBody_memOk h⟩
  case creelDisarm =>
    exact onwardAt_memOk ok fun _ h => ⟨engineRow_memOk disarmBody_memOk h⟩
  case commandCompletion =>
    exact onwardAt_memOk ok fun _ h => ⟨completeOne_memOk h⟩
  case remoteReadResponse =>
    exact onwardAt_memOk ok fun _ h => ⟨readResponse_memOk h⟩
  case remoteWriteAck =>
    exact onwardAt_memOk ok fun _ h => ⟨writeAck_memOk h⟩
  case creelFetchComplete =>
    exact onwardAt_memOk ok fun _ h => ⟨fetchEnd_memOk h⟩
  case hostMemoryRead =>
    exact onwardAt_memOk ok fun _ h => ⟨memRead_memOk h⟩
  case hankDrainTimeout =>
    exact onwardAt_memOk ok fun _ h => ⟨drainExpire_memOk h⟩
  case doffDeadline =>
    exact onwardAt_memOk ok fun _ h => ⟨doffExpire_memOk h⟩
  case ledgerCommit =>
    exact onwardAt_memOk ok fun _ h => ⟨fatalEnd_memOk ((commitHub_memOk h).of_mem (commitDone_mem ..))⟩
  case linkTransferError =>
    exact onwardAt_memOk ok fun _ h => ⟨onLink_memOk h fun _ _ h => h.of_mem (linkError_mem ..)⟩
  case replayExhausted =>
    exact onwardAt_memOk ok fun _ h => ⟨onLink_memOk h fun _ _ h => h.of_mem (replayFail_mem ..)⟩
  case linkRetrainDone =>
    exact onwardAt_memOk ok fun _ h => ⟨onLink_memOk h fun _ _ h => retrainEnd_memOk h⟩
  case fatalError =>
    exact onwardAt_memOk ok fun _ h => ⟨ite_memOk h (fatalEnd_memOk (h.of_mem (raiseFatal_mem ..)))⟩
  case watchdogExpiry =>
    exact onwardAt_memOk ok fun _ h => ⟨ite_memOk (fatalEnd_memOk (h.of_mem (raiseFatal_mem ..))) h⟩
  case mgtFatalDeclare =>
    exact onwardAt_memOk ok fun _ h => ⟨fatalEnd_memOk (pageAccess_memOk h)⟩
  case registerWrite =>
    exact onwardAt_memOk ok fun _ h => ⟨foldl_memOk (regAccess_memOk h) fun _ _ h => ite_memOk (knotRun_memOk h) h⟩
  case replayEpisodeSuccess =>
    exact onwardAt_memOk ok fun _ h => ⟨onLink_memOk h fun _ _ h => h.of_mem (replayEnd_mem ..)⟩
  case ltuCopyMessage | ltuCopySilenceTimeout | scrubGranule | govSetStep | govCut | govRelease | ltQuery | remoteWriteArrival |
      remoteReadRequest | knotWriteArrival | knotEndMark | combineNotice | coreStorePerformed | storeError | fenceSl | fenceRemote |
      ldres | stcond | cmuIssue | cmuSquash | vectorGather | hostConfigRequest | cxlH2dSnoop | cacheDrainDone | cacheMaintDone |
      carveDone | preloadDone | gddrTransferRetry | hankZeroingDone | partitionError | frameLinkTrained | errCountRead |
      xltInvalidateDone | xltDisableDone | hostLinkUp | journalDrain | unknownCmdMessage | functionWindowAccess =>
    exact onward_memOk ok fun _ h => ⟨by simp [h]⟩
  case ltuInternalError =>
    exact onward_memOk ok fun _ h => ⟨fatalEnd_memOk (h.of_mem (ltuError_mem ..))⟩
  case knotCtlFlush =>
    exact onward_memOk ok fun _ h => ⟨knotRun_memOk (pageAccess_memOk h)⟩
  case hostMemoryWrite =>
    exact onward_memOk ok fun _ h => ⟨memWrite_memOk h⟩
  case hostAtomicop =>
    exact onward_memOk ok fun _ h => ⟨hostAtomic_memOk h⟩
  case cxlMemRequest =>
    exact onward_memOk ok fun _ h => ⟨cxlMem_memOk h⟩
  case cxlBisnpResponse =>
    exact onward_memOk ok fun _ h => ⟨bisnpAnswer_memOk h⟩
  case dumpRelease =>
    exact onward_memOk ok fun _ h => ⟨ite_memOk (dumpReleaseMsg_memOk h) h⟩
  case scrZeroDone =>
    exact onward_memOk ok fun _ h => ⟨knotRun_memOk (knotRun_memOk (scrZeroEnd_memOk h))⟩
  case pldmBaseDiscovery | pldmSensorRead | pldmFirmwareUpdate | dumpInfo | dumpRead =>
    exact onward_memOk ok fun _ h => ⟨ite_memOk (by simpa using h) h⟩
  case dcModeWrite | govCtlCutWrite | govCutLevelWrite | stepGroupEnable | stepGroupDisable | cbGrpClr | dumpRel | cacheEnable |
      cacheDisable | cacheMaintWb | cacheMaintInv | cacheMaintWbinv | cacheCarve | cachePreload | gcEnable | gcDisable | gcInv | scrZero
      | hankAssign | ledViewRel | engRst | hubEngRst | errLogAck | intForce | xltInvalidate | xltContextEnable =>
    exact onward_memOk ok fun _ h => ⟨pageAccess_memOk h⟩
  case cntClear | xltContextDisable =>
    exact onward_memOk ok fun _ h => pageAccess_stateMemOk h
  case doorbell | storagePortEnable =>
    exact onward_memOk ok fun _ h => ⟨regAccess_memOk h⟩
  case queueEnable | queueDisable | queueResume | qswClr =>
    exact onward_memOk ok fun _ h => ⟨qCtl_memOk h⟩
  case softPkgReset | setReady =>
    exact onward_memOk ok fun _ h => ⟨hubCtl_memOk h⟩
  case faultWaitRetry | faultWaitAbandon =>
    exact onwardAt_memOk ok fun _ h => ⟨qCtl_memOk h⟩
  case fwFail =>
    exact onwardAt_memOk ok fun _ h => ⟨hubCtl_memOk h⟩
  case qmQrst | hankRelease | partRst | watchdogKick | watchdogArm =>
    exact onwardAt_memOk ok fun _ h => ⟨pageAccess_memOk h⟩
  case governorUpdate | qosBudgetRefresh | dvfsChange | telemetrySnapshot | stepStart | scrubCredit =>
    exact onward_memOk ok fun _ h => ⟨takeEvent_memOk h fun _ h => by simpa using h⟩
  case ledgerCheckpoint =>
    exact onward_memOk ok fun _ h => ⟨takeEvent_memOk h fun _ h => checkpoint_memOk h⟩
  case memoryRefresh =>
    exact next_memOk ok
  case powerGoodLoss | refclkLoss =>
    exact next_memOk (powerLost_memOk ok)
  case pkgResetPin | frameResetPin =>
    exact next_memOk (resetPin_memOk ok)
  case resetDeassert | jtagInstruction =>
    exact next_memOk (by simpa using ok)
  case bootStatusRead | i3cDynamicAddress =>
    exact next_memOk (ite_memOk ok ok)
  case powerGood =>
    exact next_memOk (ite_memOk ok (by simpa using ok))
  case nop =>
    exact opRow_memOk (fun _ _ _ h => h) ok
  case wait =>
    exact opRow_memOk waitBody_memOk ok
  case signal =>
    exact opRow_memOk signalBody_memOk ok
  case fence =>
    exact opRow_memOk fenceBody_memOk ok
  case step =>
    exact opRow_memOk stepBody_memOk ok
  case matmul =>
    exact opRow_memOk matmulBody_memOk ok
  case rbMatmul =>
    exact opRow_memOk rbBody_memOk ok
  case vec =>
    exact opRow_memOk vecBody_memOk ok
  case copy =>
    exact opRow_memOk copyCmd_memOk ok
  case gather | scatter =>
    exact opRow_memOk indexedBody_memOk ok
  case fill =>
    exact opRow_memOk fillBody_memOk ok
  case atomic =>
    exact opRow_memOk atomicBody_memOk ok
  case combine =>
    exact opRow_memOk combineBody_memOk ok
  case attn =>
    exact opRow_memOk attnBody_memOk ok
  case ptInsert | ptLookup =>
    exact opRow_memOk pointBody_memOk ok
  case ptBall | ptKnn =>
    exact opRow_memOk searchBody_memOk ok
  case ptRulebook =>
    exact opRow_memOk rulebookBody_memOk ok
end

/-- Settles O4: every write of memory is a `store`, a range of zeros or a filter, each of which keeps the canonical form. -/
theorem stepKeepsMemoryCanonical : Obligations.StepKeepsMemoryCanonical := by
  intro s t ok next
  change step s = .next t at next
  unfold step at next
  split at next
  · exact next_memOk (by exact ok) t next
  · exact exec_memOk (by exact ok) _ t next

end Sys2Proof.Machine

end
